-- ==== Sys2Proof/Word.lean ====
section
/-! DEFINITION. The word types of the D7 (SRX-D7-1536) and the two sparse containers every unit of the
state uses. Only types and their plainest arithmetic stand here; everything a test could show wrong is
in Sys2Proof/Machine. -/

namespace Sys2Proof

/-- One byte of a memory image (R2). -/
abbrev Byte := BitVec 8

/-- A lane or element pattern of 32 bits (R117). -/
abbrev Word32 := BitVec 32

/-- A 64-bit command word, scalar register or timebase value (R1, R17, R19). -/
abbrev Word64 := BitVec 64

/-- A sparse table: keys strictly rising. Where a default is given, no entry equals it. -/
abbrev Map (α : Type) := List (Nat × α)

/-- A memory: (address, byte) pairs in the canonical form of `Map` with default 0. -/
abbrev Memory := List Host.Cell

end Sys2Proof
end

