-- ==== Sys2Proof/Machine/Bits.lean ====
section
/-! DEFINITION. Bit fields, byte order (R2), packing of field tables, and the operations of the sparse
containers. -/

namespace Sys2Proof.Machine

open Sys2Proof

/-! ### Bit fields -/

/-- Field [lo + w - 1 : lo] of a number read as bits. -/
def fld (v lo w : Nat) : Nat := (v >>> lo) % 2 ^ w

/-- Bit n of a number. -/
def bitOf (v n : Nat) : Bool := v.testBit n

/-- Bool as a bit. -/
def b2n (b : Bool) : Nat := if b then 1 else 0

/-- One field of a table of the manual: low bit, width, value. -/
structure FieldVal where
  lo : Nat
  w : Nat
  v : Nat

/-- The number that a list of fields spells; a value wider than its field keeps its low bits. -/
def packFields (fs : List FieldVal) : Nat :=
  fs.foldl (fun acc f => acc ||| ((f.v % 2 ^ f.w) <<< f.lo)) 0

/-- Two's complement reading of the low w bits. -/
def signOf (w v : Nat) : Int :=
  let m := v % 2 ^ w
  if 2 ^ (w - 1) ≤ m then (m : Int) - 2 ^ w else m

/-- Two's complement pattern of an integer in w bits. -/
def patOf (w : Nat) (i : Int) : Nat := (i % (2 ^ w : Nat)).toNat

/-- n bytes, little-endian: the byte at the lowest address holds bits [7:0] (R2). -/
def leBytes (n v : Nat) : List Byte :=
  (List.range n).map (fun k => BitVec.ofNat 8 (v >>> (8 * k)))

/-- The number that little-endian bytes spell (R2). -/
def leNat : List Byte → Nat
  | [] => 0
  | b :: r => b.toNat + 256 * leNat r

/-- Ceiling division. -/
def cdiv (a b : Nat) : Nat := (a + b - 1) / b

/-- Number of significant bits. -/
def bitLen (m : Nat) : Nat := if m = 0 then 0 else Nat.log2 m + 1

/-- floor of 2^k times m, for any integer k. -/
def shiftNat (m : Nat) (k : Int) : Nat :=
  if 0 ≤ k then m <<< k.toNat else m >>> (-k).toNat

/-! ### Sparse tables -/

/-- The value at a key, or the default. -/
def mapGet {α : Type} (d : α) : Map α → Nat → α
  | [], _ => d
  | (k, v) :: r, i => if k = i then v else mapGet d r i

/-- The value at a key, if listed. -/
def mapFind {α : Type} : Map α → Nat → Option α
  | [], _ => none
  | (k, v) :: r, i => if k = i then some v else mapFind r i

/-- Take a key out. -/
def mapDel {α : Type} (m : Map α) (i : Nat) : Map α := m.filter (fun e => e.1 ≠ i)

/-- Put a value at a key, keeping the keys rising. -/
def mapPut {α : Type} : Map α → Nat → α → Map α
  | [], i, v => [(i, v)]
  | (k, w) :: r, i, v =>
    if k = i then (i, v) :: r else if i < k then (i, v) :: (k, w) :: r else (k, w) :: mapPut r i v

/-- Put a value at a key in a table with a default: the default is not listed. -/
def mapSet {α : Type} [DecidableEq α] (d : α) : Map α → Nat → α → Map α
  | [], i, v => if v = d then [] else [(i, v)]
  | (k, w) :: r, i, v =>
    if k = i then (if v = d then r else (i, v) :: r)
    else if i < k then (if v = d then (k, w) :: r else (i, v) :: (k, w) :: r)
    else (k, w) :: mapSet d r i v

/-- Keys strictly rising. -/
def keysRise {α : Type} : Map α → Bool
  | [] => true
  | [_] => true
  | a :: b :: r => decide (a.1 < b.1) && keysRise (b :: r)

/-- The canonical form of a table with a default. -/
def mapWf {α : Type} [DecidableEq α] (d : α) (m : Map α) : Bool :=
  keysRise m && m.all (fun e => e.2 ≠ d)

/-- Memory's canonical form: addresses rising, no listed byte equal to what an unlisted one reads as. -/
def Memory.wf (m : Memory) : Bool := mapWf (0 : Byte) m

/-- What an address reads as that nothing has written: 0 (log entry 3). -/
def memDefault : Byte := 0

/-- The byte at an address. -/
def memGet (m : Memory) (a : Nat) : Byte := mapGet memDefault m a

/-- Write one byte. -/
def memSet (m : Memory) (a : Nat) (b : Byte) : Memory := mapSet memDefault m a b

/-- n bytes from an address upward. -/
def memRead (m : Memory) (a n : Nat) : List Byte := (List.range n).map (fun k => memGet m (a + k))

/-- Write bytes from an address upward. -/
def memWrite (m : Memory) (a : Nat) : List Byte → Memory
  | [] => m
  | b :: r => memWrite (memSet m a b) (a + 1) r

/-- A set of numbers: a table of marks. -/
abbrev NSet := Map Bool

/-- Membership. -/
def setHas (m : NSet) (i : Nat) : Bool := mapGet false m i

/-- Mark or clear one number. -/
def setPut (m : NSet) (i : Nat) (v : Bool) : NSet := mapSet false m i v

/-- Mark or clear the numbers a to a + n - 1. -/
def setRange (m : NSet) (a n : Nat) (v : Bool) : NSet :=
  (List.range n).foldl (fun acc k => setPut acc (a + k) v) m

/-- Does any number of the range a to a + n - 1 stand in the set? -/
def setAny (m : NSet) (a n : Nat) : Bool := m.any (fun e => decide (a ≤ e.1) && decide (e.1 < a + n) && e.2)

/-- A poison tag (R30): 0 where there is none, else one more than the address at which the poison first entered. -/
abbrev Tag := Nat

/-- The tag of what is computed from two values: the first poison of the two. -/
def tagOr (x y : Tag) : Tag := if x = 0 then y else x

/-- The first poison of a list of tags. -/
def tagAll (l : List Tag) : Tag := l.foldl tagOr 0

/-- The tag of poison that enters at an address. -/
def tagAtAddr (a : Nat) : Tag := a + 1

/-- The tag at a number. -/
def tagGet (m : Map Tag) (i : Nat) : Tag := mapGet 0 m i

/-- Put a tag at a number. -/
def tagPut (m : Map Tag) (i : Nat) (v : Tag) : Map Tag := mapSet 0 m i v

/-- Put a tag at the numbers a to a + n - 1. -/
def tagRange (m : Map Tag) (a n : Nat) (v : Tag) : Map Tag :=
  (List.range n).foldl (fun acc k => tagPut acc (a + k) v) m

/-- The first poison of the numbers a to a + n - 1. -/
def tagFirst (m : Map Tag) (a n : Nat) : Tag :=
  match m.find? (fun e => decide (a ≤ e.1) && decide (e.1 < a + n)) with
  | some e => e.2
  | none => 0

/-- Do two half-open ranges overlap? -/
def overlap (a n b m : Nat) : Bool := decide (0 < n) && decide (0 < m) && decide (a < b + m) && decide (b < a + n)

/-- Is the first range inside the second? -/
def within (a n b m : Nat) : Bool := decide (b ≤ a) && decide (a + n ≤ b + m)

/-- Pointwise update of a list; indices past the end change nothing. -/
def listSet {α : Type} (l : List α) (i : Nat) (v : α) : List α := l.set i v

/-- Is a list free of repeats? -/
def noDup (l : List Nat) : Bool := decide l.Nodup

end Sys2Proof.Machine
end

