-- ==== Sys2Proof/Machine/Words.lean ====
section
/-! DEFINITION. The fields of the 64-bit command words (R19, R21, R75 to R81, R119 to R123, R131, R139,
R141, R183), and the word types a decoded command word has. -/

namespace Sys2Proof.Machine

open Sys2Proof

/-- Scalar word (R19). -/
structure SqW where
  dst : BitVec 6
  a : BitVec 6
  b : BitVec 6
  imm : BitVec 32
  deriving DecidableEq, Repr

/-- Synchronisation word (R21). -/
structure SyncW where
  q : BitVec 2
  sem : BitVec 6
  tile : BitVec 8
  arg : BitVec 32
  deriving DecidableEq, Repr

/-- Operand slot word (R75). -/
structure MxSlotW where
  fmt : BitVec 4
  tr : Bool
  src : Bool
  ring : BitVec 4
  pop : Bool
  scl : Bool
  sblk : BitVec 2
  addr : BitVec 17
  kstride : BitVec 15
  deriving DecidableEq, Repr

/-- Scale plane word (R77). -/
structure MxScaleW where
  slot : BitVec 2
  addr : BitVec 19
  kstride : BitVec 10
  deriving DecidableEq, Repr

/-- Origin word (R78). -/
structure MxOrgW where
  dst : BitVec 4
  rowb : BitVec 20
  colb : BitVec 20
  stream : BitVec 8
  deriving DecidableEq, Repr

/-- Multiply word (R79). -/
structure MxMulW where
  dst : BitVec 4
  acc : Bool
  hold : Bool
  nk : BitVec 9
  kidx : BitVec 16
  pred : BitVec 3
  pm : BitVec 2
  deriving DecidableEq, Repr

/-- Delta word (R80). -/
structure MxDeltaW where
  dst : BitVec 4
  hold : Bool
  kidx : BitVec 16
  pred : BitVec 3
  deriving DecidableEq, Repr

/-- Finish word (R81). -/
structure MxFinW where
  dst : BitVec 4
  tag : BitVec 16
  deriving DecidableEq, Repr

/-- Chain head word (R119). -/
structure EwHeadW where
  nsrc : BitVec 3
  nst : BitVec 3
  ndst : BitVec 2
  org : Bool
  vec : Bool
  red : BitVec 2
  rop : BitVec 3
  rsrc : BitVec 3
  rpen : Bool
  rpred : BitVec 3
  fquiet : Bool
  kappa : BitVec 6
  lic : BitVec 6
  deriving DecidableEq, Repr

/-- Chain origin word (R120). -/
structure EwOrgW where
  rowb : BitVec 20
  colb : BitVec 20
  stream : BitVec 8
  treg : BitVec 6
  deriving DecidableEq, Repr

/-- Source word (R121). -/
structure EwSrcW where
  kind : BitVec 3
  fmt : BitVec 4
  tr : Bool
  scl : Bool
  sblk : BitVec 2
  raw : Bool
  idx : BitVec 4
  pop : Bool
  tagen : Bool
  addr : BitVec 17
  freg : Bool
  sreg : BitVec 6
  bc : BitVec 2
  deriving DecidableEq, Repr

/-- Stage word (R123). -/
structure EwOpW where
  op : BitVec 6
  sela : BitVec 5
  selb : BitVec 5
  selc : BitVec 5
  rm : BitVec 3
  p : Bool
  sat : Bool
  site : BitVec 2
  pen : Bool
  pred : BitVec 3
  pinv : Bool
  sreg : BitVec 6
  fmt : BitVec 4
  deriving DecidableEq, Repr

/-- Destination word (R131). -/
structure EwDstW where
  kind : BitVec 3
  fmt : BitVec 4
  freg : Bool
  sreg : BitVec 6
  sel : BitVec 4
  rm : BitVec 3
  scl : Bool
  sblk : BitVec 2
  head : BitVec 2
  pen : Bool
  pred : BitVec 3
  stat : Bool
  statix : BitVec 8
  addr : BitVec 17
  deriving DecidableEq, Repr

/-- Flag word, EWFLAG (R139). -/
structure EwFlagW where
  clr : Bool
  addr : BitVec 17
  deriving DecidableEq, Repr

/-- Sampling word, EWSAMP (R141). -/
structure EwSampW where
  daddr : BitVec 17
  deriving DecidableEq, Repr

/-- Ring word (R183). -/
structure RingW where
  ring : BitVec 4
  src : Bool
  addr : BitVec 17
  deriving DecidableEq, Repr

/-- A decoded command word. `illegal` is a word that raises ILLEGAL_COMMAND whatever the state: a reserved
or undefined opcode, or a reserved bit set (R17, R44, R74, R118, R183). -/
inductive TWord where
  | li (w : SqW)
  | lih (w : SqW)
  | add (w : SqW)
  | sub (w : SqW)
  | mul (w : SqW)
  | and (w : SqW)
  | or (w : SqW)
  | xor (w : SqW)
  | shl (w : SqW)
  | shr (w : SqW)
  | loop (w : SqW)
  | qcnt (w : SqW)
  | tbase (w : SqW)
  | tileid (w : SqW)
  | signal (w : SyncW)
  | wait (w : SyncW)
  | take (w : SyncW)
  | mark (w : SyncW)
  | segend (w : SyncW)
  | mxseta (w : MxSlotW)
  | mxsetb (w : MxSlotW)
  | mxsetd (w : MxSlotW)
  | mxsets (w : MxScaleW)
  | mxorg (w : MxOrgW)
  | mxmul (w : MxMulW)
  | mxdelta (w : MxDeltaW)
  | mxfin (w : MxFinW)
  | ewhead (w : EwHeadW)
  | eworg (w : EwOrgW)
  | ewsrc (w : EwSrcW)
  | ewop (w : EwOpW)
  | ewdst (w : EwDstW)
  | ewflag (w : EwFlagW)
  | ewsamp (w : EwSampW)
  | rarm (w : RingW)
  | rearm (w : RingW)
  | rsend (w : RingW)
  | rclose (w : RingW)
  | illegal
  deriving DecidableEq, Repr

end Sys2Proof.Machine
end

