-- ==== Sys2Proof/Machine/Form.lean ====
section
/-! DEFINITION. The field values that the manual admits in a command word; the others raise
ILLEGAL_COMMAND. -/

namespace Sys2Proof.Machine

/-- EP.OP codes that R126 defines. -/
def epOpOk (c : Nat) : Bool := decide (c ≤ 0x34) || (decide (0x38 ≤ c) && decide (c ≤ 0x3A))

/-- A count of SIGNAL, WAIT or TAKE: 1 to 65,535 with its upper half reserved (R21). -/
def syncCountOk (w : SyncW) : Bool := decide (1 ≤ w.arg.toNat) && decide (w.arg.toNat < 65536)

/-- Does a word type hold only values that its table admits? -/
def wordOk : TWord → Bool
  | .signal w | .wait w | .take w => syncCountOk w
  | .mxsets w => decide (w.slot ≠ 3)
  | .mxmul w => decide (1 ≤ w.nk.toNat) && decide (w.nk.toNat ≤ 256)
  | .ewop w => epOpOk w.op.toNat && decide (w.rm.toNat ≤ 4)
  | .ewdst w => decide (w.rm.toNat ≤ 4)
  | .rsend w | .rclose w => decide (w.addr = 0)
  | .illegal => false
  | _ => true

end Sys2Proof.Machine
end

