-- ==== Sys2Proof/Config.lean ====
section
/-! DEFINITION. What one implementation fixes and the free values: constants without a body, of which no
proof can know a value. Log entry 10 lists them. -/

namespace Sys2Proof

/-- Element idx of tile register reg in the undefined state number gen that a segment start leaves (R48). -/
opaque Config.freeTreg : Nat → Nat → Nat → Word32
/-- A 64-bit value the manual leaves open, for the n-th draw from the state's free counter. -/
opaque Config.free64 : Nat → Word64
/-- A natural number the manual leaves open, such as a count of cycles (R385). -/
opaque Config.freeNat : Nat → Nat
/-- Drawer at which the search for a free one starts in a region of a partition with so many open drawers (R12, R249): the manual names
no order, and no other partition's traffic changes it. -/
opaque Config.drawerPick : Nat → Nat → Nat
/-- A byte the manual leaves undefined (for example a host buffer past a poisoned line, R337). -/
opaque Config.freeByte : Nat → Byte
/-- Byte k of the identity key's ML-DSA-87 signature over a digest (R291, R405). -/
opaque Config.sigByte : BitVec 512 → Nat → Byte
/-- SHA3-512 digest of the identity public key (R391, R395). -/
opaque Config.idHash : BitVec 512
/-- Serial number of the module's identity certificate (R392). -/
opaque Config.serial : Word64
/-- The two copies of the configuration record, B where true, and the certificate chain, as manufacture left them (R391, R392). -/
opaque Config.cfgBytes : Bool → List Byte
opaque Config.chain : List Byte
/-- The secret that the security block reconstructs from the module's PUF SRAM and helper data (R395). -/
opaque Config.pufSecret : List Byte → BitVec 256
/-- SHA3-512 digest of the public key that ML-DSA-87 key generation gives for a seed (R395). -/
opaque Config.keyDigest : List Byte → BitVec 512
/-- HR.KIND of a partition fault by its status, before the fold into 1 to 14 (R404 names no kind for it). -/
opaque Config.faultKind : Nat → Nat
/-- Bytes of a section of a context image that has no layout, as a function of what it holds (R359). -/
opaque Config.sectionBytes : Nat → List Nat → List Byte
/-- Part number and revision code of shadow index 0x00 (R380). -/
opaque Config.partCode : Word64
/-- I3C constants whose values the manual does not give (R379). -/
opaque Config.i3cPid : BitVec 48
opaque Config.i3cBcr : Byte
opaque Config.i3cDcr : Byte
opaque Config.i3cStatus : BitVec 16
opaque Config.i3cMwl : BitVec 16
opaque Config.i3cMrl : BitVec 16
/-- Rated current of current pair p in 1/8 A (R375). -/
opaque Config.ratedCurrent : Nat → Nat
/-- Measured brake response of a BRAKE_TEST: ns to step 2 and units of 100 ns to step 4 (R374). -/
opaque Config.brakeNs : Nat → BitVec 8
opaque Config.brake100 : Nat → BitVec 16
/-- Bytes of the fabric message with a receiver and a sequence number: the manual lays out none but hello records and chunks. -/
opaque Config.msgBytes : Nat → Nat → List Byte
/-- Member that a fabric message's first flit is addressed to, by its payload (R298): the manual gives no message header. -/
opaque Config.msgDest : List Byte → Nat
/-- Parity byte k of a flit's 244 bytes: the manual names the code and not its generator (R280). -/
opaque Config.fecByte : List Byte → Nat → Byte
/-- Fitted heat coefficient of a tile group, in units of 1/1,000 °C per mJ before the clamp of R370. -/
opaque Config.kfit : Nat → Nat → Nat

/-- SR.KEPT of a draw that finds no candidate (R144), as a function of what the request holds: the draw's offset, then ids and
logits. -/
opaque Config.srKept : List Nat → Nat
/-- Token count of a contribution (R232): the manual does not say where it comes from. A function of the program's measurement, the
collective, the step and the rank. -/
opaque Config.tokenCount : BitVec 512 → Nat → Nat → Nat → Nat
/-- Which selection record gives the format of a collective's contribution, or which permitted format where the program has no record
(R115, R226): no field names it. A function of the program's measurement and the collective. -/
opaque Config.contribRec : BitVec 512 → Nat → Nat
/-- Row of an LP5X package that holds a sector of module memory (R209): the manual gives no row geometry. -/
opaque Config.dramRow : Nat → Nat
/-- Value of FEXP on an argument whose reduction leaves the table below segment 0 (R128 states none). -/
opaque Config.fexpGap : Word32 → Word32

end Sys2Proof
end

