-- ==== Sys2Proof/Machine/Flags.lean ====
section
/-! DEFINITION. The seven arithmetic flags (R90), exact values, and rounding onto a format's grid
(R89, R93, R94, R95). Every arithmetic operation of the D7 is an exact value rounded here once. -/

namespace Sys2Proof.Machine

open Sys2Proof

/-- A flag word in the order of R90. -/
abbrev FlagWord := BitVec 7

def flagNV : FlagWord := 1#7
def flagDZ : FlagWord := 2#7
def flagOF : FlagWord := 4#7
def flagUF : FlagWord := 8#7
def flagNX : FlagWord := 16#7
def flagSA : FlagWord := 32#7
def flagPZ : FlagWord := 64#7

/-- The flag when a condition holds, no flag otherwise. -/
def flagIf (c : Bool) (f : FlagWord) : FlagWord := if c then f else 0#7

/-- Rounding modes (R93); codes 5 to 7 are reserved. -/
inductive RMode where
  | rne | rtz | rup | rdn | sr
  deriving DecidableEq, Repr

/-- The mode a code names (R93). -/
def RMode.ofCode : Nat → Option RMode
  | 0 => some .rne
  | 1 => some .rtz
  | 2 => some .rup
  | 3 => some .rdn
  | 4 => some .sr
  | _ => none

/-- A value that a code or an operation denotes. `fin s m e` is (-1)^s × m × 2^e, exact; `nan` keeps the
sign, the payload below the quiet bit aligned to F32's 22 bits (R98), and whether it is signalling. -/
inductive FVal where
  | nan (s : Bool) (pay : Nat) (sig : Bool)
  | inf (s : Bool)
  | fin (s : Bool) (m : Nat) (e : Int)
  deriving DecidableEq, Repr

/-- An exact value put on a grid: `m × 2^e`, and whether anything was lost. -/
structure OnGrid where
  m : Nat
  e : Int
  inexact : Bool
  deriving DecidableEq, Repr

/-- Does the magnitude round away from zero? `t` is the kept integer, `rem` of `2^d` the remainder,
`u` the 16 class-A bits of R94. -/
def roundsAway (rm : RMode) (s : Bool) (t rem d : Nat) (u : Nat) : Bool :=
  if rem = 0 then false else
    match rm with
    | .rne => decide (2 ^ d < 2 * rem) || (decide (2 * rem = 2 ^ d) && decide (t % 2 = 1))
    | .rtz => false
    | .rup => !s
    | .rdn => s
    | .sr => decide (u < (rem <<< 16) >>> d)

/-- Round `m × 2^e` onto the grid of spacing `2^q` (R93, R94). -/
def roundAt (rm : RMode) (u : Nat) (s : Bool) (m : Nat) (e q : Int) : OnGrid :=
  if q ≤ e then ⟨m <<< (e - q).toNat, q, false⟩
  else
    let d := (q - e).toNat
    let t := m >>> d
    let rem := m % 2 ^ d
    ⟨if roundsAway rm s t rem d u then t + 1 else t, q, decide (rem ≠ 0)⟩

/-- The grid spacing for a value: p bits of precision on an unbounded range above, the subnormal
spacing `2^qmin` below (R94, R95). -/
def gridExp (p : Nat) (qmin : Int) (m : Nat) (e : Int) : Int :=
  max qmin ((bitLen m : Int) + e - p)

/-- Compare m × 2^e with m' × 2^e' exactly: is the first below the second? -/
def dyLt (m : Nat) (e : Int) (m' : Nat) (e' : Int) : Bool :=
  let b := min e e'
  decide (m <<< (e - b).toNat < m' <<< (e' - b).toNat)

/-- Equality of two exact magnitudes. -/
def dyEq (m : Nat) (e : Int) (m' : Nat) (e' : Int) : Bool :=
  let b := min e e'
  decide (m <<< (e - b).toNat = m' <<< (e' - b).toNat)

/-- A binary format: exponent bits, fraction bits, bias, and which specials it has (R84, R86). -/
structure BinFmt where
  w : Nat
  f : Nat
  bias : Nat
  hasInf : Bool
  deriving DecidableEq, Repr

/-- Precision in bits. -/
def BinFmt.prec (b : BinFmt) : Nat := b.f + 1

/-- Exponent of the smallest subnormal (R85). -/
def BinFmt.qmin (b : BinFmt) : Int := 1 - (b.bias : Int) - b.f

def fmtF32 : BinFmt := ⟨8, 23, 127, true⟩
def fmtF16 : BinFmt := ⟨5, 10, 15, true⟩
def fmtB16 : BinFmt := ⟨8, 7, 127, true⟩
def fmtS8e5 : BinFmt := ⟨5, 2, 15, true⟩
def fmtS8e4 : BinFmt := ⟨4, 3, 7, false⟩
def fmtS6e3 : BinFmt := ⟨3, 2, 3, false⟩
def fmtS6e2 : BinFmt := ⟨2, 3, 1, false⟩
def fmtS4 : BinFmt := ⟨2, 1, 1, false⟩

/-- Largest finite magnitude as m × 2^e (R84). S8e4 loses the code 0x7F to its NaN. -/
def BinFmt.maxFin (b : BinFmt) : Nat × Int :=
  if b.hasInf then (2 ^ (b.f + 1) - 1, (2 ^ b.w : Int) - 2 - b.bias - b.f)
  else if b = fmtS8e4 then (14, 5)
  else (2 ^ (b.f + 1) - 1, (2 ^ b.w : Int) - 1 - b.bias - b.f)

/-- The code of m × 2^e, which must lie on the format's grid. -/
def BinFmt.encodeFin (b : BinFmt) (s : Bool) (m : Nat) (e : Int) : Nat :=
  let sb := b2n s <<< (b.w + b.f)
  if m = 0 then sb
  else
    let n := bitLen m
    -- significand of exactly f + 1 bits when normal
    let ex := (n : Int) + e - 1          -- exponent of the leading bit
    if ex < 1 - (b.bias : Int) then sb + shiftNat m (e - b.qmin)
    else sb + ((ex + b.bias).toNat <<< b.f) + (shiftNat m ((b.f : Int) + 1 - n) - 2 ^ b.f)

/-- Smallest normal magnitude is 2^(1 - bias); is the value below it and nonzero? -/
def BinFmt.tiny (b : BinFmt) (m : Nat) (e : Int) : Bool :=
  decide (m ≠ 0) && dyLt m e 1 (1 - (b.bias : Int))

/-- A code with the flags that making it raised. -/
structure CodeF where
  code : Nat
  fl : FlagWord
  deriving DecidableEq, Repr

/-- Infinity of a format with infinities. -/
def BinFmt.infCode (b : BinFmt) (s : Bool) : Nat := (b2n s <<< (b.w + b.f)) + ((2 ^ b.w - 1) <<< b.f)

/-- Largest finite code. -/
def BinFmt.maxCode (b : BinFmt) (s : Bool) : Nat := b.encodeFin s b.maxFin.1 b.maxFin.2

/-- Tininess after rounding (R89): the value rounded to full precision on an unbounded range is below the
smallest normal. Under SR the magnitude that SR delivers decides (R94; log entry 20). -/
def tinyAfter (b : BinFmt) (rm : RMode) (s : Bool) (m : Nat) (e : Int) (g : OnGrid) : Bool :=
  match rm with
  | .sr => b.tiny g.m g.e || (decide (g.m = 0) && decide (m ≠ 0))
  | _ =>
    let r := roundAt rm 0 s m e ((bitLen m : Int) + e - b.prec)
    b.tiny r.m r.e

/-- An exact finite value rounded into an IEEE format: F32, F16 or B16 (R89, R94, R95). -/
def roundIEEE (b : BinFmt) (rm : RMode) (u : Nat) (s : Bool) (m : Nat) (e : Int) : CodeF :=
  if m = 0 then ⟨b.encodeFin s 0 0, 0#7⟩
  else
    let g := roundAt rm u s m e (gridExp b.prec b.qmin m e)
    if dyLt b.maxFin.1 b.maxFin.2 g.m g.e then
      let toMax := match rm with
        | .rtz => true
        | .rup => s
        | .rdn => !s
        | _ => false
      ⟨if toMax then b.maxCode s else b.infCode s, flagOF ||| flagNX⟩
    else
      ⟨b.encodeFin s g.m g.e,
        flagIf g.inexact flagNX ||| flagIf (g.inexact && tinyAfter b rm s m e g) flagUF⟩

/-- An exact finite value rounded into a narrow floating format, with saturation (R95). -/
def roundNarrow (b : BinFmt) (rm : RMode) (u : Nat) (s : Bool) (m : Nat) (e : Int) : CodeF :=
  if m = 0 then ⟨b.encodeFin (s && decide (b ≠ fmtS4)) 0 0, 0#7⟩
  else
    let g := roundAt rm u s m e (gridExp b.prec b.qmin m e)
    if dyLt b.maxFin.1 b.maxFin.2 g.m g.e then ⟨b.maxCode s, flagSA ||| flagNX⟩
    else
      -- a zero result of S4 is +0 (R93)
      ⟨b.encodeFin (s && !(decide (b = fmtS4) && decide (g.m = 0))) g.m g.e,
        flagIf g.inexact flagNX ||| flagIf (g.inexact && tinyAfter b rm s m e g) flagUF⟩

/-- An exact finite value rounded to an integer and clamped to a range (R95). -/
def roundInt (lo hi : Int) (rm : RMode) (u : Nat) (s : Bool) (m : Nat) (e : Int) : Int × FlagWord :=
  let g := roundAt rm u s m e 0
  let mag := g.m
  let v : Int := if s then -(mag : Int) else mag
  if v < lo then (lo, flagNV ||| flagSA ||| flagNX)
  else if hi < v then (hi, flagNV ||| flagSA ||| flagNX)
  else (v, flagIf g.inexact flagNX)

/-- Does rounding this finite value at this mode need class-A bits (R109)? -/
def needsBits (p : Nat) (qmin : Int) (m : Nat) (e : Int) : Bool :=
  decide (m ≠ 0) && (roundAt .rtz 0 false m e (gridExp p qmin m e)).inexact

/-! ### Exact arithmetic on values -/

/-- The signed integer of a finite value in units of 2^b. -/
def inUnits (s : Bool) (m : Nat) (e b : Int) : Int :=
  let k : Int := m <<< (e - b).toNat
  if s then -k else k

/-- Exact sum of two finite values, as a signed integer and its unit. -/
def exactAdd (s : Bool) (m : Nat) (e : Int) (s' : Bool) (m' : Nat) (e' : Int) : Int × Int :=
  let b := min e e'
  (inUnits s m e b + inUnits s' m' e' b, b)

/-- The sign of an exact zero sum (R89): the common sign, else + except under RDN. -/
def zeroSumSign (rm : RMode) (s s' : Bool) : Bool :=
  if s = s' then s else match rm with | .rdn => true | _ => false

/-- The default NaN. -/
def defNaN : FVal := .nan false 0 false

/-- Is a value a signalling NaN? -/
def FVal.isSig : FVal → Bool
  | .nan _ _ b => b
  | _ => false

def FVal.isNaN : FVal → Bool
  | .nan _ _ _ => true
  | _ => false

/-- Is a value ±0? -/
def FVal.isZero : FVal → Bool
  | .fin _ m _ => decide (m = 0)
  | _ => false

def FVal.isInf : FVal → Bool
  | .inf _ => true
  | _ => false

def FVal.sign : FVal → Bool
  | .nan s _ _ => s
  | .inf s => s
  | .fin s _ _ => s

def FVal.neg : FVal → FVal
  | .nan s p g => .nan (!s) p g
  | .inf s => .inf (!s)
  | .fin s m e => .fin (!s) m e

/-- A NaN made quiet. -/
def FVal.quiet : FVal → FVal
  | .nan s p _ => .nan s p false
  | v => v

/-- The result of an operation before rounding: an exact value, and the flags raised so far. The third
part marks a magnitude whose last bit stands for a nonzero remainder below it (quotients, roots). -/
structure Exact where
  v : FVal
  fl : FlagWord
  deriving DecidableEq, Repr

/-- The first NaN operand made quiet, with NV when any operand is signalling (R91). -/
def nanOf (ops : List FVal) (fl : FlagWord) : Exact :=
  ⟨((ops.find? FVal.isNaN).getD defNaN).quiet, fl ||| flagIf (ops.any FVal.isSig) flagNV⟩

/-- A signed integer in units of 2^b as a value; `z` is the sign of an exact zero. -/
def valOfInt (i b : Int) (z : Bool) : FVal := .fin (if i = 0 then z else decide (i < 0)) i.natAbs b

/-- A + B (R89, R91). -/
def exAdd (rm : RMode) (a b : FVal) : Exact :=
  if a.isNaN || b.isNaN then nanOf [a, b] 0#7
  else match a, b with
    | .inf s, .inf s' => if s = s' then ⟨.inf s, 0#7⟩ else ⟨defNaN, flagNV⟩
    | .inf s, _ => ⟨.inf s, 0#7⟩
    | _, .inf s => ⟨.inf s, 0#7⟩
    | .fin s m e, .fin s' m' e' =>
      let r := exactAdd s m e s' m' e'
      ⟨valOfInt r.1 r.2 (zeroSumSign rm s s'), 0#7⟩
    | _, _ => ⟨defNaN, flagNV⟩

/-- A × B. -/
def exMul (a b : FVal) : Exact :=
  if a.isNaN || b.isNaN then nanOf [a, b] 0#7
  else
    let s := xor a.sign b.sign
    match a, b with
    | .fin _ m e, .fin _ m' e' => ⟨.fin s (m * m') (e + e'), 0#7⟩
    | _, _ => if a.isZero || b.isZero then ⟨defNaN, flagNV⟩ else ⟨.inf s, 0#7⟩

/-- A × B + C, exact (R91: the invalid product raises NV whatever C is). -/
def exFma (rm : RMode) (a b c : FVal) : Exact :=
  let inv := (a.isInf && b.isZero) || (a.isZero && b.isInf)
  if a.isNaN || b.isNaN || c.isNaN then nanOf [a, b, c] (flagIf inv flagNV)
  else if inv then ⟨defNaN, flagNV⟩
  else exAdd rm (exMul a b).v c

/-- A / B: the quotient to 64 bits beyond the operands with a last bit that stands for the remainder. -/
def exDiv (a b : FVal) : Exact :=
  if a.isNaN || b.isNaN then nanOf [a, b] 0#7
  else
    let s := xor a.sign b.sign
    match a, b with
    | .inf _, .inf _ => ⟨defNaN, flagNV⟩
    | .inf _, _ => ⟨.inf s, 0#7⟩
    | _, .inf _ => ⟨.fin s 0 0, 0#7⟩
    | .fin _ m e, .fin _ m' e' =>
      if m' = 0 then (if m = 0 then ⟨defNaN, flagNV⟩ else ⟨.inf s, flagDZ⟩)
      else
        let k := bitLen m' + 64
        let n := m <<< k
        ⟨.fin s (2 * (n / m') + b2n (decide (n % m' ≠ 0))) (e - e' - k - 1), 0#7⟩
    | _, _ => ⟨defNaN, flagNV⟩

/-- √A: the root to 64 bits beyond the operand with a last bit that stands for the remainder. -/
def exSqrt (a : FVal) : Exact :=
  match a with
  | .nan _ _ _ => nanOf [a] 0#7
  | .inf s => if s then ⟨defNaN, flagNV⟩ else ⟨.inf false, 0#7⟩
  | .fin s m e =>
    if m = 0 then ⟨.fin s 0 0, 0#7⟩
    else if s then ⟨defNaN, flagNV⟩
    else
      let k := 128 + (e % 2).toNat
      let n := m <<< k
      let r := Nat.sqrt n
      ⟨.fin false (2 * r + b2n (decide (r * r ≠ n))) ((e - k) / 2 - 1), 0#7⟩

/-- A × 2^n. -/
def exScale (a : FVal) (n : Int) : Exact :=
  match a with
  | .nan _ _ _ => nanOf [a] 0#7
  | .inf s => ⟨.inf s, 0#7⟩
  | .fin s m e => ⟨.fin s m (e + n), 0#7⟩

/-- Order of two values that are not NaN, −0 below +0 when `zeros` is set (R92). -/
def fvalLt (zeros : Bool) (a b : FVal) : Bool :=
  match a, b with
  | .inf s, .inf s' => s && !s'
  | .inf s, _ => s
  | _, .inf s => !s
  | .fin s m e, .fin s' m' e' =>
    if m = 0 && m' = 0 then zeros && s && !s'
    else
      let u := min e e'
      decide (inUnits s m e u < inUnits s' m' e' u)
  | _, _ => false

/-- Equality of two values that are not NaN: +0 = −0 (R92). -/
def fvalEq (a b : FVal) : Bool := !a.isNaN && !b.isNaN && !fvalLt false a b && !fvalLt false b a

/-- minimum or maximum that propagates NaN (R92). -/
def exMinMax (isMax : Bool) (a b : FVal) : Exact :=
  if a.isNaN || b.isNaN then nanOf [a, b] 0#7
  else ⟨if isMax then (if fvalLt true a b then b else a) else (if fvalLt true b a then b else a), 0#7⟩

/-- minimumNumber or maximumNumber (R92). -/
def exMinMaxNum (isMax : Bool) (a b : FVal) : Exact :=
  let sg := flagIf (a.isSig || b.isSig) flagNV
  if a.isNaN && b.isNaN then nanOf [a, b] 0#7
  else if a.isNaN then ⟨b, sg⟩
  else if b.isNaN then ⟨a, sg⟩
  else exMinMax isMax a b

end Sys2Proof.Machine
end

