-- ==== Sys2Proof/Machine/Operands.lean ====
section
/-! DEFINITION. The fifteen formats (R84 to R88), reading their codes, converting into them (R95 to R98),
block scaling on write (R99, R100), packing (R88), and single-precision arithmetic on patterns. -/

namespace Sys2Proof.Machine

open Sys2Proof

/-- The formats a 4-bit FMT code names (R84); 0xF is reserved. -/
inductive Fmt where
  | f32 | f16 | b16 | s8e5 | s8e4 | s6e3 | s6e2 | s4 | i32 | i16 | i8 | i4 | u8 | m1 | x8
  deriving DecidableEq, Repr

/-- The format of a code (R84). -/
def Fmt.ofCode : Nat → Option Fmt
  | 0 => some .f32
  | 1 => some .f16
  | 2 => some .b16
  | 3 => some .s8e5
  | 4 => some .s8e4
  | 5 => some .s6e3
  | 6 => some .s6e2
  | 7 => some .s4
  | 8 => some .i32
  | 9 => some .i16
  | 10 => some .i8
  | 11 => some .i4
  | 12 => some .u8
  | 13 => some .m1
  | 14 => some .x8
  | _ => none

/-- The code of a format. -/
def Fmt.code : Fmt → Nat
  | .f32 => 0 | .f16 => 1 | .b16 => 2 | .s8e5 => 3 | .s8e4 => 4 | .s6e3 => 5 | .s6e2 => 6 | .s4 => 7
  | .i32 => 8 | .i16 => 9 | .i8 => 10 | .i4 => 11 | .u8 => 12 | .m1 => 13 | .x8 => 14

/-- Width in bits (R84). -/
def Fmt.bits : Fmt → Nat
  | .f32 => 32 | .f16 => 16 | .b16 => 16 | .s8e5 => 8 | .s8e4 => 8 | .s6e3 => 6 | .s6e2 => 6 | .s4 => 4
  | .i32 => 32 | .i16 => 16 | .i8 => 8 | .i4 => 4 | .u8 => 8 | .m1 => 1 | .x8 => 8

/-- The layout of a floating format (R84). -/
def Fmt.bin : Fmt → Option BinFmt
  | .f32 => some fmtF32
  | .f16 => some fmtF16
  | .b16 => some fmtB16
  | .s8e5 => some fmtS8e5
  | .s8e4 => some fmtS8e4
  | .s6e3 => some fmtS6e3
  | .s6e2 => some fmtS6e2
  | .s4 => some fmtS4
  | _ => none

/-- Formats that block scaling applies to (R99). -/
def Fmt.scalable : Fmt → Bool
  | .s8e5 | .s8e4 | .s6e3 | .s6e2 | .s4 | .i8 | .i4 | .u8 => true
  | _ => false

/-- Block length of a 2-bit SBLK code. -/
def sblkLen (c : Nat) : Nat := 16 * 2 ^ (c % 4)

/-! ### Reading codes -/

/-- The value of a floating code by the formula of R85, specials apart. -/
def BinFmt.decodeFin (b : BinFmt) (c : Nat) : FVal :=
  let s := bitOf c (b.w + b.f)
  let ef := fld c b.f b.w
  let mf := fld c 0 b.f
  if ef = 0 then .fin s mf b.qmin else .fin s (2 ^ b.f + mf) ((ef : Int) - b.bias - b.f)

/-- The value of a floating code (R85, R86). -/
def decodeFloat (b : BinFmt) (c : Nat) : FVal :=
  let s := bitOf c (b.w + b.f)
  let ef := fld c b.f b.w
  let mf := fld c 0 b.f
  if b.hasInf then
    if ef = 2 ^ b.w - 1 then
      if mf = 0 then .inf s
      else .nan s ((mf % 2 ^ (b.f - 1)) <<< (23 - b.f)) (!bitOf mf (b.f - 1))
    else b.decodeFin c
  else if b = fmtS8e4 then (if c % 128 = 127 then .nan s 0 false else b.decodeFin c)
  else if b = fmtS4 then (if c % 16 = 8 then .nan true 0 false else b.decodeFin c)
  else b.decodeFin c

/-- The value of a code of any format (R84 to R87, R96). -/
def decodeCode (f : Fmt) (c : Nat) : FVal :=
  match f with
  | .u8 => .fin false (c % 256) 0
  | .m1 => .fin false (c % 2) 0
  | .x8 => if c % 256 = 255 then defNaN else .fin false 1 ((c % 256 : Nat) - 127)
  | .i32 | .i16 | .i8 | .i4 =>
    let i := signOf f.bits c
    .fin (decide (i < 0)) i.natAbs 0
  | _ => match f.bin with
    | some b => decodeFloat b c
    | none => defNaN

/-! ### Single precision on patterns -/

/-- The value of an F32 pattern. -/
def f32v (x : Word32) : FVal := decodeFloat fmtF32 x.toNat

/-- A lane pattern with the flags that making it raised. -/
structure Word32F where
  x : Word32
  fl : FlagWord
  deriving DecidableEq, Repr

/-- The pattern of a NaN in an IEEE format (R91). -/
def nanCode (b : BinFmt) (s : Bool) (pay : Nat) : Nat :=
  (b2n s <<< (b.w + b.f)) + ((2 ^ b.w - 1) <<< b.f) + 2 ^ (b.f - 1) + pay >>> (23 - b.f)

/-- A value rounded into F32, F16 or B16 (R89, R95, R98). -/
def toIEEE (b : BinFmt) (rm : RMode) (u : Nat) (v : FVal) : CodeF :=
  match v with
  | .nan s p g => ⟨nanCode b s p, flagIf g flagNV⟩
  | .inf s => ⟨b.infCode s, 0#7⟩
  | .fin s m e => roundIEEE b rm u s m e

/-- An exact result rounded once to F32 (R126). -/
def toF32 (rm : RMode) (u : Nat) (x : Exact) : Word32F :=
  let r := toIEEE fmtF32 rm u x.v
  ⟨BitVec.ofNat 32 r.code, x.fl ||| r.fl⟩

/-- An exact result rounded once to binary16 precision and range, held as its F32 value (EP.P = 1). -/
def toP16 (rm : RMode) (u : Nat) (x : Exact) : Word32F :=
  let r := toIEEE fmtF16 rm u x.v
  let w := toIEEE fmtF32 .rne 0 (decodeFloat fmtF16 r.code)
  ⟨BitVec.ofNat 32 w.code, x.fl ||| r.fl⟩

/-- Round to F32, or to binary16 when `p` is set. -/
def toLane (p : Bool) (rm : RMode) (u : Nat) (x : Exact) : Word32F :=
  if p then toP16 rm u x else toF32 rm u x

/-- fl(a + b) with RNE. -/
def f32add (a b : Word32) : Word32F := toF32 .rne 0 (exAdd .rne (f32v a) (f32v b))

/-- A subtrahend as an addend: negated, but a NaN keeps its sign (R91). -/
def FVal.negNum (v : FVal) : FVal := if v.isNaN then v else v.neg

/-- fl(a − b) with RNE. -/
def f32sub (a b : Word32) : Word32F := toF32 .rne 0 (exAdd .rne (f32v a) (f32v b).negNum)

/-- fl(a × b) with RNE. -/
def f32mul (a b : Word32) : Word32F := toF32 .rne 0 (exMul (f32v a) (f32v b))

/-- fl(a / b) with RNE. -/
def f32div (a b : Word32) : Word32F := toF32 .rne 0 (exDiv (f32v a) (f32v b))

/-! ### Conversions (R95 to R98) -/

/-- Conversion into X8 (R97). -/
def toX8 (v : FVal) : CodeF :=
  match v with
  | .nan _ _ g => ⟨255, flagIf g flagNV⟩
  | .inf _ => ⟨254, flagSA ||| flagNX⟩
  | .fin _ m e =>
    if m = 0 then ⟨0, flagUF ||| flagNX⟩
    else
      let ex : Int := 127 + ((bitLen m : Int) - 1 + e)
      let nx := flagIf (decide (m ≠ 2 ^ (bitLen m - 1))) flagNX
      if ex < 0 then ⟨0, flagUF ||| flagNX⟩
      else if 254 < ex then ⟨254, flagSA ||| flagNX⟩
      else ⟨ex.toNat, nx⟩

/-- Range of an integer format. -/
def Fmt.intRange : Fmt → Int × Int
  | .i32 => (-2147483648, 2147483647)
  | .i16 => (-32768, 32767)
  | .i8 => (-128, 127)
  | .i4 => (-8, 7)
  | .u8 => (0, 255)
  | _ => (0, 0)

/-- Conversion of a value into a format by R95 to R98. -/
def convert (f : Fmt) (rm : RMode) (u : Nat) (v : FVal) : CodeF :=
  match f with
  | .f32 => toIEEE fmtF32 rm u v
  | .f16 => toIEEE fmtF16 rm u v
  | .b16 => toIEEE fmtB16 rm u v
  | .x8 => toX8 v
  | .m1 => match v with
    | .nan _ _ _ => ⟨0, flagNV⟩
    | .inf _ => ⟨1, 0#7⟩
    | .fin _ m _ => ⟨b2n (decide (m ≠ 0)), 0#7⟩
  | .i32 | .i16 | .i8 | .i4 | .u8 =>
    let lo := f.intRange.1
    let hi := f.intRange.2
    match v with
    | .nan _ _ _ => ⟨0, flagNV⟩
    | .inf s => ⟨patOf f.bits (if s then lo else hi), flagNV ||| flagSA ||| flagNX⟩
    | .fin s m e =>
      let r := roundInt lo hi rm u s m e
      ⟨patOf f.bits r.1, r.2⟩
  | .s8e5 => match v with
    | .nan s p g => ⟨nanCode fmtS8e5 s p, flagIf g flagNV⟩
    | .inf s => ⟨fmtS8e5.infCode s, 0#7⟩
    | .fin s m e => roundNarrow fmtS8e5 rm u s m e
  | .s8e4 => match v with
    | .nan s _ g => ⟨(b2n s <<< 7) + 127, flagIf g flagNV⟩
    | .inf s => ⟨fmtS8e4.maxCode s, flagSA ||| flagNX⟩
    | .fin s m e => roundNarrow fmtS8e4 rm u s m e
  | .s4 => match v with
    | .nan _ _ g => ⟨8, flagIf g flagNV⟩
    | .inf s => ⟨fmtS4.maxCode s, flagSA ||| flagNX⟩
    | .fin s m e => roundNarrow fmtS4 rm u s m e
  | .s6e3 => match v with
    | .nan _ _ _ => ⟨0, flagNV⟩
    | .inf s => ⟨fmtS6e3.maxCode s, flagSA ||| flagNX⟩
    | .fin s m e => roundNarrow fmtS6e3 rm u s m e
  | .s6e2 => match v with
    | .nan _ _ _ => ⟨0, flagNV⟩
    | .inf s => ⟨fmtS6e2.maxCode s, flagSA ||| flagNX⟩
    | .fin s m e => roundNarrow fmtS6e2 rm u s m e

/-- Grid precision and subnormal exponent of a format, for R109's "draws only when inexact". -/
def Fmt.grid (f : Fmt) : Nat × Int :=
  match f.bin with
  | some b => (b.prec, b.qmin)
  | none => (64, 0)

/-! ### Block scaling (R99, R100) -/

/-- MAXF of a scaled format as m × 2^e (R100). -/
def Fmt.maxF : Fmt → Nat × Int
  | .s8e5 => fmtS8e5.maxFin
  | .s8e4 => fmtS8e4.maxFin
  | .s6e3 => fmtS6e3.maxFin
  | .s6e2 => fmtS6e2.maxFin
  | .s4 => fmtS4.maxFin
  | .i8 => (127, 0)
  | .i4 => (7, 0)
  | .u8 => (255, 0)
  | _ => (1, 0)

/-- The larger of two exact magnitudes. -/
def dyMax (a b : Nat × Int) : Nat × Int := if dyLt a.1 a.2 b.1 b.2 then b else a

/-- Largest finite magnitude of a block; infinities and NaNs are left out. -/
def blockAmax (vs : List FVal) : Nat × Int :=
  vs.foldl (fun acc v => match v with
    | .fin _ m e => dyMax acc (m, e)
    | _ => acc) (0, 0)

/-- The search of R100: the smallest e at or above the start with amax × 2^(127 − e) ≤ MAXF, at most 254. -/
def scaleSearch (amax maxf : Nat × Int) : Nat → Nat → Nat
  | 0, e => e
  | fuel + 1, e =>
    if e < 254 && dyLt maxf.1 maxf.2 amax.1 (amax.2 + 127 - e) then scaleSearch amax maxf fuel (e + 1)
    else e

/-- The X8 scale of a block (R100). -/
def blockScale (f : Fmt) (h : Nat) (vs : List FVal) : Nat :=
  if vs.any FVal.isNaN then 255
  else
    let a := blockAmax vs
    if a.1 = 0 then 127
    else min (scaleSearch a f.maxF 255 0 + h) 254

/-- One element of a block written under a scale byte (R100). -/
def scaledCode (f : Fmt) (rm : RMode) (u : Nat) (sc : Nat) (v : FVal) : CodeF :=
  if sc = 255 then ⟨0, flagIf v.isSig flagNV⟩
  else convert f rm u (exScale v (127 - (sc : Int))).v

/-- A stored element's value: the code times its block's scale, a NaN scale making it the default NaN
(R54, R87, R122). -/
def scaledValue (f : Fmt) (c : Nat) (scale : Option Nat) : FVal :=
  match scale with
  | none => decodeCode f c
  | some 255 => defNaN
  | some sc => (match decodeCode f c with
    | .fin s m e => .fin s m (e + sc - 127)
    | v => v)

/-! ### Packing (R88) -/

/-- Bit offset of element n of a packed run, from the run's first byte. -/
def elemBit (f : Fmt) (n : Nat) : Nat :=
  match f.bits with
  | 6 => 24 * (n / 4) + 6 * (n % 4)
  | w => w * n

/-- Replace the bits of element n inside a memory, starting at byte address `base`. -/
def memPutElem (mem : Memory) (base : Nat) (f : Fmt) (n c : Nat) : Memory :=
  let bit := elemBit f n
  let a := base + bit / 8
  let k := (bit % 8 + f.bits + 7) / 8
  let old := leNat (memRead mem a k)
  let lo := bit % 8
  let msk := (2 ^ f.bits - 1) <<< lo
  let v := (old &&& (2 ^ (8 * k) - 1 - msk)) ||| ((c % 2 ^ f.bits) <<< lo)
  memWrite mem a (leBytes k v)

/-- The code of element n inside a memory, starting at byte address `base`. -/
def memElem (mem : Memory) (base : Nat) (f : Fmt) (n : Nat) : Nat :=
  let bit := elemBit f n
  let a := base + bit / 8
  let k := (bit % 8 + f.bits + 7) / 8
  fld (leNat (memRead mem a k)) (bit % 8) f.bits

/-- Bytes of n packed elements. -/
def packedBytes (f : Fmt) (n : Nat) : Nat := cdiv (n * f.bits) 8

end Sys2Proof.Machine
end

