-- ==== Sys2Proof/Machine/Hash.lean ====
section
/-! DEFINITION. SHA3-512 and SHAKE256 (FIPS 202), which the manual names for measurements (R16, R405), the
configuration digest (R392), seed expansion (R148, R158), the identity (R395) and history MACs (R404).
PRESUMED: the function itself is taken from FIPS 202 (log entry 4). -/

namespace Sys2Proof.Machine

open Sys2Proof

/-- The state of the permutation as 25 lanes; the lane in column x and row y stands at index x + 5y. -/
abbrev Lanes := List Word64

def laneAt (l : Lanes) (i : Nat) : Word64 := l.getD i 0

/-- The lane in column x and row y, both taken modulo 5. -/
def laneXY (l : Lanes) (x y : Nat) : Word64 := laneAt l (x % 5 + 5 * (y % 5))

/-- Lanes built from their columns and rows. -/
def lanesOf (f : Nat → Nat → Word64) : Lanes := (List.range 25).map (fun i => f (i % 5) (i / 5))

/-- Rotate left. -/
def rotl64 (x : Word64) (r : Nat) : Word64 := x.rotateLeft (r % 64)

/-- One step of the bit generator of the round constants: times x modulo x^8 + x^6 + x^5 + x^4 + 1. -/
def rcNext (r : Nat) : Nat := if r < 128 then 2 * r else (2 * r) ^^^ 0x171

/-- n steps of the bit generator. -/
def rcSkip : Nat → Nat → Nat
  | 0, r => r
  | n + 1, r => rcSkip n (rcNext r)

/-- The constant of a round whose first bit the generator gives at r: bit j of the seven goes to position 2^j − 1. -/
def rcWord (r : Nat) : Word64 :=
  BitVec.ofNat 64 (((List.range 7).map (fun j => (rcSkip j r % 2) <<< (2 ^ j - 1))).sum)

/-- The walk that visits the 24 lanes other than (0, 0): step t turns lane (x, y) by the t-th triangular number. -/
def turnWalk : Nat → Nat → Nat → Nat → List (Nat × Nat)
  | 0, _, _, _ => []
  | n + 1, t, x, y => (x + 5 * y, (t + 1) * (t + 2) / 2 % 64) :: turnWalk n (t + 1) y ((2 * x + 3 * y) % 5)

/-- By how much each lane is turned, the lane (0, 0) by nothing. -/
def turns : List Nat :=
  let w := turnWalk 24 0 1 0
  (List.range 25).map (fun i => ((w.find? (fun e => decide (e.1 = i))).map (fun e => e.2)).getD 0)

/-- Parity of a column. -/
def column (a : Lanes) (x : Nat) : Word64 := (List.range 5).foldl (fun acc y => acc ^^^ laneXY a x y) 0#64

/-- The steps θ, ρ and π: every lane takes in its two neighbour columns, is turned, and moves to its place. -/
def diffuse (ts : List Nat) (a : Lanes) : Lanes :=
  let cs := (List.range 5).map (column a)
  let mix (x y : Nat) : Word64 := laneXY a x y ^^^ laneAt cs ((x + 4) % 5) ^^^ rotl64 (laneAt cs ((x + 1) % 5)) 1
  lanesOf (fun x y =>
    let u := (x + 3 * y) % 5
    rotl64 (mix u x) (ts.getD (u + 5 * x) 0))

/-- The steps χ and ι: the nonlinear step along each row, and the round constant in lane (0, 0). -/
def confuse (k : Word64) (b : Lanes) : Lanes :=
  lanesOf (fun x y =>
    let v := laneXY b x y ^^^ (laneXY b (x + 2) y &&& ~~~ laneXY b (x + 1) y)
    if x + y = 0 then v ^^^ k else v)

/-- n rounds, the bit generator standing at r. -/
def rounds (ts : List Nat) : Nat → Nat → Lanes → Lanes
  | 0, _, a => a
  | n + 1, r, a => rounds ts n (rcSkip 7 r) (confuse (rcWord r) (diffuse ts a))

/-- The permutation: 24 rounds. -/
def permute (a : Lanes) : Lanes := rounds turns 24 1 a

/-- Add a block of bytes to the front of the state. -/
def addBlock (a : Lanes) (blk : List Byte) : Lanes :=
  lanesOf (fun x y => laneXY a x y ^^^ BitVec.ofNat 64 (leNat ((blk.drop (8 * x + 40 * y)).take 8)))

/-- Take n blocks of `rate` bytes into the state. -/
def absorb (rate : Nat) : Nat → Lanes → List Byte → Lanes
  | 0, a, _ => a
  | n + 1, a, m => absorb rate n (permute (addBlock a (m.take rate))) (m.drop rate)

/-- The bytes that complete the last block: the domain byte first, the final bit in the last byte. -/
def tailBytes (dom : Byte) : Nat → List Byte
  | 0 => []
  | 1 => [dom ||| 0x80#8]
  | n + 2 => dom :: (List.replicate n 0#8 ++ [0x80#8])

/-- Give out n blocks of `rate` bytes. -/
def squeeze (rate : Nat) : Nat → Lanes → List Byte
  | 0, _ => []
  | n + 1, a => ((a.map (fun l => leBytes 8 l.toNat)).flatten.take rate) ++ squeeze rate n (permute a)

/-- The sponge: `out` bytes for a message. -/
def sponge (rate : Nat) (dom : Byte) (m : List Byte) (out : Nat) : List Byte :=
  let p := m ++ tailBytes dom (rate - m.length % rate)
  (squeeze rate (cdiv out rate) (absorb rate (p.length / rate) (List.replicate 25 0#64) p)).take out

/-- SHAKE256: `out` bytes. -/
def shake256 (m : List Byte) (out : Nat) : List Byte := sponge 136 0x1F#8 m out

/-- SHA3-512 as 64 bytes. -/
def sha3Bytes (m : List Byte) : List Byte := sponge 72 0x06#8 m 64

/-- SHA3-512 as a number, little-endian. -/
def sha3 (m : List Byte) : BitVec 512 := BitVec.ofNat 512 (leNat (sha3Bytes m))

end Sys2Proof.Machine
end

