-- ==== Sys2Proof/Machine/Random.lean ====
section
/-! DEFINITION. Random bits: the whorl table and seed key (R148), class-A words (R110, R151) and class-B
words (R158, R159). -/

namespace Sys2Proof.Machine

open Sys2Proof

/-- The expansion of a partition seed: 8,192 table words and the seed key (R148). -/
structure Whorl where
  t : List Word64
  sk : Word64
  deriving DecidableEq, Repr

/-- Cut bytes into n little-endian 64-bit words. -/
def wordsOf : Nat → List Byte → List Word64
  | 0, _ => []
  | n + 1, b => BitVec.ofNat 64 (leNat (b.take 8)) :: wordsOf n (b.drop 8)

/-- SHAKE256 over 0x41 ‖ seed, 65,544 bytes (R148). -/
def expandSeed (seed : BitVec 256) : Whorl :=
  let b := shake256 (0x41#8 :: leBytes 32 seed.toNat) 65544
  ⟨wordsOf 8192 b, BitVec.ofNat 64 (leNat ((b.drop 65536).take 8))⟩

/-- mix64 of R151, modulo 2^64. -/
def mix64 (x : Word64) : Word64 :=
  let a := (x ^^^ (x >>> 31)) * 0xB7E151628AED2A6B#64
  let b := (a ^^^ (a >>> 29)) * 0x9E3779B97F4A7C15#64
  b ^^^ (b >>> 32)

/-- A 128-bit logical index (R110): site, A, B and C, each kept to its field's width. -/
structure LIndex where
  site : Nat
  a : Nat
  b : Nat
  c : Nat
  deriving DecidableEq, Repr

/-- The number of a logical index (R110): values wider than 40 bits enter as their low 40 bits. -/
def LIndex.toNat (l : LIndex) : Nat :=
  packFields [⟨0, 4, l.site⟩, ⟨8, 40, l.a⟩, ⟨48, 40, l.b⟩, ⟨88, 40, l.c⟩]

/-- The hash of stream and logical index (R151). -/
def classAHash (sk : Word64) (stream : Nat) (li : LIndex) : Word64 :=
  let n := li.toNat
  let h := sk ^^^ (BitVec.ofNat 64 (stream % 256) <<< 56)
  mix64 (mix64 (h ^^^ BitVec.ofNat 64 n) ^^^ BitVec.ofNat 64 (n >>> 64))

/-- The class-A word for a stream and a logical index (R151). -/
def classA (w : Whorl) (stream : Nat) (li : LIndex) : Word64 :=
  let h := classAHash w.sk stream li
  let n := h.toNat
  let t (k : Nat) : Word64 := w.t.getD k 0
  ((rotl64 (t (fld n 0 13)) (fld n 39 6) + rotl64 (t (fld n 13 13)) (fld n 45 6))
    ^^^ rotl64 (t (fld n 26 13)) (fld n 51 6)) ^^^ h

/-- A class-B generator (R157). -/
structure BGen where
  key0 : Word64
  key1 : Word64
  ctr : BitVec 128
  deriving DecidableEq, Repr

/-- The class-B word with a counter value (R159). -/
def classB (k0 k1 : Word64) (ctr : BitVec 128) : Word64 :=
  let c0 : Word64 := ctr.setWidth 64
  let c1 : Word64 := (ctr >>> 64).setWidth 64
  let h := mix64 (mix64 (k0 ^^^ c0) ^^^ k1 ^^^ rotl64 c1 32)
  mix64 (h + k0)

/-- The derived class-B key of a request tag (R158). -/
def deriveKey (seed : BitVec 256) (tag : Word64) : Word64 × Word64 :=
  let b := shake256 (0x42#8 :: leBytes 32 seed.toNat ++ leBytes 8 tag.toNat) 16
  (BitVec.ofNat 64 (leNat (b.take 8)), BitVec.ofNat 64 (leNat ((b.drop 8).take 8)))

end Sys2Proof.Machine
end

