-- ==== Sys2Proof/Machine/Params.lean ====
section
/-! DEFINITION. What commands and events carry: parameter records of the host commands (R203, R330, R339,
R352, R357, R367, R368, R374), program images (R14 to R38, R114, R129, R168 to R171, R200, R306 to R311),
and the operands of events. Where the manual gives a record no byte layout, the operand is the record's
content (log entry 2). -/

namespace Sys2Proof.Machine

open Sys2Proof

/-- Sub-list of bytes. -/
def bytesAt (b : List Byte) (off n : Nat) : List Byte := (b.drop off).take n

/-- A submission queue of a function (R330). -/
structure QId where
  fn : Fin 32
  sq : Fin 8
  deriving DecidableEq, Repr

/-- A partition-relative tile of a partition. -/
structure TileAt where
  part : Fin 32
  tile : Fin 192
  deriving DecidableEq, Repr

/-- A ring of a tile. -/
structure RingAt where
  part : Fin 32
  tile : Fin 192
  ring : Fin 16
  deriving DecidableEq, Repr

/-- A host buffer (R358, R405), and whether the host answers an access to it with UR, CA or a completion timeout (R337). -/
structure Buf where
  haddr : Word64
  len : Nat
  pasid : BitVec 20
  refused : Bool
  deriving DecidableEq, Repr

/-- Quota record (R203). -/
structure Quota where
  t1pages : Nat
  res1 : Nat
  res2 : Nat
  res3 : Nat
  t2 : Nat
  t3 : Nat
  deriving DecidableEq, Repr

/-- Queue descriptor (R330). -/
structure QDesc where
  num : Nat
  isCQ : Bool
  lsize : Nat
  cq : Nat
  vec : Nat
  ien : Bool
  itime : Nat
  base : Word64
  araddr : Word64
  seq0 : Word64
  deriving DecidableEq, Repr

/-- PART_CREATE parameters (R339). -/
structure PartCreateP where
  part : Fin 32
  groups : List Nat
  flagmask : FlagWord
  entries : Nat
  handles : Nat
  seed : BitVec 256
  quota : Quota
  deriving DecidableEq, Repr

/-- REGION_CREATE parameters (R189, R190, R336). -/
structure RegionP where
  pages : Nat
  ro : Bool
  hostback : Bool
  pin : Bool
  never : Bool
  bias : Nat
  cls : Nat
  pasid : BitVec 20
  deriving DecidableEq, Repr

/-- COPY_IN and COPY_OUT parameters (R336). -/
structure CopyP where
  region : Nat
  staging : Bool
  off : Nat
  len : Nat
  haddr : Word64
  deriving DecidableEq, Repr

/-- REGION_FILL parameters (R336). -/
structure FillP where
  region : Nat
  off : Nat
  len : Nat
  pattern : Word64
  deriving DecidableEq, Repr

/-- REQ_ADMIT parameters, and a prompt-list entry (R357). -/
structure AdmitP where
  tag : Word64
  deadline : Word64
  outoff : Nat
  proff : Nat
  plen : Nat
  maxgen : Nat
  variant : Nat
  prefixH : Nat
  temp : Word32
  topk : Nat
  topp : Nat
  prio : Nat
  ven : Bool
  keysrc : Bool
  ctrsrc : Bool
  stops : List Nat
  key : BitVec 128
  ctr : BitVec 128
  deriving DecidableEq, Repr

/-- Variant-set entry (R352) and VARIANT_SET fields. -/
structure VSetP where
  variant : Nat
  fmt : Nat
  cls : Nat
  region : Nat
  off : Nat
  deriving DecidableEq, Repr

/-- Checkpoint entry (R352). -/
structure CkptP where
  region : Nat
  off : Nat
  len : Nat
  haddr : Word64
  deriving DecidableEq, Repr

/-- Learning parameters (R216). -/
structure LearnP where
  steps : Nat
  step0 : Nat
  deadline0 : Word64
  period : Nat
  mingap : Nat
  waitmax : Nat
  smax : Nat
  gbufs : Nat
  quorum : Nat
  replay : Bool
  sreg : Nat
  readyseg : Nat
  clamp : Nat
  creg : Nat
  coll : Nat
  recaddr : Word64
  logaddr : Word64
  recslots : Nat
  logslots : Nat
  deriving DecidableEq, Repr

/-- Rollout parameters (R241). -/
structure RollP where
  tokbudget : Nat
  maxdec : Nat
  chunk : Nat
  specmax : Nat
  vmax : Nat
  dposl : Nat
  dlanes : Nat
  dregion : Nat
  mregion : Nat
  mbufs : Nat
  sreg : Nat
  oregion : Nat
  pregion : Nat
  vclass : Nat
  maxlen : Nat
  nprompt : Nat
  listoff : Nat
  endt : Word64
  vstep : Nat
  close : Nat
  deriving DecidableEq, Repr

/-- TN.KIND (R352). -/
inductive TKind where
  | rollout | reward | learning | checkpoint
  deriving DecidableEq, Repr

/-- Turn descriptor (R352). -/
structure TurnP where
  kind : TKind
  prog : Nat
  pairs : List Nat
  vsets : List VSetP
  ckpts : List CkptP
  lt : LearnP
  rp : RollP
  deriving DecidableEq, Repr

/-- Campaign descriptor (R352). -/
structure CampaignP where
  id : Nat
  fromTurn : Nat
  positions : List Nat
  autoresume : Bool
  rdvlimit : Nat
  recaddr : Word64
  recslots : Nat
  pasid : BitVec 20
  turns : List TurnP
  deriving DecidableEq, Repr

/-- Record kinds of RECORD_READ (R336). A count register of each queue of R26 is a record: `queue` those of a tile, `bobbins` a
ring's, `sampling` a compute die's, `fetch` a submission queue's, `replay` a port's, `channel` a logical channel's (R28, R29). -/
inductive RecKind where
  | region | request | handle | variant | ring | treg | port | queue | bobbins | sampling | fetch | replay | channel
  deriving DecidableEq, Repr

/-- What RECORD_READ names: a kind, a tile where the record is a tile's, and an index. -/
structure RecSel where
  kind : RecKind
  tile : Nat
  index : Nat
  deriving DecidableEq, Repr

/-- Counter selection of COUNTER_READ (R385, R388). -/
inductive CtrSel where
  | live (ids : List Nat)
  | snap (id : Nat) (release : Bool)
  deriving DecidableEq, Repr

/-- A configuration record in its copy (R392): the bytes of header, sections and signature, and whether the signature and its chain
verify, which depends on keys that the manual does not give. -/
structure ConfigP where
  bytes : List Byte
  sigOk : Bool
  deriving DecidableEq, Repr

/-- Header fields of a configuration record. -/
def ConfigP.head (c : ConfigP) (bit n : Nat) : Nat := fld (leNat (c.bytes.take 64)) bit n
def ConfigP.format (c : ConfigP) : Nat := c.head 0 16
def ConfigP.seq (c : ConfigP) : Nat := c.head 32 32
def ConfigP.serial (c : ConfigP) : Word64 := BitVec.ofNat 64 (c.head 64 64)
def ConfigP.minsvn (c : ConfigP) : Nat := c.head 128 32
def ConfigP.sigoff (c : ConfigP) : Nat := c.head 352 32

/-- The sections of a record: repair map, training seeds of 100 channels, gear voltage trims, PUF helper data, timebase table up to the
signature (R392). -/
def ConfigP.repair (c : ConfigP) : List (BitVec 64) :=
  (List.range (c.head 192 16)).map (fun k => BitVec.ofNat 64 (leNat (bytesAt c.bytes (c.head 160 32 + 8 * k) 8)))
def ConfigP.seeds (c : ConfigP) : List Byte := bytesAt c.bytes (c.head 224 32) 25600
def ConfigP.trims (c : ConfigP) : List Byte := bytesAt c.bytes (c.head 256 32) 384
def ConfigP.helper (c : ConfigP) : List Byte := bytesAt c.bytes (c.head 288 32) 4096
def ConfigP.tbTable (c : ConfigP) : List Byte := (c.bytes.take c.sigoff).drop (c.head 320 32)

/-- The measurement of a record: the digest that its signature covers (R392). -/
def ConfigP.meas (c : ConfigP) : BitVec 512 := sha3 (c.bytes.take c.sigoff)

/-! ### Programs -/

/-- Numeric shape record (R38). -/
structure NShape where
  level : Nat
  kgroup : Nat
  run : Nat
  rm : Nat
  block : Nat
  headroom : Nat
  sr1 : Bool
  sr2 : Bool
  sr3 : Bool
  detmode : Bool
  gradfmt : Nat
  deriving DecidableEq, Repr

/-- Segment descriptor with its successor list (R31). -/
structure SegD where
  id : Nat
  npred : Nat
  energy : Nat
  peak : Nat
  filler : Bool
  gears : Nat
  groups : Nat
  deadline : Nat
  succ : List Nat
  deriving DecidableEq, Repr

/-- One tile's command list for one segment (section 2). -/
structure TList where
  seg : Nat
  tile : Nat
  words : List Word64
  deriving DecidableEq, Repr

/-- A section 3 record: a ring set-up record for a segment and a tile. -/
structure RingSet where
  seg : Nat
  tile : Nat
  record : BitVec 512
  deriving DecidableEq, Repr

/-- Section 4: spilled depths of a tile's three engine queues and its spill area. -/
structure QDepth where
  tile : Nat
  d1 : Nat
  d2 : Nat
  d3 : Nat
  spill : Nat
  deriving DecidableEq, Repr

/-- Section 5: a T0 window in 4 KiB units (R34). -/
structure Win where
  seg : Nat
  tile : Nat
  write : Bool
  base : Nat
  size : Nat
  deriving DecidableEq, Repr

/-- Section 5: a region extent in bytes (R34). -/
structure Ext where
  seg : Nat
  region : Nat
  write : Bool
  off : Nat
  len : Nat
  deriving DecidableEq, Repr

/-- Sections 2 to 5 as PROG_LOAD reads them. The manual gives them no byte layout (log entry 2). -/
structure ProgSections where
  lists : List TList
  rings : List RingSet
  depths : List QDepth
  windows : List Win
  extents : List Ext
  deriving DecidableEq, Repr

/-- PROG_LOAD parameters (R336). -/
structure LoadP where
  slot : Nat
  region : Nat
  off : Nat
  len : Nat
  deriving DecidableEq, Repr

/-- Prefetch calendar entry (R200). -/
structure CalE where
  seg : Nat
  trig : Nat
  hold : Nat
  die : Nat
  until_ : Nat
  region : Nat
  page : Nat
  count : Nat
  deriving DecidableEq, Repr

/-- Selection record (R114). -/
structure GSel where
  init : Nat
  sreg : Nat
  seg : Nat
  thresh : Nat
  region : Nat
  off : Nat
  deriving DecidableEq, Repr

/-- Layout pair header (R307). -/
structure LPair where
  id : Nat
  sfmt : Nat
  dfmt : Nat
  sscl : Bool
  ssblk : Nat
  dscl : Bool
  dsblk : Nat
  dhead : Nat
  rm : Nat
  stream : Nat
  cls : Nat
  sregion : Nat
  dregion : Nat
  hregion : Nat
  repl : List Int
  deriving DecidableEq, Repr

/-- Piece record (R308). -/
structure Piece where
  tensor : Nat
  dst : Bool
  panel : Bool
  pos : Nat
  row0 : Nat
  nrows : Nat
  col0 : Nat
  ncols : Nat
  off : Nat
  spoff : Nat
  rstride : Nat
  pstride : Nat
  ld : Nat
  chain : List Nat
  deriving DecidableEq, Repr

/-- Collective descriptor (R311) with its member table. -/
structure Coll where
  id : Nat
  kind : Nat
  cls : Nat
  members : List Nat
  trigseg : Nat
  sumseg : Nat
  nextseg : Nat
  region : Nat
  cbuf : Nat
  bytes : Nat
  elems : Nat
  leaf : Nat
  result : Nat
  xtab : Nat
  xoff : Nat
  deriving DecidableEq, Repr

/-- A layout pair with its pieces. -/
structure PairD where
  hd : LPair
  pieces : List Piece
  deriving DecidableEq, Repr

/-- A table of section 8 (R129): kind and F32 patterns. -/
structure TabD where
  kind : Nat
  count : Nat
  vals : List Word32
  deriving DecidableEq, Repr

/-- A loaded program (R14 to R38). -/
structure Program where
  level : Nat
  groups : Nat
  nseg : Nat
  hostlat : Nat
  waitlimit : Nat
  shape : NShape
  segs : List SegD
  sec : ProgSections
  cal : List CalE
  pairs : List PairD
  colls : List Coll
  tables : List TabD
  gsels : List GSel
  consts : List Byte
  meas : BitVec 512
  inplace : Bool
  deriving DecidableEq, Repr

/-! ### Submission entries -/

/-- A command as its entry's opcode and parameters spell it (R336). -/
inductive HostCmd where
  | partCreate (p : PartCreateP)
  | partDestroy
  | partStart
  | partStop
  | partQuota (p : Quota)
  | partSeed (seed : BitVec 256)
  | partFlagmask (m : FlagWord)
  | partServe (entries handles : Nat)
  | groupAdd (gs : List Nat)
  | groupRemove (gs : List Nat)
  | partRecover
  | partSave (b : Buf)
  | partRestore (b : Buf)
  | queueCreate (d : QDesc)
  | queueDelete (num : Nat) (isCQ : Bool)
  | regionCreate (p : RegionP)
  | regionFree (r : Nat)
  | regionStage (r epoch : Nat) (haddr : Word64)
  | regionPublish (rs : List Nat)
  | regionAbandon (r : Nat)
  | copyIn (p : CopyP)
  | copyOut (p : CopyP)
  | regionFill (p : FillP)
  | progLoad (p : LoadP)
  | progUnload (slot : Nat)
  | campaignStart (c : CampaignP)
  | campaignStop
  | reqAdmit (p : AdmitP)
  | reqCancel (e : Nat)
  | reqRelease (e : Nat)
  | prefixCreate (e len : Nat)
  | prefixRelease (h : Nat)
  | variantSet (ver : Nat) (p : VSetP)
  | variantClear (v : Nat)
  | admitClose
  | groupId (g : Word64)
  | groupFound
  | groupLeave
  | portEnable (p : Nat)
  | portDisable (p : Nat)
  | portHello (p : Nat)
  | powerLevel (l : Nat)
  | gearLimit (part : Fin 32) (g : Nat)
  | energyBudget (part : Fin 32) (w : Nat)
  | brakeTest (us : Nat)
  | snapshotAt (t : Word64) (mask : BitVec 16)
  | snapshotMark (n : BitVec 32) (mask : BitVec 16)
  | counterRead (sel : CtrSel) (b : Buf)
  | recordRead (sel : RecSel) (b : Buf)
  | faultLogRead (first count : Nat) (b : Buf)
  | historyRead (b : Buf)
  | attest (nonce : BitVec 512) (part : Fin 32) (b : Buf)
  | measureRead (part : Fin 32) (b : Buf)
  | certRead (b : Buf)
  | configUpdate (c : ConfigP)
  | undefined (opc : Nat)
  deriving DecidableEq, Repr

/-- A submission entry as fetched (R331, R332): its first 16 bytes as bits [127:0], the parameter bytes
(inline or extended), whether the extended parameters could be read, and the command they spell where the
manual gives the parameters no byte layout (log entry 2). -/
structure SubEntry where
  hdr : BitVec 128
  ext : BitVec 896
  params : List Byte
  readable : Bool
  cmd : HostCmd
  deriving DecidableEq, Repr

/-! ### Operands of events -/

/-- Register fields that REGISTER_WRITE reaches: those with no row of their own (R324, R325, R327, R380). -/
inductive RegField where
  | aqs (d : QDesc)
  | aqc (d : QDesc)
  | evbase (v : Word64)
  | evlsize (v : Nat)
  | even (v : Bool)
  | w2base (v : Nat)
  | w2we (v : Bool)
  | mbaddr (v : Word64)
  | mblen (v : Nat)
  | msix (vec : Nat) (addr : Word64) (data : Word32) (mask : Bool)
  | alertMask (v : BitVec 16)
  | atsEnable (v : Bool)
  | pasidEnable (v : Bool)
  | other (off : Nat) (v : Word64)
  deriving DecidableEq, Repr

/-- A Utora image as the ROM reads it (R397), and what the manual gives no way to compute from its bytes: the digests of the level's
tables that it carries (R424), whether the signer certificate chains to the root, whether the signature verifies, whether every PCIe read
of it succeeded, and the repair entries that its self-test writes (R400). -/
structure ImageP where
  bytes : List Byte
  tableDigests : List (BitVec 512)
  certOk : Bool
  sigOk : Bool
  readOk : Bool
  bist : List (BitVec 64)
  deriving DecidableEq, Repr

/-- Header fields of an image. -/
def ImageP.head (i : ImageP) (bit n : Nat) : Nat := fld (leNat (i.bytes.take 256)) bit n
def ImageP.format (i : ImageP) : Nat := i.head 0 32
def ImageP.svn (i : ImageP) : Nat := i.head 32 32
def ImageP.level (i : ImageP) : Nat := i.head 64 16
def ImageP.len (i : ImageP) : Nat := i.head 96 32
def ImageP.certLen (i : ImageP) : Nat := i.head 128 32

/-- The parts of an image: signer certificate, body, signature, and the bytes that the signature covers (R397). -/
def ImageP.cert (i : ImageP) : List Byte := bytesAt i.bytes 256 i.certLen
def ImageP.body (i : ImageP) : List Byte := (i.bytes.take i.len).drop (256 + i.certLen)
def ImageP.signature (i : ImageP) : List Byte := bytesAt i.bytes i.len 4627
def ImageP.meas (i : ImageP) : BitVec 512 := sha3 (i.bytes.take i.len)

/-- A flit as it arrives (R279, R280): the 32 bytes of each of the nine physical lanes, and the 256 bytes that the error
correction makes of them. -/
structure Flit where
  lanes : List (List Byte)
  fixed : List Byte
  deriving DecidableEq, Repr

/-- A fabric message as it arrives (R298): its sender, and its sequence number among the sender's messages to this module. -/
structure MsgAt where
  frm : Nat
  seq : Nat
  deriving DecidableEq, Repr

/-- What a destination asks of another source of a layout pair's piece (R304): partition, pair and piece of the program, the position
asked, whether that is an earlier position of the piece's chain, and the bits of the region. -/
structure FetchP where
  part : Fin 32
  pair : Nat
  piece : Nat
  pos : Nat
  chain : Bool
  off : Nat
  len : Nat
  deriving DecidableEq, Repr

/-- A chunk of a layout pair that was lost on its way, or that its source cannot read (R304): its header's fields. -/
structure LostP where
  part : Fin 32
  region : Nat
  dpos : Nat
  spos : Nat
  off : Nat
  len : Nat
  deriving DecidableEq, Repr

/-- What reaches the relay engine: a chunk that a buffer holds whole, or a message on a layout pair's chunks. -/
inductive Inbound where
  | chunk (buf : Fin 48)
  | fetch (m : MsgAt) (f : FetchP)
  | lost (m : MsgAt) (l : LostP)
  deriving DecidableEq, Repr

/-- A peer-fault event (R344): for a lost shard, what the switch fails with on every member (R305). -/
structure PeerMsg where
  msg : MsgAt
  lost : Option Nat
  deriving DecidableEq, Repr

/-- What Distaff sees on a port's receive lanes: those that lose light, and those that have it again. -/
structure LightOf where
  dark : List Nat
  lit : List Nat
  deriving DecidableEq, Repr

/-- A link of the group (R292, R299): a member and its port, the other member and its port, class and round trip in ns. -/
structure Link where
  a : Nat
  pa : Nat
  b : Nat
  pb : Nat
  cls : Nat
  rtt : Nat
  deriving DecidableEq, Repr

/-- A relay chunk (R301): header fields and data. -/
structure Chunk where
  xfer : Nat
  index : Nat
  spos : Nat
  dpos : Nat
  part : Fin 32
  kind : Nat
  region : Nat
  hops : Nat
  off : Nat
  fmt : Nat
  epoch : Nat
  tokens : Nat
  dmem : Nat
  data : List Byte
  deriving DecidableEq, Repr

/-- A hello record as received (R291), with the outcome of the signature and chain checks. -/
structure HelloP where
  group : Word64
  epoch : Nat
  member : Nat
  level : Nat
  svn : Nat
  port : Nat
  idhash : BitVec 512
  echo : BitVec 256
  sigOk : Bool
  chainOk : Bool
  deriving DecidableEq, Repr

/-- A leaf of a step's reduction (R232): origin step, rank. -/
structure LeafP where
  step : Nat
  rank : Nat
  deriving DecidableEq, Repr

/-- A close list (R312, R236): the arbiter's decision for a step. -/
structure CloseP where
  coll : Nat
  step : Nat
  closeT : Word64
  deadline : Word64
  mode : Nat
  last : Bool
  leaves : List LeafP
  ontime : Nat
  late : List (LeafP × Nat)
  drop : List (LeafP × Nat)
  pend : List Nat
  tokens : Nat
  members : Nat
  deriving DecidableEq, Repr

/-- One sensor pair's two samples, in 1/16 °C or 1/8 A; none where the member has failed (R375). -/
structure PairSample where
  a : Option Int
  b : Option Int
  deriving DecidableEq, Repr

/-- What raises a device fault (R403). A lost or poisoned line of Utora's data may lie in the image, whose digest then differs (R399). -/
inductive DevCause where
  | hubState | tileControl (tile : Fin 192) | watchdog | pll (domain : Nat) | bondLane (lane : Nat)
  | package (p : Fin 25) (image : Bool) | linkLoss | reservedPoison (image : Bool)
  deriving DecidableEq, Repr

/-- What the error codes find in a read (R208, R401): sectors of module memory that proved uncorrectable after the retry and
sectors corrected by the controller, by number, lines of T1 frames that proved uncorrectable, as frame and line, and sectors that the
link's ECC and a package's own ECC corrected. -/
structure ReadErrs where
  bad : List Nat
  fixed : List Nat
  store : List (Nat × Nat)
  link : List Nat
  onDie : List Nat
  deriving DecidableEq, Repr

/-- A read that meets no error. -/
def ReadErrs.none : ReadErrs := ⟨[], [], [], [], []⟩

/-- The length of a read through BAR2, and the errors that it meets (R208, R328). -/
structure BarLen where
  n : Nat
  e : ReadErrs
  deriving DecidableEq, Repr

/-- Why a read of host memory is a translation fault (R210): no read permission, or a completion with UR or CA, or a completion
timeout. -/
inductive TransWhy where
  | noPermission | unsupported | aborted | timeout
  deriving DecidableEq, Repr

/-- How a fetch ends (R174, R208, R210): its bytes are there, with the errors met, or it meets a translation fault at a host
address. -/
inductive LandP where
  | ok (e : ReadErrs)
  | translation (addr : Word64) (why : TransWhy)
  deriving DecidableEq, Repr

/-- Where an SRAM or a queue meets an error (R30, R150, R401, R402): an uncorrectable one of a tile in T0, in an element of a tile
register or in an entry of the whorl table, a parity error of the word at a place of an engine queue, or of the finished-tile queue, of a
tile (queues as QCNT numbers them), or a corrected error in a row of a tile's, of the hub's or of a store die's SRAM. -/
inductive SramErr where
  | t0 (addr : Nat)
  | treg (r n : Nat)
  | whorl (k : Nat)
  | queue (q : Nat) (pos : Nat)
  | corrected (row : Nat)
  | hubFixed (row : Nat)
  | storeFixed (die : Fin 2) (row : Nat)
  deriving DecidableEq, Repr

/-! ### What comes with an event beside the part it concerns -/

/-- A tile's SRAM error and when it is met (R402). -/
structure SramAt where
  err : SramErr
  t : Word64
  deriving DecidableEq, Repr

/-- Sectors that a scrub pass finds uncorrectable, those that it corrects and writes back, those that the link's ECC and a
package's own ECC corrected (R208), and whether one that it finds lies in the image (R399). -/
structure Scrubbed where
  found : List Nat
  fixed : List Nat
  link : List Nat
  onDie : List Nat
  image : Bool
  deriving DecidableEq, Repr

/-- A frame whose fill ends, the bytes of a page of the host tier, and how it ends: with the errors that its reads meet, or with a
translation fault (R198, R208, R210). -/
structure FillLand where
  frame : Nat
  data : List Byte
  how : LandP
  deriving DecidableEq, Repr

/-- The members that have reported their destination pieces whole, and when the switch publishes (R305). -/
structure PublishAt where
  reports : List Nat
  t : Word64
  deriving DecidableEq, Repr

/-- A stop message (R355): the turn that the sender was in, or switched into, when the stop reached it, and the first step of it that
it had not started, 0 outside a learning turn. -/
structure StopAt where
  msg : MsgAt
  turn : Nat
  last : Nat
  t : Word64
  deriving DecidableEq, Repr

/-- A settle timeout (R235, R238), with the arbiter's word to a member that is not the arbiter: when its own contribution arrived,
and the lowest rank that is missing. -/
structure MissAt where
  since : Word64
  rank : Nat
  t : Word64
  deriving DecidableEq, Repr

/-- A close-list message (R312), or the arbiter's word that the log does not match (`bad`, R235). -/
structure CloseMsg where
  msg : MsgAt
  close : CloseP
  bad : Nat
  deriving DecidableEq, Repr

/-- What the composer has and chooses (R251, R253): the members that have committed the step that used the manifest slot before,
and free drawers. -/
structure ComposeIn where
  reports : List Nat
  drs : List Nat
  deriving DecidableEq, Repr

/-- A message about a numbered step or epoch (R253, R294). -/
structure MsgNum where
  msg : MsgAt
  num : Nat
  deriving DecidableEq, Repr

/-- A heartbeat (R295) with the links that its sender tells of: a member its own, the leader the group's (log entry 23). -/
structure BeatAt where
  msg : MsgAt
  links : List Link
  deriving DecidableEq, Repr

/-- How a step of the initialisation of T2 ends (R396, R403). -/
structure InitAt where
  good : Bool
  t : Word64
  deriving DecidableEq, Repr

/-- A fall of the input: to how many mV, and for how many ns (R410). -/
structure Dip where
  mv : Nat
  ns : Nat
  deriving DecidableEq, Repr

/-- Lanes with light, and when they have had it long enough (R289). -/
structure LitAt where
  lit : List Nat
  t : Word64
  deriving DecidableEq, Repr

/-- How training ends (R289): whether it succeeds, and the lanes with light. -/
structure Trained where
  good : Bool
  lit : List Nat
  deriving DecidableEq, Repr

/-- What an exchange of timing beacons tells beside its four times (R383): the members whose TB_SYNC_IN is locked, as the neighbour knows
them. -/
structure TimingAt where
  locked : List Nat
  t : Word64
  deriving DecidableEq, Repr

/-- The link leaves L0 (R323, R419): into L2, or down. -/
structure LinkDrop where
  l2 : Bool
  t : Word64
  deriving DecidableEq, Repr

/-- A join request (R293): the message and the identity. -/
structure JoinMsg where
  msg : MsgAt
  id : BitVec 512
  deriving DecidableEq, Repr

/-- A member that the leader may remove (R295), and whether its leave has come. -/
structure Gone where
  member : Nat
  leave : Bool
  deriving DecidableEq, Repr

/-- An isolation found at a time, and since when the majority has been out of reach (R294). -/
structure CutAt where
  lost : Word64
  t : Word64
  deriving DecidableEq, Repr

/-- A message of the outbox, and whether its receiver has acknowledged it (R298). -/
structure Resend where
  dest : Nat
  num : Nat
  acked : Bool
  deriving DecidableEq, Repr

end Sys2Proof.Machine
end

