-- ==== Sys2Proof/Machine/Records.lean ====
section
/-! DEFINITION. Descriptors that programs keep in memory: ring set-up records (R170), tensor descriptors
(R168), sampling part descriptors (R142), and the sections of a program image that have a byte layout
(R14, R31, R38, R114, R129, R200, R306 to R308, R311). -/

namespace Sys2Proof.Machine

open Sys2Proof

/-- One loop of a walk (R170). -/
structure Loop where
  dim : Nat
  count : Nat
  step : Int
  deriving DecidableEq, Repr

/-- Ring set-up record (R170). `resv` tells whether a reserved bit is set. -/
structure RingRec where
  num : Nat
  dir : Nat
  engine : Nat
  auto : Bool
  tr : Bool
  vec : Bool
  slots : Nat
  outst : Nat
  fan : Nat
  fanarg : Nat
  base : Nat
  bsize : Nat
  bpb : Nat
  td : Nat
  tdsrc : Bool
  loops : List Loop
  ptile : Nat
  paddr : Nat
  pstride : Nat
  pwrap : Nat
  deriving DecidableEq, Repr

/-- Tensor descriptor (R168): sizes of dimensions 0 to 4, strides of dimensions 1 to 4. -/
structure TDesc where
  region : Nat
  fmt : Nat
  ndim : Nat
  scl : Bool
  sblk : Nat
  head : Nat
  off : Nat
  epoch : Nat
  stream : Nat
  size0 : Nat
  size1 : Nat
  size2 : Nat
  size3 : Nat
  size4 : Nat
  stride1 : Nat
  stride2 : Nat
  stride3 : Nat
  stride4 : Nat
  spoff : Nat
  tensor : Nat
  deriving DecidableEq, Repr

/-- Sampling part descriptor (R142). -/
structure PartDesc where
  req : Nat
  npart : Nat
  part : Nat
  list : Bool
  f16 : Bool
  base : Nat
  addr : Nat
  count : Nat
  rtile : Nat
  rsem : Nat
  raddr : Nat
  step : Nat
  deriving DecidableEq, Repr

def loopOf (v : Nat) : Loop := ⟨fld v 0 3, fld v 8 16, signOf 16 (fld v 24 16)⟩

/-- Ring set-up record from 64 bytes (R170). -/
def ringRecOf (v : Nat) : RingRec :=
  { num := fld v 0 4, dir := fld v 4 2, engine := fld v 6 2, auto := bitOf v 8, tr := bitOf v 9,
    vec := bitOf v 10, slots := fld v 12 4, outst := fld v 16 4, fan := fld v 20 2, fanarg := fld v 22 8,
    base := fld v 32 17, bsize := fld v 49 14, bpb := fld v 64 16, td := fld v 80 17, tdsrc := bitOf v 97,
    loops := [loopOf (fld v 128 48), loopOf (fld v 176 48), loopOf (fld v 224 48), loopOf (fld v 272 48)],
    ptile := fld v 320 8, paddr := fld v 328 17, pstride := fld v 345 17, pwrap := fld v 362 4 }

/-- Tensor descriptor from 64 bytes (R168); sizes at or above TD.NDIM are taken as 1. -/
def tdOf (v : Nat) : TDesc :=
  let n := fld v 20 3
  let sz (d x : Nat) : Nat := if d < n then x else 1
  { region := fld v 0 16, fmt := fld v 16 4, ndim := n, scl := bitOf v 23, sblk := fld v 24 2,
    head := fld v 26 2, off := fld v 32 48, epoch := fld v 80 32, stream := fld v 112 8,
    size0 := sz 0 (fld v 128 24), size1 := sz 1 (fld v 192 24), stride1 := fld v 216 40,
    size2 := sz 2 (fld v 256 24), stride2 := fld v 280 40, size3 := sz 3 (fld v 320 24),
    stride3 := fld v 344 40, size4 := sz 4 (fld v 384 24), stride4 := fld v 408 40,
    spoff := fld v 448 48, tensor := fld v 496 16 }

/-- Sampling part descriptor from 32 bytes (R142). -/
def partDescOf (v : Nat) : PartDesc :=
  { req := fld v 0 14, npart := fld v 16 8, part := fld v 24 8, list := bitOf v 32, f16 := bitOf v 33,
    base := fld v 36 20, addr := fld v 64 17, count := fld v 96 21, rtile := fld v 128 8,
    rsem := fld v 136 6, raddr := fld v 144 17, step := fld v 192 32 }

/-- Little-endian number at an offset (R2). -/
def numAt (b : List Byte) (off n : Nat) : Nat := leNat (bytesAt b off n)

/-- Program header fields (R14). -/
structure ProgHdr where
  format : Nat
  level : Nat
  groups : Nat
  lanes : Nat
  nseg : Nat
  hostlat : Nat
  waitlimit : Nat
  resv : Nat
  deriving DecidableEq, Repr

def progHdrOf (b : List Byte) : ProgHdr :=
  let v := numAt b 0 64
  ⟨fld v 0 16, fld v 16 16, fld v 32 8, fld v 40 8, fld v 48 16, fld v 64 32, fld v 96 32, fld v 128 384⟩

/-- Section directory entry: offset and length (R14). -/
def sectionOf (b : List Byte) (n : Nat) : Nat × Nat := (numAt b (64 + 16 * n) 8, numAt b (72 + 16 * n) 8)

/-- The bytes of a section. -/
def sectionBytes (b : List Byte) (n : Nat) : List Byte :=
  let d := sectionOf b n
  bytesAt b d.1 d.2

/-- Numeric shape (R38). -/
def nshapeOf (b : List Byte) : NShape :=
  let v := numAt b 0 32
  { level := fld v 0 16, kgroup := fld v 16 8, run := fld v 24 9, rm := fld v 33 3, block := fld v 36 2,
    headroom := fld v 38 2, sr1 := bitOf v 40, sr2 := bitOf v 41, sr3 := bitOf v 42, detmode := bitOf v 43,
    gradfmt := fld v 48 15 }

/-- Segment descriptor k with its successor list (R31). -/
def segOf (b : List Byte) (k : Nat) : SegD :=
  let v := numAt b (32 * k) 32
  let so := fld v 160 32
  { id := fld v 0 16, npred := fld v 16 16, energy := fld v 32 32, peak := fld v 64 3, filler := bitOf v 67,
    gears := fld v 72 8, groups := fld v 80 24, deadline := fld v 128 32,
    succ := (List.range (fld v 192 16)).map (fun j => numAt b (4 * so + 2 * j) 2) }

/-- Reserved bits of a segment descriptor. -/
def segResv (b : List Byte) (k : Nat) : Bool :=
  let v := numAt b (32 * k) 32
  decide (fld v 68 4 ≠ 0) || decide (fld v 104 24 ≠ 0) || decide (fld v 208 48 ≠ 0)

/-- Calendar entry k (R200). -/
def calOf (b : List Byte) (k : Nat) : CalE :=
  let v := numAt b (32 + 32 * k) 32
  { seg := fld v 0 16, trig := fld v 16 2, hold := fld v 18 2, die := fld v 20 2, until_ := fld v 32 16,
    region := fld v 48 16, page := fld v 64 32, count := fld v 96 32 }

/-- Selection record k (R114). -/
def gselOf (b : List Byte) (k : Nat) : GSel :=
  let v := numAt b (32 + 32 * k) 32
  { init := fld v 0 4, sreg := fld v 4 6, seg := fld v 16 16, thresh := fld v 32 32, region := fld v 64 16,
    off := fld v 80 48 }

/-- Table directory entry k of section 8 with its F32 values (R129). A level table holds triples. -/
def tabOf (b : List Byte) (k : Nat) : TabD :=
  let v := numAt b (16 * k) 16
  let n := fld v 32 16
  let kind := fld v 48 8
  let m := if kind = 1 then 3 * n else n
  { kind := kind, count := n,
    vals := (List.range m).map (fun j => BitVec.ofNat 32 (numAt b (fld v 0 32 + 4 * j) 4)) }

/-- The bytes of table k, over which its digest is taken (R424). -/
def tabBytes (b : List Byte) (k : Nat) : List Byte :=
  let v := numAt b (16 * k) 16
  bytesAt b (fld v 0 32) (12 * fld v 32 16)

/-- Piece record at a 64-byte unit of section 7 (R308). -/
def pieceOf (b : List Byte) (off : Nat) : Piece :=
  let v := numAt b off 64
  { tensor := fld v 0 16, dst := bitOf v 16, panel := bitOf v 17, pos := fld v 32 16, row0 := fld v 64 24,
    nrows := fld v 88 24, col0 := fld v 112 24, ncols := fld v 136 24, off := fld v 160 48,
    spoff := fld v 208 48, rstride := fld v 256 40, pstride := fld v 296 40, ld := fld v 336 24,
    chain := (List.range (fld v 48 4)).map (fun j => fld v (360 + 16 * j) 16) }

/-- Layout pair k of section 7 (R307). -/
def pairOf (b : List Byte) (k : Nat) : PairD :=
  let v := numAt b (32 + 64 * k) 64
  { hd :=
      { id := fld v 0 16, sfmt := fld v 32 4, dfmt := fld v 36 4, sscl := bitOf v 40, ssblk := fld v 41 2,
        dscl := bitOf v 43, dsblk := fld v 44 2, dhead := fld v 46 2, rm := fld v 48 3, stream := fld v 51 8,
        cls := fld v 59 2, sregion := fld v 64 16, dregion := fld v 80 16, hregion := fld v 96 16,
        repl := (List.range (fld v 160 2 + 1)).map (fun j => signOf 16 (fld v (192 + 16 * j) 16)) },
    pieces := (List.range (fld v 16 16)).map (fun j => pieceOf b (64 * fld v 128 32 + 64 * j)) }

/-- Collective j of section 7, after np layout pairs (R311). -/
def collOf (b : List Byte) (np j : Nat) : Coll :=
  let v := numAt b (32 + 64 * (np + j)) 64
  { id := fld v 0 16, kind := fld v 16 3, cls := fld v 19 2,
    members := (List.range (fld v 21 11 + 1)).map (fun i => numAt b (fld v 336 32 + 2 * i) 2),
    trigseg := fld v 32 16, sumseg := fld v 48 16, nextseg := fld v 64 16, region := fld v 80 16,
    cbuf := fld v 96 48, bytes := fld v 144 48, elems := fld v 192 48, leaf := fld v 240 48,
    result := fld v 288 48, xtab := fld v 368 32, xoff := fld v 400 48 }

end Sys2Proof.Machine
end

