-- ==== Sys2Proof/Machine/Types.lean ====
section
/-! DEFINITION. The records that the units of the module hold: partitions, regions, requests, variants,
campaigns, tiles, rings, frames, ports, sensors. Plain data throughout. -/

namespace Sys2Proof.Machine

open Sys2Proof

/-! ### Partitions -/

/-- Partition states (R340). -/
inductive PState where
  | unused | stopped | starting | running | stopping | pendingEnable | faulted | destroying
  deriving DecidableEq, Repr

/-- Tile group states (R342). -/
inductive GState where
  | free | assigned | draining | pendingEnable | failed
  deriving DecidableEq, Repr

/-- A tile group: its state, and the partition it belongs to or waits for. -/
structure Group where
  st : GState
  part : Nat
  deriving DecidableEq, Repr

/-- Fault record (R45). -/
structure FaultRec where
  status : Nat
  tile : Nat
  q : Nat
  sem : Nat
  seg : Nat
  other : Nat
  word : Nat
  time : Word64
  addr : Nat
  detail : Nat
  deriving DecidableEq, Repr

/-- A publication (R192, R194, R196): epoch, T2 pages or the host address, heat per page, pages tracked. -/
structure Pub where
  epoch : Nat
  pages : List Nat
  haddr : Word64
  heat : Map Nat
  tracked : Nat
  deriving DecidableEq, Repr

/-- A region (R189): its creation flags, the T2 pages of a writable region, its publications, and replaced publications
whose T2 pages stay in use until the fetches issued against them are over (R194 step 3). -/
structure Region where
  p : RegionP
  wpages : List Nat
  cur : Option Pub
  next : Option Pub
  old : List Pub
  deriving DecidableEq, Repr

/-- Request entry states (R245). -/
inductive RState where
  | free | admitted | pfill | decode | spec | done | evicted
  deriving DecidableEq, Repr

/-- Request table entry (R245). `cancel` marks a cancel command not yet applied (R275); `turn` is the
rollout turn run it belongs to, none while it waits for the next one (R243); `dreg` the region whose pool its
drawers come from, `dposl` and `dlanes` their layout (R241); `due` the reason of an eviction that waits for its step's commit (R274, R276), 0 none; `last`
its newest committed token (R246); `seen` tells that a composition has considered it (R248). -/
structure Req where
  st : RState
  prio : Nat
  keysrc : Bool
  ven : Bool
  list : Bool
  reason : Nat
  variant : Nat
  version : Nat
  prefixH : Nat
  tag : Word64
  plen : Nat
  klen : Nat
  clen : Nat
  tlen : Nat
  maxgen : Nat
  deadline : Word64
  dhead : Nat
  outoff : Nat
  temp : Word32
  topk : Nat
  topp : Nat
  seq : Nat
  proff : Nat
  stops : List Nat
  bg : BGen
  draft : List Nat
  cancel : Bool
  turn : Option Nat
  dreg : Nat
  dposl : Nat
  dlanes : Nat
  due : Nat
  last : Nat
  seen : Bool
  deriving DecidableEq, Repr

/-- Prefix handle (R261); `dreg` is the region of its drawers, `dposl` and `dlanes`
their layout (R241). -/
structure Handle where
  live : Bool
  ven : Bool
  variant : Nat
  version : Nat
  len : Nat
  map : Nat
  users : Nat
  dreg : Nat
  dposl : Nat
  dlanes : Nat
  deriving DecidableEq, Repr

/-- One version of a variant (R267). -/
structure VVer where
  ver : Nat
  region : Nat
  off : Nat
  epoch : Nat
  refs : Nat
  deriving DecidableEq, Repr

/-- Variant entry (R267). -/
structure VEnt where
  cur : Option VVer
  prv : Option VVer
  fmt : Nat
  cls : Nat
  deriving DecidableEq, Repr

/-- A counter snapshot (R386 to R388). `need` lists the units that have not latched. -/
structure Snap where
  mark : Bool
  point : Word64
  mask : BitVec 16
  need : List Nat
  vals : List (Nat × Word64)
  first : Word64
  last : Word64
  deriving DecidableEq, Repr

/-- A range of a region: where it starts and how long it is (R310). -/
structure Range where
  off : Nat
  len : Nat
  deriving DecidableEq, Repr

/-- Bits of a destination piece that have been asked of entry k of its source list (R304). -/
structure Try where
  piece : Nat
  r : Range
  k : Nat
  deriving DecidableEq, Repr

/-- A layout pair of a switch in progress: its index in the program, what must land in the destination
region on this module and what has landed, in bits of the region, and the sources that have been asked (R304). -/
structure PairRun where
  pair : Nat
  need : List Range
  landed : List Range
  tries : List Try
  deriving DecidableEq, Repr

/-- A switch in progress (R11, R310). -/
structure Switch where
  into : Nat
  t0 : Word64
  epoch : Nat
  pairs : List PairRun
  deriving DecidableEq, Repr

/-- A running segment instance: the gear that it holds (R364), since when its tiles have run at one gear, and the time before that,
in ns × 100 MHz of the gears it ran at (R372). -/
structure SegRun where
  seg : Nat
  step : Nat
  gear : Nat
  t0 : Word64
  work : Nat
  deriving DecidableEq, Repr

/-- A segment instance that has committed. -/
structure SegDone where
  seg : Nat
  step : Nat
  deriving DecidableEq, Repr

/-- A draw's result (R144). -/
structure Draw where
  req : Nat
  token : Nat
  stat : Nat
  logprob : Word32
  flags : FlagWord
  kept : Nat
  deriving DecidableEq, Repr

/-- A request record of a manifest (R256): what the composer selected. -/
structure StepReq where
  req : Nat
  kind : Nat
  row0 : Nat
  nrows : Nat
  ndin : Nat
  klen : Nat
  deriving DecidableEq, Repr

/-- The entries of a manifest (R253), and the drawers that the composer took for them. -/
structure ManifestReqs where
  reqs : List StepReq
  drs : List Nat
  deriving DecidableEq, Repr

/-- A rollout step in flight: its request records and the draws made. -/
structure StepRec where
  step : Nat
  reqs : List StepReq
  draws : List Draw
  deriving DecidableEq, Repr

/-- An arrival at the arbiter (R229). -/
structure Arrival where
  coll : Nat
  leaf : LeafP
  time : Word64
  tokens : Nat
  deriving DecidableEq, Repr

/-- Bytes of a collective that have landed here: collective, step, sending rank, offset, length,
format, token count. -/
structure CollLand where
  coll : Nat
  step : Nat
  rank : Nat
  off : Nat
  len : Nat
  fmt : Nat
  tokens : Nat
  deriving DecidableEq, Repr

/-- A ready beacon that waits until the shards of its contribution have landed (R312 item 2): collective, step, rank, token
count. -/
structure ReadyOwed where
  coll : Nat
  step : Nat
  rank : Nat
  tokens : Nat
  deriving DecidableEq, Repr

/-- A part of a collective that has started on this module (R311, R320): collective, step, when, and its transfers. -/
structure Phase where
  coll : Nat
  step : Nat
  time : Word64
  xfers : List Nat
  deriving DecidableEq, Repr

/-- A gradient format choice (R115). -/
structure GChoice where
  step : Nat
  ix : Nat
  fmt : Nat
  deriving DecidableEq, Repr

/-- A turn in progress. `owed` are the ready beacons that wait for their shards, `phases` the parts of collectives that have started,
`log` the replay log's records by slot (R234), `left` the ranks of the settle domain whose members have left during the turn (R238). -/
structure Run where
  turn : Nat
  kind : TKind
  slot : Nat
  tstart : Word64
  done : List SegDone
  live : List SegRun
  trig : List Nat
  admOpen : Bool
  nextStep : Nat
  steps : List StepRec
  listNext : Nat
  ended : List Nat
  arrivals : List Arrival
  closes : List CloseP
  recs : Nat
  collLand : List CollLand
  gsel : List GChoice
  statOpen : List Nat
  lastStep : Nat
  owed : List ReadyOwed
  phases : List Phase
  log : Map (List Byte)
  left : NSet
  ckptLeft : List Nat
  ended2 : Bool
  deriving DecidableEq, Repr

/-- Where a campaign stands (R353 to R356): also while a checkpoint is read back, and while it has ended and turn records have still
to be written. -/
inductive CPhase where
  | rendezvous | switching | turn | turnEnd | readBack | closing
  deriving DecidableEq, Repr

/-- A slot of a turn record on its way to the host (R354): where it goes, its bytes, and in a record's last slot the event that
follows it. -/
structure RecDue where
  addr : Nat
  bytes : List Byte
  event : Option Nat
  deriving DecidableEq, Repr

/-- A campaign in progress (R352). `rerun` counts by turn how often it has been run again (R354), `beacons` holds the turn-end beacons
by turn and member, `stops` the turn that each member was in or switched into
when the stop reached it and its first step not started (R355), `due` the turn records
that have not been written, `badRec` that one could not be, `fin` the end that waits for them, and `back` the entries of a checkpoint
that have still to be read back (R356). -/
structure Camp where
  p : CampaignP
  q : QId
  phase : CPhase
  digest : BitVec 512
  digests : List (Nat × BitVec 512)
  rdv0 : Word64
  turnIx : Nat
  rerun : Map Nat
  beacons : NSet
  recs : Nat
  due : List RecDue
  badRec : Bool
  fin : Option (Nat × Option Nat)
  back : List Nat
  stop : Bool
  stops : Map (Nat × Nat)
  epoch : Nat
  lastCkpt : Option Nat
  sw : Option Switch
  run : Option Run
  deriving DecidableEq, Repr

/-- A partition fault not yet completed (R46): index of its record in the fault log. -/
structure PFault where
  ix : Nat
  status : Nat
  completed : Bool
  peer : Bool
  deriving DecidableEq, Repr

/-- A partition (R338). `seedOn` is the seed in effect since the last start (R147), `lastDur` the last measured run of each segment of
its programs, at 65,536 × slot + segment, in ns × 100 MHz (R372). -/
structure Part where
  st : PState
  groups : List Nat
  quota : Quota
  seed : BitVec 256
  seedOn : BitVec 256
  flagmask : FlagWord
  entries : Nat
  handleQ : Nat
  watts : Nat
  bal : Int
  gearMax : Nat
  whorl : Option Whorl
  regions : Map Region
  progs : Map Program
  lastDur : Map Nat
  shapes : List (Nat × NShape)
  camp : Option Camp
  reqs : Map Req
  reqSeq : Nat
  turnSeq : Nat
  handles : Map Handle
  variants : Map VEnt
  drawers : Map Nat
  flog : List FaultRec
  fault : Option PFault
  snaps : Map Snap
  wait : List Nat
  deriving DecidableEq, Repr

/-! ### Tiles -/

/-- A word in an engine queue: the word, its index in the list, the scalar values fixed when the sequencer
passed it (R125), the poison of a parity error (R30). -/
structure QWord where
  raw : Word64
  ix : Nat
  vals : List Word64
  bad : Tag
  deriving DecidableEq, Repr

/-- A LOOP in progress (R20): first word of the body, its length, repetitions left. -/
structure LoopFrame where
  start : Nat
  len : Nat
  left : Nat
  deriving DecidableEq, Repr

/-- Tile register (R47, R49). Elements not listed read Config.freeTreg gen; generation 0 reads +0. `obad` is the poison of the MXORG that
set its logical origin (R30). -/
structure TReg where
  elems : Map Word32
  gen : Nat
  pois : Map Tag
  nextk : Nat
  run : Bool
  held : Bool
  holdn : Nat
  flags : FlagWord
  rowb : Nat
  colb : Nat
  stream : Nat
  obad : Tag
  dmask : NSet
  deriving DecidableEq, Repr

/-- An operand element as the matrix engine or a lane reads it. -/
structure Opnd where
  v : FVal
  pois : Tag
  deriving DecidableEq, Repr

/-- One pass of a held window: the block of slot D (or B) and the elements it selects. -/
structure HoldPass where
  b : List Opnd
  sel : NSet
  deriving DecidableEq, Repr

/-- The held group window (R67): register, group index, A block, passes so far, and whether the group
starts a run. -/
structure Held where
  dst : Nat
  kidx : Nat
  start : Bool
  a : List Opnd
  passes : List HoldPass
  deriving DecidableEq, Repr

/-- Operand slot (R75, R77): the word, the current block address and the current plane address, and the poison of the words that set
the slot and its plane (R30). -/
structure MxSlot where
  w : MxSlotW
  addr : Nat
  saddr : Nat
  skstride : Nat
  bad : Tag
  sbad : Tag
  deriving DecidableEq, Repr

/-- A multiply word in execution: the register it will write, with its other elements as they stood at its start, the elements that it
updates (none: all of them; R66, R70), the pops owed, the held window after it. -/
structure MxPend where
  dst : Nat
  reg : TReg
  sel : Option NSet
  pops : List Nat
  held : Option Held
  slots : List MxSlot
  kgroups : Nat
  deriving DecidableEq, Repr

/-- Entry of the finished-tile queue (R73), with the poison of its logical origin. -/
structure FtqE where
  elems : List Word32
  pois : Map Tag
  flags : FlagWord
  rowb : Nat
  colb : Nat
  stream : Nat
  obad : Tag
  reg : Nat
  tag : Nat
  deriving DecidableEq, Repr

/-- Chain words taken so far (R118), each with the scalar value fixed for it, and the poison among them (R30). -/
structure ChainAsm where
  head : EwHeadW
  kappa : Word32
  lic : Nat
  n : Nat
  ixs : List Nat
  org : Option (EwOrgW × Word64)
  srcs : List (EwSrcW × Nat)
  ops : List (EwOpW × Word32)
  dsts : List (EwDstW × Nat)
  bad : Tag
  deriving DecidableEq, Repr

/-- One write of a chain. An element's write names the elements of its packing unit that the chain does not write and keeps, whose
poison stays with the unit (R140). -/
inductive EWrite where
  | elem (base : Nat) (f : Fmt) (n code : Nat) (p : Tag) (kept : List Nat)
  | byte (a : Nat) (b : Nat) (p : Tag)
  | reg (r n : Nat) (x : Word32) (p : Tag)
  | pred (r n : Nat) (b : Bool)
  deriving DecidableEq, Repr

/-- What a chain adds to a statistics record (R113). -/
structure StatAdd where
  gsel : Nat
  step : Nat
  amax : Word32
  nonzero : Nat
  d : List Nat
  sat : Nat
  nan : Nat
  deriving DecidableEq, Repr

/-- A chain in execution: what it will write when it completes (R133, R138); `poisonAt` is the word of the destination at
which a poisoned value meets a predicate, with its tag (R140). -/
structure ChainPend where
  writes : List EWrite
  flags : FlagWord
  quiet : Bool
  mask : FlagWord
  ftqPop : Nat
  ringPops : List Nat
  tails : List (Nat × Nat × Nat)
  stats : List StatAdd
  poisonAt : Option (Nat × Tag)
  ix : Nat
  deriving DecidableEq, Repr

/-- Bobbin states (R166). -/
inductive BState where
  | free | issued | deferred | stale | filled | inUse | tail | sending
  deriving DecidableEq, Repr

/-- A walk: the record and the descriptor that give it (R170, R171), and the poison of the words and bytes that named them (R30). -/
structure Walk where
  r : RingRec
  td : TDesc
  bad : Tag
  deriving DecidableEq, Repr

/-- A bobbin: its state, its walk bobbin index and walk, the source range that its guard watches (offsets in
the region), the tile whose consumer demanded its fetch, whether an outbound tail has been written, the T1 frames
that its fetch reads, and the logical channels in whose queues its line requests stand (R26, R207). -/
structure Bobbin where
  st : BState
  k : Nat
  w : Option Walk
  lo : Nat
  hi : Nat
  demand : Option Nat
  wrote : Bool
  frs : List Nat
  reqs : List Nat
  deriving DecidableEq, Repr

/-- A ring (R165): direction, the record it was armed with, current walk, pending walk, head or tail slot,
bobbins issued or sent in the current walk and since arming, the bobbins, the fan's start, and the index of the word that armed
it (0 where section 3 did). -/
structure Ring where
  dir : Nat
  walk : Option Walk
  pend : Option Walk
  head : Nat
  next : Nat
  total : Nat
  bobs : List Bobbin
  started : Bool
  ix : Nat
  deriving DecidableEq, Repr

/-- A signal on its way to a semaphore (R22, R23). -/
structure Sig where
  sem : Nat
  count : Nat
  tile : Nat
  q : Nat
  deriving DecidableEq, Repr

/-- A queue that waits: on a semaphore, or on the head bobbin of a ring; since when on the wait clock, and what its
segment had done by then (R385). -/
structure Blocked where
  q : Nat
  ring : Option Nat
  sem : Nat
  count : Nat
  since : Word64
  work : Nat
  deriving DecidableEq, Repr

/-- A tile: sequencer, semaphores, engines, memory, registers and rings. `errs` are the times of its uncorrectable T0 and
register errors (R402); `pois` tags the bytes of T0 and `whorlBad` the
entries of its copy of the whorl table that hold an uncorrectable error (R30, R150). -/
structure Tile where
  sregs : Map Word64
  sems : Map Nat
  t0 : Memory
  pois : Map Tag
  whorlBad : Map Tag
  tregs : Map TReg
  preds : Map NSet
  rings : Map Ring
  seg : Option SegRun
  words : List Word64
  pc : Nat
  loops : List LoopFrame
  q1 : List QWord
  q2 : List QWord
  q3 : List QWord
  closed : List Nat
  ended : List Nat
  blocked : List Blocked
  sigin : List Sig
  slotA : MxSlot
  slotB : MxSlot
  slotD : MxSlot
  mxPend : Option MxPend
  held : Option Held
  ftq : List FtqE
  chain : Option ChainAsm
  chPend : Option ChainPend
  ewf : FlagWord
  chains : Nat
  sampWait : Option PartDesc
  gear : Nat
  stats : List StatAdd
  marks : List (Nat × Nat)
  replace : Bool
  errs : List Word64
  deriving DecidableEq, Repr

/-- A part of a sampling request: its ids and logits, and the flags that reading them raised (R144, R164). -/
structure SampPart where
  ix : Nat
  ids : List (Nat × Word32)
  fl : FlagWord
  deriving DecidableEq, Repr

/-- A sampling request in progress (R143). -/
structure SampReq where
  part : Nat
  req : Nat
  step : Nat
  npart : Nat
  parts : List SampPart
  rtile : Nat
  rsem : Nat
  raddr : Nat
  deriving DecidableEq, Repr

/-! ### Memory tiers -/

/-- The page that a frame holds or waits for (R195). -/
structure PageKey where
  part : Nat
  region : Nat
  epoch : Nat
  page : Nat
  deriving DecidableEq, Repr

/-- A T1 frame (R187, R195, R198, R201): its page, whether it is whole, pins and holds (until a segment commits, or
none: for the turn), last read, reads in flight from it, whether it is to be released and what it is then
filled with, and its copy of the page: bytes by offset, and the poison of its 128-byte lines. -/
structure Frame where
  key : PageKey
  whole : Bool
  pin : Bool
  holds : List (Option Nat)
  last : Word64
  readers : Nat
  victim : Bool
  nxt : Option (PageKey × Bool × List (Option Nat))
  data : Memory
  pois : Map Tag
  deriving DecidableEq, Repr

/-- A sector that the controller's SECDED has corrected (R208, R209): the package, the row within it, and when. -/
structure Fixed where
  pkg : Nat
  row : Nat
  time : Word64
  deriving DecidableEq, Repr

/-- Module memory (R187, R207 to R209). `fixed` lists corrected sectors and `broken` the packages in which a sector has proved
uncorrectable after its retry; `map` gives the package of a group of four logical channels,
`migr` the package being migrated; `lost` lists the groups
whose lines read as poisoned until they are written (R349); `pois` marks the sectors whose poison differs from that. -/
structure T2U where
  mem : Memory
  pois : NSet
  map : List Nat
  spareUsed : Bool
  migr : Option Nat
  scrubAt : Word64
  lost : List Nat
  fixed : List Fixed
  broken : List Nat
  deriving DecidableEq, Repr

/-- Store memory (R195, R198, R199, R401). `fills` lists the frames that are being filled or wait for it, oldest first, `pins` the
pinned pages that have no frame yet, each with its die, and `bad` the uncorrectable reads by bank; `dead` are frames out of service, `cut` the frames taken from a partition's share on a die, at
32 × die + partition. -/
structure T1U where
  frames : Map Frame
  dead : NSet
  spareLeft : List Nat
  cut : Map Nat
  fills : List Nat
  pins : List (PageKey × Nat)
  bad : List (Nat × Word64)
  deriving DecidableEq, Repr

/-! ### Host interface -/

/-- A submission queue (R330, R332); `buf` is its fetch buffer of up to 8 entries, oldest first (R26). -/
structure SubQ where
  d : QDesc
  tail : Nat
  head : Nat
  expect : Word64
  buf : List SubEntry
  deriving DecidableEq, Repr

structure CplQ where
  d : QDesc
  posted : Nat
  head : Nat
  lastIrq : Option Word64
  owed : Bool
  deriving DecidableEq, Repr

structure MsixE where
  addr : Word64
  data : Word32
  mask : Bool
  pend : Bool
  deriving DecidableEq, Repr

/-- A read in flight that uses a translation (R211): the ring and slot of the bobbin and its walk index, or a T1 frame's fill. -/
inductive AtsUse where
  | bob (tile ring slot k : Nat)
  | fill (frame : Nat)
  deriving DecidableEq, Repr

/-- An ATS invalidation that waits for the reads that used the translation (R211): PASID, page, reads. -/
structure Inval where
  pasid : Nat
  page : Nat
  uses : List AtsUse
  deriving DecidableEq, Repr

/-- A function (R325, R326, R329, R330). `atc` are its translations in the cache, `invals` the invalidations that wait, `aer` the
completion errors reported through AER (R210, R211). -/
structure Fn where
  aqs : QDesc
  aqc : QDesc
  aqen : Bool
  evbase : Word64
  evlsize : Nat
  even : Bool
  evIx : Nat
  evHead : Nat
  evSeq : Nat
  evLost : Nat
  w2base : Nat
  w2we : Bool
  ats : Bool
  pasid : Bool
  atc : List (Nat × Nat)
  invals : List Inval
  aer : List TransWhy
  msix : List MsixE
  sqs : List (Option SubQ)
  cqs : List (Option CplQ)
  deriving DecidableEq, Repr

/-- Journal record states (R347); RETIRED records are no longer listed. -/
inductive JState where
  | accepted | started | committed | posted
  deriving DecidableEq, Repr

/-- A journal record (R347): queue, entry, state, the completion entry once committed, completed ranges of
a copy with the bytes staged for the commit, and the completion slot once posted. -/
structure JRec where
  q : QId
  seq : Word64
  entry : SubEntry
  st : JState
  cq : Nat
  tacc : Word64
  tdone : Word64
  status : Nat
  detail : Nat
  ranges : List Range
  stage : Map Byte
  slot : Nat
  deriving DecidableEq, Repr

/-! ### Power, time, boot, sideband -/

/-- A sensor member's last samples and a pair's filters (R375). -/
structure Sensor where
  a : List Int
  b : List Int
  fast : Rat
  slow : Rat
  apart : Nat
  degraded : Bool
  hot : Nat
  deriving DecidableEq, Repr

/-- Power state (R365 to R376). Caps are gears 0 to 7 per tile group; `levelAt` and `capAt` are since when the level and the lowest cap
have stood (R385). -/
structure PowerU where
  level : Nat
  brakePin : Bool
  brakeTest : Option Word64
  brakeHeat : Bool
  brakeCur : Bool
  hotAt : Option Word64
  sensors : List Sensor
  caps : List Nat
  capCur : Nat
  capCool : Bool
  limCur : Bool
  limHeat : NSet
  capStep : Word64
  capRise : Word64
  kgrp : List Nat
  mv : Nat
  energy : Nat
  tests : Nat
  trip : Bool
  levelAt : Word64
  capAt : Word64
  deriving DecidableEq, Repr

/-- Timebase (R1, R382 to R384, R419) and the wait clock that a brake or a power level stops (R24). `holdAt`
is since when the module has been in holdover (R385), `locks` are the other members whose TB_SYNC_IN is known to be locked (R383). -/
structure TimeU where
  now : Word64
  wait : Word64
  outMs : Nat
  inGood : Nat
  inBad : Nat
  inLocked : Bool
  inMs : Nat
  slew : Int
  holdover : Bool
  stepped : Bool
  windows : Nat
  decays : Nat
  holdAt : Word64
  locks : NSet
  deriving DecidableEq, Repr

/-- Pins, I3C target and test port (R379 to R381, R412, R418 to R420). `inputOn` says that the input has crossed the turn-on threshold and
has not been lost since (R410, R411). -/
structure IoU where
  perst : Bool
  linkUp : Bool
  linkLost : Bool
  prsnt0 : Bool
  prsnt1 : Bool
  inputOn : Bool
  straps : Nat
  i3cAddr : Option Nat
  i3cIbi : Bool
  i3cIndex : Nat
  alerts : BitVec 16
  alertMask : BitVec 16
  shadow : List Byte
  alertPin : Bool
  wakePin : Bool
  tapUnlocked : Bool
  tapDr : List Bool
  contacts : List Bool
  rsp : List Byte
  deriving DecidableEq, Repr

/-- Error history record (R404) without its MAC, which `histBytes` computes. -/
structure Hist where
  seq : Nat
  cls : Nat
  repair : Bool
  kind : Nat
  count : Nat
  boot : Nat
  time : Word64
  unit : Nat
  detail : Word64
  deriving DecidableEq, Repr

/-- Boot log entry (R398). -/
structure BootE where
  step : Nat
  result : Nat
  time : Word64
  detail : Nat
  deriving DecidableEq, Repr

/-- Where the module stands between power-off and running firmware (R396, R411, R412). -/
inductive BPhase where
  | dark | distaff | held | rom | utora | fatal
  deriving DecidableEq, Repr

/-- What a device reset leaves of the commands that ran (R323, R349). -/
inductive Replay where
  | plain | hostLost | memoryLost
  deriving DecidableEq, Repr

/-- Boot, identity and firmware (R391 to R400). `resume` is the journal replay that waits for an image (R399 step 4); `jrnA` and
`jrnB` say that a record of a journal copy may be uncorrectable since the last replay (R347, R399). `secret` is the security block's
(R395), `certId` and `certSerial` the digest of the public key and the serial number in the identity certificate of the chain, `rows` the
corrected errors of SRAM rows since their last repair (R401). -/
structure BootU where
  phase : BPhase
  fw : Nat
  level : Nat
  svn : Nat
  devfaults : Nat
  mbState : Nat
  mbErr : Nat
  mbAddr : Word64
  mbLen : Nat
  held : Option ImageP
  image : Option ImageP
  meas : BitVec 512
  resvT2 : Bool
  restT2 : Bool
  cfgA : Option ConfigP
  cfgB : Option ConfigP
  useB : Bool
  chain : List Byte
  hist : List Hist
  histSeq : Nat
  boots : Nat
  log : List BootE
  core : List Nat
  beat : List Word64
  faults60 : List Word64
  repair : List (BitVec 64)
  tileSpare : List Nat
  resume : Option Replay
  jrnA : Bool
  jrnB : Bool
  secret : BitVec 256
  certId : BitVec 512
  certSerial : Word64
  rows : Map Nat
  deriving DecidableEq, Repr

/-! ### Fabric -/

/-- Port states (R289). -/
inductive PortSt where
  | disabled | training | hello | up | draining | down | quarantine | pendingEnable
  deriving DecidableEq, Repr

/-- A flit kept for replay (R284): sequence number, type, class, payload, and the chunk buffer that its acknowledgment releases. -/
structure TxFlit where
  seq : Nat
  hdr : Word64
  payload : List Byte
  buf : Option Nat
  deriving DecidableEq, Repr

/-- What waits or is being sent at a port for one class (R282): bytes not yet sent, whether the first flit has gone, whether more
are to come (R298: a message is forwarded as its flits arrive, from port `src`), the chunk buffer that it is read from. -/
structure TxItem where
  cls : Nat
  bytes : List Byte
  begun : Bool
  more : Bool
  src : Option Nat
  buf : Option Nat
  deriving DecidableEq, Repr

/-- A flit in a port's receive buffer (R282). -/
structure RxFlit where
  cls : Nat
  first : Bool
  last : Bool
  bytes : List Byte
  deriving DecidableEq, Repr

/-- A chunk buffer in use (R302): the port and class that still fill it, the chunk's bytes from its header on, whether it is
complete, whether it has been written here or needs not be, the ports on which it has still to be forwarded, and its transfer number
where it is a chunk of this module's Ply engine. -/
structure ChunkBuf where
  frm : Option (Nat × Nat)
  bytes : List Byte
  whole : Bool
  written : Bool
  due : List Nat
  own : Option Nat
  deriving DecidableEq, Repr

/-- Corrected bytes on a physical lane, and when (R287). -/
structure LaneFix where
  lane : Nat
  count : Nat
  time : Word64
  deriving DecidableEq, Repr

/-- A port (R279 to R290). `lmap` gives the physical lane of a logical one; `subst` says that a substitution runs;
`txSeq` numbers the next new flit, `txNext` is the next to send; `fails` counts the NAKs since an acknowledgment
made progress; `skip` says that flits are discarded up to a replay; `owed` are the credits not yet returned, `rot` is
the class whose turn it is; `tx` what waits to be sent, `rxq` the receive buffers of the four classes; `bref` the beacon ids
received and when, `bout` the id that the flit starting now reflects; `pid` the peer's identity, `nonce` and `pnonce` the nonces sent and
received; `sent`, `bsent` and `rtts` the beacons on their way, the number sent and the round trips measured; `rx` the class-0 and class-1
messages being received; `fixes` the corrected bytes by lane; `wire` the last flit sent, as the bytes of the nine lanes. -/
structure Port where
  st : PortSt
  cls : Nat
  out : Nat
  rtt : Nat
  peer : Nat
  pport : Nat
  pid : BitVec 512
  lit : NSet
  litAt : Word64
  fecsym : Nat
  replays : Nat
  lmap : List Nat
  subst : Bool
  txSeq : Nat
  txNext : Nat
  replay : List TxFlit
  fails : Nat
  rxSeq : Nat
  nak : Bool
  skip : Bool
  credit : List Nat
  owed : List Nat
  rot : Nat
  tx : List TxItem
  rxq : List RxFlit
  bref : List (Nat × Word64)
  bout : Nat
  sent : List (Nat × Word64)
  bsent : Nat
  rtts : List Nat
  nonce : BitVec 256
  pnonce : BitVec 256
  helloAt : Word64
  rx : List (Nat × List Byte)
  fixes : List LaneFix
  wire : List (List Byte)
  deriving DecidableEq, Repr

/-- What the module sends over the fabric, addressed to members (R298). -/
inductive FMsg where
  | turnBeacon (camp turn : Nat)
  | digest (camp : Nat) (d : BitVec 512)
  | stop (camp turn last : Nat)
  | stepBeacon (camp turn coll : Nat) (leaf : LeafP) (tokens : Nat)
  | closeList (camp turn : Nat) (c : CloseP) (bad : Nat)
  | manifest (camp turn step : Nat) (slot : List Byte) (evicts : List (Nat × Nat)) (drs : List Nat)
  | commit (camp turn step : Nat) (draws : List Draw) (drafts : List (Nat × List Nat)) (evicts : List (Nat × Nat))
  | peerFault (camp : Nat) (member : Nat) (lost : Option Nat)
  | join (id : BitVec 512)
  | proposal (epoch : Nat) (members : List (Nat × BitVec 512))
  | ack (epoch : Nat)
  | epochCommit (epoch : Nat) (members : List (Nat × BitVec 512)) (links : List Link)
  | heartbeat (links : List Link)
  | timing (t : Word64) (locked : NSet)
  | fetch (f : FetchP)
  | lost (l : LostP)
  | leave
  deriving DecidableEq, Repr

/-- A message that its receiver has not acknowledged (R298): the receiver, the sequence number among the messages to it, and
when it was last sent. -/
structure OutMsg where
  dest : Nat
  num : Nat
  at_ : Word64
  msg : FMsg
  deriving DecidableEq, Repr

/-- Group membership, routes, lasers, relay (R287 to R303). `former` lists the members of every epoch installed,
`leaves` the members to remove at the next one; `prop` is the epoch this module has proposed or acknowledged, and
`acks` the members that acknowledged its own proposal; `known` the identities whose chains are cached; `links` the links of
the group as the last commit gave them; `lasers` the failures of each laser unit; `seqs` the next sequence number for each receiver, `seen` the numbers received by sender;
`xfer` the next transfer number, `lostX` the transfers of which a chunk has been lost on its way, `chunks` the chunks of the Ply engine that wait for a buffer, `bufs` the chunk buffers in use; `joining`
says that a port has reached UP with a member while this module is in no epoch (R293, R294). -/
structure FabricU where
  ports : List Port
  group : Word64
  epoch : Nat
  member : Nat
  members : List (Nat × BitVec 512)
  leader : Nat
  isolated : Bool
  leaving : Bool
  hbAt : Word64
  heard : Map Word64
  leaderHeard : Word64
  prop : Option (Nat × List (Nat × BitVec 512))
  acks : NSet
  joins : List (BitVec 512)
  known : List (BitVec 512)
  links : List Link
  routes : List (Nat × Nat)
  bulk : List (Nat × List (Nat × Nat))
  lasers : List Nat
  out : List OutMsg
  seqs : Map Nat
  seen : List (Nat × Nat)
  xfer : Nat
  lostX : NSet
  chunks : List Chunk
  bufs : Map ChunkBuf
  joining : Bool
  former : List (Nat × BitVec 512)
  leaves : NSet
  deriving DecidableEq, Repr

/-! ### Records that cross the host boundary as structured data (log entry 2) -/

/-- A loaded program as a context image lists it (R359). -/
structure ImgProg where
  slot : Nat
  meas : BitVec 512
  shape : NShape
  groups : Nat
  deriving DecidableEq, Repr

/-- A context image (R359): sections 0 to 7, with the directory's lengths of sections 1 to 8 in 4 KiB units; section 8 is ignored by
restore. -/
structure CtxImage where
  format : Nat
  dir : List Nat
  level : Nat
  groups : Nat
  seed : BitVec 256
  quota : Quota
  flagmask : FlagWord
  entries : Nat
  handleQ : Nat
  regions : Map Region
  progs : List ImgProg
  reqs : Map Req
  reqSeq : Nat
  variants : Map VEnt
  handles : Map Handle
  drawers : Map Nat
  tregs : List (List Byte)
  diag : List FaultRec
  deriving DecidableEq, Repr

/-- What the ROM finds at a cold boot (R396 steps 1 to 4, R404): cores that pass their self-test, whether each
record copy verifies, and the history records whose MAC fails, by HR.SEQ. -/
structure RomP where
  cores : List Bool
  aOk : Bool
  bOk : Bool
  badMacs : List Nat
  deriving DecidableEq, Repr

/-- How a host transfer ends (R335, R337): whole, the module's reads for it having met no error or some (R208), or failed. -/
inductive XferEnd where
  | ok | failed
  | okErrs (e : ReadErrs)
  deriving DecidableEq, Repr

/-- The errors that the reads of a host transfer meet. -/
def XferEnd.errs : XferEnd → ReadErrs
  | .okErrs e => e
  | _ => ReadErrs.none

/-- Whose range a host transfer finishes: a copy command's, a checkpoint entry's (R352), a replay log's (R216), a turn record's
(R337, R354), or the host copy's of a destination piece (R304). -/
inductive XferOf where
  | copy (q : QId)
  | ckpt (part : Fin 32) (entry : Nat)
  | log (part : Fin 32)
  | record (part : Fin 32)
  | hostCopy (part : Fin 32) (pair piece : Nat)
  deriving DecidableEq, Repr

/-- A context image that PART_SAVE has written to a host buffer, with the I/O address space. -/
structure SavedImg where
  space : Nat
  haddr : Word64
  img : CtxImage
  deriving DecidableEq, Repr

end Sys2Proof.Machine
end

