-- ==== Sys2Proof/Syntax.lean ====
section
/-! DEFINITION. The commands and events of the D7: one constructor for each row of spec/opcode_table.json,
in the table's order, with the row's operands. A host command names the submission queue whose command it
is and its parameters; an event names the unit it happens at and what the manual leaves to that moment
(log entries 1 and 2). -/

namespace Sys2Proof

open Sys2Proof.Machine

/-- A command or event of the module, one constructor per row of the operation table. -/
inductive Instr where
  /-- PART_CREATE (R339). -/
  | partCreate (q : QId) (p : PartCreateP)
  /-- PART_DESTROY (R340). -/
  | partDestroy (q : QId)
  /-- PART_START (R340). -/
  | partStart (q : QId)
  /-- PART_STOP (R343). -/
  | partStop (q : QId)
  /-- PART_QUOTA (R206). -/
  | partQuota (q : QId) (p : Quota)
  /-- PART_SEED (R147). -/
  | partSeed (q : QId) (seed : BitVec 256)
  /-- PART_FLAGMASK (R138). -/
  | partFlagmask (q : QId) (m : FlagWord)
  /-- PART_SERVE (R244). -/
  | partServe (q : QId) (entries handles : Nat)
  /-- GROUP_ADD (R342). -/
  | groupAdd (q : QId) (gs : List Nat)
  /-- GROUP_REMOVE (R342). -/
  | groupRemove (q : QId) (gs : List Nat)
  /-- PART_RECOVER (R344). -/
  | partRecover (q : QId)
  /-- PART_SAVE (R358). -/
  | partSave (q : QId) (b : Buf)
  /-- PART_RESTORE (R360). -/
  | partRestore (q : QId) (b : Buf) (img : CtxImage) (ids pages : List Nat)
  /-- QUEUE_CREATE (R330). -/
  | queueCreate (q : QId) (d : QDesc)
  /-- QUEUE_DELETE (R330). -/
  | queueDelete (q : QId) (num : Nat) (isCQ : Bool)
  /-- REGION_CREATE (R190). -/
  | regionCreate (q : QId) (p : RegionP) (id : Nat) (pages : List Nat)
  /-- REGION_FREE (R213). -/
  | regionFree (q : QId) (r : Nat)
  /-- REGION_STAGE (R192). -/
  | regionStage (q : QId) (r epoch : Nat) (haddr : Word64) (pages : List Nat)
  /-- REGION_PUBLISH (R194). -/
  | regionPublish (q : QId) (rs : List Nat)
  /-- REGION_ABANDON (R192). -/
  | regionAbandon (q : QId) (r : Nat)
  /-- COPY_IN (R336). -/
  | copyIn (q : QId) (p : CopyP)
  /-- COPY_OUT (R336). -/
  | copyOut (q : QId) (p : CopyP)
  /-- REGION_FILL (R336). -/
  | regionFill (q : QId) (p : FillP)
  /-- PROG_LOAD (R15). -/
  | progLoad (q : QId) (p : LoadP) (sec : ProgSections)
  /-- PROG_UNLOAD (R336). -/
  | progUnload (q : QId) (slot : Nat)
  /-- CAMPAIGN_START (R353). -/
  | campaignStart (q : QId) (c : CampaignP)
  /-- CAMPAIGN_STOP (R355). -/
  | campaignStop (q : QId)
  /-- REQ_ADMIT (R357). -/
  | reqAdmit (q : QId) (p : AdmitP) (e : Nat) (drs : List Nat)
  /-- REQ_CANCEL (R275). -/
  | reqCancel (q : QId) (e : Nat)
  /-- REQ_RELEASE (R249). -/
  | reqRelease (q : QId) (e : Nat)
  /-- PREFIX_CREATE (R261). -/
  | prefixCreate (q : QId) (e len h : Nat) (drs : List Nat)
  /-- PREFIX_RELEASE (R264). -/
  | prefixRelease (q : QId) (h : Nat)
  /-- VARIANT_SET (R268). -/
  | variantSet (q : QId) (ver : Nat) (p : VSetP)
  /-- VARIANT_CLEAR (R268). -/
  | variantClear (q : QId) (v : Nat)
  /-- ADMIT_CLOSE (R243). -/
  | admitClose (q : QId)
  /-- GROUP_ID (R293). -/
  | groupId (q : QId) (g : Word64)
  /-- GROUP_FOUND (R293). -/
  | groupFound (q : QId)
  /-- GROUP_LEAVE (R295). -/
  | groupLeave (q : QId)
  /-- PORT_ENABLE (R289). -/
  | portEnable (q : QId) (p : Nat)
  /-- PORT_DISABLE (R289). -/
  | portDisable (q : QId) (p : Nat)
  /-- PORT_HELLO (R289). -/
  | portHello (q : QId) (p : Nat) (nonce : BitVec 256)
  /-- POWER_LEVEL (R366). -/
  | powerLevel (q : QId) (l : Nat)
  /-- GEAR_LIMIT (R368). -/
  | gearLimit (q : QId) (part : Fin 32) (g : Nat)
  /-- ENERGY_BUDGET (R367). -/
  | energyBudget (q : QId) (part : Fin 32) (w : Nat)
  /-- BRAKE_TEST (R374). -/
  | brakeTest (q : QId) (us : Nat)
  /-- SNAPSHOT_AT (R386). -/
  | snapshotAt (q : QId) (t : Word64) (mask : BitVec 16) (id : Nat)
  /-- SNAPSHOT_MARK (R387). -/
  | snapshotMark (q : QId) (n : BitVec 32) (mask : BitVec 16) (id : Nat)
  /-- COUNTER_READ (R388). -/
  | counterRead (q : QId) (sel : CtrSel) (b : Buf)
  /-- RECORD_READ (R423). -/
  | recordRead (q : QId) (sel : RecSel) (b : Buf)
  /-- FAULT_LOG_READ (R45). -/
  | faultLogRead (q : QId) (first count : Nat) (b : Buf)
  /-- HISTORY_READ (R404). -/
  | historyRead (q : QId) (b : Buf)
  /-- ATTEST (R405). -/
  | attest (q : QId) (nonce : BitVec 512) (part : Fin 32) (b : Buf)
  /-- MEASURE_READ (R405). -/
  | measureRead (q : QId) (part : Fin 32) (b : Buf)
  /-- CERT_READ (R405). -/
  | certRead (q : QId) (b : Buf)
  /-- CONFIG_UPDATE (R406). -/
  | configUpdate (q : QId) (c : ConfigP)
  /-- UNDEFINED_COMMAND (R336). -/
  | undefinedCommand (q : QId) (opc : Nat)
  /-- SQ_TAIL_DOORBELL (R326). -/
  | sqTailDoorbell (fn : Fin 32) (n : Fin 8) (ix : Nat) (w32 : Bool)
  /-- SUBMISSION_FETCH (R332). -/
  | submissionFetch (q : QId) (e : SubEntry) (t : Word64)
  /-- CQ_HEAD_DOORBELL (R326). -/
  | cqHeadDoorbell (fn : Fin 32) (n : Fin 8) (ix : Nat) (w32 : Bool)
  /-- EVENT_HEAD_DOORBELL (R326). -/
  | eventHeadDoorbell (fn : Fin 32) (ix : Nat) (w32 : Bool)
  /-- COMPLETION_POST (R350). -/
  | completionPost (fn : Fin 32) (n : Fin 8) (t : Word64)
  /-- ADMIN_QUEUE_ENABLE (R325). -/
  | adminQueueEnable (fn : Fin 32) (v : Bool)
  /-- LOAD_IMAGE (R396). -/
  | loadImage (img : ImageP) (t : Word64)
  /-- READ_BOOTLOG (R398). -/
  | readBootlog
  /-- BAR2_READ (R328). -/
  | bar2Read (x : Nat) (n : BarLen)
  /-- BAR2_WRITE (R328). -/
  | bar2Write (x : Nat) (data : List Byte)
  /-- REGISTER_WRITE (R325). -/
  | registerWrite (fn : Fin 32) (f : RegField)
  /-- FUNCTION_LEVEL_RESET (R345). -/
  | functionLevelReset (fn : Fin 32) (t : Word64)
  /-- ATS_INVALIDATION (R211). -/
  | atsInvalidation (fn : Fin 32) (pasid page : Nat)
  /-- I3C_INDEX_WRITE (R379). -/
  | i3cIndexWrite (b : Byte)
  /-- I3C_READ (R381). -/
  | i3cRead (n : Nat)
  /-- ALERT_FLAG_CLEAR (R380). -/
  | alertFlagClear (v : BitVec 16)
  /-- I3C_ENTDAA (R379). -/
  | i3cEntdaa (addr : BitVec 7)
  /-- I3C_SETDASA (R379). -/
  | i3cSetdasa (addr : BitVec 7)
  /-- I3C_RSTDAA (R379). -/
  | i3cRstdaa
  /-- I3C_GETPID (R379). -/
  | i3cGetpid
  /-- I3C_GETBCR (R379). -/
  | i3cGetbcr
  /-- I3C_GETDCR (R379). -/
  | i3cGetdcr
  /-- I3C_GETSTATUS (R379). -/
  | i3cGetstatus
  /-- I3C_GETMWL (R379). -/
  | i3cGetmwl
  /-- I3C_GETMRL (R379). -/
  | i3cGetmrl
  /-- I3C_ENEC (R379). -/
  | i3cEnec
  /-- I3C_DISEC (R379). -/
  | i3cDisec
  /-- TAP_IDCODE (R420). -/
  | tapIdcode
  /-- TAP_BYPASS (R420). -/
  | tapBypass (bits : List Bool)
  /-- TAP_SAMPLE_PRELOAD (R420). -/
  | tapSamplePreload (bits : List Bool)
  /-- TAP_EXTEST (R420). -/
  | tapExtest (bits : List Bool)
  /-- TAP_DEBUG_UNLOCK (R420). -/
  | tapDebugUnlock (ok : Bool) (t : Word64)
  /-- TAP_PRIVATE_DEBUG (R420). -/
  | tapPrivateDebug (code : Nat)
  /-- HEARTBEAT_WRITE (R377). -/
  | heartbeatWrite (core : Fin 3) (t : Word64)
  /-- POWER_INPUT_RISE (R412). -/
  | powerInputRise (mv : Nat) (straps : Nat) (t : Word64)
  /-- POWER_LOSS (R411). -/
  | powerLoss (d : Dip) (t : Word64)
  /-- DISTAFF_RAIL_LOSS (R411). -/
  | distaffRailLoss (mv : Nat) (t : Word64)
  /-- PRESENCE_OPEN (R422). -/
  | presenceOpen (second : Bool) (t : Word64)
  /-- PERST_ASSERT (R412). -/
  | perstAssert (ns : Nat) (t : Word64)
  /-- PERST_RELEASE (R396). -/
  | perstRelease (p : RomP) (t : Word64)
  /-- T2_INIT_COMPLETE (R396). -/
  | t2InitComplete (e : InitAt)
  /-- PCIE_LINK_DOWN (R323). -/
  | pcieLinkDown (d : LinkDrop)
  /-- PCIE_LINK_UP (R323). -/
  | pcieLinkUp (t : Word64)
  /-- PWRBRK_ASSERT (R373). -/
  | pwrbrkAssert (ns : Nat) (t : Word64)
  /-- PWRBRK_RELEASE (R373). -/
  | pwrbrkRelease (t : Word64)
  /-- BRAKE_TEST_END (R374). -/
  | brakeTestEnd (t : Word64)
  /-- TB_SYNC_IN_PULSE (R384). -/
  | tbSyncInPulse (t : Word64)
  /-- TB_SYNC_OUT_PULSE (R384). -/
  | tbSyncOutPulse (t : Word64)
  /-- TIMING_BEACON_EXCHANGE (R383). -/
  | timingBeaconExchange (port : Fin 12) (t1 t2 t3 t4 : Word64) (x : TimingAt)
  /-- SENSOR_SAMPLE (R375). -/
  | sensorSample (xs : List PairSample) (mv : Nat) (t : Word64)
  /-- GEAR_CAP_STEP (R376). -/
  | gearCapStep (t : Word64)
  /-- THERMAL_TRIP (R376). -/
  | thermalTrip (t : Word64)
  /-- WATCHDOG_EXPIRY (R377). -/
  | watchdogExpiry (core : Fin 3) (t : Word64)
  /-- DEVICE_FAULT (R403). -/
  | deviceFault (c : DevCause) (t : Word64)
  /-- TILE_FAILURE_PREDICTION (R402). -/
  | tileFailurePrediction (tile : Fin 192) (e : SramAt)
  /-- STORE_BANK_SPARE (R401). -/
  | storeBankSpare (die : Fin 2) (bank : Nat) (t : Word64)
  /-- PACKAGE_PREDICTION (R209). -/
  | packagePrediction (pkg : Fin 25) (rule : Nat) (t : Word64)
  /-- MIGRATION_COPY_DONE (R209). -/
  | migrationCopyDone (t : Word64)
  /-- SCRUB_PASS (R208). -/
  | scrubPass (x : Scrubbed) (t : Word64)
  /-- LI (R19). -/
  | li (a : TileAt) (w : SqW)
  /-- LIH (R19). -/
  | lih (a : TileAt) (w : SqW)
  /-- ADD (R19). -/
  | add (a : TileAt) (w : SqW)
  /-- SUB (R19). -/
  | sub (a : TileAt) (w : SqW)
  /-- MUL (R19). -/
  | mul (a : TileAt) (w : SqW)
  /-- AND (R19). -/
  | and (a : TileAt) (w : SqW)
  /-- OR (R19). -/
  | or (a : TileAt) (w : SqW)
  /-- XOR (R19). -/
  | xor (a : TileAt) (w : SqW)
  /-- SHL (R19). -/
  | shl (a : TileAt) (w : SqW)
  /-- SHR (R19). -/
  | shr (a : TileAt) (w : SqW)
  /-- LOOP (R20). -/
  | loop (a : TileAt) (w : SqW)
  /-- QCNT (R28). -/
  | qcnt (a : TileAt) (w : SqW)
  /-- TBASE (R19). -/
  | tbase (a : TileAt) (w : SqW)
  /-- TILEID (R19). -/
  | tileid (a : TileAt) (w : SqW)
  /-- RESERVED_OPCODE_WORD (R17). -/
  | reservedOpcodeWord (a : TileAt) (raw : Word64)
  /-- SIGNAL (R22). -/
  | signal (a : TileAt) (w : SyncW)
  /-- SIGNAL_ARRIVAL (R23). -/
  | signalArrival (a : TileAt) (n : Nat)
  /-- WAIT (R22). -/
  | wait (a : TileAt) (w : SyncW)
  /-- WAIT_SATISFIED (R22). -/
  | waitSatisfied (a : TileAt) (q : Fin 4)
  /-- WAIT_TIMEOUT (R24). -/
  | waitTimeout (a : TileAt) (q : Fin 4)
  /-- TAKE (R24). -/
  | take (a : TileAt) (w : SyncW)
  /-- MARK (R387). -/
  | mark (a : TileAt) (w : SyncW)
  /-- SEGEND (R37). -/
  | segend (a : TileAt) (w : SyncW)
  /-- SEGMENT_COMMIT (R36). -/
  | segmentCommit (part : Fin 32) (seg step : Nat) (t : Word64)
  /-- ENERGY_WINDOW_START (R369). -/
  | energyWindowStart (t : Word64)
  /-- MXSETA (R75). -/
  | mxseta (a : TileAt) (w : MxSlotW)
  /-- MXSETB (R75). -/
  | mxsetb (a : TileAt) (w : MxSlotW)
  /-- MXSETD (R75). -/
  | mxsetd (a : TileAt) (w : MxSlotW)
  /-- MXSETS (R77). -/
  | mxsets (a : TileAt) (w : MxScaleW)
  /-- MXORG (R78). -/
  | mxorg (a : TileAt) (w : MxOrgW)
  /-- MXMUL (R61). -/
  | mxmul (a : TileAt) (w : MxMulW)
  /-- MXDELTA (R67). -/
  | mxdelta (a : TileAt) (w : MxDeltaW)
  /-- MXFIN (R73). -/
  | mxfin (a : TileAt) (w : MxFinW)
  /-- EWHEAD (R119). -/
  | ewhead (a : TileAt) (w : EwHeadW)
  /-- EWORG (R120). -/
  | eworg (a : TileAt) (w : EwOrgW)
  /-- EWSRC (R121). -/
  | ewsrc (a : TileAt) (w : EwSrcW)
  /-- EWOP (R123). -/
  | ewop (a : TileAt) (w : EwOpW)
  /-- EWDST (R131). -/
  | ewdst (a : TileAt) (w : EwDstW)
  /-- CHAIN_START (R118). -/
  | chainStart (a : TileAt)
  /-- CHAIN_COMPLETE (R138). -/
  | chainComplete (a : TileAt)
  /-- EWFLAG (R139). -/
  | ewflag (a : TileAt) (w : EwFlagW)
  /-- EWSAMP (R141). -/
  | ewsamp (a : TileAt) (w : EwSampW)
  /-- SAMPLE_PART_ACCEPT (R143). -/
  | samplePartAccept (a : TileAt)
  /-- SAMPLE_DRAW (R163). -/
  | sampleDraw (die : Fin 2) (n : Nat)
  /-- RARM (R172). -/
  | rarm (a : TileAt) (w : RingW)
  /-- REARM (R181). -/
  | rearm (a : TileAt) (w : RingW)
  /-- RSEND (R178). -/
  | rsend (a : TileAt) (w : RingW)
  /-- RCLOSE (R182). -/
  | rclose (a : TileAt) (w : RingW)
  /-- FAN_START (R177). -/
  | fanStart (r : RingAt)
  /-- FETCH_ISSUE (R173). -/
  | fetchIssue (r : RingAt)
  /-- FETCH_LAND (R166). -/
  | fetchLand (r : RingAt) (slot : Fin 16) (how : LandP) (data : List Byte)
  /-- SEND_VISIBLE (R178). -/
  | sendVisible (r : RingAt) (slot : Fin 16)
  /-- T1_FILL_LAND (R198). -/
  | t1FillLand (x : FillLand)
  /-- FRAME_RELEASE (R198). -/
  | frameRelease (frame : Nat)
  /-- HEAT_DECAY (R196). -/
  | heatDecay (t : Word64)
  /-- FAULT_RECORD_COMPLETE (R46). -/
  | faultRecordComplete (part : Fin 32) (t : Word64)
  /-- PEER_FAULT_RECEIVE (R344). -/
  | peerFaultReceive (part : Fin 32) (m : PeerMsg) (t : Word64)
  /-- STARTING_COMPLETE (R148). -/
  | startingComplete (part : Fin 32) (t : Word64)
  /-- STOP_COMPLETE (R343). -/
  | stopComplete (part : Fin 32) (t : Word64)
  /-- GROUP_DRAIN_COMPLETE (R342). -/
  | groupDrainComplete (g : Fin 24) (t : Word64)
  /-- TURN_END_TIME (R8). -/
  | turnEndTime (part : Fin 32) (t : Word64)
  /-- TURN_END_BEACON_ARRIVAL (R7). -/
  | turnEndBeaconArrival (part : Fin 32) (m : MsgAt) (turn : Nat) (t : Word64)
  /-- CHUNK_RECEIVE (R301). -/
  | chunkReceive (x : Inbound) (t : Word64)
  /-- SWITCH_PUBLISH (R305). -/
  | switchPublish (part : Fin 32) (e : PublishAt)
  /-- CAMPAIGN_DIGEST_RECEIVE (R353). -/
  | campaignDigestReceive (part : Fin 32) (m : MsgAt) (d : BitVec 512) (t : Word64)
  /-- RENDEZVOUS_TIMEOUT (R353). -/
  | rendezvousTimeout (part : Fin 32) (t : Word64)
  /-- CAMPAIGN_STOP_RECEIVE (R355). -/
  | campaignStopReceive (part : Fin 32) (e : StopAt)
  /-- STEP_BEACON_ARRIVAL (R229). -/
  | stepBeaconArrival (part : Fin 32) (m : MsgAt) (coll : Nat) (leaf : LeafP) (tokens : Nat) (t : Word64)
  /-- SETTLE_DEADLINE (R230). -/
  | settleDeadline (part : Fin 32) (t : Word64)
  /-- SETTLE_TIMEOUT (R235). -/
  | settleTimeout (part : Fin 32) (e : MissAt)
  /-- CLOSE_LIST_RECEIVE (R312). -/
  | closeListReceive (part : Fin 32) (c : CloseMsg) (t : Word64)
  /-- COLLECTIVE_CHUNK_RECEIVE (R313). -/
  | collectiveChunkReceive (buf : Fin 48) (t : Word64)
  /-- FABRIC_TIMEOUT (R320). -/
  | fabricTimeout (part : Fin 32) (id : Nat) (pair : Bool) (t : Word64)
  /-- LIST_ADMISSION (R243). -/
  | listAdmission (part : Fin 32) (p : AdmitP) (e : Nat) (drs : List Nat) (t : Word64)
  /-- STEP_COMPOSE (R254). -/
  | stepCompose (part : Fin 32) (e : ComposeIn) (toks : List (Nat × List Nat)) (bad : List Nat) (t : Word64)
  /-- MANIFEST_RECEIVE (R253). -/
  | manifestReceive (part : Fin 32) (w : MsgNum) (slot : List Byte) (e : ManifestReqs) (evicts : List (Nat × Nat)) (t : Word64)
  /-- ROLLOUT_COMMIT (R258). -/
  | rolloutCommit (part : Fin 32) (step : Nat) (t : Word64)
  /-- COMMIT_RECORD_RECEIVE (R253). -/
  | commitRecordReceive (part : Fin 32) (w : MsgNum) (draws : List Draw) (drafts : List (Nat × List Nat))
    (evicts : List (Nat × Nat)) (t : Word64)
  /-- FLIT_TRANSMIT (R282). -/
  | flitTransmit (port : Fin 12) (beacon : Bool) (bid : Nat) (t : Word64)
  /-- FLIT_RECEIVE (R284). -/
  | flitReceive (port : Fin 12) (f : Flit) (t : Word64)
  /-- BEACON_REFLECT (R285). -/
  | beaconReflect (port : Fin 12) (t : Word64)
  /-- LANE_SUBSTITUTION (R287). -/
  | laneSubstitution (port : Fin 12) (lane : Fin 9) (t : Word64)
  /-- LIGHT_LOSS (R289). -/
  | lightLoss (port : Fin 12) (l : LightOf) (t : Word64)
  /-- LASER_FAILURE (R288). -/
  | laserFailure (unit : Fin 4) (t : Word64)
  /-- PORT_RETRAIN (R289). -/
  | portRetrain (port : Fin 12) (e : LitAt)
  /-- TRAINING_COMPLETE (R289). -/
  | trainingComplete (port : Fin 12) (e : Trained) (nonce : BitVec 256) (t : Word64)
  /-- HELLO_RECEIVE (R291). -/
  | helloReceive (port : Fin 12) (h : HelloP) (t : Word64)
  /-- QUARANTINE_REHELLO (R289). -/
  | quarantineRehello (port : Fin 12) (nonce : BitVec 256) (t : Word64)
  /-- PORT_DRAINED (R289). -/
  | portDrained (port : Fin 12) (t : Word64)
  /-- JOIN_REQUEST (R293). -/
  | joinRequest (j : JoinMsg) (t : Word64)
  /-- EPOCH_PROPOSAL_RECEIVE (R294). -/
  | epochProposalReceive (m : MsgAt) (epoch : Nat) (members : List (Nat × BitVec 512)) (t : Word64)
  /-- EPOCH_ACK_RECEIVE (R294). -/
  | epochAckReceive (m : MsgAt) (epoch : Nat) (t : Word64)
  /-- EPOCH_COMMIT_RECEIVE (R294). -/
  | epochCommitReceive (w : MsgNum) (members : List (Nat × BitVec 512)) (links : List Link) (t : Word64)
  /-- HEARTBEAT_SEND (R295). -/
  | heartbeatSend (t : Word64)
  /-- HEARTBEAT_RECEIVE (R295). -/
  | heartbeatReceive (m : BeatAt) (t : Word64)
  /-- MEMBER_SILENT (R295). -/
  | memberSilent (g : Gone) (t : Word64)
  /-- LEADER_LOSS (R294). -/
  | leaderLoss (reach : List Nat) (t : Word64)
  /-- ISOLATION (R294). -/
  | isolation (reach : List Nat) (e : CutAt)
  /-- MESSAGE_RESEND (R298). -/
  | messageResend (x : Resend) (t : Word64)
  /-- SNAPSHOT_LATCH (R386). -/
  | snapshotLatch (part : Fin 32) (id : Nat) (t : Word64)
  /-- MULTIPLY_WORD_COMPLETE (R82). -/
  | multiplyWordComplete (a : TileAt)
  /-- HOST_TRANSFER_COMPLETE (R335). -/
  | hostTransferComplete (x : XferOf) (off : Nat) (data : List Byte) (e : XferEnd) (t : Word64)
  /-- INTERRUPT_INTERVAL_EXPIRY (R330). -/
  | interruptIntervalExpiry (fn : Fin 32) (n : Fin 8) (t : Word64)
  /-- LANE_SUBSTITUTION_COMPLETE (R287). -/
  | laneSubstitutionComplete (port : Fin 12) (t : Word64)
  /-- REGIONS_SCRUBBED (R340). -/
  | regionsScrubbed (part : Fin 32) (t : Word64)
  /-- RESERVED_T2_INITIALISED (R396). -/
  | reservedT2Initialised (e : InitAt)
  deriving DecidableEq, Repr

end Sys2Proof
end

