-- ==== Sys2Proof/WellFormed.lean ====
section
/-! DEFINITION. Well-formedness: the field values that the manual admits in a command word (R20, R21, R77,
R79, R93, R126), and in the operands of a row that carries one. -/

namespace Sys2Proof

open Sys2Proof.Machine

/-- Well-formedness of a command or event: the words it carries, and the list lengths of its operands. -/
def WellFormed : Instr → Bool
  | .signal _ w => wordOk (.signal w)
  | .wait _ w => wordOk (.wait w)
  | .take _ w => wordOk (.take w)
  | .mxsets _ w => wordOk (.mxsets w)
  | .mxmul _ w => wordOk (.mxmul w)
  | .ewop _ w => wordOk (.ewop w)
  | .ewdst _ w => wordOk (.ewdst w)
  | .rsend _ w => wordOk (.rsend w)
  | .rclose _ w => wordOk (.rclose w)
  | .sensorSample xs _ _ => decide (xs.length = 64)
  | .flitTransmit _ _ bid _ => decide (bid < 16)
  | .flitReceive _ f _ => decide (f.lanes.length = 9) && f.lanes.all (fun l => decide (l.length = 32)) && decide (f.fixed.length = 256)
  | _ => true

end Sys2Proof
end

