-- ==== Sys2Proof/Decode.lean ====
section
/-! DEFINITION. Decoding. The operation table gives no row any bits, so no table word spells a command. The
64-bit command words of a tile's list (R17) do have an encoding: their decoder and encoder stand here. -/

namespace Sys2Proof

open Sys2Proof.Machine

/-- The command a table word spells: none, since no row of the table has bits. -/
def decodeTableWord (_nbits _w : Nat) : Option Instr := none

/-- Opcode of a command word, bits [63:56] (R17). -/
def opcOf (w : Word64) : Nat := (w.extractLsb' 56 8).toNat

/-- The queue that owns a word: its engine, or the queue that SYNC.Q names (R17, R21). Reserved opcodes
outside the engines' ranges are the sequencer's. -/
def queueOf (w : Word64) : Nat :=
  let o := opcOf w
  if 0x20 ≤ o ∧ o ≤ 0x2F then (w.extractLsb' 54 2).toNat
  else if 0x40 ≤ o ∧ o ≤ 0x7F then 1
  else if 0x80 ≤ o ∧ o ≤ 0xBF then 2
  else if 0xC0 ≤ o ∧ o ≤ 0xEF then 3
  else 0

def bitAt (w : Word64) (n : Nat) : Bool := w.getLsbD n

/-- A value where the reserved field is zero. -/
def ifZero {n : Nat} (r : BitVec n) (x : TWord) : TWord := if r = 0 then x else .illegal

/-- Well-formed words keep their meaning; the others raise ILLEGAL_COMMAND. -/
def ifWf (x : TWord) : TWord := if wordOk x then x else .illegal

def sqOf (w : Word64) : SqW := ⟨w.extractLsb' 50 6, w.extractLsb' 44 6, w.extractLsb' 38 6, w.extractLsb' 0 32⟩
def syncOf (w : Word64) : SyncW := ⟨w.extractLsb' 54 2, w.extractLsb' 48 6, w.extractLsb' 40 8, w.extractLsb' 0 32⟩
def mxSlotOf (w : Word64) : MxSlotW :=
  ⟨w.extractLsb' 52 4, bitAt w 51, bitAt w 50, w.extractLsb' 46 4, bitAt w 45, bitAt w 44,
   w.extractLsb' 42 2, w.extractLsb' 25 17, w.extractLsb' 10 15⟩
def mxScaleOf (w : Word64) : MxScaleW := ⟨w.extractLsb' 54 2, w.extractLsb' 35 19, w.extractLsb' 25 10⟩
def mxOrgOf (w : Word64) : MxOrgW := ⟨w.extractLsb' 52 4, w.extractLsb' 32 20, w.extractLsb' 12 20, w.extractLsb' 4 8⟩
def mxMulOf (w : Word64) : MxMulW :=
  ⟨w.extractLsb' 52 4, bitAt w 51, bitAt w 50, w.extractLsb' 41 9, w.extractLsb' 25 16, w.extractLsb' 22 3,
   w.extractLsb' 20 2⟩
def mxDeltaOf (w : Word64) : MxDeltaW := ⟨w.extractLsb' 52 4, bitAt w 50, w.extractLsb' 25 16, w.extractLsb' 22 3⟩
def mxFinOf (w : Word64) : MxFinW := ⟨w.extractLsb' 52 4, w.extractLsb' 32 16⟩
def ewHeadOf (w : Word64) : EwHeadW :=
  ⟨w.extractLsb' 53 3, w.extractLsb' 50 3, w.extractLsb' 48 2, bitAt w 47, bitAt w 46, w.extractLsb' 44 2,
   w.extractLsb' 41 3, w.extractLsb' 38 3, bitAt w 37, w.extractLsb' 34 3, bitAt w 33, w.extractLsb' 27 6,
   w.extractLsb' 21 6⟩
def ewOrgOf (w : Word64) : EwOrgW :=
  ⟨w.extractLsb' 36 20, w.extractLsb' 16 20, w.extractLsb' 8 8, w.extractLsb' 2 6⟩
def ewSrcOf (w : Word64) : EwSrcW :=
  ⟨w.extractLsb' 53 3, w.extractLsb' 49 4, bitAt w 48, bitAt w 47, w.extractLsb' 45 2, bitAt w 44,
   w.extractLsb' 40 4, bitAt w 39, bitAt w 38, w.extractLsb' 21 17, bitAt w 20, w.extractLsb' 14 6,
   w.extractLsb' 12 2⟩
def ewOpOf (w : Word64) : EwOpW :=
  ⟨w.extractLsb' 50 6, w.extractLsb' 45 5, w.extractLsb' 40 5, w.extractLsb' 35 5, w.extractLsb' 32 3,
   bitAt w 31, bitAt w 30, w.extractLsb' 28 2, bitAt w 27, w.extractLsb' 24 3, bitAt w 23, w.extractLsb' 17 6,
   w.extractLsb' 13 4⟩
def ewDstOf (w : Word64) : EwDstW :=
  ⟨w.extractLsb' 53 3, w.extractLsb' 49 4, bitAt w 48, w.extractLsb' 42 6, w.extractLsb' 38 4,
   w.extractLsb' 35 3, bitAt w 34, w.extractLsb' 32 2, w.extractLsb' 30 2, bitAt w 29, w.extractLsb' 26 3,
   bitAt w 25, w.extractLsb' 17 8, w.extractLsb' 0 17⟩
def ewFlagOf (w : Word64) : EwFlagW := ⟨bitAt w 55, w.extractLsb' 38 17⟩
def ewSampOf (w : Word64) : EwSampW := ⟨w.extractLsb' 39 17⟩
def ringOf (w : Word64) : RingW := ⟨w.extractLsb' 52 4, bitAt w 51, w.extractLsb' 34 17⟩

/-- The word a 64-bit pattern spells (R17, R19, R21, R74 to R81, R118 to R123, R131, R139, R141, R183). -/
def decodeWord (w : Word64) : TWord :=
  let sq (f : SqW → TWord) : TWord := ifZero (w.extractLsb' 32 6) (f (sqOf w))
  let sy (f : SyncW → TWord) : TWord := ifZero (w.extractLsb' 32 8) (ifWf (f (syncOf w)))
  let rw (f : RingW → TWord) : TWord := ifZero (w.extractLsb' 0 34) (ifWf (f (ringOf w)))
  match opcOf w with
  | 0x01 => sq .li
  | 0x02 => sq .lih
  | 0x03 => sq .add
  | 0x04 => sq .sub
  | 0x05 => sq .mul
  | 0x06 => sq .and
  | 0x07 => sq .or
  | 0x08 => sq .xor
  | 0x09 => sq .shl
  | 0x0A => sq .shr
  | 0x0B => sq .loop
  | 0x0C => sq .qcnt
  | 0x0D => sq .tbase
  | 0x0E => sq .tileid
  | 0x21 => sy .signal
  | 0x22 => sy .wait
  | 0x23 => sy .take
  | 0x2E => sy .mark
  | 0x2F => sy .segend
  | 0x40 => ifZero (w.extractLsb' 0 10) (.mxseta (mxSlotOf w))
  | 0x41 => ifZero (w.extractLsb' 0 10) (.mxsetb (mxSlotOf w))
  | 0x42 => ifZero (w.extractLsb' 0 10) (.mxsetd (mxSlotOf w))
  | 0x43 => ifZero (w.extractLsb' 0 25) (ifWf (.mxsets (mxScaleOf w)))
  | 0x44 => ifZero (w.extractLsb' 0 4) (.mxorg (mxOrgOf w))
  | 0x48 => ifZero (w.extractLsb' 0 20) (ifWf (.mxmul (mxMulOf w)))
  | 0x49 => ifZero (w.extractLsb' 51 1 ++ w.extractLsb' 41 9 ++ w.extractLsb' 0 22) (.mxdelta (mxDeltaOf w))
  | 0x4C => ifZero (w.extractLsb' 48 4 ++ w.extractLsb' 0 32) (.mxfin (mxFinOf w))
  | 0x80 => ifZero (w.extractLsb' 0 21) (.ewhead (ewHeadOf w))
  | 0x81 => ifZero (w.extractLsb' 0 12) (.ewsrc (ewSrcOf w))
  | 0x82 => ifZero (w.extractLsb' 0 13) (ifWf (.ewop (ewOpOf w)))
  | 0x83 => ifWf (.ewdst (ewDstOf w))
  | 0x84 => ifZero (w.extractLsb' 0 2) (.eworg (ewOrgOf w))
  | 0x85 => ifZero (w.extractLsb' 0 38) (.ewflag (ewFlagOf w))
  | 0x8C => ifZero (w.extractLsb' 0 39) (.ewsamp (ewSampOf w))
  | 0xC0 => rw .rarm
  | 0xC1 => rw .rearm
  | 0xC2 => rw .rsend
  | 0xC3 => rw .rclose
  | _ => .illegal

/-- A word from its opcode and fields. -/
def wordOf (opc : Nat) (fs : List FieldVal) : Word64 := BitVec.ofNat 64 (packFields (⟨56, 8, opc⟩ :: fs))

def encSq (o : Nat) (w : SqW) : Word64 :=
  wordOf o [⟨50, 6, w.dst.toNat⟩, ⟨44, 6, w.a.toNat⟩, ⟨38, 6, w.b.toNat⟩, ⟨0, 32, w.imm.toNat⟩]
def encSync (o : Nat) (w : SyncW) : Word64 :=
  wordOf o [⟨54, 2, w.q.toNat⟩, ⟨48, 6, w.sem.toNat⟩, ⟨40, 8, w.tile.toNat⟩, ⟨0, 32, w.arg.toNat⟩]
def encSlot (o : Nat) (w : MxSlotW) : Word64 :=
  wordOf o [⟨52, 4, w.fmt.toNat⟩, ⟨51, 1, b2n w.tr⟩, ⟨50, 1, b2n w.src⟩, ⟨46, 4, w.ring.toNat⟩,
    ⟨45, 1, b2n w.pop⟩, ⟨44, 1, b2n w.scl⟩, ⟨42, 2, w.sblk.toNat⟩, ⟨25, 17, w.addr.toNat⟩,
    ⟨10, 15, w.kstride.toNat⟩]
def encRing (o : Nat) (w : RingW) : Word64 :=
  wordOf o [⟨52, 4, w.ring.toNat⟩, ⟨51, 1, b2n w.src⟩, ⟨34, 17, w.addr.toNat⟩]

/-- The bits of a command word (R19, R21, R75 to R81, R119 to R123, R131, R139, R141, R183); an illegal
word is written as opcode 0. -/
def encodeWord : TWord → Word64
  | .li w => encSq 0x01 w
  | .lih w => encSq 0x02 w
  | .add w => encSq 0x03 w
  | .sub w => encSq 0x04 w
  | .mul w => encSq 0x05 w
  | .and w => encSq 0x06 w
  | .or w => encSq 0x07 w
  | .xor w => encSq 0x08 w
  | .shl w => encSq 0x09 w
  | .shr w => encSq 0x0A w
  | .loop w => encSq 0x0B w
  | .qcnt w => encSq 0x0C w
  | .tbase w => encSq 0x0D w
  | .tileid w => encSq 0x0E w
  | .signal w => encSync 0x21 w
  | .wait w => encSync 0x22 w
  | .take w => encSync 0x23 w
  | .mark w => encSync 0x2E w
  | .segend w => encSync 0x2F w
  | .mxseta w => encSlot 0x40 w
  | .mxsetb w => encSlot 0x41 w
  | .mxsetd w => encSlot 0x42 w
  | .mxsets w => wordOf 0x43 [⟨54, 2, w.slot.toNat⟩, ⟨35, 19, w.addr.toNat⟩, ⟨25, 10, w.kstride.toNat⟩]
  | .mxorg w => wordOf 0x44 [⟨52, 4, w.dst.toNat⟩, ⟨32, 20, w.rowb.toNat⟩, ⟨12, 20, w.colb.toNat⟩,
      ⟨4, 8, w.stream.toNat⟩]
  | .mxmul w => wordOf 0x48 [⟨52, 4, w.dst.toNat⟩, ⟨51, 1, b2n w.acc⟩, ⟨50, 1, b2n w.hold⟩,
      ⟨41, 9, w.nk.toNat⟩, ⟨25, 16, w.kidx.toNat⟩, ⟨22, 3, w.pred.toNat⟩, ⟨20, 2, w.pm.toNat⟩]
  | .mxdelta w => wordOf 0x49 [⟨52, 4, w.dst.toNat⟩, ⟨50, 1, b2n w.hold⟩, ⟨25, 16, w.kidx.toNat⟩,
      ⟨22, 3, w.pred.toNat⟩]
  | .mxfin w => wordOf 0x4C [⟨52, 4, w.dst.toNat⟩, ⟨32, 16, w.tag.toNat⟩]
  | .ewhead w => wordOf 0x80 [⟨53, 3, w.nsrc.toNat⟩, ⟨50, 3, w.nst.toNat⟩, ⟨48, 2, w.ndst.toNat⟩,
      ⟨47, 1, b2n w.org⟩, ⟨46, 1, b2n w.vec⟩, ⟨44, 2, w.red.toNat⟩, ⟨41, 3, w.rop.toNat⟩,
      ⟨38, 3, w.rsrc.toNat⟩, ⟨37, 1, b2n w.rpen⟩, ⟨34, 3, w.rpred.toNat⟩, ⟨33, 1, b2n w.fquiet⟩,
      ⟨27, 6, w.kappa.toNat⟩, ⟨21, 6, w.lic.toNat⟩]
  | .eworg w => wordOf 0x84 [⟨36, 20, w.rowb.toNat⟩, ⟨16, 20, w.colb.toNat⟩, ⟨8, 8, w.stream.toNat⟩,
      ⟨2, 6, w.treg.toNat⟩]
  | .ewsrc w => wordOf 0x81 [⟨53, 3, w.kind.toNat⟩, ⟨49, 4, w.fmt.toNat⟩, ⟨48, 1, b2n w.tr⟩,
      ⟨47, 1, b2n w.scl⟩, ⟨45, 2, w.sblk.toNat⟩, ⟨44, 1, b2n w.raw⟩, ⟨40, 4, w.idx.toNat⟩,
      ⟨39, 1, b2n w.pop⟩, ⟨38, 1, b2n w.tagen⟩, ⟨21, 17, w.addr.toNat⟩, ⟨20, 1, b2n w.freg⟩,
      ⟨14, 6, w.sreg.toNat⟩, ⟨12, 2, w.bc.toNat⟩]
  | .ewop w => wordOf 0x82 [⟨50, 6, w.op.toNat⟩, ⟨45, 5, w.sela.toNat⟩, ⟨40, 5, w.selb.toNat⟩,
      ⟨35, 5, w.selc.toNat⟩, ⟨32, 3, w.rm.toNat⟩, ⟨31, 1, b2n w.p⟩, ⟨30, 1, b2n w.sat⟩,
      ⟨28, 2, w.site.toNat⟩, ⟨27, 1, b2n w.pen⟩, ⟨24, 3, w.pred.toNat⟩, ⟨23, 1, b2n w.pinv⟩,
      ⟨17, 6, w.sreg.toNat⟩, ⟨13, 4, w.fmt.toNat⟩]
  | .ewdst w => wordOf 0x83 [⟨53, 3, w.kind.toNat⟩, ⟨49, 4, w.fmt.toNat⟩, ⟨48, 1, b2n w.freg⟩,
      ⟨42, 6, w.sreg.toNat⟩, ⟨38, 4, w.sel.toNat⟩, ⟨35, 3, w.rm.toNat⟩, ⟨34, 1, b2n w.scl⟩,
      ⟨32, 2, w.sblk.toNat⟩, ⟨30, 2, w.head.toNat⟩, ⟨29, 1, b2n w.pen⟩, ⟨26, 3, w.pred.toNat⟩,
      ⟨25, 1, b2n w.stat⟩, ⟨17, 8, w.statix.toNat⟩, ⟨0, 17, w.addr.toNat⟩]
  | .ewflag w => wordOf 0x85 [⟨55, 1, b2n w.clr⟩, ⟨38, 17, w.addr.toNat⟩]
  | .ewsamp w => wordOf 0x8C [⟨39, 17, w.daddr.toNat⟩]
  | .rarm w => encRing 0xC0 w
  | .rearm w => encRing 0xC1 w
  | .rsend w => encRing 0xC2 w
  | .rclose w => encRing 0xC3 w
  | .illegal => 0

end Sys2Proof
end

