-- ==== Sys2Proof/Machine/State.lean ====
section
/-! DEFINITION. The state of the module, the reasons a step can stop, and the state after reset. -/

namespace Sys2Proof.Machine

open Sys2Proof

/-- Everything the manual gives the module, one field per unit, and the queue of waiting commands. -/
structure State where
  /-- Commands and events waiting, first in, first out. -/
  pending : List Instr
  /-- Timebase (R1, R382 to R384). -/
  time : TimeU
  /-- Pins, I3C target, test port (R379 to R381, R418 to R420). -/
  io : IoU
  /-- Boot, identity, mailbox, flash, cores (R327, R391 to R407). -/
  boot : BootU
  /-- Power level, brake, caps, sensors (R365 to R376). -/
  power : PowerU
  /-- The 32 functions (R321 to R330). -/
  fns : List Fn
  /-- The journal, in order of acceptance (R347). -/
  journal : List JRec
  /-- The 32 partitions (R338). -/
  parts : List Part
  /-- The 24 physical tile groups (R342). -/
  groups : List Group
  /-- Logical tiles 8g + i of physical group g; an unlisted tile is in its reset state (R47). -/
  tiles : Map Tile
  /-- Module memory (R187, R207). -/
  t2 : T2U
  /-- Store memory frames (R195). -/
  t1 : T1U
  /-- Host memory as the D7 has written it, by I/O address space (R188, R346). -/
  host : Memory
  /-- Context images written to host buffers (R358; log entry 2). -/
  images : List SavedImg
  /-- Ports, membership, routes, relay (R279 to R305). -/
  fabric : FabricU
  /-- Requests open in each die's sampling unit (R143). -/
  samp : List SampReq
  /-- Counters by unit (R385): key 2^32 × partition + counter id. -/
  ctrs : Map Word64
  /-- The model's own counter of free values drawn (log entry 10). -/
  free : Nat
  deriving DecidableEq, Repr

/-- Reasons the model stops with a fault. An event that cannot occur in a state leaves it unchanged (log entry 1). -/
inductive Fault where
  /-- An address outside the BAR2 window (R324): the manual gives no access there. Raised by BAR2_READ and
  BAR2_WRITE only. Safe: the model stops where no behaviour is stated. -/
  | outsideWindow
  deriving DecidableEq, Repr

/-- Reasons the model gives a command no meaning. -/
inductive Refusal where
  /-- The command has no meaning in this model yet. Safe. -/
  | notModelled (mnemonic : String)
  /-- A private debug instruction after an unlock: the manual says that it acts and not what it does (R420).
  Raised by TAP_PRIVATE_DEBUG only. Safe. -/
  | privateDebug
  deriving DecidableEq, Repr

/-! ### Reset values (R5; where the manual gives none: log entry 5) -/

def Quota.zero : Quota := ⟨0, 0, 0, 0, 0, 0⟩

def QDesc.zero : QDesc := ⟨0, false, 0, 0, 0, false, 0, 0, 0, 0⟩

def MsixE.reset : MsixE := ⟨0, 0, true, false⟩

def Fn.reset : Fn :=
  { aqs := QDesc.zero, aqc := QDesc.zero, aqen := false, evbase := 0, evlsize := 0, even := false, evIx := 0,
    evHead := 0, evSeq := 0, evLost := 0, w2base := 0, w2we := false, ats := false, pasid := false, atc := [], invals := [], aer := [],
    msix := List.replicate 64 MsixE.reset, sqs := List.replicate 8 none, cqs := List.replicate 8 none }

/-- A partition that does not exist (R340); its gear limit and budget are set by PART_CREATE. -/
def Part.unused : Part :=
  { st := .unused, groups := [], quota := Quota.zero, seed := 0, seedOn := 0, flagmask := 0, entries := 0, handleQ := 0,
    watts := 0, bal := 0, gearMax := 7, whorl := none, regions := [], progs := [], lastDur := [], shapes := [], camp := none,
    reqs := [], reqSeq := 0, turnSeq := 0, handles := [], variants := [], drawers := [], flog := [],
    fault := none, snaps := [], wait := [] }

/-- Partition 0 at device reset (R338): STOPPED, no groups, zero quotas. -/
def Part.zero : Part := { Part.unused with st := .stopped }

def MxSlotW.zero : MxSlotW := ⟨0, false, false, 0, false, false, 0, 0, 0⟩

def MxSlot.reset : MxSlot := ⟨MxSlotW.zero, 0, 0, 0, 0, 0⟩

/-- A tile register at partition start: +0, no poison, no run state (R47). -/
def TReg.reset : TReg :=
  { elems := [], gen := 0, pois := [], nextk := 0, run := false, held := false, holdn := 0, flags := 0,
    rowb := 0, colb := 0, stream := 0, obad := 0, dmask := [] }

def Ring.closed : Ring :=
  { dir := 0, walk := none, pend := none, head := 0, next := 0, total := 0, bobs := [], started := false, ix := 0 }

def Tile.reset : Tile :=
  { sregs := [], sems := [], t0 := [], pois := [], whorlBad := [], tregs := [], preds := [], rings := [], seg := none,
    words := [], pc := 0, loops := [], q1 := [], q2 := [], q3 := [], closed := [], ended := [], blocked := [],
    sigin := [], slotA := MxSlot.reset, slotB := MxSlot.reset, slotD := MxSlot.reset, mxPend := none,
    held := none, ftq := [], chain := none, chPend := none, ewf := 0, chains := 0, sampWait := none, gear := 0,
    stats := [], marks := [], replace := false, errs := [] }

def TimeU.reset : TimeU :=
  { now := 0, wait := 0, outMs := 0, inGood := 0, inBad := 0, inLocked := false, inMs := 0, slew := 0,
    holdover := false, stepped := false, windows := 0, decays := 0, holdAt := 0, locks := [] }

def IoU.reset : IoU :=
  { perst := true, linkUp := false, linkLost := false, prsnt0 := true, prsnt1 := true, inputOn := false,
    straps := 3, i3cAddr := none, i3cIbi := false, i3cIndex := 0, alerts := 0, alertMask := 0, shadow := [],
    alertPin := false, wakePin := false, tapUnlocked := false, tapDr := [], contacts := [],
    rsp := [] }

/-- A copy of the configuration record as manufacture left it: the manual gives no values, so they are free (log entry 10). -/
def factoryConfig (b : Bool) : ConfigP := ⟨Config.cfgBytes b, true⟩

def BootU.reset : BootU :=
  { phase := .dark, fw := 0, level := 0, svn := 0, devfaults := 0, mbState := 0, mbErr := 0, mbAddr := 0,
    mbLen := 0, held := none, image := none, meas := 0, resvT2 := false, restT2 := false,
    cfgA := some (factoryConfig false), cfgB := some (factoryConfig true), useB := false, chain := Config.chain, hist := [], histSeq := 0, boots := 0, log := [],
    core := [], beat := [0, 0, 0], faults60 := [], repair := [], tileSpare := [4, 4],
    resume := none, jrnA := false, jrnB := false, secret := 0, certId := Config.idHash, certSerial := Config.serial,
    rows := [] }

def Sensor.reset : Sensor := ⟨[], [], 0, 0, 0, false, 0⟩

def PowerU.reset : PowerU :=
  { level := 0, brakePin := false, brakeTest := none, brakeHeat := false, brakeCur := false, hotAt := none,
    sensors := List.replicate 64 Sensor.reset, caps := List.replicate 24 7, capCur := 7, capCool := false,
    limCur := false, limHeat := [], capStep := 0, capRise := 0, kgrp := List.replicate 24 20, mv := 0,
    energy := 0, tests := 0, trip := false, levelAt := 0, capAt := 0 }

/-- No member: beyond the member numbers 0 to 2,047 (R293). Records show it as 0x7FF. -/
def noMember : Nat := 2048

/-- A port at reset (R290). Ports begin training after Utora starts (R396); until then they are DISABLED. -/
def Port.reset : Port :=
  { st := .disabled, cls := 0, out := 15, rtt := 0, peer := noMember, pport := 0, pid := 0, lit := [], litAt := 0,
    fecsym := 0, replays := 0, lmap := [0, 1, 2, 3, 4, 5, 6, 7], subst := false, txSeq := 0,
    txNext := 0, replay := [], fails := 0, rxSeq := 1023, nak := false, skip := false,
    credit := [16, 64, 256, 512], owed := [0, 0, 0, 0], rot := 1, tx := [], rxq := [], bref := [], bout := 0, sent := [], bsent := 0,
    rtts := [], nonce := 0, pnonce := 0, helloAt := 0, rx := [], fixes := [], wire := [] }

def FabricU.reset : FabricU :=
  { ports := List.replicate 12 Port.reset, group := 0, epoch := 0, member := noMember, members := [],
    leader := noMember, isolated := false, leaving := false, hbAt := 0, heard := [], leaderHeard := 0,
    prop := none, acks := [], joins := [], known := [], links := [], routes := [], bulk := [],
    lasers := [0, 0, 0, 0], out := [], seqs := [], seen := [], xfer := 0, lostX := [], chunks := [], bufs := [], joining := false, former := [], leaves := [] }

def T2U.reset : T2U :=
  { mem := [], pois := [], map := List.range 24, spareUsed := false, migr := none, scrubAt := 0, lost := [], fixed := [], broken := [] }

def T1U.reset : T1U := { frames := [], dead := [], spareLeft := [2, 2], cut := [], fills := [], pins := [], bad := [] }

/-- The machine right after reset: no input power has been seen yet, so the first event is POWER_INPUT_RISE
(R412); every field as R5 and the field tables say, or as log entry 5 names it. -/
def State.reset : State :=
  { pending := [], time := TimeU.reset, io := IoU.reset, boot := BootU.reset, power := PowerU.reset,
    fns := List.replicate 32 Fn.reset, journal := [],
    parts := Part.zero :: List.replicate 31 Part.unused,
    groups := List.replicate 24 ⟨.free, 0⟩, tiles := [], t2 := T2U.reset, t1 := T1U.reset, host := [],
    images := [], fabric := FabricU.reset, samp := [], ctrs := [], free := 0 }

end Sys2Proof.Machine
end

