-- ==== Sys2Proof/Machine/Ops.lean ====
section
/-! DEFINITION. The named operations that the meanings share: the units of the state, time, counters,
events, the error history, regions and T2, tiles and their memory, faults, the journal's commit. -/

namespace Sys2Proof.Machine

open Sys2Proof

/-- What a step answers. -/
abbrev Out := Host.Outcome State Fault Refusal

/-! ### Units of the state -/

def State.withPending (s : State) (x : List Instr) : State := { s with pending := x }
def State.withTime (s : State) (x : TimeU) : State := { s with time := x }
def State.withIo (s : State) (x : IoU) : State := { s with io := x }
def State.withBoot (s : State) (x : BootU) : State := { s with boot := x }
def State.withPower (s : State) (x : PowerU) : State := { s with power := x }
def State.withFns (s : State) (x : List Fn) : State := { s with fns := x }
def State.withJournal (s : State) (x : List JRec) : State := { s with journal := x }
def State.withParts (s : State) (x : List Part) : State := { s with parts := x }
def State.withGroups (s : State) (x : List Group) : State := { s with groups := x }
def State.withTiles (s : State) (x : Map Tile) : State := { s with tiles := x }
def State.withT2 (s : State) (x : T2U) : State := { s with t2 := x }
def State.withT1 (s : State) (x : T1U) : State := { s with t1 := x }
def State.withHost (s : State) (x : Memory) : State := { s with host := x }
def State.withImages (s : State) (x : List SavedImg) : State := { s with images := x }
def State.withFabric (s : State) (x : FabricU) : State := { s with fabric := x }
def State.withSamp (s : State) (x : List SampReq) : State := { s with samp := x }
def State.withCtrs (s : State) (x : Map Word64) : State := { s with ctrs := x }
def State.withFree (s : State) (x : Nat) : State := { s with free := x }

/-- The answer of an event that takes effect or leaves the state as it is. -/
def ok (s : State) : Out := .next s

/-! ### Time (R1, R24) -/

/-- Does a brake hold (R373)? -/
def braked (p : PowerU) : Bool := p.brakePin || p.brakeTest.isSome || p.brakeHeat || p.brakeCur

/-- Do the wait clocks of the partitions run (R24)? -/
def waitsRun (p : PowerU) : Bool := decide (p.level = 0) && !braked p

/-- Time passes to t; the timebase never decreases (R382). -/
def tick (s : State) (t : Word64) : State :=
  let d := t - s.time.now
  s.withTime { s.time with now := t, wait := if waitsRun s.power then s.time.wait + d else s.time.wait }

/-- An event at time t: it happens at t, or not at all where t lies in the past. -/
def atTime (s : State) (t : Word64) (f : State → State) : State :=
  if s.time.now.ule t then f (tick s t) else s

/-! ### Counters (R385) -/

/-- A counter's key: partition (class 0x01 is partition-relative), class, instance, number. -/
def ctrKey (part cls inst num : Nat) : Nat := part * 2 ^ 32 + cls * 2 ^ 24 + inst * 2 ^ 8 + num

/-- Add to a counter, modulo 2^64. -/
def addCtr (s : State) (k n : Nat) : State :=
  s.withCtrs (mapSet 0 s.ctrs k (mapGet 0 s.ctrs k + BitVec.ofNat 64 n))

/-- Counter numbers within their class (log entry 7): the manual names the counters and not their numbers. -/
def cKgroups : Nat := 0
def cChains : Nat := 1
def cStreamIn : Nat := 2
def cStreamOut : Nat := 3
def cFixed : Nat := 4
def cEnergy : Nat := 0
def cMissed : Nat := 1
def cSegs : Nat := 2
def cFillers : Nat := 3
def cEmpty : Nat := 4
def cSectors : Nat := 0
def cLinkEcc : Nat := 1
def cDieEcc : Nat := 2
def cHits : Nat := 0
def cMisses : Nat := 1
def cPromo : Nat := 2
def cPromoDrop : Nat := 3
def cUntracked : Nat := 4
def cCalDrop : Nat := 5
/-- Corrected errors in the SRAM of a store die or of the hub (R402). -/
def cSram : Nat := 6
def cDbIgnored : Nat := 0
def cB2Poison : Nat := 1
def cB2Drop : Nat := 2
def cFabDrop : Nat := 4
def cBrake : Nat := 0
def cPhase : Nat := 1
def cPulse : Nat := 2
def cHold : Nat := 3
def cWait : Nat := 5
/-- Cycles at gear g, the time capped at gear g, and the time at a level. -/
def cGear (g : Nat) : Nat := 16 + g % 8
def cCap (g : Nat) : Nat := 16 + g % 8
def cLevel (l : Nat) : Nat := 24 + l % 8
/-- Flits of a class sent and received. -/
def cTx (c : Nat) : Nat := 16 + c % 4
def cRx (c : Nat) : Nat := 20 + c % 4

/-! ### Functions, partitions, tiles -/

def fnAt (s : State) (f : Nat) : Fn := s.fns.getD f Fn.reset
def setFn (s : State) (f : Nat) (x : Fn) : State := s.withFns (listSet s.fns f x)

def partAt (s : State) (p : Nat) : Part := s.parts.getD p Part.unused
def setPart (s : State) (p : Nat) (x : Part) : State := s.withParts (listSet s.parts p x)
def updPart (s : State) (p : Nat) (f : Part → Part) : State := setPart s p (f (partAt s p))

def groupAt (s : State) (g : Nat) : Group := s.groups.getD g ⟨.failed, 0⟩
def setGroup (s : State) (g : Nat) (x : Group) : State := s.withGroups (listSet s.groups g x)

/-- Logical tile of a partition-relative tile: 8 tiles per group, in the order of the partition's list. -/
def tileIx (s : State) (p t : Nat) : Option Nat :=
  ((partAt s p).groups[t / 8]?).map (fun g => 8 * g + t % 8)

/-- Tiles of a partition. -/
def nTiles (s : State) (p : Nat) : Nat := 8 * (partAt s p).groups.length

def tileRaw (s : State) (n : Nat) : Tile := mapGet Tile.reset s.tiles n
def setTileRaw (s : State) (n : Nat) (x : Tile) : State := s.withTiles (mapPut s.tiles n x)

/-- A partition-relative tile's state. -/
def tileAt (s : State) (p t : Nat) : Tile :=
  match tileIx s p t with
  | some n => tileRaw s n
  | none => Tile.reset

/-- Replace a partition-relative tile's state; a tile outside the partition is left alone. -/
def setTile (s : State) (p t : Nat) (x : Tile) : State :=
  match tileIx s p t with
  | some n => setTileRaw s n x
  | none => s

def updTile (s : State) (p t : Nat) (f : Tile → Tile) : State := setTile s p t (f (tileAt s p t))

/-- Apply an update to every tile of a partition. -/
def updTiles (s : State) (p : Nat) (f : Nat → Tile → Tile) : State :=
  (List.range (nTiles s p)).foldl (fun acc t => updTile acc p t (f t)) s

/-- Which compute die a partition-relative tile stands on: 0 CN, 1 CS (R338). -/
def dieOf (s : State) (p t : Nat) : Nat :=
  match tileIx s p t with
  | some n => if n < 96 then 0 else 1
  | none => 0

/-! ### Host memory, events, history -/

/-- The I/O address space of a function's requester ID with a PASID, 0xF_FFFF for none (R330, R346). -/
def hostSpace (fn pasid : Nat) : Nat := if pasid = 0xFFFFF then fn else 32 * (pasid + 1) + fn

/-- Where State.host keeps an address of an I/O address space: no two spaces meet. -/
def hostAt (space a : Nat) : Nat := 2 ^ 80 * space + a

/-- Write host memory in an I/O address space (R346). -/
def hostWrite (s : State) (space a : Nat) (b : List Byte) : State := s.withHost (memWrite s.host (hostAt space a) b)

/-- An MSI-X message, or the pending bit where the vector is masked (R329). -/
def raiseMsix (s : State) (f v : Nat) : State :=
  let x := fnAt s f
  let m := x.msix.getD v MsixE.reset
  if m.mask then setFn s f { x with msix := listSet x.msix v { m with pend := true } }
  else hostWrite s f m.addr.toNat (leBytes 4 m.data.toNat)

/-- WAKE# is asserted for an event or a completion entry that there is to write while the link is down (R419). -/
def assertWake (s : State) (even : Bool) : State :=
  if s.io.linkUp || s.io.perst || !even then s else s.withIo { s.io with wakePin := true }

/-- Bytes of the next entry of an event queue (R329). -/
def eventBytes (x : Fn) (src part body : Nat) : List Byte :=
  leBytes 128 (packFields [⟨0, 512, body⟩, ⟨512, 8, src⟩, ⟨520, 1, b2n (decide ((x.evIx / 2 ^ x.evlsize) % 2 = 0))⟩,
    ⟨521, 5, part⟩, ⟨544, 64, x.evSeq⟩])

/-- Write the next entry of an event queue and interrupt through vector 63 (R329). -/
def pushEvent (s : State) (f : Nat) (x : Fn) (src part body : Nat) : State :=
  raiseMsix (setFn (hostWrite s f (x.evbase.toNat + 128 * (x.evIx % 2 ^ x.evlsize)) (eventBytes x src part body)) f
    { x with evIx := x.evIx + 1, evSeq := x.evSeq + 1 }) f 63

/-- One event entry into an enabled queue, counted where the queue is full (R329). -/
def postEventTo (s : State) (f src part body : Nat) : State :=
  let x := fnAt s f
  let s := assertWake s x.even
  if !x.even then s
  else if 2 ^ x.evlsize ≤ x.evIx - x.evHead then setFn s f { x with evLost := x.evLost + 1 }
  else pushEvent s f x src part body

/-- An event of a partition: to its own function and to the PF (R329). -/
def postEvent (s : State) (src part body : Nat) : State :=
  let s := postEventTo s 0 src part body
  if part = 0 then s else postEventTo s part src part body

/-- Fabric event record (R296), to the PF. -/
def fabricEvent (s : State) (kind port cls member detail : Nat) : State :=
  postEventTo s 0 1 0 (packFields [⟨0, 4, kind⟩, ⟨4, 4, port⟩, ⟨8, 2, cls⟩, ⟨16, 11, min member 0x7FF⟩,
    ⟨32, 32, s.fabric.epoch⟩, ⟨64, 64, s.time.now.toNat⟩, ⟨128, 32, detail⟩])

/-- Cap of a physical tile group (R376). -/
def groupCap (w : PowerU) (g : Nat) : Nat :=
  min (min (w.caps.getD g 7) w.capCur) (if w.capCool then 5 else 7)

/-- The lowest gear cap in force over the groups of a mask. -/
def maskCap (w : PowerU) (m : Nat) : Nat :=
  (List.range 24).foldl (fun a g => if bitOf m g then min a (groupCap w g) else a) 7

/-- All 24 tile groups. -/
def allGroups : Nat := 2 ^ 24 - 1

/-- Gear cap in force over all groups. -/
def lowestCap (w : PowerU) : Nat := maskCap w allGroups

/-! ### Gears and time spans (R363, R385) -/

/-- Clocks in 100 MHz. -/
def gearClk : List Nat := [4, 12, 16, 20, 24, 27, 29, 31]

/-- What a run has done up to now, where its tiles have run at a gear since it was last taken, in tenths of a cycle (R372, R385). -/
def workDone (now : Word64) (gear : Nat) (r : SegRun) : Nat :=
  r.work + (now.toNat - r.t0.toNat) * gearClk.getD gear 27

/-- What a tile's segment has done up to now. -/
def tileWork (s : State) (t : Tile) : Nat := (t.seg.map (workDone s.time.now t.gear)).getD 0

/-- The partition that a physical tile serves, and the tile's number in it. -/
def tileRel (s : State) (n : Nat) : Option (Nat × Nat) :=
  (List.range 32).findSome? (fun p => (((partAt s p).groups.take 24).findIdx? (fun g => decide (g = n / 8))).map (fun k => (p, 8 * k + n % 8)))

/-- Nanoseconds since a time. -/
def sinceNs (s : State) (t : Word64) : Nat := s.time.now.toNat - t.toNat

/-- A power level is entered: the time at the old one is counted (R385). -/
def setLevel (s : State) (l : Nat) : State :=
  let s := addCtr s (ctrKey 0 7 0 (cLevel s.power.level)) (sinceNs s s.power.levelAt)
  s.withPower { s.power with level := l, levelAt := s.time.now }

/-- Caps change: the time at the old lowest cap is counted where it was below G7 (R385). -/
def setCaps (s : State) (w : PowerU) : State :=
  let g := lowestCap s.power
  let s := if g < 7 then addCtr s (ctrKey 0 7 0 (cCap g)) (sinceNs s s.power.capAt) else s
  s.withPower { w with capAt := s.time.now }

/-- Source-6 event (R378), to the PF. PE.GEAR is the lowest cap in force after it: over the groups that a CAP or UNCAP names, over all
groups otherwise (DEDUCED, log entry 41). -/
def powerEvent (s : State) (kind : Nat) (internal : Bool) (whr : Nat) (value : Int) : State :=
  let gear := if kind = 3 ∨ kind = 4 then maskCap s.power whr else lowestCap s.power
  postEventTo s 0 6 0 (packFields [⟨0, 4, kind⟩, ⟨4, 1, b2n internal⟩, ⟨5, 3, gear⟩, ⟨8, 24, whr⟩,
    ⟨32, 32, patOf 32 value⟩, ⟨64, 64, s.time.now.toNat⟩])

/-- Alert flags and the pin they drive (R380, R419). -/
def raiseAlert (s : State) (n : Nat) : State :=
  let a := s.io.alerts ||| (1#16 <<< n)
  s.withIo { s.io with alerts := a, alertPin := decide (a &&& ~~~ s.io.alertMask ≠ 0) }

/-- Records that the history holds (R391). -/
def histSize : Nat := 999424

/-- Make room in a full history: the oldest correctable record goes first, a repair record never (R404). -/
def histRoom (l : List Hist) : List Hist :=
  if l.length < histSize then l
  else match l.find? (fun h => decide (h.cls = 0) && !h.repair) with
    | some h => l.erase h
    | none => (match l.find? (fun h => !h.repair) with
      | some h => l.erase h
      | none => l)

/-- Is a record of the history one that a further correctable event of a unit and kind joins (R403)? -/
def histJoins (s : State) (kind unit : Nat) (h : Hist) : Bool :=
  decide (h.cls = 0) && !h.repair && decide (h.kind = kind) && decide (h.unit = unit) &&
    decide (s.time.now.toNat < h.time.toNat + 3600000000000)

/-- One error history record (R403, R404); correctable events of one unit and kind share a record for an hour. -/
def addHist (s : State) (cls kind unit : Nat) (detail : Word64) (repair : Bool) : State :=
  if cls = 0 ∧ !repair ∧ s.boot.hist.any (histJoins s kind unit) then
    s.withBoot { s.boot with hist := s.boot.hist.map (fun h =>
      if histJoins s kind unit h then { h with count := min 65535 (h.count + 1) } else h) }
  else
    let r : Hist := ⟨s.boot.histSeq, cls, repair, kind, 1, s.boot.boots, s.time.now, unit, detail⟩
    s.withBoot { s.boot with hist := histRoom s.boot.hist ++ [r], histSeq := s.boot.histSeq + 1 }

/-- The history MAC key, derived from the security block's secret (R395). -/
def macKey (s : State) : List Byte := shake256 (0x4D :: leBytes 32 s.boot.secret.toNat) 32

/-- A record's first 32 bytes and its MAC (R404). -/
def histBytes (s : State) (h : Hist) : List Byte :=
  let b := leBytes 32 (packFields [⟨0, 32, h.seq⟩, ⟨32, 2, h.cls⟩, ⟨34, 1, b2n h.repair⟩, ⟨40, 8, h.kind⟩,
    ⟨48, 16, h.count⟩, ⟨64, 32, h.boot⟩, ⟨96, 64, h.time.toNat⟩, ⟨160, 32, h.unit⟩, ⟨192, 64, h.detail.toNat⟩])
  b ++ shake256 (macKey s ++ b) 32

/-! ### Partition states and faults -/

def PState.code : PState → Nat
  | .unused => 0 | .stopped => 1 | .starting => 2 | .running => 3 | .stopping => 4 | .pendingEnable => 5
  | .faulted => 6 | .destroying => 7

/-- Change a partition's state, with its source-2 event (R329, R340). -/
def setPState (s : State) (p : Nat) (st : PState) : State :=
  let old := (partAt s p).st
  if old = st then s
  else postEvent (updPart s p (fun x => { x with st := st })) 2 p
    (packFields [⟨0, 5, p⟩, ⟨8, 3, old.code⟩, ⟨12, 3, st.code⟩])

/-- A fault record as 64 bytes (R45). -/
def faultBits (r : FaultRec) : Nat :=
  packFields [⟨0, 16, r.status⟩, ⟨16, 8, r.tile⟩, ⟨24, 2, r.q⟩, ⟨26, 6, r.sem⟩, ⟨32, 16, r.seg⟩,
    ⟨48, 16, r.other⟩, ⟨64, 32, r.word⟩, ⟨96, 64, r.time.toNat⟩, ⟨160, 64, r.addr⟩, ⟨224, 32, r.detail⟩]

/-- Steps 2 and 3 of R46: the partition's tiles stop; what is started and not visible is discarded. -/
def haltTile (t : Tile) : Tile :=
  { t with mxPend := none, chain := none, chPend := none, blocked := [], sigin := [], sampWait := none,
           rings := t.rings.map (fun e => (e.1, { e.2 with bobs := e.2.bobs.map (fun b =>
             if b.st = .sending then { b with st := .free } else b) })) }

/-- Does a partition run: RUNNING, or with a campaign that goes on to its next boundary while it is to stop (R340, R343 step 1)? -/
def runs (x : Part) : Bool :=
  decide (x.st = .running) || (x.camp.isSome && (decide (x.st = .stopping) || decide (x.st = .pendingEnable)))

/-- Is a partition allowed to issue: it runs, and is not stopped by a fault, link loss or reset (R46, R323)? -/
def issues (s : State) (p : Nat) : Bool :=
  runs (partAt s p) && (partAt s p).fault.isNone && !s.io.linkLost &&
    decide (s.boot.fw = 2) && decide (s.power.level = 0)

/-- Is a read in flight (R211): an issued bobbin of a partition without a fault, or the fill of a frame? -/
def useLive (s : State) (p : Nat) (u : AtsUse) : Bool :=
  match u with
  | .bob tile ring slot k =>
    (match mapFind (tileAt s p tile).rings ring with
      | some x => (match x.bobs[slot]? with
        | some b => decide (b.st = .issued) && decide (b.k = k) && (partAt s p).fault.isNone
        | none => false)
      | none => false)
  | .fill n => (mapFind s.t1.frames n).any (fun f => decide (f.key.part = p) && !f.whole)

/-- The reads that used a translation and are over leave the invalidations that wait for them (R211). -/
def sweepInvals (s : State) (p : Nat) : State :=
  let x := fnAt s p
  if x.invals = [] then s
  else setFn s p { x with invals := x.invals.map (fun v => { v with uses := v.uses.filter (useLive s p) }) }

def sweepAll (s : State) : State := (List.range 32).foldl sweepInvals s

/-- Raise a partition fault (R46 steps 1 to 3, R403): records in the log, tiles and engines stopped, sampling
requests discarded, one history record and a source-3 event. The first record is the one the running
command completes with. A partition that already has a fault keeps it. R404 names no kind for the history record: one of its 14, a free
value (log entry 44). -/
def raiseFaults (s : State) (p : Nat) (rs : List FaultRec) : State :=
  let x := partAt s p
  match rs, x.fault with
  | r :: _, none =>
    let s := setPart s p { x with flog := x.flog ++ rs, fault := some ⟨x.flog.length, r.status, false, false⟩ }
    let s := sweepInvals (updTiles s p (fun _ => haltTile)) p
    let s := s.withSamp (s.samp.filter (fun q => q.part ≠ p))
    let s := addHist s 1 (1 + Config.faultKind r.status % 14) (ctrKey 0 2 p 0) (BitVec.ofNat 64 r.status) false
    rs.foldl (fun acc q => postEvent acc 3 p (faultBits q)) s
  | _, _ => s

/-- A fault record with the fields that most faults leave at their defaults. -/
def mkFault (s : State) (status tile : Nat) : FaultRec :=
  ⟨status, tile, 0, 0, 0, 0xFFFF, 0, s.time.now, 0, 0⟩

/-- A fault of a hub unit (FR.TILE 0xFF). -/
def hubFault (s : State) (p status detail : Nat) : State :=
  raiseFaults s p [{ mkFault s status 255 with detail := detail }]

/-- A fault at a word of a tile's queue, with a semaphore. -/
def tileFaultSem (s : State) (a : TileAt) (q ix status semn addr detail : Nat) : State :=
  let seg := ((tileAt s a.part a.tile).seg.map (fun r => r.seg)).getD 0
  raiseFaults s a.part [{ mkFault s status a.tile with
    q := q, sem := semn, seg := seg, word := ix, addr := addr, detail := detail }]

/-- A fault at a word of a tile's queue. -/
def tileFault (s : State) (a : TileAt) (q ix status addr detail : Nat) : State :=
  tileFaultSem s a q ix status 0 addr detail

/-- A free value of 64 bits (log entry 10). -/
def drawFree (s : State) : Word64 × State := (Config.free64 s.free, s.withFree (s.free + 1))

/-- FR.DETAIL of a semaphore fault is the count held or the count asked (R45): which of the two is open, so the choice is
free. -/
def eitherOf (s : State) (held asked : Nat) : Nat × State :=
  let d := drawFree s
  (if d.1.getLsbD 0 then held else asked, d.2)

/-- EXTENT (R35, R45): FR.DETAIL is the index of the failing extent, a free value where no extent holds the address. -/
def extentFault (s : State) (a : TileAt) (q ix addr : Nat) (ext : Option Nat) : State :=
  match ext with
  | some n => tileFault s a q ix 0x0307 addr n
  | none =>
    let d := drawFree s
    tileFault d.2 a q ix 0x0307 addr (d.1.toNat % 2 ^ 32)

/-- EXTENT of an access to a ring's bobbin: FR.DETAIL names the ring (R76). -/
def ringExtent (s : State) (a : TileAt) (q ix addr ring : Nat) : State := extentFault s a q ix addr (some ring)

/-- POISON (R30, R45): FR.ADDR is the address at which the poison entered. -/
def poisonFault (s : State) (a : TileAt) (q ix detail : Nat) (p : Tag) : State :=
  tileFault s a q ix 0x0309 (p - 1) detail

/-! ### Regions and T2 (R187 to R192, R208) -/

def pageSize : Nat := 65536

/-- T2 pages available to regions: 1,520 GiB (R187). -/
def t2Pages : Nat := 24903680

def regionAt (s : State) (p r : Nat) : Option Region := mapFind (partAt s p).regions r

def setRegion (s : State) (p r : Nat) (x : Region) : State :=
  updPart s p (fun y => { y with regions := mapPut y.regions r x })

/-- RG.STATE (R189). -/
def regionState (g : Region) : Nat :=
  if !g.p.ro then 0
  else match g.cur, g.next with
    | none, some _ => 1
    | some _, none => 2
    | some _, some _ => 3
    | none, none => 4

/-- Every T2 page of a region's content and publications. -/
def regionPages (g : Region) : List Nat :=
  g.wpages ++ ((g.cur.map (fun b => b.pages)).getD []) ++ ((g.next.map (fun b => b.pages)).getD [])

def partPages (x : Part) : List Nat := (x.regions.map (fun e => regionPages e.2)).flatten

/-- Is a fetch in flight on a tile that was issued against an epoch of a region (R194)? -/
def tileFetches (t : Tile) (r ep : Nat) : Bool :=
  t.rings.any (fun e => e.2.bobs.any (fun b => decide (b.st = .issued) &&
    (b.w.map (fun w => decide (w.td.region = r) && decide (w.td.epoch = ep))).getD false))

/-- Pages of replaced publications that fetches in flight still read (R194 step 3). -/
def oldPages (s : State) (p : Nat) : List Nat :=
  ((partAt s p).regions.map (fun e => (e.2.old.map (fun b =>
    if (List.range (nTiles s p)).any (fun t => tileFetches (tileAt s p t) e.1 b.epoch) then b.pages else [])).flatten)).flatten

def usedPages (s : State) : List Nat :=
  (s.parts.map partPages).flatten ++ ((List.range s.parts.length).map (oldPages s)).flatten

/-- T2 pages in use by a partition: writable regions and T2 publications (R204), replaced ones while they are read. -/
def t2Used (s : State) (p : Nat) : Nat := (partPages (partAt s p)).length + (oldPages s p).length

/-- A placement of n fresh pages: distinct, in reach of regions, unused. -/
def goodPlace (s : State) (n : Nat) (pages : List Nat) : Bool :=
  decide (pages.length = n) && noDup pages && pages.all (fun k => decide (k < t2Pages)) &&
    pages.all (fun k => !(usedPages s).contains k)

/-- Module address of a byte of a list of pages; none beyond them. -/
def pageAddr (pages : List Nat) (off : Nat) : Option Nat :=
  (pages[off / pageSize]?).map (fun k => k * pageSize + off % pageSize)

/-- Pages that hold what may be read of a region: its content or its current publication. -/
def readPages (g : Region) : List Nat :=
  if g.p.ro then (g.cur.map (fun b => b.pages)).getD [] else g.wpages

def readByte (s : State) (pages : List Nat) (off : Nat) : Byte :=
  match pageAddr pages off with
  | some a => memGet s.t2.mem a
  | none => 0

def readBytes (s : State) (pages : List Nat) (off n : Nat) : List Byte :=
  (List.range n).map (fun k => readByte s pages (off + k))

/-- Group of four logical channels that serves a module address (R207). -/
def chanGroup (a : Nat) : Nat :=
  if a < 1636382539776 then (a >>> 9) % 96 / 4 else (a - 1636382539776) >>> 29

/-- Is a 32-byte sector poisoned (R208, R349)? -/
def secPois (t : T2U) (k : Nat) : Bool := xor (setHas t.pois k) (t.lost.contains (chanGroup (32 * k)))

/-- Poison a sector, or clear it. -/
def setPois (t : T2U) (k : Nat) (v : Bool) : T2U :=
  { t with pois := setPut t.pois k (xor v (t.lost.contains (chanGroup (32 * k)))) }

/-- Poison that a read of the 128-byte line of a module address meets: a line with an uncorrectable sector is delivered poisoned
(R208), and its poison entered at that sector. -/
def linePois (t : T2U) (a : Nat) : Tag :=
  match (List.range 4).find? (fun j => secPois t (a / 128 * 4 + j)) with
  | some j => tagAtAddr (32 * (a / 128 * 4 + j))
  | none => 0

/-- Channel-local address of a module address (R207). -/
def localAddr (a : Nat) : Nat :=
  if a < 1636382539776 then (a >>> 9) / 96 * 512 + a % 512
  else
    let z := (a - 1636382539776) % 2 ^ 29
    17045651456 + (z >>> 9) / 4 * 512 + z % 512

/-- Logical channel of a module address (R207). -/
def chanOf (a : Nat) : Nat :=
  if a < 1636382539776 then (a >>> 9) % 96
  else
    let y := a - 1636382539776
    4 * (y >>> 29) + ((y % 2 ^ 29) >>> 9) % 4

/-- Package that serves a module address (R207). -/
def pkgOf (s : State) (a : Nat) : Nat := s.t2.map.getD (chanGroup a) 0

/-- A sector is corrected (R208, R209, R403): counted for its package, and in the history. -/
def sectorFixed (s : State) (k : Nat) : State :=
  let u := ctrKey 0 3 (chanOf (32 * k)) 0
  let s := s.withT2 { s.t2 with fixed := s.t2.fixed ++ [⟨pkgOf s (32 * k), Config.dramRow k, s.time.now⟩] }
  addHist (addCtr s (u + cSectors) 1) 0 2 u (BitVec.ofNat 64 (32 * k)) false

/-- A sector that the link's ECC (`num` cLinkEcc) or a package's own ECC (cDieEcc) has corrected is counted for its channel (R208). -/
def eccFixed (num : Nat) (s : State) (k : Nat) : State := addCtr s (ctrKey 0 3 (chanOf (32 * k)) num) 1

/-- A sector proves uncorrectable after its retry (R208, R209): it is poisoned, and its package has had one. -/
def sectorBroken (s : State) (k : Nat) : State :=
  let p := pkgOf s (32 * k)
  s.withT2 { setPois s.t2 k true with broken := p :: s.t2.broken.filter (fun q => q ≠ p) }

/-- What the error codes find among the sectors of the lines that a read of module memory touches (R208). -/
def meetErrs (s : State) (lines : List Nat) (e : ReadErrs) : State :=
  let mine (l : List Nat) : List Nat := l.filter (fun k => lines.contains (32 * k / 128 * 128))
  let s := (mine e.onDie).foldl (eccFixed cDieEcc) ((mine e.link).foldl (eccFixed cLinkEcc) s)
  (mine e.bad).foldl sectorBroken ((mine e.fixed).foldl sectorFixed s)

/-- Is a byte's 32-byte sector poisoned (R208)? -/
def sectorPoisoned (s : State) (pages : List Nat) (off : Nat) : Bool :=
  match pageAddr pages off with
  | some a => secPois s.t2 (a / 32)
  | none => false

/-- First poisoned sector of the 128-byte lines that a range touches, as an offset from the range's start (R208). -/
def firstPoison (s : State) (pages : List Nat) (off n : Nat) : Option Nat :=
  (List.range (if n = 0 then 0 else 4 * (cdiv (off + n) 128 - off / 128))).findSome? (fun k =>
    let o := off / 128 * 128 + 32 * k
    if sectorPoisoned s pages o then some (o - off) else none)

/-- Clear the poison of the sectors that a range covers whole (R208). -/
def clearPoison (t : T2U) (a n : Nat) : T2U :=
  let lo := cdiv a 32
  (List.range ((a + n) / 32 - lo)).foldl (fun t k => setPois t (lo + k) false) t

/-- Write bytes to pages; bytes beyond them are dropped. Whole sectors written lose their poison. -/
def writePages (s : State) (pages : List Nat) (off : Nat) (b : List Byte) : State :=
  let as := (List.range b.length).filterMap (fun k => (pageAddr pages (off + k)).map (fun a => (a, b.getD k 0)))
  let mem := as.foldl (fun m e => memSet m e.1 e.2) s.t2.mem
  let secs := (as.filter (fun e => decide (e.1 % 32 = 0))).map (fun e => e.1 / 32)
  let whole := secs.filter (fun k => (List.range 32).all (fun j => as.any (fun e => e.1 = 32 * k + j)))
  s.withT2 (whole.foldl (fun t k => setPois t k false) { s.t2 with mem := mem })

/-- Zero the pages of a list (R187, REGION_FREE). -/
def zeroPages (s : State) (pages : List Nat) : State :=
  let hit (a : Nat) : Bool := pages.contains (a / pageSize)
  let t := { s.t2 with mem := s.t2.mem.filter (fun e => !hit e.1), pois := s.t2.pois.filter (fun e => !hit (e.1 * 32)) }
  s.withT2 (if t.lost = [] then t
    else pages.foldl (fun t g => (List.range 2048).foldl (fun t k => setPois t (2048 * g + k) false) t) t)

/-- A write to [off, off + n) of a region marks the guarded bobbins whose source it overlaps (R176). -/
def markStale (s : State) (p r off n : Nat) : State :=
  let hit (b : Bobbin) : Bool := decide ((b.w.map (fun w => w.td.region)) = some r) &&
    overlap off n b.lo (b.hi - b.lo) && (b.st = .issued || b.st = .filled)
  updTiles s p (fun _ t => { t with rings := t.rings.map (fun e =>
    if e.2.dir = 1 then
      (e.1, { e.2 with bobs := e.2.bobs.map (fun b => if hit b then { b with st := .stale } else b) })
    else e) })

/-- Replace the code of element n of a packed run that starts at a byte offset of a list of pages (R88). -/
def putElem (s : State) (pages : List Nat) (base : Nat) (f : Fmt) (n c : Nat) : State :=
  let bit := elemBit f n
  let k := (bit % 8 + f.bits + 7) / 8
  let old := leNat (readBytes s pages (base + bit / 8) k)
  let msk := (2 ^ f.bits - 1) <<< (bit % 8)
  writePages s pages (base + bit / 8)
    (leBytes k ((old &&& (2 ^ (8 * k) - 1 - msk)) ||| ((c % 2 ^ f.bits) <<< (bit % 8))))

/-- A write into a writable region on behalf of its partition (R176, R188). -/
def writeRegion (s : State) (p r off : Nat) (b : List Byte) : State :=
  match regionAt s p r with
  | some g => markStale (writePages s g.wpages off b) p r off b.length
  | none => s

/-- Zero a tile: its reset state, with the prediction mark and the errors that led to it kept (R343 step 3). -/
def scrubTile (t : Tile) : Tile := { Tile.reset with replace := t.replace, errs := t.errs }

/-! ### The journal's commit (R347, R348) -/

/-- The head command of a queue: its oldest record that has not committed. -/
def headRec (s : State) (q : QId) : Option JRec :=
  s.journal.find? (fun r => decide (r.q = q) && (decide (r.st = .accepted) || decide (r.st = .started)))

/-- Replace the first record that satisfies a test. -/
def updFirst (l : List JRec) (c : JRec → Bool) (f : JRec → JRec) : List JRec :=
  match l with
  | [] => []
  | r :: t => if c r then f r :: t else r :: updFirst t c f

/-- Is this the head record of queue q? -/
def isHead (q : QId) (r : JRec) : Bool :=
  decide (r.q = q) && (decide (r.st = .accepted) || decide (r.st = .started))

def updHead (s : State) (q : QId) (f : JRec → JRec) : State :=
  s.withJournal (updFirst s.journal (isHead q) f)

/-- The completion commit of the head command of a queue: status, detail and CE.TDONE are fixed. WAKE# follows where the link is not
up (R419). -/
def commitCmd (s : State) (q : QId) (status detail : Nat) : State :=
  assertWake (updHead s q (fun r => { r with st := .committed, status := status, detail := detail, tdone := s.time.now }))
    (headRec s q).isSome

/-- The same where the manual fixes CE.DETAIL's form and not its value, or names none (R333): a free value (log entry
10). -/
def endCmd (s : State) (q : QId) (status : Nat) : State :=
  let d := drawFree s
  commitCmd d.2 q status (d.1.toNat % 2 ^ 32)

/-- The head command of a queue has started and goes on (R347 STARTED). -/
def startCmd (s : State) (q : QId) : State := updHead s q (fun r => { r with st := .started })

end Sys2Proof.Machine
end

