-- ==== Sys2Proof/Machine/Ports.lean ====
section
/-! DEFINITION. What the ports send and hold (R282, R298, R299, R301, R302): messages and chunks on their way to a port, the
receive buffers, the 48 chunk buffers and the claims on them. -/

namespace Sys2Proof.Machine

open Sys2Proof

/-! ### Ports -/

def portAt (s : State) (n : Nat) : Port := s.fabric.ports.getD n Port.reset
def setPort (s : State) (n : Nat) (x : Port) : State := s.withFabric { s.fabric with ports := listSet s.fabric.ports n x }

/-- Does a port exchange flits (R289)? -/
def carries (x : Port) : Bool :=
  decide (x.st = .hello) || decide (x.st = .up) || decide (x.st = .draining) || decide (x.st = .quarantine) ||
    decide (x.st = .pendingEnable)

/-- Does a port drain? -/
def drains (x : Port) : Bool := decide (x.st = .draining) || decide (x.st = .pendingEnable)

/-- A member number in a field of 11 bits: 0x7FF for none (R290, R291). -/
def memberCode (m : Nat) : Nat := min m 0x7FF

/-- Join the queue of what a port sends. -/
def queueTx (s : State) (n : Nat) (x : TxItem) : State := setPort s n { portAt s n with tx := (portAt s n).tx ++ [x] }

/-! ### Messages (R298) -/

/-- A step beacon is a class-0 message of one flit; every other message is of class 1 and up to 64 KiB (R282, R298). -/
def msgClass : FMsg → Nat
  | .stepBeacon _ _ _ _ _ => 0
  | _ => 1

/-- Bytes of a message: the manual lays out none of them (log entry 10). -/
def msgData (dst seq cls : Nat) : List Byte :=
  let b := Config.msgBytes dst seq
  (if b = [] then [0] else b).take (if cls = 0 then 232 else 65536)

/-- A message goes onto its route, where there is one (R299). -/
def routeMsg (s : State) (dst seq : Nat) (m : FMsg) : State :=
  match mapFind s.fabric.routes dst with
  | some n => queueTx s n ⟨msgClass m, msgData dst seq (msgClass m), false, false, none, none⟩
  | none => s

/-- Send a message to a member under the next sequence number for it. -/
def sendTo (s : State) (dst : Nat) (m : FMsg) : State :=
  let seq := mapGet 0 s.fabric.seqs dst
  routeMsg (s.withFabric { s.fabric with
    out := s.fabric.out ++ [⟨dst, seq, s.time.now, m⟩], seqs := mapPut s.fabric.seqs dst (seq + 1) }) dst seq m

/-- Send a fabric message: to a member, or to every other member of the epoch. -/
def sendMsg (s : State) (dst : Option Nat) (m : FMsg) : State :=
  match dst with
  | some k => sendTo s k m
  | none => ((s.fabric.members.map (fun e => e.1)).filter (fun k => k ≠ s.fabric.member)).foldl (fun s k => sendTo s k m) s

/-- A message arrives: a duplicate is discarded (R298). -/
def fromMember (s : State) (m : MsgAt) (f : State → State) : State :=
  if s.fabric.seen.contains (m.frm, m.seq) then s
  else f (s.withFabric { s.fabric with seen := (m.frm, m.seq) :: s.fabric.seen })

/-! ### Chunks (R301) -/

def chunkMax : Nat := 1048576

/-- The chunk header as 64 bytes. -/
def chunkHeader (x : Chunk) : Nat :=
  packFields [⟨0, 32, x.xfer⟩, ⟨32, 32, x.index⟩, ⟨64, 16, x.spos⟩, ⟨80, 16, x.dpos⟩, ⟨96, 5, x.part⟩, ⟨101, 3, x.kind⟩,
    ⟨104, 16, x.region⟩, ⟨120, 8, x.hops⟩, ⟨128, 48, x.off⟩, ⟨176, 21, x.data.length⟩, ⟨200, 4, x.fmt⟩, ⟨208, 32, x.epoch⟩,
    ⟨240, 32, x.tokens⟩, ⟨272, 11, x.dmem⟩]

def chunkBytes (x : Chunk) : List Byte := leBytes 64 (chunkHeader x) ++ x.data

/-- The chunk that bytes spell: header, then as many bytes as CH.LEN says. -/
def chunkOf (b : List Byte) : Option Chunk :=
  let h := leNat (b.take 64)
  let n := fld h 176 21
  if decide (b.length = 64 + n) && decide (1 ≤ n) && decide (n ≤ chunkMax) then
    some { xfer := fld h 0 32, index := fld h 32 32, spos := fld h 64 16, dpos := fld h 80 16, part := Fin.ofNat 32 (fld h 96 5),
           kind := fld h 101 3, region := fld h 104 16, hops := fld h 120 8, off := fld h 128 48, fmt := fld h 200 4,
           epoch := fld h 208 32, tokens := fld h 240 32, dmem := fld h 272 11, data := b.drop 64 }
  else none

/-- Class of a chunk (R282). -/
def chunkClass (x : Chunk) : Nat := if x.kind = 2 then 2 else 3

/-- The route of chunk i of a transfer to a member: route i mod n of the bulk route set, as port and next member (R299). -/
def chunkRoute (s : State) (m i : Nat) : Option (Nat × Nat) :=
  let l := ((s.fabric.bulk.find? (fun e => decide (e.1 = m))).map (fun e => e.2)).getD []
  l[i % max 1 l.length]?

/-- A chunk as it travels its route. CH.HOPS counts the hops that remain after the one it is on (DESIGN CHOICE, log entry 23). -/
def onRoute (x : Chunk) (r : Nat × Nat) : Chunk := { x with hops := if r.2 = x.dmem then 0 else 1 }

/-! ### Chunk buffers (R302) -/

def nBufs : Nat := 48

def freeBuf (s : State) : Option Nat := (List.range nBufs).find? (fun n => (mapFind s.fabric.bufs n).isNone)

def setBuf (s : State) (n : Nat) (b : ChunkBuf) : State := s.withFabric { s.fabric with bufs := mapPut s.fabric.bufs n b }

/-- A chunk in buffer n is to be forwarded on a route. -/
def forwardFrom (s : State) (n : Nat) (x : Chunk) (r : Nat × Nat) : State :=
  let y := onRoute x r
  let s := match mapFind s.fabric.bufs n with
    | some b => setBuf s n { b with due := b.due ++ [r.1] }
    | none => s
  queueTx s r.1 ⟨chunkClass y, chunkBytes y, false, false, none, some n⟩

/-- Who claims a chunk buffer: a port for the class whose chunk's first flit waits, or the Ply engine for a chunk. -/
inductive Claimant where
  | port (n c : Nat)
  | ply (i : Nat)

/-- A claim on a chunk buffer with the parts of its key (R40). -/
structure Claim where
  part : Nat
  src : Nat
  seq : Nat
  who : Claimant

/-- The oldest flit of a class in a port's receive buffer. -/
def rxHead (x : Port) (c : Nat) : Option RxFlit := x.rxq.find? (fun f => decide (f.cls = c))

/-- Does a port fill a chunk buffer for a class? -/
def filling (s : State) (n c : Nat) : Option (Nat × ChunkBuf) :=
  s.fabric.bufs.find? (fun e => decide (e.2.frm = some (n, c)))

/-- The claims of now (R40, R302): a chunk's partition; as its source the port, or the Ply engine after the ports; as its sequence the
place of its first flit in the port's receive buffer, or of the chunk among those that the Ply engine has claimed for (DESIGN CHOICE, log
entry 23: R40 gives a source and a sequence to host queues and tiles only). -/
def claims (s : State) : List Claim :=
  ((List.range 12).map (fun n => [2, 3].filterMap (fun c =>
    match rxHead (portAt s n) c, filling s n c with
    | some f, none => if f.first then some ⟨fld (leNat (f.bytes.take 64)) 96 5, 0x100 + n, (portAt s n).rxq.idxOf f, .port n c⟩ else none
    | _, _ => none))).flatten ++
  s.fabric.chunks.zipIdx.filterMap (fun e =>
    if (chunkRoute s e.1.dmem e.1.index).isSome then some ⟨e.1.part, 0x100 + 12, e.2, .ply e.2⟩ else none)

/-- Does a claim's key come before another's: partition, then source, then sequence (R40)? -/
def claimBefore (a b : Claim) : Bool :=
  decide (a.part < b.part) || (decide (a.part = b.part) && (decide (a.src < b.src) || (decide (a.src = b.src) && decide (a.seq < b.seq))))

/-- The claim with the lowest key. -/
def bestClaim (l : List Claim) : Option Claim :=
  l.foldl (fun acc c => match acc with
    | none => some c
    | some b => if claimBefore c b then some c else some b) none

/-- Flits of a class move from a port's receive buffer into the chunk buffer that it fills, up to the chunk's last; the entries
they free are credits to return (R283, R301). -/
def fillBuf (s : State) (n c : Nat) : State :=
  match filling s n c with
  | none => s
  | some e =>
    let x := portAt s n
    let r := x.rxq.foldl (fun (acc : List RxFlit × List Byte × Nat × Bool) f =>
      if f.cls ≠ c ∨ acc.2.2.2 then (acc.1 ++ [f], acc.2)
      else (acc.1, (if f.first then f.bytes else acc.2.1 ++ f.bytes), acc.2.2.1 + 1, f.last)) ([], e.2.bytes, 0, false)
    let s := setPort s n { x with rxq := r.1, owed := listSet x.owed c (x.owed.getD c 0 + r.2.2.1) }
    setBuf s e.1 { e.2 with bytes := r.2.1, whole := r.2.2.2, frm := if r.2.2.2 then none else e.2.frm }

/-- A flit of a chunk joins the receive buffer of its class, and goes on into the chunk buffer that the port fills (R282, R301). One
that belongs to no chunk begun here is discarded. -/
def bufferFlit (s : State) (n : Nat) (f : RxFlit) : State :=
  let x := portAt s n
  if !f.first && (filling s n f.cls).isNone && (rxHead x f.cls).isNone then
    setPort s n { x with owed := listSet x.owed f.cls (x.owed.getD f.cls 0 + 1) }
  else fillBuf (setPort s n { x with rxq := x.rxq ++ [f] }) n f.cls

/-- The hub's queues are reset (R399 step 3): the chunk buffers are empty, no chunk waits, and what ports hold of chunks that stood in
them goes. The ports keep their links. -/
def dropBuffers (s : State) : State :=
  let qs := s.fabric.ports.map (fun x => x.rxq)
  let s := s.withFabric { s.fabric with
    bufs := [], chunks := [],
    ports := s.fabric.ports.map (fun x => { x with
      tx := x.tx.filter (fun i => i.buf.isNone), replay := x.replay.map (fun f => { f with buf := none }), rxq := [] }) }
  (List.range 12).foldl (fun s n => (qs.getD n []).foldl (fun s f => bufferFlit s n f) s) s

/-- Grant a free buffer to a claim. -/
def grant (s : State) (n : Nat) (c : Claim) : State :=
  match c.who with
  | .port k cls => fillBuf (setBuf s n ⟨some (k, cls), [], false, false, [], none⟩) k cls
  | .ply i =>
    match s.fabric.chunks[i]? with
    | none => s
    | some x =>
      match chunkRoute s x.dmem x.index with
      | none => s
      | some r =>
        let s := s.withFabric { s.fabric with chunks := s.fabric.chunks.eraseIdx i }
        forwardFrom (setBuf s n ⟨none, chunkBytes x, true, true, [], some x.xfer⟩) n x r

/-- Free buffers go to the claims, one after the other (R40, R302). -/
def serveClaims (s : State) : State :=
  (List.range nBufs).foldl (fun s _ => match freeBuf s, bestClaim (claims s) with
    | some n, some c => grant s n c
    | _, _ => s) s

/-- A buffer whose chunk has been written here and forwarded on every hop is free (R302). A chunk is forwarded when the link has
acknowledged its last flit. -/
def bufDone (s : State) (n : Nat) : State :=
  match mapFind s.fabric.bufs n with
  | some b => if b.whole && b.written && decide (b.due = []) then
      serveClaims (s.withFabric { s.fabric with bufs := mapDel s.fabric.bufs n }) else s
  | none => s

/-- The chunk of a buffer is lost on its way: where it is one of this module's, its transfer never lands whole (R301, R312). -/
def bufLost (s : State) (n : Nat) : State :=
  match (mapFind s.fabric.bufs n).bind (fun b => b.own) with
  | some x => s.withFabric { s.fabric with lostX := setPut s.fabric.lostX x true }
  | none => s

/-- The chunk of a buffer has gone, or will not go, on a port. -/
def bufSent (s : State) (n port : Nat) : State :=
  match mapFind s.fabric.bufs n with
  | some b => bufDone (setBuf s n { b with due := b.due.erase port }) n
  | none => s

/-- A chunk of the Ply engine for another member waits for its buffer and its route. -/
def sendChunk (s : State) (x : Chunk) : State :=
  serveClaims (s.withFabric { s.fabric with chunks := s.fabric.chunks ++ [x] })

/-- What a port has not begun to send goes another way, where there is one (R289, R318): a chunk takes another route of its set,
a message is sent again when it is due. -/
def moveTx (s : State) (n : Nat) : State :=
  let x := portAt s n
  let s := setPort s n { x with tx := x.tx.filter (fun e => e.begun) }
  (x.tx.filter (fun e => !e.begun)).foldl (fun s e =>
    match e.buf, chunkOf e.bytes with
    | some b, some y =>
      let s := match mapFind s.fabric.bufs b with
        | some z => setBuf s b { z with due := z.due.erase n }
        | none => s
      (match chunkRoute s y.dmem y.index with
      | some r => forwardFrom s b y r
      | none => bufDone (bufLost s b) b)
    | _, _ => s) s

/-- What a port that goes down had begun, and what it was receiving, is lost (R287, R301). -/
def dropTraffic (s : State) (n : Nat) : State :=
  let x := portAt s n
  let begun := (x.tx.filter (fun e => e.begun)).filterMap (fun e => e.buf) ++ x.replay.filterMap (fun f => f.buf)
  let s := moveTx s n
  let s := setPort s n { portAt s n with tx := [], rxq := [], rx := [], replay := [] }
  let s := begun.foldl (fun s b => bufSent (bufLost s b) b n) s
  let s := s.withFabric { s.fabric with
    ports := s.fabric.ports.map (fun y => { y with tx := y.tx.filter (fun e => !(decide (e.src = some n) && e.more)) }),
    bufs := s.fabric.bufs.filter (fun e => decide ((e.2.frm.map (fun f => f.1)) ≠ some n)) }
  serveClaims s

end Sys2Proof.Machine
end

