-- ==== Sys2Proof/Machine/Lanes.lean ====
section
/-! DEFINITION. What one lane of the element-wise engine computes: the operations of R126, the softmax
operations of R127 and the table functions of R128 and R129. -/

namespace Sys2Proof.Machine

open Sys2Proof

def f32Zero : Word32 := 0
def f32One : Word32 := 0x3F800000
def f32NegOne : Word32 := 0xBF800000
def f32Inf : Word32 := 0x7F800000
def f32NegInf : Word32 := 0xFF800000
def f32NaN : Word32 := 0x7FC00000

/-! ### Table functions (R128, R424) -/

/-- Level tables by their directory entry (R129). -/
def tabExp2 : Nat := 0
def tabLog2 : Nat := 1
def tabExp : Nat := 2
def tabLog : Nat := 3
def tabRcp : Nat := 4
def tabRsqrt : Nat := 5
def tabTanh : Nat := 6
def tabErf : Nat := 7
def tabSin : Nat := 8
def tabCos : Nat := 9

def tabAt (ts : List TabD) (n : Nat) : TabD := ts.getD n ⟨0, 0, []⟩

/-- Coefficient j of segment k of a level table: triples C0, C1, C2. -/
def coef (ts : List TabD) (tab k j : Nat) : Word32 := (tabAt ts tab).vals.getD (3 * k + j) 0

/-- Segment k and position t of a nonnegative q = m × 2^e, both exact (R128). -/
def splitQ (m : Nat) (e : Int) : Nat × FVal :=
  if 0 ≤ e then (m <<< e.toNat, .fin false 0 0)
  else (m >>> (-e).toNat, .fin false (m % 2 ^ (-e).toNat) e)

/-- An exact value rounded to F32 with RNE. -/
def rneW (x : Exact) : Word32 := (toF32 .rne 0 x).x

/-- y = fl(fl(fl(fl(C2 × t) + C1) × t) + C0) (R128). -/
def segEval (ts : List TabD) (tab k : Nat) (t : FVal) : Word32 :=
  let c (j : Nat) : FVal := f32v (coef ts tab k j)
  let a := rneW (exMul (c 2) t)
  let b := rneW (exAdd .rne (f32v a) (c 1))
  let d := rneW (exMul (f32v b) t)
  rneW (exAdd .rne (f32v d) (c 0))

/-- A table function's result: NX whenever it differs from the exact value (none: no dyadic value is exact),
UF where such a result is tiny, and the flags that the final scaling raises. -/
def tabResult (r : Word32F) (exact : Option FVal) : Word32F :=
  let v := f32v r.x
  let nx := match exact with
    | some e => !fvalEq v e
    | none => true
  let tiny := match v with
    | .fin _ m e => fmtF32.tiny m e || decide (m = 0)
    | _ => false
  ⟨r.x, (r.fl &&& flagOF) ||| flagIf nx flagNX ||| flagIf (nx && tiny) flagUF⟩

/-- Split a positive finite m × 2^e as a significand in [1, 2), less one and times 256, and an exponent:
q as an exact dyadic, n. -/
def mantQ (m : Nat) (e : Int) : (Nat × Int) × Int :=
  let b := bitLen m
  ((m - 2 ^ (b - 1), 9 - (b : Int)), e + b - 1)

/-- fl(y × 2^n). -/
def scaleF (y : Word32) (n : Int) : Word32F := toF32 .rne 0 (exScale (f32v y) n)

/-- floor of m × 2^e with sign s, and the nonnegative rest as m' × 2^e'. -/
def floorOf (s : Bool) (m : Nat) (e : Int) : Int × (Nat × Int) :=
  if 0 ≤ e then ((if s then -((m <<< e.toNat : Nat) : Int) else (m <<< e.toNat : Nat)), (0, 0))
  else
    let d := (-e).toNat
    let f := m >>> d
    let r := m % 2 ^ d
    if s then (if r = 0 then (-(f : Int), (0, e)) else (-(f : Int) - 1, (2 ^ d - r, e)))
    else ((f : Int), (r, e))

/-- Is a finite magnitude above p/q (or not below, with `eq`)? -/
def magAbove (m : Nat) (e : Int) (p q : Nat) (eq : Bool) : Bool :=
  dyLt p 0 (q * m) e || (eq && dyEq p 0 (q * m) e)

/-- The NaN of a table function (R91). -/
def nanArg (a : FVal) : Word32F := toF32 .rne 0 (nanOf [a] 0#7)

/-- FEXP2 (R128). -/
def fexp2 (ts : List TabD) (x : Word32) : Word32F :=
  match f32v x with
  | .nan s p g => nanArg (.nan s p g)
  | .inf s => ⟨if s then 0 else f32Inf, 0#7⟩
  | .fin s m e =>
    if !s && magAbove m e 128 1 true then ⟨f32Inf, flagOF ||| flagNX⟩
    else if s && magAbove m e 150 1 false then ⟨0, flagUF ||| flagNX⟩
    else
      let f := floorOf s m e
      let q := splitQ f.2.1 (f.2.2 + 8)
      let r := scaleF (segEval ts tabExp2 q.1 q.2) f.1
      tabResult r (if f.2.1 = 0 then some (.fin false 1 f.1) else none)

/-- FEXP (R128). The largest q is the largest F32 below 256. -/
def fexp (ts : List TabD) (x : Word32) : Word32F :=
  match f32v x with
  | .nan s p g => nanArg (.nan s p g)
  | .inf s => ⟨if s then 0 else f32Inf, 0#7⟩
  | .fin s m e =>
    if !s && magAbove m e 887 10 false then ⟨f32Inf, flagOF ||| flagNX⟩
    else if s && magAbove m e 1039 10 false then ⟨0, flagUF ||| flagNX⟩
    else
      let l : Word32 := 0x3FB8AA3B
      let al := f32mul x l
      let n : Int := match f32v al.x with
        | .fin sg m e =>
          let g := roundAt .rne 0 sg m e 0
          let k : Int := ((g.m : Int) * 2 ^ g.e.toNat)
          if sg then -k else k
        | _ => 0
      let nf := (valOfInt (-n) 0 false)
      let r := rneW (exFma .rne nf (f32v 0x3F317200) (.fin s m e))
      let r := rneW (exFma .rne nf (f32v 0x35BFBE8E) (f32v r))
      let sv := (f32add (f32mul r l).x 0x3F000000).x
      match f32v sv with
      | .fin true (_ + 1) _ => ⟨Config.fexpGap x, flagNX⟩
      | .fin _ qm qe =>
        let q := splitQ qm (qe + 8)
        let q := if 256 ≤ q.1 then splitQ 16777215 (-16) else q
        tabResult (scaleF (segEval ts tabExp q.1 q.2) n) (if m = 0 then some (.fin false 1 0) else none)
      | _ => ⟨Config.fexpGap x, flagNX⟩

/-- FLOG2 and FLOG (R128). -/
def flogs (ts : List TabD) (nat : Bool) (x : Word32) : Word32F :=
  match f32v x with
  | .nan s p g => nanArg (.nan s p g)
  | .inf s => if s then ⟨f32NaN, flagNV⟩ else ⟨f32Inf, 0#7⟩
  | .fin s m e =>
    if m = 0 then ⟨f32NegInf, flagDZ⟩
    else if s then ⟨f32NaN, flagNV⟩
    else
      let mq := mantQ m e
      let q := splitQ mq.1.1 mq.1.2
      let y := segEval ts (if nat then tabLog else tabLog2) q.1 q.2
      let n := valOfInt mq.2 0 false
      let pow2 := decide (mq.1.1 = 0)
      if nat then
        let i := rneW (exFma .rne n (f32v 0x35BFBE8E) (f32v y))
        tabResult (toF32 .rne 0 (exFma .rne n (f32v 0x3F317200) (f32v i)))
          (if pow2 && decide (mq.2 = 0) then some (.fin false 0 0) else none)
      else
        tabResult (toF32 .rne 0 (exAdd .rne n (f32v y))) (if pow2 then some n else none)

/-- FRCP (R128). -/
def frcp (ts : List TabD) (x : Word32) : Word32F :=
  match f32v x with
  | .nan s p g => nanArg (.nan s p g)
  | .inf s => ⟨if s then 0x80000000 else 0, 0#7⟩
  | .fin s m e =>
    if m = 0 then ⟨if s then f32NegInf else f32Inf, flagDZ⟩
    else
      let mq := mantQ m e
      let q := splitQ mq.1.1 mq.1.2
      let r := scaleF (segEval ts tabRcp q.1 q.2) (-mq.2)
      let r := { r with x := r.x ||| (if s then 0x80000000 else 0) }
      tabResult r (if mq.1.1 = 0 then some (.fin s 1 (-mq.2)) else none)

/-- FRSQRT (R128): A = m × 4^n with m in [1, 4). -/
def frsqrt (ts : List TabD) (x : Word32) : Word32F :=
  match f32v x with
  | .nan s p g => nanArg (.nan s p g)
  | .inf s => if s then ⟨f32NaN, flagNV⟩ else ⟨0, 0#7⟩
  | .fin s m e =>
    if m = 0 then ⟨if s then f32NegInf else f32Inf, flagDZ⟩
    else if s then ⟨f32NaN, flagNV⟩
    else
      let mq := mantQ m e
      let odd := decide (mq.2 % 2 ≠ 0)
      let n := mq.2 / 2
      let q := splitQ mq.1.1 mq.1.2
      let y := segEval ts tabRsqrt (if odd then 256 + q.1 else q.1) q.2
      tabResult (scaleF y (-n)) (if mq.1.1 = 0 && !odd then some (.fin false 1 (-n)) else none)

/-- FTANH and FERF (R128). -/
def ftanhErf (ts : List TabD) (erf : Bool) (x : Word32) : Word32F :=
  match f32v x with
  | .nan s p g => nanArg (.nan s p g)
  | .inf s => ⟨if s then f32NegOne else f32One, flagIf erf flagNX⟩
  | .fin s m e =>
    if dyLt m e 1 (-12) then
      if erf then
        let r := f32mul x 0x3F906EBB
        if m = 0 then ⟨r.x, 0#7⟩ else tabResult r none
      else ⟨x, flagIf (decide (m ≠ 0)) flagNX⟩
    else if magAbove m e (if erf then 4 else 9) 1 true then ⟨if s then f32NegOne else f32One, flagNX⟩
    else
      let q := splitQ m (e + (if erf then 6 else 5))
      let y := segEval ts (if erf then tabErf else tabTanh) q.1 q.2
      tabResult ⟨if s then y ^^^ 0x80000000 else y, 0#7⟩ none

/-- FSIGM (R128): no table of its own. -/
def fsigm (ts : List TabD) (x : Word32) : Word32F :=
  match f32v x with
  | .nan s p g => nanArg (.nan s p g)
  | .inf s => ⟨if s then 0 else f32One, 0#7⟩
  | .fin s m _ =>
    let r := if s || decide (m = 0) then
        let e := fexp ts x
        f32div e.x (f32add f32One e.x).x
      else f32div f32One (f32add f32One (fexp ts (x ^^^ 0x80000000)).x).x
    tabResult r (if m = 0 then some (.fin false 1 (-1)) else none)

/-- FSINPI and FCOSPI (R128). -/
def fsincos (ts : List TabD) (cos : Bool) (x : Word32) : Word32F :=
  match f32v x with
  | .nan s p g => nanArg (.nan s p g)
  | .inf _ => ⟨f32NaN, flagNV⟩
  | .fin s m e =>
    let f := floorOf false m (e + 1)
    let j0 := (f.1 % 4).toNat
    let j := if cos then (j0 + 1) % 4 else j0
    let q := splitQ f.2.1 (f.2.2 + 8)
    let y := segEval ts (if j % 2 = 0 then tabSin else tabCos) q.1 q.2
    let neg := xor (decide (2 ≤ j)) (!cos && s)
    let mag := y &&& 0x7FFFFFFF
    let half := decide (f.2.1 = 0)
    if mag = 0 then
      ⟨if !cos && s then 0x80000000 else 0, flagIf (!(half && decide (j % 2 = 0))) flagNX⟩
    else
      let v : Word32 := if neg then y ^^^ 0x80000000 else y
      tabResult ⟨v, 0#7⟩
        (if half then some (if j % 2 = 0 then .fin false 0 0 else .fin neg 1 0) else none)

/-- TLU (R126). -/
def tlu (ts : List TabD) (tab : Nat) (a : Word32) : Word32F :=
  let t := tabAt ts (16 + tab)
  if a.toInt < 0 ∨ t.count ≤ a.toNat then ⟨0, flagNV⟩ else ⟨t.vals.getD a.toNat 0, 0#7⟩

/-- TLI (R129). -/
def tli (ts : List TabD) (tab : Nat) (a : Word32) : Word32F :=
  let t := tabAt ts (16 + tab)
  let b := bitLen (t.count - 1) - 1
  let d := 32 - b
  let k := a.toNat >>> d
  let tf := toF32 .rne 0 ⟨.fin false (a.toNat % 2 ^ d) (-(d : Int)), 0#7⟩
  let v (i : Nat) : Word32 := t.vals.getD i 0
  let u := f32sub (v (k + 1)) (v k)
  let p := f32mul tf.x u.x
  let r := f32add (v k) p.x
  ⟨r.x, tf.fl ||| u.fl ||| p.fl ||| r.fl⟩

/-- SMEXP (R127), its result in F32. -/
def smexp (ts : List TabD) (kappa a b : Word32) : Word32F :=
  if a = f32NegInf ∧ b = f32NegInf then ⟨0, 0#7⟩
  else
    let d := f32sub a b
    let y := f32mul d.x kappa
    let r := fexp2 ts y.x
    ⟨r.x, d.fl ||| y.fl ||| r.fl⟩

/-! ### Operations (R126) -/

/-- How many of the operands A, B and C an operation reads. -/
def opReads (op : Nat) : Nat :=
  if op = 0x03 ∨ op = 0x15 ∨ op = 0x39 then 3
  else if [0x05, 0x0A, 0x0B, 0x0D, 0x0F, 0x16, 0x17, 0x33, 0x34].contains op then 1
  else if 0x28 ≤ op ∧ op ≤ 0x32 then 1
  else 2

/-- The operands that an operation reads. -/
def boolW (b : Bool) : Word32 := if b then 1 else 0

/-- An integer result, clamped or wrapped (R126). -/
def intRes (sat : Bool) (i : Int) : Word32F :=
  if sat && decide (2147483647 < i) then ⟨0x7FFFFFFF, flagSA ||| flagNX⟩
  else if sat && decide (i < -2147483648) then ⟨0x80000000, flagSA ||| flagNX⟩
  else ⟨BitVec.ofInt 32 i, 0#7⟩

/-- Is a value odd integral or rounded: FRINT (R126). -/
def frint (rm : RMode) (a : FVal) : Exact :=
  match a with
  | .nan _ _ _ => nanOf [a] 0#7
  | .inf s => ⟨.inf s, 0#7⟩
  | .fin s m e =>
    let g := roundAt rm 0 s m e 0
    ⟨.fin s g.m g.e, flagIf g.inexact flagNX⟩

/-- A conversion's code as a lane holds it: floating and X8 targets as F32, the others as I32. -/
def codeToLane (f : Fmt) (c : CodeF) : Word32F :=
  match f with
  | .i32 | .i16 | .i8 | .i4 => ⟨BitVec.ofInt 32 (signOf f.bits c.code), c.fl⟩
  | .u8 | .m1 => ⟨BitVec.ofNat 32 c.code, c.fl⟩
  | .f32 => ⟨BitVec.ofNat 32 c.code, c.fl⟩
  | _ => ⟨(toF32 .rne 0 ⟨(decodeCode f c.code).quiet, 0#7⟩).x, c.fl⟩

/-- Signalling or quiet comparison flag. -/
def cmpFlag (signalling : Bool) (a b : FVal) : FlagWord :=
  flagIf (if signalling then a.isNaN || b.isNaN else a.isSig || b.isSig) flagNV

/-- A table function with EP.P = 1 rounds its F32 result to binary16. -/
def tabP (p : Bool) (r : Word32F) : Word32F :=
  if p then
    let h := toP16 .rne 0 ⟨f32v r.x, 0#7⟩
    ⟨h.x, r.fl ||| h.fl⟩
  else r

/-- One stage's operation on one lane. `u` holds the 16 bits of a stochastic rounding. -/
def laneOp (ts : List TabD) (kappa : Word32) (op : Nat) (p : Bool) (rm : RMode) (u : Nat) (sat : Bool) (fmt : Nat)
    (a b c : Word32) : Word32F :=
  let va := f32v a
  let vb := f32v b
  let vc := f32v c
  let fin (x : Exact) : Word32F := toLane p rm u x
  let cmp (sg : Bool) (r : Bool) : Word32F := ⟨boolW r, cmpFlag sg va vb⟩
  let un := va.isNaN || vb.isNaN
  let sh := b.toNat % 32
  match op with
  | 0x00 => fin (exAdd rm va vb)
  | 0x01 => fin (exAdd rm va vb.negNum)
  | 0x02 => fin (exMul va vb)
  | 0x03 => fin (exFma rm va vb vc)
  | 0x04 => fin (exDiv va vb)
  | 0x05 => fin (exSqrt va)
  | 0x06 => fin (exMinMax false va vb)
  | 0x07 => fin (exMinMax true va vb)
  | 0x08 => fin (exMinMaxNum false va vb)
  | 0x09 => fin (exMinMaxNum true va vb)
  | 0x0A => ⟨a &&& 0x7FFFFFFF, 0#7⟩
  | 0x0B => ⟨a ^^^ 0x80000000, 0#7⟩
  | 0x0C => ⟨(a &&& 0x7FFFFFFF) ||| (b &&& 0x80000000), 0#7⟩
  | 0x0D => fin (frint rm va)
  | 0x0E => fin (exScale va (max (-600) (min 600 b.toInt)))
  | 0x0F => (match Fmt.ofCode fmt with
    | some f => codeToLane f (convert f rm u va)
    | none => ⟨0, 0#7⟩)
  | 0x10 => cmp false (fvalEq va vb)
  | 0x11 => cmp false (!fvalEq va vb)
  | 0x12 => cmp true (!un && fvalLt false va vb)
  | 0x13 => cmp true (!un && !fvalLt false vb va)
  | 0x14 => cmp false un
  | 0x15 => ⟨if c = 0 then b else a, 0#7⟩
  | 0x16 => fin ⟨valOfInt a.toInt 0 false, 0#7⟩
  | 0x17 => ⟨a, 0#7⟩
  | 0x18 => intRes sat (a.toInt + b.toInt)
  | 0x19 => intRes sat (a.toInt - b.toInt)
  | 0x1A => intRes sat (a.toInt * b.toInt)
  | 0x1B => ⟨if a.toInt ≤ b.toInt then a else b, 0#7⟩
  | 0x1C => ⟨if b.toInt ≤ a.toInt then a else b, 0#7⟩
  | 0x1D => ⟨boolW (decide (a = b)), 0#7⟩
  | 0x1E => ⟨boolW (decide (a.toInt < b.toInt)), 0#7⟩
  | 0x1F => ⟨boolW (decide (a.toNat < b.toNat)), 0#7⟩
  | 0x20 => ⟨a &&& b, 0#7⟩
  | 0x21 => ⟨a ||| b, 0#7⟩
  | 0x22 => ⟨a ^^^ b, 0#7⟩
  | 0x23 => ⟨a &&& ~~~ b, 0#7⟩
  | 0x24 => ⟨a <<< sh, 0#7⟩
  | 0x25 => ⟨a >>> sh, 0#7⟩
  | 0x26 => ⟨a.sshiftRight sh, 0#7⟩
  | 0x27 => ⟨a.rotateLeft sh, 0#7⟩
  | 0x28 => tabP p (fexp2 ts a)
  | 0x29 => tabP p (flogs ts false a)
  | 0x2A => tabP p (fexp ts a)
  | 0x2B => tabP p (flogs ts true a)
  | 0x2C => tabP p (frcp ts a)
  | 0x2D => tabP p (frsqrt ts a)
  | 0x2E => tabP p (ftanhErf ts false a)
  | 0x2F => tabP p (fsigm ts a)
  | 0x30 => tabP p (ftanhErf ts true a)
  | 0x31 => tabP p (fsincos ts false a)
  | 0x32 => tabP p (fsincos ts true a)
  | 0x33 => tlu ts fmt a
  | 0x34 => tli ts fmt a
  | 0x38 => tabP p (smexp ts kappa a b)
  | 0x39 =>
    let e := smexp ts kappa b c
    let r := fin (exMul va (f32v e.x))
    ⟨r.x, e.fl ||| r.fl⟩
  | 0x3A => if va.isZero && vb.isZero then ⟨0, 0#7⟩ else fin (exDiv va vb)
  | _ => ⟨0, 0#7⟩

end Sys2Proof.Machine
end

