-- ==== Sys2Proof/Machine/Tiles.lean ====
section
/-! DEFINITION. Queues of a tile (R17 to R20, R26, R37): the head of each queue, passing words to engines,
loops, removing a word, and the segment's program. -/

namespace Sys2Proof.Machine

open Sys2Proof

/-- The program of a partition's running turn. -/
def runOf (x : Part) : Option Run := x.camp.bind (fun c => c.run)

def progOf (x : Part) : Option Program := (runOf x).bind (fun r => mapFind x.progs r.slot)

def segDesc (p : Program) (id : Nat) : Option SegD := p.segs.find? (fun d => decide (d.id = id))

/-- Descriptor of the segment that a tile runs. -/
def tileSeg (s : State) (a : TileAt) : Option SegD :=
  match progOf (partAt s a.part), (tileAt s a.part a.tile).seg with
  | some p, some r => segDesc p r.seg
  | _, _ => none

/-- Depth of an engine queue: 8 entries and the spilled ones of section 4 (R26). -/
def queueDepth (s : State) (a : TileAt) (q : Nat) : Nat :=
  let d := (progOf (partAt s a.part)).bind (fun p => p.sec.depths.find? (fun d => decide (d.tile = a.tile.val)))
  8 + (match d with
    | some d => if q = 1 then d.d1 else if q = 2 then d.d2 else d.d3
    | none => 0)

def queueAt (t : Tile) (q : Nat) : List QWord := if q = 1 then t.q1 else if q = 2 then t.q2 else t.q3

def setQueue (t : Tile) (q : Nat) (l : List QWord) : Tile :=
  if q = 1 then { t with q1 := l } else if q = 2 then { t with q2 := l } else { t with q3 := l }

def sreg (t : Tile) (r : Nat) : Word64 := if r = 0 then 0 else mapGet 0 t.sregs r

/-- Write a scalar register; writes to s0 are discarded (R19). -/
def setSreg (t : Tile) (r : Nat) (v : Word64) : Tile :=
  if r = 0 then t else { t with sregs := mapSet 0 t.sregs r v }

def sem (t : Tile) (n : Nat) : Nat := mapGet 0 t.sems n
def setSem (t : Tile) (n v : Nat) : Tile := { t with sems := mapSet 0 t.sems n v }

/-- Scalar registers that a chain word names, read as the word is passed (R125). -/
def capture (t : Tile) (w : TWord) : List Word64 :=
  match w with
  | .ewhead h => [sreg t h.kappa.toNat, sreg t h.lic.toNat]
  | .eworg o => [sreg t o.treg.toNat]
  | .ewsrc e => [sreg t e.sreg.toNat]
  | .ewop o => [sreg t o.sreg.toNat]
  | .ewdst d => [sreg t d.sreg.toNat]
  | _ => []

/-- Where the sequencer goes after the word before `pc`, given the loops around it (R20). -/
def loopNext : List LoopFrame → Nat → Nat × List LoopFrame
  | [], pc => (pc, [])
  | f :: r, pc =>
    if pc = f.start + f.len then
      if 1 < f.left then (f.start, { f with left := f.left - 1 } :: r) else loopNext r pc
    else (pc, f :: r)

/-- Move past a word. -/
def stepPc (t : Tile) (pc : Nat) : Tile :=
  let n := loopNext t.loops pc
  { t with pc := n.1, loops := n.2 }

/-- Pass the words at the sequencer's place to their engine queues, until a word of its own, a full queue, or
a word of a queue that its SEGEND has closed (R18, R26, R37). The second answer is that word's index. While words are spilled, the T0 bytes of
the spill area keep what they held (DESIGN CHOICE, log entry 30: R27 gives no content layout). -/
def passWords (depth : Nat → Nat) : Nat → Tile → Tile × Option Nat
  | 0, t => (t, none)
  | fuel + 1, t =>
    match t.words[t.pc]? with
    | none => (t, none)
    | some w =>
      let q := queueOf w
      if q = 0 then (t, none)
      else if t.closed.contains q then (t, some t.pc)
      else if depth q ≤ (queueAt t q).length then (t, none)
      else
        let d := decodeWord w
        let t1 := setQueue t q (queueAt t q ++ [⟨w, t.pc, capture t d, 0⟩])
        let t2 := match d with
          | .segend _ => { t1 with closed := q :: t1.closed }
          | _ => t1
        passWords depth fuel (stepPc t2 (t2.pc + 1))

/-- Let the sequencer pass what it can; a word of a closed queue, or a list that ends without its SEGEND,
raises SEGMENT_FORM (R36, R37). -/
def seqPass (s : State) (a : TileAt) : State :=
  let t := tileAt s a.part a.tile
  let r := passWords (queueDepth s a) 3100 t
  let s := setTile s a.part a.tile r.1
  match r.2 with
  | some ix => tileFault s a 0 ix 0x030B 0 0
  | none => if r.1.words.length ≤ r.1.pc && !r.1.ended.contains 0 && r.1.seg.isSome
    then tileFault s a 0 r.1.pc 0x030B 0 0 else s

/-- The word at the head of a queue. -/
def headWord (t : Tile) (q : Nat) : Option QWord :=
  if q = 0 then (t.words[t.pc]?).bind (fun w => if queueOf w = 0 then some ⟨w, t.pc, [], 0⟩ else none)
  else (queueAt t q).head?

/-- Is queue q blocked by a WAIT? -/
def semBlocked (t : Tile) (q : Nat) : Bool := t.blocked.any (fun b => decide (b.q = q) && b.ring.isNone)

/-- Words of a chain (R118). -/
def chainLen (c : ChainAsm) : Nat :=
  2 + b2n c.head.org + c.head.nsrc.toNat + c.head.nst.toNat + c.head.ndst.toNat

/-- Every word of the chain has arrived. -/
def chainFull (c : ChainAsm) : Bool := decide (chainLen c ≤ c.n)

/-- Does the engine of queue q still work on an earlier word, or hold a chain that is to start? -/
def engineBusy (t : Tile) (q : Nat) : Bool :=
  if q = 1 then t.mxPend.isSome
  else if q = 2 then t.chPend.isSome || t.sampWait.isSome || (t.chain.map chainFull).getD false
  else false

/-- Does the engine of queue q take the next word: the tile runs a segment, the queue is neither ended nor
blocked, and the word at its head is w? -/
def atHead (s : State) (a : TileAt) (q : Nat) (w : TWord) : Option QWord :=
  let t := tileAt s a.part a.tile
  if issues s a.part && decide (a.tile.val < nTiles s a.part) && t.seg.isSome && !t.ended.contains q &&
      !semBlocked t q && !engineBusy t q then
    (headWord t q).bind (fun h => if decodeWord h.raw = w then some h else none)
  else none

/-- The head word of queue q is done: it leaves the queue (the sequencer moves on), then words are passed. -/
def popWord (t : Tile) (q : Nat) : Tile :=
  let t := { t with blocked := t.blocked.filter (fun b => b.q ≠ q) }
  if q = 0 then stepPc t (t.pc + 1) else setQueue t q (queueAt t q).tail

/-- Replace the tile's state after its queue's head word, and let the sequencer pass words. -/
def finishWord (s : State) (a : TileAt) (q : Nat) (t : Tile) : State :=
  seqPass (setTile s a.part a.tile (popWord t q)) a

/-- A chain is being assembled in queue q: any word but the next one of the chain breaks it (R118). -/
def chainOpen (t : Tile) (q : Nat) : Bool := decide (q = 2) && t.chain.isSome

/-- CHAIN_FORM (R146): word index within the chain, reason. -/
def chainFault (s : State) (a : TileAt) (ix word reason : Nat) : State :=
  tileFault s a 2 ix 0x031A 0 (word + 256 * reason)

/-- Word index within the chain being assembled. -/
def chainWordIx (t : Tile) : Nat := (t.chain.map (fun c => c.n)).getD 0

end Sys2Proof.Machine
end

