-- ==== Sys2Proof/Machine/Walks.lean ====
section
/-! DEFINITION. Tile memory windows (R34, R35), tensor descriptors and walks (R167 to R171), the checks of
arming (R172), reading the head bobbin and popping it (R165, R166, R175). -/

namespace Sys2Proof.Machine

open Sys2Proof

/-! ### T0 windows and poison -/

def t0Size : Nat := 8388608

/-- Does a range touch the tile's spill area (R27): where section 4 declares one for it, 32 bytes for each spilled entry of its
engine queues and 7,680 for the inbound signal queue? A tile for which section 4 has no entry has no declared area (log
entry 28). -/
def spillHit (s : State) (a : TileAt) (addr n : Nat) : Bool :=
  match (progOf (partAt s a.part)).bind (fun p => p.sec.depths.find? (fun d => decide (d.tile = a.tile.val))) with
  | some d => overlap addr n d.spill (32 * (d.d1 + d.d2 + d.d3) + 7680)
  | none => false

/-- Windows of a segment on a tile: all of them, or the write windows only. -/
def winsOf (p : Program) (seg tile : Nat) (wr : Bool) : List Win :=
  p.sec.windows.filter (fun w => decide (w.seg = seg) && decide (w.tile = tile) && (w.write || !wr))

/-- Is every 4 KiB unit of [addr, addr + n) inside some window? -/
def coveredBy (ws : List Win) (addr n : Nat) : Bool :=
  decide (n = 0) || (List.range ((addr + n - 1) / 4096 - addr / 4096 + 1)).all (fun k =>
    ws.any (fun w => decide (w.base ≤ addr / 4096 + k) && decide (addr / 4096 + k < w.base + w.size)))

/-- May the running segment read (or write) these bytes of its tile's T0 (R35)? -/
def t0Ok (s : State) (a : TileAt) (wr : Bool) (addr n : Nat) : Bool :=
  match progOf (partAt s a.part), (tileAt s a.part a.tile).seg with
  | some p, some r => decide (addr + n ≤ t0Size) && !spillHit s a addr n && coveredBy (winsOf p r.seg a.tile wr) addr n
  | _, _ => false

/-- The place in section 5 of the segment's window on a tile that holds a T0 offset. -/
def winIx (p : Program) (seg tile addr : Nat) : Option Nat :=
  (p.sec.windows.zipIdx.find? (fun e => decide (e.1.seg = seg) && decide (e.1.tile = tile) &&
    decide (e.1.base ≤ addr / 4096) && decide (addr / 4096 < e.1.base + e.1.size))).map (fun e => e.2)

/-- EXTENT of an access to T0 (R35): FR.DETAIL is the place, in section 5's list, of the segment's window on the tile that
holds the first byte and that the access leaves or may not write (R45). -/
def t0Extent (s : State) (a : TileAt) (q ix addr : Nat) : State :=
  extentFault s a q ix addr (match progOf (partAt s a.part), (tileAt s a.part a.tile).seg with
    | some p, some r => winIx p r.seg a.tile addr
    | _, _ => none)

/-- Write bytes to T0 with their poison tag. -/
def t0Write (t : Tile) (addr : Nat) (b : List Byte) (p : Tag) : Tile :=
  { t with t0 := memWrite t.t0 addr b, pois := tagRange t.pois addr b.length p }

/-- The poison of the bytes of element n of a packed run at `base`. -/
def elemPois (t : Tile) (base : Nat) (f : Fmt) (n : Nat) : Tag :=
  let bit := elemBit f n
  tagFirst t.pois (base + bit / 8) ((bit % 8 + f.bits + 7) / 8)

/-! ### Geometry (R167, R169, R171) -/

def TDesc.size (t : TDesc) : Nat → Nat
  | 0 => t.size0 | 1 => t.size1 | 2 => t.size2 | 3 => t.size3 | _ => t.size4

def TDesc.stride (t : TDesc) : Nat → Nat
  | 0 => 0 | 1 => t.stride1 | 2 => t.stride2 | 3 => t.stride3 | _ => t.stride4

def Walk.fmt (w : Walk) : Fmt := (Fmt.ofCode w.td.fmt).getD .f32

/-- Elements of a block. -/
def RingRec.elems (r : RingRec) : Nat := if r.vec then 64 else 4096

/-- Element and plane bytes of a block, without padding. -/
def Walk.rawBytes (w : Walk) : Nat :=
  packedBytes w.fmt w.r.elems + (if w.td.scl then w.r.elems / sblkLen w.td.sblk else 0)

/-- Pitch P (R167). -/
def Walk.pitch (w : Walk) : Nat := cdiv w.rawBytes 64 * 64

/-- Blocks and bobbins of a walk. -/
def Walk.blocks (w : Walk) : Nat := (w.r.loops.map (fun l => l.count)).prod
def Walk.bobs (w : Walk) : Nat := w.blocks / w.r.bpb

def RingRec.nslots (r : RingRec) : Nat := r.slots + 1

/-- Unit of a step on a dimension (R171 point 3). -/
def stepUnit (r : RingRec) (d : Nat) : Int := if d = 0 ∨ (d = 1 ∧ r.vec = false) then 64 else 1

/-- Origin of block b on dimension d. -/
def originAt (r : RingRec) (b d : Nat) : Int :=
  (r.loops.foldl (fun (acc : Nat × Int) l =>
    (acc.1 / l.count, acc.2 + (if l.dim = d then ((acc.1 % l.count : Nat) : Int) * l.step * stepUnit r d else 0)))
    (b, 0)).2

/-- Coordinate d of element (i, j) of block b (R171 point 4). -/
def coordAt (w : Walk) (b i j d : Nat) : Int :=
  originAt w.r b d + (if d = 0 then (j : Int) else if d = 1 && !w.r.vec then (i : Int) else 0)

/-- Does element (i, j) of block b exist (R169)? -/
def elemExists (w : Walk) (b i j : Nat) : Bool :=
  (List.range 5).all (fun d => decide (0 ≤ coordAt w b i j d) && decide (coordAt w b i j d < w.td.size d))

/-- Byte offset of row (x1, ..., x4) of the tensor. -/
def rowOff (w : Walk) (x : Nat → Nat) : Nat :=
  w.td.off + x 1 * w.td.stride 1 + x 2 * w.td.stride 2 + x 3 * w.td.stride 3 + x 4 * w.td.stride 4

/-- Linear index of an element (R169). -/
def linIx (t : TDesc) (x : Nat → Nat) : Nat :=
  (((x 4 * t.size3 + x 3) * t.size2 + x 2) * t.size1 + x 1) * t.size0 + x 0

/-- Scale byte of an element (R169). -/
def scaleOff (t : TDesc) (x : Nat → Nat) : Nat := t.spoff + linIx t x / sblkLen t.sblk

/-- Lowest and one past the highest byte of the existing elements and scale bytes of block b. -/
def blockRange (w : Walk) (b : Nat) : Option (Nat × Nat) :=
  let ext (d : Nat) : Int := if d = 0 then 63 else if d = 1 && !w.r.vec then 63 else 0
  let lo (d : Nat) : Int := max 0 (originAt w.r b d)
  let hi (d : Nat) : Int := min (originAt w.r b d + ext d) ((w.td.size d : Int) - 1)
  if (List.range 5).all (fun d => decide (lo d ≤ hi d)) then
    let l (d : Nat) : Nat := (lo d).toNat
    let h (d : Nat) : Nat := (hi d).toNat
    let f := w.fmt
    let e0 := rowOff w l + elemBit f (l 0) / 8
    let e1 := rowOff w h + (elemBit f (h 0) + f.bits + 7) / 8
    if w.td.scl then some (min e0 (scaleOff w.td l), max e1 (scaleOff w.td h + 1)) else some (e0, e1)
  else none

/-- Bounding range of n blocks from block b0; none where no element exists. -/
def blocksRange (w : Walk) (b0 n : Nat) : Option (Nat × Nat) :=
  (List.range n).foldl (fun acc k =>
    match acc, blockRange w (b0 + k) with
    | none, r => r
    | some x, none => some x
    | some x, some y => some (min x.1 y.1, max x.2 y.2)) none

/-- Source or destination range of walk bobbin k. -/
def bobRange (w : Walk) (k : Nat) : Option (Nat × Nat) := blocksRange w (k * w.r.bpb) w.r.bpb

/-- Range of the whole walk (R172). -/
def walkRange (w : Walk) : Option (Nat × Nat) := blocksRange w 0 w.blocks

/-- Coordinates of element (i, j) of block b, as numbers. -/
def coords (w : Walk) (b i j : Nat) : Nat → Nat := fun d => (coordAt w b i j d).toNat

/-- Row and column of element n of a block as stored: (i, j), transposed where the ring lands transposed. -/
def blockPos (r : RingRec) (n : Nat) : Nat × Nat :=
  if r.vec then (0, n) else if r.tr then (n % 64, n / 64) else (n / 64, n % 64)

/-- A byte with its poison tag. -/
abbrev PByte := Byte × Tag

/-- Code and poison of element n of block b, read through a source of bytes (R171 point 6). -/
def srcElem (w : Walk) (src : Nat → PByte) (b n : Nat) : Nat × Tag :=
  let ij := blockPos w.r n
  if elemExists w b ij.1 ij.2 then
    let x := coords w b ij.1 ij.2
    let bit := elemBit w.fmt (x 0)
    let a := rowOff w x + bit / 8
    let k := (bit % 8 + w.fmt.bits + 7) / 8
    let bs := (List.range k).map (fun j => src (a + j))
    (fld (leNat (bs.map (fun e => e.1))) (bit % 8) w.fmt.bits, tagAll (w.bad :: bs.map (fun e => e.2)))
  else (0, w.bad)

/-- Place of scale byte q of block b in the region: that of its first existing element; none where none exists. -/
def scaleSpot (w : Walk) (b q : Nat) : Option Nat :=
  let m := sblkLen w.td.sblk
  ((List.range m).find? (fun k => elemExists w b (blockPos w.r (q * m + k)).1 (blockPos w.r (q * m + k)).2)).map (fun k =>
    let ij := blockPos w.r (q * m + k)
    scaleOff w.td (coords w b ij.1 ij.2))

/-- Scale byte q of block b, 0x7F where none of its elements exists. -/
def srcScale (w : Walk) (src : Nat → PByte) (b q : Nat) : PByte :=
  match scaleSpot w b q with
  | some a => ((src a).1, tagOr w.bad (src a).2)
  | none => (0x7F, w.bad)

/-- Land walk bobbin k at a T0 offset (R167, R171): elements, then scale bytes, of each block at pitch P. -/
def landBob (t : Tile) (w : Walk) (src : Nat → PByte) (k base : Nat) : Tile :=
  (List.range w.r.bpb).foldl (fun t j =>
    let b := k * w.r.bpb + j
    let at0 := base + j * w.pitch
    let t := (List.range w.r.elems).foldl (fun t n =>
      let c := srcElem w src b n
      let bit := elemBit w.fmt n
      { t with t0 := memPutElem t.t0 at0 w.fmt n c.1,
               pois := tagRange t.pois (at0 + bit / 8) ((bit % 8 + w.fmt.bits + 7) / 8) c.2 }) t
    if w.td.scl then
      (List.range (w.r.elems / sblkLen w.td.sblk)).foldl (fun t q =>
        let c := srcScale w src b q
        t0Write t (at0 + packedBytes w.fmt w.r.elems + q) [c.1] c.2) t
    else t) t

/-- Write walk bobbin k from a T0 offset to a region's pages (R178): only existing elements, and the scale
bytes of blocks with one. -/
def storeBob (s : State) (t : Tile) (w : Walk) (pages : List Nat) (k base : Nat) : State :=
  (List.range w.r.bpb).foldl (fun s j =>
    let b := k * w.r.bpb + j
    let at0 := base + j * w.pitch
    let s := (List.range w.r.elems).foldl (fun s n =>
      let ij := blockPos w.r n
      if elemExists w b ij.1 ij.2 then
        let x := coords w b ij.1 ij.2
        putElem s pages (rowOff w x) w.fmt (x 0) (memElem t.t0 at0 w.fmt n)
      else s) s
    if w.td.scl then
      (List.range (w.r.elems / sblkLen w.td.sblk)).foldl (fun s q =>
        match scaleSpot w b q with
        | some o => writePages s pages o [memGet t.t0 (at0 + packedBytes w.fmt w.r.elems + q)]
        | none => s) s
    else s) s

/-- Byte offsets in the region that walk bobbin k covers, its scale bytes among them. -/
def bobBytes (w : Walk) (k : Nat) : List Nat :=
  ((List.range w.r.bpb).map (fun j =>
    let b := k * w.r.bpb + j
    ((List.range w.r.elems).map (fun n =>
      let ij := blockPos w.r n
      if elemExists w b ij.1 ij.2 then
        let x := coords w b ij.1 ij.2
        let bit := elemBit w.fmt (x 0)
        (List.range ((bit % 8 + w.fmt.bits + 7) / 8)).map (fun i => rowOff w x + bit / 8 + i)
      else [])).flatten ++
      (if w.td.scl then (List.range (w.r.elems / sblkLen w.td.sblk)).filterMap (scaleSpot w b) else []))).flatten

/-- Byte spans of row i of block b in the region: the existing elements, and their scale bytes. -/
def rowSpans (w : Walk) (b i : Nat) : List (Nat × Nat) :=
  let o := originAt w.r b 0
  let lo : Int := max 0 (-o)
  let hi : Int := min 63 ((w.td.size 0 : Int) - 1 - o)
  if decide (lo ≤ hi) && elemExists w b i lo.toNat then
    let x := coords w b i lo.toNat
    let y := coords w b i hi.toNat
    let f := w.fmt
    (rowOff w x + elemBit f (x 0) / 8, rowOff w y + (elemBit f (y 0) + f.bits + 7) / 8) ::
      (if w.td.scl then [(scaleOff w.td x, scaleOff w.td y + 1)] else [])
  else []

/-- Byte spans that walk bobbin k reads or writes in the region, row by row. -/
def bobSpans (w : Walk) (k : Nat) : List (Nat × Nat) :=
  ((List.range w.r.bpb).map (fun j => ((List.range (if w.r.vec then 1 else 64)).map
    (rowSpans w (k * w.r.bpb + j))).flatten)).flatten

/-- Units of n bytes that spans touch, each once. -/
def unitsOf (n : Nat) (l : List (Nat × Nat)) : List Nat :=
  ((l.map (fun e => if e.2 ≤ e.1 then [] else
    (List.range ((e.2 - 1) / n - e.1 / n + 1)).map (fun j => e.1 / n + j))).flatten).dedup

/-- A sent bobbin's whole sectors lose their poison (R208). -/
def clearBob (s : State) (w : Walk) (pages : List Nat) (k : Nat) : State :=
  let as := (bobBytes w k).filterMap (pageAddr pages)
  let whole := ((as.filter (fun a => decide (a % 32 = 0))).map (fun a => a / 32)).filter (fun k =>
    (List.range 32).all (fun j => as.contains (32 * k + j)))
  s.withT2 (whole.foldl (fun t k => setPois t k false) s.t2)

/-! ### Rings -/

/-- Has the walk of a ring ended, so that the next send belongs to its pending walk (R181)? -/
def walkOver (x : Ring) (w : Walk) : Bool := decide (w.bobs ≤ x.next) && x.pend.isSome

/-- The walk that the next send of an outbound ring belongs to (R178, R181). -/
def sendWalk (x : Ring) : Option Walk := x.walk.map (fun w => if walkOver x w then x.pend.getD w else w)

/-- A ring after its close (R182): bobbins and pending walk go, the head and the count of its walk stay readable (R423). -/
def shutRing (x : Ring) : Ring := { Ring.closed with head := x.head, next := x.next }

def ringAt (t : Tile) (r : Nat) : Ring := mapGet Ring.closed t.rings r
def setRing (t : Tile) (r : Nat) (x : Ring) : Tile := { t with rings := mapSet Ring.closed t.rings r x }

def Bobbin.free : Bobbin := ⟨.free, 0, none, 0, 0, none, false, [], []⟩

def bobAt (x : Ring) (slot : Nat) : Bobbin := x.bobs.getD slot Bobbin.free
def setBob (x : Ring) (slot : Nat) (b : Bobbin) : Ring := { x with bobs := listSet x.bobs slot b }

/-- T0 offset of a ring's bobbin. -/
def bobBase (w : Walk) (slot : Nat) : Nat := 64 * (w.r.base + slot * w.r.bsize)

/-- Region extents of a segment: all of them, or the write extents only. -/
def extsOf (p : Program) (seg region : Nat) (wr : Bool) : List Ext :=
  p.sec.extents.filter (fun e => decide (e.seg = seg) && decide (e.region = region) && (e.write || !wr))

/-- Is a region range inside one extent of the segment? -/
def inExtent (p : Program) (seg region : Nat) (wr : Bool) (lo hi : Nat) : Bool :=
  (extsOf p seg region wr).any (fun e => within lo (hi - lo) e.off e.len)

/-- Does a segment take part on a partition-relative tile? -/
def segHasTile (d : SegD) (t : Nat) : Bool := bitOf d.groups (t / 8)

/-- Does R169 permit this scaled tensor? -/
def scaledOk (t : TDesc) : Bool :=
  let m := sblkLen t.sblk
  decide (t.size0 % m = 0) || (decide (m % t.size0 = 0) && decide (t.size0 * t.size1 % m = 0))

/-- The RING_FORM conditions of R172 on the record itself. -/
def recForm (r : RingRec) : Bool :=
  decide (r.dir = 3) || decide (r.engine = 0) || decide (r.engine = 3) || decide (r.fan = 3) ||
    decide (r.slots < 2) || decide (r.bpb = 0) || decide (r.bsize = 0) || decide (8192 < r.bsize) ||
    r.loops.any (fun l => decide (l.count = 0)) || decide (r.slots < r.outst) ||
    decide ((r.loops.map (fun l => l.count)).prod % r.bpb ≠ 0) ||
    (r.tr && (decide (r.dir = 2) || r.vec)) || (r.auto && decide (r.dir = 1)) ||
    (decide (r.dir = 2) && decide (r.engine ≠ 2)) ||
    (decide (r.fan = 1) && (decide (r.fanarg = 0) || decide (191 < r.fanarg)))

/-- The RING_FORM conditions of R172 on the descriptor and the walk. -/
def tdForm (w : Walk) : Bool :=
  let r := w.r
  let td := w.td
  decide (td.ndim = 0) || decide (5 < td.ndim) || decide (td.fmt = 15) || decide (64 * r.bsize < r.bpb * w.pitch) ||
    r.loops.any (fun l => decide (td.ndim ≤ l.dim)) || (td.scl && (!scaledOk td || r.tr)) ||
    (decide (td.sblk = 3) && (r.vec || (td.scl && decide (td.size0 ≠ 64))))

/-- The RING_FORM conditions of R172. A fan member's descriptor and loop dimensions are ignored (R177). -/
def armForm (w : Walk) : Bool := recForm w.r || (decide (w.r.fan ≠ 2) && tdForm w)

/-- The place in section 5 of the segment's extent that holds a region offset. -/
def extIx (p : Program) (seg region off : Nat) : Option Nat :=
  (p.sec.extents.zipIdx.find? (fun e => decide (e.1.seg = seg) && decide (e.1.region = region) &&
    decide (e.1.off ≤ off) && decide (off < e.1.off + e.1.len))).map (fun e => e.2)

/-- A range that breaks an EXTENT condition: its first address, and the extent that holds that address (R45). -/
abbrev Breach := Nat × Option Nat

/-- Is a range of a tile's T0 inside one write window of the segment and clear of the spill area? -/
def areaIn (s : State) (a : TileAt) (p : Program) (seg addr n : Nat) : Bool :=
  (winsOf p seg a.tile true).any (fun x => within addr n (4096 * x.base) (4096 * x.size)) && !spillHit s a addr n

/-- The first EXTENT condition of R172 that a walk breaks. A fan member's walk is the lead's (R177). -/
def armExtent (s : State) (a : TileAt) (p : Program) (d : SegD) (w : Walk) : Option Breach :=
  let r := w.r
  let ro := ((regionAt s a.part w.td.region).map (fun g => g.p.ro)).getD false
  let walk (wr : Bool) : Option Breach := match walkRange w with
    | some x => if inExtent p d.id w.td.region wr x.1 x.2 then none else some (x.1, extIx p d.id w.td.region x.1)
    | none => none
  if !areaIn s a p d.id (64 * r.base) (r.nslots * r.bsize * 64) then some (64 * r.base, winIx p d.id a.tile (64 * r.base))
  else if r.dir = 1 then (if r.fan = 2 then none else walk false)
  else if r.ptile = 255 then
    (if ro then some (w.td.off, extIx p d.id w.td.region w.td.off) else walk true)
  else if segHasTile d r.ptile &&
      areaIn s ⟨a.part, Fin.ofNat 192 r.ptile⟩ p d.id (64 * r.paddr) (64 * (r.pwrap * r.pstride + r.bsize)) then none
  else some (64 * r.paddr, winIx p d.id r.ptile (64 * r.paddr))

/-- A ring as arming by word ix leaves it: every bobbin free, slot 0 the tail of an outbound ring. -/
def armedRing (w : Walk) (ix : Nat) : Ring :=
  let bobs := List.replicate w.r.nslots Bobbin.free
  { dir := w.r.dir, walk := some w, pend := none, head := 0, next := 0, total := 0,
    bobs := if w.r.dir = 2 then listSet bobs 0 { Bobbin.free with st := .tail, w := some w } else bobs,
    started := decide (w.r.fan ≠ 1), ix := ix }

/-- What a consumer's read of a ring's head meets. -/
inductive HeadRead where
  | form
  | waits
  | epoch (cur : Nat)
  | at (base size : Nat)
  deriving DecidableEq, Repr

/-- Current epoch of a region (R192). -/
def curEpoch (g : Region) : Nat := (g.cur.map (fun b => b.epoch)).getD 0

/-- Does a walk's epoch match its region's current epoch (R175)? -/
def epochOk (s : State) (p : Nat) (w : Walk) : Bool :=
  match regionAt s p w.td.region with
  | some g => !g.p.ro || decide (g.cur.isSome ∧ curEpoch g = w.td.epoch)
  | none => false

/-- Read the head bobbin of ring r by an engine (R165, R166, R175). -/
def headRead (s : State) (a : TileAt) (r engine : Nat) : HeadRead :=
  let x := ringAt (tileAt s a.part a.tile) r
  match x.walk with
  | none => .form
  | some w =>
    if x.dir ≠ 1 ∨ w.r.engine ≠ engine then .form
    else
      let b := bobAt x x.head
      if b.st = .inUse then .at (bobBase w x.head) (64 * w.r.bsize)
      else if b.st = .filled then
        match b.w with
        | some bw => if epochOk s a.part bw then .at (bobBase w x.head) (64 * w.r.bsize)
            else .epoch (((regionAt s a.part bw.td.region).map curEpoch).getD 0)
        | none => .at (bobBase w x.head) (64 * w.r.bsize)
      else .waits

/-- A first read starts: the head bobbin is in use and its guard ends (R166, R176). -/
def useHead (t : Tile) (r : Nat) : Tile :=
  let x := ringAt t r
  let b := bobAt x x.head
  if b.st = .filled then setRing t r (setBob x x.head { b with st := .inUse }) else t

/-- A pop releases the head bobbin and advances the head (R166). -/
def popHead (t : Tile) (r : Nat) : Tile :=
  let x := ringAt t r
  setRing t r { setBob x x.head Bobbin.free with head := (x.head + 1) % max 1 x.bobs.length }

/-- A consumer word waits for the head bobbins of some rings (R166): for each of them the wait clock runs from the word's first
attempt; a ring that it no longer waits for is left out. -/
def blockOnRings (s : State) (a : TileAt) (q : Nat) (rs : List Nat) : State :=
  updTile s a.part a.tile (fun t =>
    let keep := t.blocked.filter (fun b => decide (b.q ≠ q) || (b.ring.map (fun r => rs.contains r)).getD true)
    let new := rs.filter (fun r => !keep.any (fun b => decide (b.q = q) && decide (b.ring = some r)))
    { t with blocked := new.map (fun r => ⟨q, some r, 0, 0, s.time.wait, 0⟩) ++ keep })

end Sys2Proof.Machine
end

