-- ==== Sys2Proof/Machine/Store.lean ====
section
/-! DEFINITION. Store memory T1 (R195 to R206): frames, heat, promotion, victims, holds, the prefetch calendar. -/

namespace Sys2Proof.Machine

open Sys2Proof

/-- Frames of one store die. -/
def dieFrames : Nat := 20480

def frameDie (n : Nat) : Nat := n / dieFrames

def frameAt (s : State) (n : Nat) : Option Frame := mapFind s.t1.frames n
def setFrame (s : State) (n : Nat) (f : Frame) : State := s.withT1 { s.t1 with frames := mapPut s.t1.frames n f }
def dropFrame (s : State) (n : Nat) : State := s.withT1 { s.t1 with
  frames := mapDel s.t1.frames n, fills := s.t1.fills.filter (fun k => k ≠ n) }

/-- The frame that holds, is being filled with, or will hold a page: also one that is to be released once its reads are over
(R195: T1 holds one copy at most). -/
def frameOf (s : State) (k : PageKey) : Option (Nat × Frame) :=
  s.t1.frames.find? (fun e => decide (e.2.key = k) || decide ((e.2.nxt.map (fun x => x.1)) = some k))

/-- The frame that serves a page: whole, with the page in it (R195). -/
def serveFrame (s : State) (k : PageKey) : Option (Nat × Frame) :=
  s.t1.frames.find? (fun e => decide (e.2.key = k) && e.2.whole)

/-- A frame given to a page, not yet filled. -/
def givenFrame (k : PageKey) (pin : Bool) (holds : List (Option Nat)) (now : Word64) : Frame :=
  { key := k, whole := false, pin := pin, holds := holds, last := now, readers := 0, victim := false, nxt := none,
    data := [], pois := [] }

/-- Give frame n to a page, whose fill takes its place behind those requested before (R198). -/
def giveFrame (s : State) (n : Nat) (k : PageKey) (pin : Bool) (holds : List (Option Nat)) : State :=
  let s := setFrame s n (givenFrame k pin holds s.time.now)
  s.withT1 { s.t1 with fills := s.t1.fills.filter (fun m => m ≠ n) ++ [n] }

/-- Is the fill of a frame running: among the 16 that its die runs at a time (R198)? -/
def fillRuns (s : State) (n : Nat) : Bool :=
  ((s.t1.fills.filter (fun m => decide (frameDie m = frameDie n))).take 16).contains n

/-- A partition's frames on a die. -/
def partFrames (s : State) (p die : Nat) : List (Nat × Frame) :=
  s.t1.frames.filter (fun e => decide (frameDie e.1 = die) &&
    decide (((e.2.nxt.map (fun x => x.1)).getD e.2.key).part = p))

/-- A partition's share of a die (R204), less what dead banks have taken from it (R401). -/
def t1Share (s : State) (p die : Nat) : Nat := (partAt s p).quota.t1pages / 2 - mapGet 0 s.t1.cut (32 * die + p)

/-- Free frames of a die (R401 leaves dead ones out). -/
def freeFrames (s : State) (die : Nat) : List Nat :=
  ((List.range dieFrames).map (fun n => die * dieFrames + n)).filter (fun n =>
    (frameAt s n).isNone && !setHas s.t1.dead n)

/-- Quota class of a region. -/
def regClass (s : State) (p r : Nat) : Nat := ((regionAt s p r).map (fun g => g.p.cls)).getD 0

def reserve (q : Quota) (c : Nat) : Nat := if c = 1 then q.res1 else if c = 2 then q.res2 else if c = 3 then q.res3 else 0

/-- Heat of a page (R196); 0 where it has no counter. -/
def heatOf (s : State) (k : PageKey) : Nat :=
  match regionAt s k.part k.region with
  | some g => (match g.cur with
    | some b => if b.epoch = k.epoch then mapGet 0 b.heat k.page else 0
    | none => 0)
  | none => 0

/-- Is a frame a candidate victim for a page of class c (R197 step 2, R205)? -/
def candidate (s : State) (p die c : Nat) (f : Frame) : Bool :=
  let cf := regClass s p f.key.region
  let held := ((partFrames s p die).filter (fun e => decide (regClass s p e.2.key.region = cf))).length
  !f.victim && !f.pin && decide (f.holds = []) &&
    !(decide (cf ≠ c) && decide (cf ≠ 0) && decide (held ≤ reserve (partAt s p).quota cf / 2))

/-- The victim: the candidate whose last read is oldest, the lower frame on a tie. -/
def victimOf (s : State) (p die c : Nat) : Option (Nat × Frame) :=
  ((partFrames s p die).filter (fun e => candidate s p die c e.2)).foldl (fun acc e =>
    match acc with
    | none => some e
    | some b => if e.2.last.ult b.2.last then some e else some b) none

/-- Does a frame serve reads, or does its fill run? It is released once they are over and the fill has landed (R198). -/
def frameBusy (s : State) (n : Nat) (f : Frame) : Bool := decide (f.readers ≠ 0) || (!f.whole && fillRuns s n)

/-- Give a page a frame on a die (R197 steps 1 to 3, R201, R204). `h` is the heat that a promotion compares.
The second part tells whether it got one. Which free frame is used is a free value (log entry 10). -/
def takeFrame (s : State) (k : PageKey) (die : Nat) (h : Option Nat) (pin : Bool) (holds : List (Option Nat)) :
    State × Bool :=
  if (partFrames s k.part die).length < t1Share s k.part die then
    let free := freeFrames s die
    match free[(Config.freeNat s.free) % max 1 free.length]? with
    | some n => (giveFrame (s.withFree (s.free + 1)) n k pin holds, true)
    | none => (s, false)
  else match victimOf s k.part die (regClass s k.part k.region) with
    | none => (s, false)
    | some v =>
      if (h.map (fun x => decide (x ≤ heatOf s v.2.key))).getD false then (s, false)
      else if !frameBusy s v.1 v.2 then (giveFrame s v.1 k pin holds, true)
      else (setFrame s v.1 { v.2 with victim := true, nxt := some (k, pin, holds) }, true)

/-- Raise a page's heat by the 4 KiB units that a fetch part touches (R196), and promote it at its threshold
(R197). -/
def heatPage (s : State) (p r page units die : Nat) : State :=
  match regionAt s p r with
  | none => s
  | some g =>
    match g.cur with
    | none => s
    | some b =>
      if g.p.never then s
      else if b.tracked ≤ page then s
      else
        let h := min 255 (mapGet 0 b.heat page + units)
        let s := setRegion s p r { g with cur := some { b with heat := mapSet 0 b.heat page h } }
        let k : PageKey := ⟨p, r, b.epoch, page⟩
        if decide (64 >>> g.p.bias ≤ h) && (frameOf s k).isNone then
          let x := takeFrame s k die (some h) false []
          addCtr x.1 (ctrKey 0 4 die (if x.2 then cPromo else cPromoDrop)) 1
        else s

/-- Pages that byte spans of a region touch, each with the 4 KiB units touched (R173, R196). -/
def pagesOf (l : List (Nat × Nat)) : List (Nat × Nat) :=
  let us := unitsOf 4096 l
  ((us.map (fun u => u / 16)).dedup).map (fun pg => (pg, (us.filter (fun u => decide (u / 16 = pg))).length))

/-- A fetch reads spans of a read-only region for `n` tiles: frames that serve it are read, every page's heat rises, once for a
fan. The answer names the frames that serve parts of it (R195, R196). -/
def fetchHeat (s : State) (p r n die : Nat) (l : List (Nat × Nat)) : State × List Nat :=
  match regionAt s p r with
  | none => (s, [])
  | some g =>
    if !g.p.ro then (s, [])
    else
      let ep := (g.cur.map (fun b => b.epoch)).getD 0
      (pagesOf l).foldl (fun acc e =>
        let s := acc.1
        let (s, l) := match serveFrame s ⟨p, r, ep, e.1⟩ with
          | some f =>
            (addCtr (setFrame s f.1 { f.2 with last := s.time.now, readers := f.2.readers + n })
              (ctrKey 0 4 (frameDie f.1) cHits) 1, f.1 :: acc.2)
          | none => (addCtr s (ctrKey 0 4 die cMisses) 1, acc.2)
        (heatPage s p r e.1 e.2 die, l)) (s, [])

/-- Lines of T1 frames prove uncorrectable (R30, R401): each is counted for its bank of 512 frames, and poisoned; the place
where that poison entered is the frame's number × 64 KiB plus the line's offset (log entry 10). -/
def linesBroken (s : State) (l : List (Nat × Nat)) : State :=
  l.foldl (fun s e => match frameAt s e.1 with
    | some f =>
      let s := setFrame s e.1 { f with pois := tagPut f.pois e.2 (tagAtAddr (pageSize * e.1 + 128 * e.2)) }
      s.withT1 { s.t1 with bad := s.t1.bad ++ [(e.1 / 512, s.time.now)] }
    | none => s) s

/-- A fetch's reads from T1 are over. -/
def readersDone (s : State) (l : List Nat) : State :=
  l.foldl (fun s n => match frameAt s n with
    | some f => setFrame s n { f with readers := f.readers - 1 }
    | none => s) s

/-- Does a page's key name a current publication? -/
def keyCurrent (s : State) (k : PageKey) : Bool :=
  match regionAt s k.part k.region with
  | some g => decide ((g.cur.map (fun b => b.epoch)) = some k.epoch)
  | none => false

/-- Frames of a partition on a die that are not about to go. -/
def keptFrames (s : State) (p die : Nat) : Nat :=
  ((partFrames s p die).filter (fun e => !(e.2.victim && e.2.nxt.isNone))).length

/-- Release frames: those that are busy once they are not; one that waits to hold another page goes on to hold it (R194 step 4,
R198). -/
def releaseFrames (s0 : State) (c : Nat → Frame → Bool) : State :=
  s0.t1.frames.foldl (fun s e =>
    if !c e.1 e.2 then s
    else if frameBusy s0 e.1 e.2 then setFrame s e.1 { e.2 with victim := true }
    else match e.2.nxt with
      | some x => giveFrame s e.1 x.1 x.2.1 x.2.2
      | none => dropFrame s e.1) s0

/-- A page that waited for a frame asks for another one: a pinned page that finds none waits, another is dropped. -/
def asksOther (s : State) (die : Nat) (x : PageKey × Bool × List (Option Nat)) : State :=
  let y := takeFrame s x.1 die none x.2.1 x.2.2
  if y.2 then y.1 else if x.2.1 then y.1.withT1 { y.1.t1 with pins := y.1.t1.pins ++ [(x.1, die)] } else y.1

/-- The page present in a frame gains a pin or a hold (R199, R201). A frame that was to be released keeps the page then (DESIGN CHOICE,
log entry 31): what waited for the frame asks for another one, and where it was to go because of the quota, another victim goes, or
none does and the page gains nothing. -/
def gainFrame (s : State) (n : Nat) (f : Frame) (pin : Bool) (holds : List (Option Nat)) : State × Bool :=
  let g : Frame := { f with victim := false, nxt := none, pin := f.pin || pin, holds := holds ++ f.holds }
  if !f.victim then (setFrame s n { g with nxt := f.nxt }, true)
  else match f.nxt with
    | some x => (asksOther (setFrame s n g) (frameDie n) x, true)
    | none =>
      if keptFrames s f.key.part (frameDie n) < t1Share s f.key.part (frameDie n) then (setFrame s n g, true)
      else match victimOf s f.key.part (frameDie n) (regClass s f.key.part f.key.region) with
        | none => (s, false)
        | some v => (releaseFrames (setFrame s n g) (fun m _ => decide (m = v.1)), true)

/-- A page that is in a frame, or is to come into it, gains a pin or a hold (R199, R201). -/
def gainPage (s : State) (k : PageKey) (n : Nat) (f : Frame) (pin : Bool) (holds : List (Option Nat)) : State × Bool :=
  if f.key = k then gainFrame s n f pin holds
  else (setFrame s n { f with nxt := f.nxt.map (fun x => (x.1, x.2.1 || pin, holds ++ x.2.2)) }, true)

/-- Pinned pages that have no frame yet ask again, in order (R199); those of a replaced publication ask no more. -/
def servePins (s : State) : State :=
  s.t1.pins.foldl (fun s e =>
    let drop (s : State) : State := s.withT1 { s.t1 with pins := s.t1.pins.filter (fun x => x ≠ e) }
    if !keyCurrent s e.1 then drop s
    else match frameOf s e.1 with
      | some f =>
        let x := gainPage s e.1 f.1 f.2 true []
        if x.2 then drop x.1 else x.1
      | none =>
        let x := takeFrame s e.1 e.2 none true []
        if x.2 then drop x.1 else x.1) s

/-- A frame becomes free, or is filled with the page that waits for it (R197, R198). -/
def execFrameRelease (frame : Nat) (s : State) : Out :=
  ok (match frameAt s frame with
    | none => s
    | some f =>
      if !f.victim || frameBusy s frame f then s
      else match f.nxt with
        | some x => giveFrame s frame x.1 x.2.1 x.2.2
        | none => servePins (dropFrame s frame))

/-- Bytes of a page of module memory by offset (R195). -/
def pageData (t : T2U) (page : Nat) : Memory :=
  (t.mem.filter (fun e => decide (e.1 / pageSize = page))).map (fun e => (e.1 % pageSize, e.2))

/-- Poison of the lines of a page of module memory. -/
def pageLines (t : T2U) (page : Nat) : Map Tag :=
  if t.pois = [] ∧ t.lost = [] then []
  else (List.range 512).filterMap (fun k =>
    let p := linePois t (pageSize * page + 128 * k)
    if p = 0 then none else some (k, p))

/-- What a fill brings: the page's lines from its home, T2 or the host (R198). -/
def filledFrame (s : State) (f : Frame) (data : List Byte) : Frame :=
  match regionAt s f.key.part f.key.region with
  | none => { f with whole := true }
  | some g =>
    if g.p.hostback then { f with whole := true, data := memWrite [] 0 data }
    else match (g.cur.bind (fun b => b.pages[f.key.page]?)) with
      | some k => { f with whole := true, data := pageData s.t2 k, pois := pageLines s.t2 k }
      | none => { f with whole := true }

/-- Does a fill need the host's bytes? -/
def fillFromHost (s : State) (k : PageKey) : Bool :=
  ((regionAt s k.part k.region).map (fun g => g.p.hostback)).getD false

/-- A read of host memory fails (R210): a translation without read permission is not kept, any other failure is reported through
AER. -/
def hostReadFails (s : State) (f : Nat) (g : Region) (addr : Word64) (why : TransWhy) : State :=
  let x := fnAt s f
  if why = .noPermission then setFn s f { x with atc := x.atc.filter (fun e => e ≠ (g.p.pasid.toNat, addr.toNat / 4096)) }
  else setFn s f { x with aer := why :: x.aer.filter (fun y => y ≠ why) }

/-- A fill is discarded: the frame takes the page that waits for it, or is free, and pinned pages without a frame ask again. -/
def endFill (s : State) (n : Nat) (f : Frame) : State :=
  sweepInvals (match f.nxt with
    | some y => giveFrame s n y.1 y.2.1 y.2.2
    | none => servePins (dropFrame s n)) f.key.part

/-- Lines of module memory that a fill reads. -/
def fillLines (s : State) (k : PageKey) : List Nat :=
  match (regionAt s k.part k.region).bind (fun g => g.cur.bind (fun b => b.pages[k.page]?)) with
  | some n => (List.range 512).map (fun j => pageSize * n + 128 * j)
  | none => []

/-- A fill from the host meets a translation fault or a failed read. No rule says what it does then (DESIGN CHOICE, log entry 31): it
is dropped as R174 drops a prefetch, the failure is reported as R210 has it, and a pinned page asks again. -/
def failFill (s : State) (n : Nat) (f : Frame) (addr : Word64) (why : TransWhy) : State :=
  let s := match regionAt s f.key.part f.key.region with
    | some g => hostReadFails s f.key.part g addr why
    | none => s
  endFill (if f.pin && !f.victim && keyCurrent s f.key then s.withT1 { s.t1 with pins := s.t1.pins ++ [(f.key, frameDie n)] } else s) n f

/-- A fill ends: the frame is whole, or the fill of an old epoch, or of a frame that is to be released, is discarded (R198), or the
host's read has failed. `data` are the bytes of a page of the host tier. -/
def execT1FillLand (x : FillLand) (s : State) : Out :=
  ok (match frameAt s x.frame with
    | none => s
    | some f =>
      if f.whole || !fillRuns s x.frame then s
      else match x.how with
        | .translation addr why => if fillFromHost s f.key then failFill s x.frame f addr why else s
        | .ok e =>
          if f.victim || !keyCurrent s f.key then endFill s x.frame f
          else if fillFromHost s f.key && decide (x.data.length ≠ pageSize) then s
          else
            let s := if fillFromHost s f.key then s else meetErrs s (fillLines s f.key) e
            let s := s.withT1 { s.t1 with fills := s.t1.fills.filter (fun k => k ≠ x.frame) }
            sweepInvals (setFrame s x.frame (filledFrame s f x.data)) f.key.part)

/-- Heat decay at a multiple of 1,000,000 ns (R196). -/
def decayPub (b : Pub) : Pub :=
  { b with heat := (b.heat.map (fun e => (e.1, e.2 - cdiv e.2 16))).filter (fun e => e.2 ≠ 0) }

def decayPart (x : Part) : Part :=
  { x with regions := x.regions.map (fun e => (e.1, { e.2 with cur := e.2.cur.map decayPub, next := e.2.next.map decayPub })) }

def execHeatDecay (t : Word64) (s : State) : Out :=
  ok (if t.toNat % 1000000 = 0 ∧ s.time.decays < t.toNat / 1000000 then
      atTime s t (fun s =>
        let s := s.withParts (s.parts.map decayPart)
        s.withTime { s.time with decays := t.toNat / 1000000 })
    else s)

/-- Frames that satisfy a test are released, and pinned pages without a frame ask again (R198, R199); a fill in flight lands first and is
discarded (R213). -/
def freeFramesOf (s : State) (c : Nat → Frame → Bool) : State := servePins (releaseFrames s c)

/-- Frames of a region's publication with one epoch go (R194 step 4). -/
def releaseEpoch (s : State) (p r ep : Nat) : State :=
  freeFramesOf s (fun _ f => decide (f.key.part = p) && decide (f.key.region = r) && decide (f.key.epoch = ep))

/-- Die that a calendar entry names for a page (R200). -/
def calDie (c : CalE) (page : Nat) : Nat := if c.die = 2 then page % 2 else c.die

/-- A hold that a calendar entry gives. -/
def calHold (c : CalE) : List (Option Nat) := if c.hold = 1 then [some c.until_] else if c.hold = 2 then [none] else []

/-- Request the pages of a calendar entry (R201). -/
def calRequest (s : State) (p : Nat) (c : CalE) : State :=
  match regionAt s p c.region with
  | none => s
  | some g =>
    match g.cur with
    | none => s
    | some b =>
      (((List.range c.count).foldl (fun (acc : State × Bool) j =>
        if acc.2 then acc
        else
          let s := acc.1
          let k : PageKey := ⟨p, c.region, b.epoch, c.page + j⟩
          match frameOf s k with
          | f =>
            let x := match f with
              | some f => gainPage s k f.1 f.2 false (calHold c)
              | none => takeFrame s k (calDie c k.page) none false (calHold c)
            if x.2 then (x.1, false)
            else (addCtr x.1 (ctrKey 0 4 (calDie c k.page) cCalDrop) (c.count - j), true)) (s, false))).1

/-- Entries of a program's calendar with a trigger, in section order (R201). -/
def calTrigger (s : State) (p : Nat) (pr : Program) (trig seg : Nat) : State :=
  (pr.cal.filter (fun c => decide (c.trig = trig) && (decide (trig = 2) || decide (c.seg = seg)))).foldl
    (fun s c => calRequest s p c) s

/-- Holds that a segment's commit ends, or that the turn's end does (R201); pinned pages without a frame ask again (R199). -/
def endHolds (s : State) (p : Nat) (h : Option Nat) : State :=
  servePins (s.withT1 { s.t1 with frames := s.t1.frames.map (fun e =>
    let keep (l : List (Option Nat)) : List (Option Nat) := l.filter (fun x => x ≠ h)
    let f := if e.2.key.part = p then { e.2 with holds := keep e.2.holds } else e.2
    (e.1, { f with nxt := f.nxt.map (fun x => if x.1.part = p then (x.1, x.2.1, keep x.2.2) else x) })) })

end Sys2Proof.Machine
end

