-- ==== Sys2Proof/Machine/Rings.lean ====
section
/-! DEFINITION. The stream engine (R165 to R186): arming, fans, fetches, sends, closing. -/

namespace Sys2Proof.Machine

open Sys2Proof

/-- Frames that a tile's fetches read. -/
def tileFrames (t : Tile) : List Nat := (t.rings.map (fun e => (e.2.bobs.map (fun b => b.frs)).flatten)).flatten

/-- Close every ring of a tile (R182). -/
def closeRings (t : Tile) : Tile :=
  { t with rings := (t.rings.map (fun e => (e.1, shutRing e.2))).filter (fun e => e.2 ≠ Ring.closed) }

/-! ### Reading records -/

/-- 64 bytes of section 9 (R183). -/
def constRec (p : Program) (addr : Nat) : Nat := numAt p.consts (64 * addr) 64

/-- A set-up record and its descriptor (R170, R193): none where a T0 read leaves the windows. A fan member's descriptor is not
read (R177). `bad` is the poison of the word and of the record. -/
def walkAt (s : State) (a : TileAt) (p : Program) (rcd : Nat) (bad : Tag) : Option Walk :=
  let r := ringRecOf rcd
  let t := tileAt s a.part a.tile
  let td := if r.fan = 2 then some 0
    else if r.tdsrc then
      if t0Ok s a false (64 * r.td) 64 then some (leNat (memRead t.t0 (64 * r.td) 64)) else none
    else some (constRec p r.td)
  td.map (fun v =>
    let d := tdOf v
    let ep := if d.epoch = 0 then ((regionAt s a.part d.region).map curEpoch).getD 0 else d.epoch
    ⟨r, { d with epoch := ep }, if r.fan ≠ 2 ∧ r.tdsrc then tagOr bad (tagFirst t.pois (64 * r.td) 64) else bad⟩)

def ringForm (s : State) (a : TileAt) (q ix ring member : Nat) : State :=
  tileFault s a q ix 0x0323 0 (ring + 256 * member)

/-! ### Fans (R177) -/

/-- Tile of the lead of the fan of which ring n of a tile is the lead or a member. -/
def fanLead (w : Walk) (tile : Nat) : Nat := if w.r.fan = 2 then w.r.fanarg else tile

/-- Members of the fan of a lead: the rings of the same number whose record names it, on any tile of the partition; a tile outside the
segment's tile groups counts like another (DESIGN CHOICE, log entry 30: R177 names no fault for it). -/
def fanMembers (s : State) (p n lead : Nat) : List Nat :=
  (List.range (nTiles s p)).filter (fun t =>
    match (ringAt (tileAt s p t) n).walk with
    | some w => decide (w.r.fan = 2) && decide (w.r.fanarg = lead)
    | none => false)

/-- Tiles of a ring's fan, the lead first; the tile alone where the ring is in none. -/
def fanTiles (s : State) (p n tile : Nat) (w : Walk) : List Nat :=
  if w.r.fan = 0 then [tile] else fanLead w tile :: fanMembers s p n (fanLead w tile)

/-- Must a member's record match the lead's (R177)? -/
def fanMatch (x y : Walk) : Bool :=
  decide (x.r.slots = y.r.slots) && decide (x.r.bsize = y.r.bsize) && decide (x.r.bpb = y.r.bpb) &&
    decide (x.r.vec = y.r.vec) && decide (x.r.tr = y.r.tr) &&
    decide (x.r.loops.map (fun l => l.count) = y.r.loops.map (fun l => l.count))

/-- A member that arms when the lead's walk has started is checked at once (R177): it must match, and be within the count. -/
def lateMember (s : State) (p n tile : Nat) (w : Walk) : Bool :=
  if w.r.fan ≠ 2 then false
  else
    let x := ringAt (tileAt s p w.r.fanarg) n
    match x.walk with
    | some v => decide (v.r.fan = 1) && x.started &&
        (!fanMatch v w || decide (v.r.fanarg < ((fanMembers s p n w.r.fanarg).filter (fun t => t ≠ tile)).length + 1))
    | none => false

/-- Arm ring n of a tile from a record (R172, R177, R180). -/
def armRing (s : State) (a : TileAt) (ix n rcd : Nat) (bad : Tag) : State :=
  match progOf (partAt s a.part), tileSeg s a with
  | some p, some d =>
    if (ringRecOf rcd).dir = 0 then s
    else if (ringAt (tileAt s a.part a.tile) n).dir ≠ 0 then ringForm s a 3 ix n 0
    else match walkAt s a p rcd bad with
      | none => t0Extent s a 3 ix (64 * (ringRecOf rcd).td)
      | some w =>
        if armForm w then ringForm s a 3 ix n 0
        else match armExtent s a p d w with
          | some x => extentFault s a 3 ix x.1 x.2
          | none =>
            if lateMember s a.part n a.tile w then
              let lead : TileAt := ⟨a.part, Fin.ofNat 192 w.r.fanarg⟩
              ringForm s lead 3 (ringAt (tileAt s a.part w.r.fanarg) n).ix n a.tile
            else updTile s a.part a.tile (fun t => setRing t n (armedRing w ix))
  | _, _ => s

/-- The record that RARM or REARM names: section 9 or T0. -/
def recordOf (s : State) (a : TileAt) (w : RingW) : Option Nat :=
  match progOf (partAt s a.part) with
  | none => none
  | some p =>
    if w.src then
      let t := tileAt s a.part a.tile
      if t0Ok s a false (64 * w.addr.toNat) 64 then some (leNat (memRead t.t0 (64 * w.addr.toNat) 64)) else none
    else some (constRec p w.addr.toNat)

/-- Poison of a ring word and of the record that it names in T0 (R30). -/
def recordTag (s : State) (a : TileAt) (w : RingW) (h : QWord) : Tag :=
  if w.src then tagOr h.bad (tagFirst (tileAt s a.part a.tile).pois (64 * w.addr.toNat) 64) else h.bad

/-- Finish a word of the stream queue unless the step has raised a fault. -/
def finishIfOk (s : State) (a : TileAt) (q : Nat) : State :=
  if issues s a.part then finishWord s a q (tileAt s a.part a.tile) else s

/-- RARM (R172, R180, R183). -/
def execRarm (a : TileAt) (w : RingW) (s : State) : Out :=
  ok (match atHead s a 3 (.rarm w) with
    | none => s
    | some h =>
      match recordOf s a w with
      | none => t0Extent s a 3 h.ix (64 * w.addr.toNat)
      | some rcd =>
        if (ringAt (tileAt s a.part a.tile) w.ring.toNat).dir ≠ 0 then ringForm s a 3 h.ix w.ring.toNat 0
        else finishIfOk (armRing s a h.ix w.ring.toNat rcd (recordTag s a w h)) a 3)

/-- Do a REARM's record and the ring agree (R181)? -/
def rearmOk (x : RingRec) (y : RingRec) : Bool :=
  decide (x.dir = y.dir) && decide (x.engine = y.engine) && decide (x.slots = y.slots) &&
    decide (x.bsize = y.bsize) && decide (x.base = y.base) && decide (x.bpb = y.bpb) && decide (x.vec = y.vec) &&
    decide (x.tr = y.tr) && decide (x.auto = y.auto) && decide (x.fan = y.fan)

/-- A walk appended to a ring keeps the ring's fan: the record's RING.FANARG is not taken over (R181). RING.OUTSTANDING, RING.PTILE,
RING.PADDR, RING.PSTRIDE and RING.PWRAP, which R181 neither compares nor names, come from the new record (DESIGN CHOICE, log entry 30). -/
def keepFan (cur v : Walk) : Walk := { v with r := { v.r with fanarg := cur.r.fanarg } }

/-- REARM (R181). -/
def execRearm (a : TileAt) (w : RingW) (s : State) : Out :=
  ok (match atHead s a 3 (.rearm w), progOf (partAt s a.part), tileSeg s a with
    | some h, some p, some d =>
      let t := tileAt s a.part a.tile
      let n := w.ring.toNat
      let x := ringAt t n
      match recordOf s a w with
      | none => t0Extent s a 3 h.ix (64 * w.addr.toNat)
      | some rcd =>
        match x.walk with
        | none => ringForm s a 3 h.ix n 0
        | some cur =>
          if !rearmOk (ringRecOf rcd) cur.r then ringForm s a 3 h.ix n 0
          else if x.pend.isSome then s
          else match (walkAt s a p rcd (recordTag s a w h)).map (keepFan cur) with
            | none => t0Extent s a 3 h.ix (64 * (ringRecOf rcd).td)
            | some v =>
              if armForm v then ringForm s a 3 h.ix n 0
              else match armExtent s a p d v with
                | some e => extentFault s a 3 h.ix e.1 e.2
                | none => finishWord s a 3 (setRing t n { x with pend := some v })
    | _, _, _ => s)

/-! ### Line requests (R26, R207) -/

/-- Line requests of rings that stand in a channel's queue. -/
def chanCount (s : State) (c : Nat) : Nat :=
  (s.tiles.map (fun e => (e.2.rings.map (fun r => (r.2.bobs.map (fun b => b.reqs.count c)).sum)).sum)).sum

/-- The requests, of up to 64 that a transfer keeps in flight, that find room in their channels' queues of 64; the engine that
pushes the others stalls until entries free (R26, R173). -/
def queueLines (s : State) (lines : List Nat) : List Nat :=
  (lines.take 64).foldl (fun l a =>
    let c := chanOf a
    if chanCount s c + l.count c < 64 then l ++ [c] else l) []

/-- Module addresses of the 128-byte lines of spans of a list of pages. -/
def spanLines (pages : List Nat) (l : List (Nat × Nat)) : List Nat :=
  (unitsOf 128 l).filterMap (fun u => pageAddr pages (128 * u))

/-! ### Sending (R178, R179) -/

/-- Poison among the blocks of a bobbin that is about to leave, and of the walk that places it (R30). -/
def bobPoison (t : Tile) (w : Walk) (base : Nat) : Tag :=
  tagAll (w.bad :: (List.range w.r.bpb).map (fun j => tagFirst t.pois (base + j * w.pitch) w.rawBytes))

/-- Pages of a region that outbound rings write (R172). -/
def sendPages (s : State) (p : Nat) (w : Walk) : List Nat :=
  ((regionAt s p w.td.region).map (fun g => g.wpages)).getD []

/-- Send the tail of ring n: by RSEND in queue 3, or automatically by a chain in queue 2. A pending walk applies from the first
send after the current walk's last bobbin. -/
def sendTail (s : State) (a : TileAt) (q ix n : Nat) : State :=
  let t := tileAt s a.part a.tile
  let x := ringAt t n
  match x.walk with
  | none => ringForm s a q ix n 0
  | some w0 =>
    let moved := walkOver x w0
    let w := (sendWalk x).getD w0
    let nx := if moved then 0 else x.next
    if (bobAt x x.head).st = .sending then tileFault s a q ix 0x0306 0 n
    else if decide (w.bobs ≤ nx) && decide (w.r.ptile = 255) then tileFault s a q ix 0x0306 0 n
    else if bobPoison t w (bobBase w x.head) ≠ 0 then poisonFault s a q ix n (bobPoison t w (bobBase w x.head))
    else
      let sent : Bobbin := { bobAt x x.head with
        st := .sending, w := some w, k := if w.r.ptile = 255 then nx else x.total,
        reqs := if w.r.ptile = 255 then queueLines s (spanLines (sendPages s a.part w) (bobSpans w nx)) else [] }
      let y := setBob x x.head sent
      let hd := (x.head + 1) % w.r.nslots
      let nb := bobAt y hd
      let y := if nb.st = .free then setBob y hd { Bobbin.free with st := .tail, w := some w } else y
      setTile s a.part a.tile (setRing t n
        { y with
          walk := some w, pend := if moved then none else x.pend, head := hd, next := nx + 1, total := x.total + 1 })

/-- RSEND (R178): a poisoned word is about to make a send (R30). -/
def execRsend (a : TileAt) (w : RingW) (s : State) : Out :=
  ok (match atHead s a 3 (.rsend w) with
    | none => s
    | some h =>
      let n := w.ring.toNat
      let x := ringAt (tileAt s a.part a.tile) n
      if x.dir ≠ 2 || (x.walk.map (fun v => v.r.auto)).getD false then ringForm s a 3 h.ix n 0
      else if h.bad ≠ 0 then poisonFault s a 3 h.ix n h.bad
      else finishIfOk (sendTail s a 3 h.ix n) a 3)

/-- Guard marks of a sent bobbin: the bytes that it writes, row by row (R176). -/
def markSpans (s : State) (p r : Nat) (l : List (Nat × Nat)) : State :=
  l.foldl (fun s e => markStale s p r e.1 (e.2 - e.1)) s

/-- A sent bobbin is visible at its destination (R166, R176, R178). -/
def execSendVisible (r : RingAt) (slot : Fin 16) (s : State) : Out :=
  ok (let t := tileAt s r.part r.tile
    let x := ringAt t r.ring
    let b := bobAt x slot
    match b.w with
    | none => s
    | some w =>
      if b.st ≠ .sending ∨ (partAt s r.part).fault.isSome then s
      else
        let y := setBob x slot (if x.head = slot then { Bobbin.free with st := .tail, w := x.walk } else Bobbin.free)
        let s := setTile s r.part r.tile (setRing t r.ring y)
        let s := addCtr s (ctrKey r.part 1 r.tile cStreamOut) (w.r.bpb * w.pitch)
        let base := bobBase w slot
        if w.r.ptile = 255 then
          let pages := sendPages s r.part w
          markSpans (clearBob (storeBob s t w pages b.k base) w pages b.k) r.part w.td.region (bobSpans w b.k)
        else
          let dst := 64 * (w.r.paddr + (b.k % (w.r.pwrap + 1)) * w.r.pstride)
          updTile s r.part w.r.ptile (fun u =>
            t0Write u dst (memRead t.t0 base (w.r.bpb * w.pitch)) 0))

/-- RCLOSE (R182). -/
def execRclose (a : TileAt) (w : RingW) (s : State) : Out :=
  ok (match atHead s a 3 (.rclose w) with
    | none => s
    | some h =>
      let t := tileAt s a.part a.tile
      let n := w.ring.toNat
      let x := ringAt t n
      if x.bobs.any (fun b => decide (b.st = .sending)) then s
      else if x.dir = 2 ∧ (bobAt x x.head).st = .tail ∧ (bobAt x x.head).wrote then tileFault s a 3 h.ix 0x0322 0 n
      else sweepInvals (finishWord (readersDone s ((x.bobs.map (fun b => b.frs)).flatten)) a 3 (setRing t n (shutRing x))) a.part)

/-! ### Fetches (R173 to R177) -/

/-- The lead starts once every member has armed (R177). -/
def execFanStart (r : RingAt) (s : State) : Out :=
  ok (let x := ringAt (tileAt s r.part r.tile) r.ring
    match x.walk with
    | none => s
    | some w =>
      if w.r.fan ≠ 1 ∨ x.started ∨ !issues s r.part then s
      else
        let ms := fanMembers s r.part r.ring r.tile
        let bad := ms.find? (fun t => match (ringAt (tileAt s r.part t) r.ring).walk with
          | some v => !fanMatch w v
          | none => false)
        let a : TileAt := ⟨r.part, r.tile⟩
        match bad with
        | some t => ringForm s a 3 x.ix r.ring t
        | none =>
          if w.r.fanarg < ms.length then ringForm s a 3 x.ix r.ring (ms.getD w.r.fanarg 0)
          else if ms.length < w.r.fanarg then s
          else updTile s r.part r.tile (fun t => setRing t r.ring { x with started := true }))

/-- Since when a consumer word of a tile has waited for this slot at the head of ring n (R173). -/
def waitSince (s : State) (p tile n slot : Nat) : Option Word64 :=
  let t := tileAt s p tile
  if (ringAt t n).head = slot then (t.blocked.find? (fun b => decide (b.ring = some n))).map (fun b => b.since) else none

/-- Does a consumer word of a tile wait for this slot at the head of ring n? -/
def waitsFor (s : State) (p tile n slot : Nat) : Bool := (waitSince s p tile n slot).isSome

/-- The tile whose consumer reached a bobbin first, of those where one waits for it (R177); the earlier in the list where two
reached it at once. -/
def firstWaiting (s : State) (p n slot : Nat) (tiles : List Nat) : Option Nat :=
  (tiles.foldl (fun (acc : Option (Nat × Word64)) t =>
    match waitSince s p t n slot, acc with
    | none, _ => acc
    | some x, none => some (t, x)
    | some x, some y => if x.ult y.2 then some (t, x) else acc) none).map (fun e => e.1)

/-- The word of a tile that consumes ring n at the head: its queue and its index in the list (R45). In the element-wise queue it
is the source word of the chain that names the ring. -/
def consumerWord (s : State) (a : TileAt) (n : Nat) : Nat × Nat :=
  let t := tileAt s a.part a.tile
  let q := ((ringAt t n).walk.map (fun w => w.r.engine)).getD 1
  let head := ((headWord t q).map (fun h => h.ix)).getD 0
  match t.chain with
  | some c => if q = 2 then
      (q, ((c.srcs.zipIdx.find? (fun e => decide (e.1.1.kind = 3) && decide (e.1.1.idx.toNat = n))).map
        (fun e => c.ixs.getD (1 + b2n c.head.org + e.2) 0)).getD head)
    else (q, head)
  | none => (q, head)

/-- EPOCH at a consumer word (R175, R186). -/
def epochFault (s : State) (a : TileAt) (n : Nat) (w : Walk) : State :=
  let c := consumerWord s a n
  tileFault s a c.1 c.2 0x0321 0
    (n + 256 * (((regionAt s a.part w.td.region).map curEpoch).getD 0 % 2 ^ 24))

/-- Put a bobbin into a slot of ring n on some tiles. -/
def putBobs (s : State) (p n slot : Nat) (tiles : List Nat) (b : Bobbin) : State :=
  tiles.foldl (fun s t => updTile s p t (fun u => setRing u n (setBob (ringAt u n) slot b))) s

/-- Host pages, PASID and number, of byte spans of a HOSTBACK region's current publication (R210). -/
def hostPages (g : Region) (l : List (Nat × Nat)) : List (Nat × Nat) :=
  match g.cur with
  | some b =>
    if !g.p.hostback then []
    else (unitsOf 4096 (l.map (fun e => (b.haddr.toNat + e.1, b.haddr.toNat + e.2)))).map (fun k => (g.p.pasid.toNat, k))
  | none => []

/-- Translations that the cache holds, over all functions (R210). -/
def atcCap : Nat := 8192

/-- ATS translations that a fetch fills the cache with (R210). A full cache takes no further one (log entry 13). -/
def fillAtc (s : State) (f : Nat) (l : List (Nat × Nat)) : State :=
  l.foldl (fun s e =>
    let x := fnAt s f
    if x.atc.contains e || decide (atcCap ≤ (s.fns.map (fun y => y.atc.length)).sum) then s
    else setFn s f { x with atc := x.atc ++ [e] }) s

/-- Does one of the frames that serve a fetch hold the page of an offset? -/
def frameServes (s : State) (p : Nat) (w : Walk) (frs : List Nat) (off : Nat) : Option Frame :=
  (frs.filterMap (frameAt s)).find? (fun f => f.whole && decide (f.key = ⟨p, w.td.region, w.td.epoch, off / pageSize⟩))

/-- The parts of spans that no T1 frame serves (R195), page by page. -/
def homeSpans (s : State) (p : Nat) (w : Walk) (frs : List Nat) (l : List (Nat × Nat)) : List (Nat × Nat) :=
  ((l.map (fun e => if e.2 ≤ e.1 then [] else
    (List.range ((e.2 - 1) / pageSize - e.1 / pageSize + 1)).map (fun k =>
      (max e.1 (pageSize * (e.1 / pageSize + k)), min e.2 (pageSize * (e.1 / pageSize + k + 1)))))).flatten).filter
    (fun e => (frameServes s p w frs e.1).isNone)

/-- The publication that a walk reads: the current one of its epoch, or a replaced one whose fetches go on (R194). -/
def pubOf (g : Region) (ep : Nat) : Option Pub :=
  match g.cur with
  | some b => if b.epoch = ep then some b else g.old.find? (fun b => decide (b.epoch = ep))
  | none => g.old.find? (fun b => decide (b.epoch = ep))

/-- T2 pages that a walk reads. -/
def walkPages (g : Region) (w : Walk) : List Nat :=
  if g.p.ro then ((pubOf g w.td.epoch).map (fun b => b.pages)).getD [] else g.wpages

/-- Issue the fetch of the bobbin in a slot: a demand fetch where a consumer's tile demands it, with an epoch check (R175). It
reads from the T1 frames that serve its pages and from their home (R195), and its line requests to T2 join their queues. -/
def issueInto (s : State) (a : TileAt) (n slot k : Nat) (w : Walk) (tiles : List Nat) (demand : Option Nat) : State :=
  let rg := (bobRange w k).getD (0, 0)
  let b : Bobbin := { st := .issued, k := k, w := some w, lo := rg.1, hi := rg.2, demand := demand, wrote := false,
                      frs := [], reqs := [] }
  if !epochOk s a.part w then
    match demand with
    | some t => epochFault s ⟨a.part, Fin.ofNat 192 t⟩ n w
    | none => putBobs s a.part n slot tiles { b with st := .deferred }
  else match regionAt s a.part w.td.region with
    | none => putBobs s a.part n slot tiles b
    | some g =>
      let sp := bobSpans w k
      let h := fetchHeat s a.part w.td.region tiles.length (dieOf s a.part a.tile) sp
      let home := homeSpans h.1 a.part w h.2 sp
      let s := fillAtc h.1 a.part (hostPages g home)
      let reqs := queueLines s (spanLines (walkPages g w) home)
      let s := putBobs s a.part n slot tiles { b with frs := h.2 }
      updTile s a.part a.tile (fun u => setRing u n (setBob (ringAt u n) slot { b with frs := h.2, reqs := reqs }))

/-- The next bobbin's walk and index, the pending walk taken over where the current one is done (R181). -/
def nextBob (x : Ring) (w : Walk) : Option (Walk × Nat × Bool) :=
  if x.next < w.bobs then some (w, x.next, false)
  else match x.pend with
    | some v => if 0 < v.bobs then some (v, 0, true) else none
    | none => none

/-- Tiles of a fan whose slot holds walk bobbin k in a state (R177). -/
def tilesWith (s : State) (p n slot k : Nat) (st : BState) (tiles : List Nat) : List Nat :=
  tiles.filter (fun t => decide ((bobAt (ringAt (tileAt s p t) n) slot).st = st) &&
    decide ((bobAt (ringAt (tileAt s p t) n) slot).k = k))

/-- FETCH_ISSUE (R173, R174, R176, R177): a refetch of the head that a consumer waits for, or the next
bobbin of the walk. -/
def execFetchIssue (r : RingAt) (s : State) : Out :=
  ok (let a : TileAt := ⟨r.part, r.tile⟩
    let n := r.ring.val
    let x := ringAt (tileAt s r.part r.tile) n
    match x.walk with
    | none => s
    | some w =>
      let b := bobAt x x.head
      let fan := fanTiles s r.part n r.tile w
      if x.dir ≠ 1 ∨ !issues s r.part then s
      else if (b.st = .deferred ∨ b.st = .stale) ∧ waitsFor s r.part r.tile n x.head then
        match b.w with
        | none => s
        | some v => issueInto s a n x.head b.k v (tilesWith s r.part n x.head b.k b.st fan) (some r.tile.val)
      else if w.r.fan = 2 ∨ !x.started then s
      else match nextBob x w with
        | none => s
        | some (v, k, moved) =>
          let slot := x.total % w.r.nslots
          let others := fan.filter (fun t => t ≠ r.tile.val)
          let pendOk := !moved || others.all (fun t =>
            ((ringAt (tileAt s r.part t) n).pend.map (fun y => y.bobs)) = some v.bobs)
          let freeOk := fan.all (fun t => (bobAt (ringAt (tileAt s r.part t) n) slot).st = .free)
          let out := (x.bobs.filter (fun y => decide (y.st = .issued))).length
          if !(pendOk && freeOk && decide (out < w.r.outst + 1)) then s
          else
            let demand := firstWaiting s r.part n slot fan
            let s := fan.foldl (fun s t => updTile s r.part t (fun u =>
              let y := ringAt u n
              let wk := if moved then y.pend else y.walk
              setRing u n { y with
                walk := wk, pend := if moved then none else y.pend, next := k + 1, total := y.total + 1 })) s
            issueInto s a n slot k v fan demand)

/-- A byte of a region as a fetch reads it (R191, R195, R208, R210): from the T1 frame that serves its page, or from the page's
home, where the line that holds it may be poisoned; `data` is what the host's read brought. -/
def fetchByte (s : State) (p : Nat) (g : Region) (w : Walk) (frs : List Nat) (lo : Nat) (data : List Byte) (off : Nat) : PByte :=
  match frameServes s p w frs off with
  | some f => (memGet f.data (off % pageSize), tagGet f.pois (off % pageSize / 128))
  | none =>
    if g.p.hostback then (data.getD (off - lo) 0, 0)
    else match pageAddr (walkPages g w) off with
      | some x => (memGet s.t2.mem x, linePois s.t2 x)
      | none => (0, 0)

/-- What the error codes find among the sectors and lines that a fetch reads (R208, R401). -/
def readErrors (s : State) (p : Nat) (g : Region) (w : Walk) (b : Bobbin) (e : ReadErrs) : State :=
  let sp := bobSpans w b.k
  let s := meetErrs s (spanLines (walkPages g w) (homeSpans s p w b.frs sp)) e
  linesBroken s (e.store.filter (fun x => b.frs.contains x.1 && decide (x.2 < 512) &&
    (unitsOf 128 sp).any (fun u => decide (128 * u / pageSize = ((frameAt s x.1).map (fun f => f.key.page)).getD 0) &&
      decide (u % 512 = x.2))))

/-- A prefetch is dropped: every slot of the fan that still waits for it defers it (R174, R177). -/
def deferBob (s : State) (p n slot : Nat) (tiles : List Nat) (b : Bobbin) : State :=
  let ts := tilesWith s p n slot b.k .issued tiles
  let s := ts.foldl (fun s t => readersDone s (bobAt (ringAt (tileAt s p t) n) slot).frs) s
  putBobs s p n slot ts { b with st := .deferred, frs := [], reqs := [] }

/-- FETCH_LAND (R166, R174, R208, R210): the bobbin is whole, or a translation fault defers a prefetch and faults at the
consumer word that demanded the fetch. -/
def execFetchLand (r : RingAt) (slot : Fin 16) (how : LandP) (data : List Byte) (s : State) : Out :=
  ok (let n := r.ring.val
    let x := ringAt (tileAt s r.part r.tile) n
    let b := bobAt x slot
    match b.w, b.w.bind (fun w => regionAt s r.part w.td.region) with
    | some w, some g =>
      let fromHost := g.p.hostback && decide (homeSpans s r.part w b.frs (bobSpans w b.k) ≠ [])
      if b.st ≠ .issued ∨ (partAt s r.part).fault.isSome then s
      else match how with
        | .ok e =>
          if fromHost && decide (data.length < b.hi - b.lo) then s
          else
            let cur := x.walk.getD w
            let s := readErrors s r.part g w b e
            let s := addCtr s (ctrKey r.part 1 r.tile cStreamIn) (w.r.bpb * w.pitch)
            let t := landBob (tileAt s r.part r.tile) { w with bad := tagOr w.bad cur.bad } (fetchByte s r.part g w b.frs b.lo data) b.k (bobBase cur slot)
            let s := readersDone s b.frs
            sweepInvals (setTile s r.part r.tile
              (setRing t n (setBob (ringAt t n) slot { b with st := .filled, frs := [], reqs := [] }))) r.part
        | .translation addr why =>
          if !fromHost then s
          else
            let s := hostReadFails s r.part g addr why
            match b.demand with
            | some t =>
              let c := consumerWord s ⟨r.part, Fin.ofNat 192 t⟩ n
              tileFault s ⟨r.part, Fin.ofNat 192 t⟩ c.1 c.2 0x0320 addr.toNat (n + 256 * (b.k % 2 ^ 24))
            | none => sweepInvals (deferBob s r.part n slot (fanTiles s r.part n r.tile (x.walk.getD w)) b) r.part
    | _, _ => s)

/-- Section 3 of the program arms a tile's rings at the start of a segment; the others are closed (R180). -/
def armSegment (s : State) (a : TileAt) (p : Program) (seg : Nat) : State :=
  let s := sweepInvals (updTile s a.part a.tile closeRings) a.part
  (p.sec.rings.filter (fun e => decide (e.seg = seg) && decide (e.tile = a.tile.val))).foldl (fun s e =>
    armRing s a 0 (ringRecOf e.record.toNat).num e.record.toNat 0) s

end Sys2Proof.Machine
end

