-- ==== Sys2Proof/Machine/Sync.lean ====
section
/-! DEFINITION. Synchronisation words and signals (R21 to R25), MARK (R387), SEGEND (R36, R37, R68, R182). -/

namespace Sys2Proof.Machine

open Sys2Proof

/-- Queue of a synchronisation word. -/
def syncQ (w : SyncW) : Nat := w.q.toNat

/-- Does the tile still owe remote stores of queue q: rings with a bobbin on its way (R22, R178)? -/
def owesStores (t : Tile) (q : Nat) : Bool :=
  t.rings.any (fun e => e.2.bobs.any (fun b => decide (b.st = .sending)) &&
    (match e.2.walk with
     | some w => if q = 2 then w.r.auto else if q = 3 then !w.r.auto else false
     | none => false))

/-- Target of a SIGNAL (R21). -/
def signalTarget (a : TileAt) (w : SyncW) : Nat := if w.tile = 255 then a.tile.val else w.tile.toNat

def inboundCap : Nat := 256

/-- A synchronisation word at the head of its queue: inside a chain it breaks the chain (R118). -/
def syncWord (s : State) (a : TileAt) (w : SyncW) (x : TWord) (f : QWord → State) : State :=
  match atHead s a (syncQ w) x with
  | none => s
  | some h =>
    let t := tileAt s a.part a.tile
    if chainOpen t (syncQ w) then chainFault s a h.ix (chainWordIx t) 1 else f h

/-- SIGNAL (R22, R25, R26): released once the queue's earlier words and stores are done and visible. -/
def execSignal (a : TileAt) (w : SyncW) (s : State) : Out :=
  ok (syncWord s a w (.signal w) fun h =>
    let t := tileAt s a.part a.tile
    let q := syncQ w
    let n := signalTarget a w
    let inSeg := ((tileSeg s a).map (fun d => segHasTile d n)).getD false
    if !(inSeg && decide (n < nTiles s a.part)) then
      tileFaultSem s a q h.ix 0x0305 w.sem.toNat 0 0
    else if owesStores t q || decide (inboundCap ≤ (tileAt s a.part n).sigin.length) then s
    else
      let s := updTile s a.part n (fun u => { u with sigin := u.sigin ++ [⟨w.sem.toNat, w.arg.toNat, a.tile, q⟩] })
      finishWord s a q (tileAt s a.part a.tile))

/-- May signal n of the inbound queue be applied: no earlier one of the same queue of the same tile to the
same semaphore waits (R23)? -/
def arrivalOk (l : List Sig) (n : Nat) (g : Sig) : Bool :=
  (l.take n).all (fun e => !(decide (e.tile = g.tile) && decide (e.q = g.q) && decide (e.sem = g.sem)))

/-- A signal takes effect at its target (R22 to R24). -/
def execSignalArrival (a : TileAt) (n : Nat) (s : State) : Out :=
  ok (let t := tileAt s a.part a.tile
    match t.sigin[n]? with
    | none => s
    | some g =>
      if !(issues s a.part && arrivalOk t.sigin n g) then s
      else if 65535 < sem t g.sem + g.count then
        let seg := (t.seg.map (fun r => r.seg)).getD 0
        let d := eitherOf s (sem t g.sem) g.count
        raiseFaults d.2 a.part [{ mkFault s 0x0302 a.tile with
          q := g.q, sem := g.sem, seg := seg, other := g.tile, detail := d.1 }]
      else setTile s a.part a.tile
        (setSem { t with sigin := t.sigin.eraseIdx n } g.sem (sem t g.sem + g.count)))

/-- WAIT (R22): takes its count when it is there, or blocks its queue. -/
def execWait (a : TileAt) (w : SyncW) (s : State) : Out :=
  ok (syncWord s a w (.wait w) fun _ =>
    let t := tileAt s a.part a.tile
    let n := w.sem.toNat
    let c := w.arg.toNat
    if c ≤ sem t n then finishWord s a (syncQ w) (setSem t n (sem t n - c))
    else setTile s a.part a.tile { t with blocked := ⟨syncQ w, none, n, c, s.time.wait, tileWork s t⟩ :: t.blocked })

/-- The cycles for which a WAIT has blocked its queue go to the tile's counter (R385). -/
def countWait (s : State) (a : TileAt) (b : Blocked) : State :=
  addCtr s (ctrKey a.part 1 a.tile cWait) (tileWork s (tileAt s a.part a.tile) / 10 - b.work / 10)

/-- A blocked WAIT whose count has come (R22). -/
def execWaitSatisfied (a : TileAt) (q : Fin 4) (s : State) : Out :=
  ok (let t := tileAt s a.part a.tile
    match t.blocked.find? (fun b => decide (b.q = q.val) && b.ring.isNone) with
    | none => s
    | some b =>
      if issues s a.part && decide (b.count ≤ sem t b.sem) then
        finishWord (countWait s a b) a q (setSem t b.sem (sem t b.sem - b.count))
      else s)

/-- PH.WAITLIMIT in ns (R14). -/
def waitLimit (s : State) (p : Nat) : Nat :=
  match progOf (partAt s p) with
  | some x => 1000 * (if x.waitlimit = 0 then 100000 else x.waitlimit)
  | none => 100000000

/-- Does what a queue waits for still fail to come: its count, or the head bobbin of the ring (R22, R166)? -/
def stillWaits (s : State) (a : TileAt) (b : Blocked) : Bool :=
  match b.ring with
  | some r => decide (headRead s a r (if b.q = 1 then 1 else 2) = .waits)
  | none => decide (sem (tileAt s a.part a.tile) b.sem < b.count)

/-- A queue that has waited too long, on a semaphore or on a bobbin of any of the rings that its word reads (R24, R166). -/
def execWaitTimeout (a : TileAt) (q : Fin 4) (s : State) : Out :=
  ok (let t := tileAt s a.part a.tile
    if !issues s a.part then s
    else match t.blocked.find? (fun b => decide (b.q = q.val) &&
        decide (waitLimit s a.part < (s.time.wait - b.since).toNat) && stillWaits s a b) with
    | none => s
    | some b =>
      match b.ring with
      | some r => tileFault s a q (consumerWord s a r).2 0x0303 0 r
      | none =>
        let d := eitherOf (countWait s a b) (sem t b.sem) b.count
        tileFaultSem d.2 a q (((headWord t q).map (fun h => h.ix)).getD 0) 0x0303 b.sem 0 d.1)

/-- TAKE (R22, R24). -/
def execTake (a : TileAt) (w : SyncW) (s : State) : Out :=
  ok (syncWord s a w (.take w) fun h =>
    let t := tileAt s a.part a.tile
    let n := w.sem.toNat
    let c := w.arg.toNat
    if sem t n < c then
      let d := eitherOf s (sem t n) c
      tileFaultSem d.2 a (syncQ w) h.ix 0x0301 n 0 d.1
    else finishWord s a (syncQ w) (setSem t n (sem t n - c)))

/-- Class-0x01 counters of the engine of queue q, the sequencer's for queue 0 (log entry 7). -/
def queueCounters (q : Nat) : List Nat :=
  if q = 1 then [cKgroups] else if q = 2 then [cChains] else if q = 3 then [cStreamIn, cStreamOut]
  else [cFixed, cWait] ++ (List.range 8).map cGear

/-- Counter id as software names it (R385), and its value. -/
def ctrVal (s : State) (part cls inst num : Nat) : Nat × Word64 :=
  (cls * 2 ^ 24 + inst * 2 ^ 8 + num, mapGet 0 s.ctrs (ctrKey part cls inst num))

/-- A counter of a tile (R385): cycles count up to now, at its gear and for a WAIT that blocks. -/
def tileCtr (s : State) (p t num : Nat) : Nat × Word64 :=
  let u := tileAt s p t
  let v := ctrVal s p 1 t num
  let run (w : Nat) : Word64 := v.2 + BitVec.ofNat 64 (tileWork s u / 10 - w / 10)
  (v.1, if num = cGear u.gear then ((u.seg.map (fun r => run r.work)).getD v.2)
    else if num = cWait then (u.blocked.filter (fun b => b.ring.isNone)).foldl (fun x b =>
      x + BitVec.ofNat 64 (tileWork s u / 10 - b.work / 10)) v.2
    else v.2)

/-- The counters that the model keeps of a tile. -/
def tileCounters : List Nat := [cKgroups, cChains, cStreamIn, cStreamOut, cFixed, cWait] ++ (List.range 8).map cGear

/-- Class-0x02 counters of a partition. -/
def partCounters (s : State) (p : Nat) : List (Nat × Word64) :=
  [cEnergy, cMissed, cSegs, cFillers, cEmpty].map (fun k => ctrVal s 0 2 p k)

/-- A snapshot latches units now. -/
def latchVals (s : State) (x : Snap) (vs : List (Nat × Word64)) : Snap :=
  { x with vals := x.vals ++ vs, last := s.time.now,
           first := if x.vals = [] then s.time.now else x.first }

/-- Is a class of the snapshot's 16-bit mask taken? -/
def maskHas (m : BitVec 16) (cls : Nat) : Bool := m.getLsbD cls

/-- MARK reaches the partition's armed mark snapshots (R387): a queue's first MARK with the number latches
its counters; when the last queue has latched, the partition's counters latch. -/
def markHit (s : State) (a : TileAt) (q n : Nat) : State :=
  updPart s a.part (fun x => { x with snaps := x.snaps.map (fun e =>
    let u := 4 * a.tile.val + q
    if e.2.mark && decide (e.2.point.toNat = n) && e.2.need.contains u then
      let vs := if maskHas e.2.mask 1 then (queueCounters q).map (tileCtr s a.part a.tile) else []
      let y := { latchVals s e.2 vs with need := e.2.need.filter (fun k => k ≠ u) }
      (e.1, if y.need = [] && maskHas e.2.mask 2 then latchVals s y (partCounters s a.part) else y)
    else e) })

/-- MARK (R21, R387). -/
def execMark (a : TileAt) (w : SyncW) (s : State) : Out :=
  ok (syncWord s a w (.mark w) fun h =>
    let t := tileAt s a.part a.tile
    let s := markHit s a (syncQ w) w.arg.toNat
    finishWord s a (syncQ w) { t with marks := (syncQ w, h.ix) :: t.marks.filter (fun e => e.1 ≠ syncQ w) })

/-- A ring with a written tail that was not sent. -/
def residueRing (t : Tile) : Option Nat :=
  (t.rings.find? (fun e => decide (e.2.dir = 2) && (bobAt e.2 e.2.head).st = .tail && (bobAt e.2 e.2.head).wrote)).map
    (fun e => e.1)

/-- SEGEND (R36, R37): its queue takes no further word of the segment. -/
def execSegend (a : TileAt) (w : SyncW) (s : State) : Out :=
  ok (syncWord s a w (.segend w) fun h =>
    let t := tileAt s a.part a.tile
    let q := syncQ w
    let id := w.arg.toNat % 65536
    let here := (t.seg.map (fun r => r.seg)).getD 0
    let fin (t : Tile) : State :=
      let s := if q = 3 then readersDone s (tileFrames (tileAt s a.part a.tile)) else s
      let t := { t with ended := q :: t.ended, blocked := t.blocked.filter (fun b => b.q ≠ q) }
      if q = 0 then setTile s a.part a.tile { t with pc := t.pc + 1, closed := 0 :: t.closed }
      else seqPass (setTile s a.part a.tile (setQueue t q (queueAt t q).tail)) a
    if id ≠ here then tileFault s a q h.ix 0x030B 0 0
    else if q = 0 then
      if t.pc + 1 = t.words.length ∧ [1, 2, 3].all t.closed.contains then fin t
      else tileFault s a q h.ix 0x030B 0 0
    else if q = 1 then
      match t.held with
      | some g => tileFault s a q h.ix 0x0310 0
          ((mapGet TReg.reset t.tregs g.dst).nextk + 65536 * (((mapGet TReg.reset t.tregs g.dst).nextk + 65535) % 65536))
      | none => fin t
    else if q = 3 then
      if t.rings.any (fun e => e.2.bobs.any (fun b => decide (b.st = .sending))) then s
      else match residueRing t with
        | some r => tileFault s a q h.ix 0x0322 0 r
        | none => sweepInvals (fin (closeRings t)) a.part
    else fin t)

end Sys2Proof.Machine
end

