-- ==== Sys2Proof/Machine/Matrix.lean ====
section
/-! DEFINITION. The matrix engine (R47 to R83): operands, group sums, runs, held windows, the finished-tile
queue. A multiply word computes when it starts and takes effect at MULTIPLY_WORD_COMPLETE. -/

namespace Sys2Proof.Machine

open Sys2Proof

/-! ### Group sums (R50 to R60, R64, R65) -/

/-- A product's place and size in its group window: anchor candidate x and significand product. -/
structure Prod where
  s : Bool
  x : Int
  p : Nat
  deriving DecidableEq, Repr

/-- The normalised significand of w bits and the exponent E of a finite nonzero operand (R50, R51, R64). -/
def operandForm (w m : Nat) (e : Int) : Nat × Int := (m <<< (w - bitLen m), 510 + e + bitLen m)

/-- The finite nonzero products of a group, in H mode (12-bit significands) or F mode (24-bit). -/
def finProd (fmode : Bool) (a b : FVal) : Option Prod :=
  match a, b with
  | .fin s m e, .fin s' m' e' =>
    if m = 0 ∨ m' = 0 then none
    else
      let w := if fmode then 24 else 12
      let x := operandForm w m e
      let y := operandForm w m' e'
      some ⟨xor s s', x.2 + y.2, x.1 * y.1⟩
  | _, _ => none

/-- One product truncated into a window whose position 0 has weight 2^(X − c): the magnitude that lands and
whether bits were lost (R58, R65). -/
def placeProd (fmode : Bool) (x0 : Int) (p : Prod) : Nat × Bool :=
  let k : Int := p.x - x0 + (if fmode then 72 else 64)
  if 0 ≤ k then (p.p <<< k.toNat, false)
  else (p.p >>> (-k).toNat, decide (p.p % 2 ^ (-k).toNat ≠ 0))

/-- Is a product infinite, and with which sign? -/
def infProd (a b : FVal) : Option Bool :=
  if a.isNaN || b.isNaN then none
  else if (a.isInf && !b.isZero) || (b.isInf && !a.isZero) then some (xor a.sign b.sign) else none

def isInvProd (a b : FVal) : Bool := (a.isInf && b.isZero) || (a.isZero && b.isInf)

/-- The rounded group sum of one output element over its pairs of operands (R60). -/
def groupSum (fmode : Bool) (ps : List (FVal × FVal)) : Word32F :=
  let nan := ps.any (fun e => e.1.isNaN || e.2.isNaN)
  let sg := ps.any (fun e => e.1.isSig || e.2.isSig)
  let inv := ps.any (fun e => isInvProd e.1 e.2)
  let infs := ps.filterMap (fun e => infProd e.1 e.2)
  let both := infs.contains true && infs.contains false
  if nan || inv || both then ⟨0x7FC00000, flagIf (inv || both || sg) flagNV⟩
  else match infs with
    | s :: _ => ⟨BitVec.ofNat 32 (fmtF32.infCode s), 0#7⟩
    | [] =>
      let fs := ps.filterMap (fun e => finProd fmode e.1 e.2)
      let x0 := match fs with
        | [] => (0 : Int)
        | f :: r => r.foldl (fun acc p => max acc p.x) f.x
      let w : Int := fs.foldl (fun acc p =>
        let k : Int := (placeProd fmode x0 p).1
        if p.s then acc - k else acc + k) 0
      let t := fs.any (fun p => (placeProd fmode x0 p).2)
      if w = 0 then
        if t then ⟨0, flagNX ||| flagUF⟩
        else if ps.all (fun e => xor e.1.sign e.2.sign) && fs = [] then ⟨0x80000000, 0#7⟩
        else ⟨0, 0#7⟩
      else
        -- T counts as a positive amount far below any F32 midpoint
        let m := 2 ^ 64 * w.natAbs + b2n t
        toF32 .rne 0 ⟨.fin (decide (w < 0)) m (x0 - (if fmode then 1140 else 1108) - 64), 0#7⟩

/-! ### Registers -/

def treg (t : Tile) (r : Nat) : TReg := mapGet TReg.reset t.tregs r
def setTreg (t : Tile) (r : Nat) (x : TReg) : Tile := { t with tregs := mapSet TReg.reset t.tregs r x }

/-- Element n of register r (R47, R48). -/
def tregElem (r : Nat) (x : TReg) (n : Nat) : Word32 :=
  match mapFind x.elems n with
  | some v => v
  | none => if x.gen = 0 then 0 else Config.freeTreg r x.gen n

/-- Predicate p at row i, column j (R66). -/
def predAt (t : Tile) (p i j : Nat) : Bool := setHas (mapGet [] t.preds p) (64 * i + j)

/-- Elements that a predicate mode selects (R66). -/
def selected (t : Tile) (pm p n : Nat) : Bool :=
  match pm with
  | 0 => true
  | 1 => predAt t p (n / 64) 0
  | 2 => predAt t p 0 (n % 64)
  | _ => predAt t p (n / 64) (n % 64)

/-- What a numeric unit needs from the program and the partition. -/
def shapeOf (s : State) (p : Nat) : NShape :=
  ((progOf (partAt s p)).map (fun x => x.shape)).getD ⟨1, 64, 1, 0, 0, 0, false, false, false, false, 0⟩

def whorlOf (s : State) (p : Nat) : Whorl := (partAt s p).whorl.getD ⟨[], 0⟩

/-- The 16 bits of R94 for a stream and a logical index (R110). -/
def srBits (w : Whorl) (stream : Nat) (l : LIndex) : Nat := (classA w stream l).toNat % 65536

/-- Poison of the class-A word for a stream and a logical index, where a table entry that it reads is bad (R150). -/
def classATag (bad : Map Tag) (w : Whorl) (stream : Nat) (l : LIndex) : Tag :=
  if bad = [] then 0
  else
    let n := (classAHash w.sk stream l).toNat
    tagAll [tagGet bad (fld n 0 13), tagGet bad (fld n 13 13), tagGet bad (fld n 26 13)]

/-- Poison that a rounding takes in from its bits: those of SR, drawn for an inexact result only (R94, R109). -/
def roundTag (rm : RMode) (fl : FlagWord) (p : Tag) : Tag :=
  if rm = .sr ∧ fl &&& flagNX ≠ 0 then p else 0

/-- One element of a register with the flags and the poison of its update; `pz` says that a poisoned product or random
word contributed (R55). -/
structure Upd where
  v : Word32
  fl : FlagWord
  pois : Tag
  pz : Bool
  deriving DecidableEq, Repr

/-- Add a group sum into a register element (R61, R62). -/
def addGroup (sr1 : Bool) (w : Whorl) (bad : Map Tag) (x : TReg) (n g : Nat) (start : Bool) (old : Word32) (oldP : Tag)
    (sum : Word32F) (p : Tag) : Upd :=
  if start then ⟨sum.x, sum.fl, p, decide (p ≠ 0)⟩
  else
    let l : LIndex := ⟨1, 64 * x.rowb + n / 64, 64 * x.colb + n % 64, g⟩
    let rm : RMode := if sr1 then .sr else .rne
    let r := toF32 rm (srBits w x.stream l) (exAdd .rne (f32v old) (f32v sum.x))
    let q := tagOr p (roundTag rm r.fl (tagOr x.obad (classATag bad w x.stream l)))
    ⟨r.x, sum.fl ||| r.fl, tagOr oldP q, decide (q ≠ 0)⟩

/-- Pairs of one output element: row i of A against column j of a block. -/
def pairsAt (a b : List Opnd) (i j : Nat) : List (Opnd × Opnd) :=
  (List.range 64).map (fun k => (a.getD (64 * i + k) ⟨.fin false 0 0, 0⟩, b.getD (64 * k + j) ⟨.fin false 0 0, 0⟩))

/-- Apply one group to every selected element of a register. -/
def groupInto (fmode sr1 : Bool) (w : Whorl) (bad : Map Tag) (r g : Nat) (start : Bool) (sel : Nat → Bool)
    (pairs : Nat → List (Opnd × Opnd)) (x : TReg) : TReg :=
  (List.range 4096).foldl (fun x n =>
    if sel n then
      let ps := pairs n
      let sum := groupSum fmode (ps.map (fun e => (e.1.v, e.2.v)))
      let p := tagAll (ps.map (fun e => tagOr e.1.pois e.2.pois))
      let u := addGroup sr1 w bad x n g start (tregElem r x n) (tagGet x.pois n) sum p
      { x with elems := mapPut x.elems n u.v, pois := tagPut x.pois n u.pois,
               flags := x.flags ||| u.fl ||| flagIf u.pz flagPZ }
    else x) x

/-! ### Operand slots (R51, R52, R56, R72, R75 to R77) -/

/-- Formats a slot accepts (R51, R52, R71). -/
def slotFmtOk (w : MxSlotW) (isD : Bool) : Option Fmt :=
  match Fmt.ofCode w.fmt.toNat with
  | some .f32 => if w.scl || isD then none else some .f32
  | some .f16 => if w.scl then none else some .f16
  | some .b16 => if w.scl then none else some .b16
  | some .s8e5 => some .s8e5
  | some .s8e4 => some .s8e4
  | some .s6e3 => some .s6e3
  | some .s6e2 => some .s6e2
  | some .s4 => some .s4
  | some .i8 => some .i8
  | some .i4 => some .i4
  | some .u8 => some .u8
  | _ => none

/-- What a slot's use meets before the word starts. -/
inductive SlotUse where
  | format
  | extent (addr : Nat)
  | ring (h : HeadRead)
  | ok (base : Nat)
  deriving DecidableEq, Repr

/-- Check n groups of a slot: every block and plane inside the windows or the head bobbin (R76). The base
that is answered is 0 for T0, or the head bobbin's offset. -/
def slotUse (s : State) (a : TileAt) (x : MxSlot) (isD : Bool) (n : Nat) : SlotUse :=
  match slotFmtOk x.w isD with
  | none => .format
  | some f =>
    let ks := if isD then 0 else x.w.kstride.toNat
    let sks := if isD then 0 else x.skstride
    let bytes := packedBytes f 4096
    let plane := 4096 / sblkLen x.w.sblk.toNat
    let bad (c : Nat → Nat → Bool) : Option Nat := (List.range n).findSome? (fun g =>
      let b := 64 * (x.addr + g * ks)
      let q := 16 * (x.saddr + g * sks)
      if !c b bytes then some b else if x.w.scl && !c q plane then some q else none)
    if x.w.src then
      match headRead s a x.w.ring.toNat 1 with
      | .at base size => (match bad (fun o k => decide (o + k ≤ size)) with
        | some o => .extent (base + o)
        | none => .ok base)
      | h => .ring h
    else match bad (t0Ok s a false) with
      | some o => .extent o
      | none => .ok 0

/-- The operand block of group g of a slot (R54, R56, R72). -/
def slotBlock (t : Tile) (x : MxSlot) (isD : Bool) (base g : Nat) : List Opnd :=
  let f := (Fmt.ofCode x.w.fmt.toNat).getD .f16
  let b := base + 64 * (x.addr + (if isD then 0 else g * x.w.kstride.toNat))
  let q := base + 16 * (x.saddr + (if isD then 0 else g * x.skstride))
  (List.range 4096).map (fun n =>
    let k := if x.w.tr then 64 * (n % 64) + n / 64 else n
    let sa := q + k / sblkLen x.w.sblk.toNat
    let sc := if x.w.scl then some (memGet t.t0 sa).toNat else none
    ⟨scaledValue f (memElem t.t0 b f k) sc,
     tagAll ([x.bad, elemPois t b f k] ++ (if x.w.scl then [x.sbad, tagGet t.pois sa] else []))⟩)

/-- A slot as a word reads it that has met a parity error itself (R30). -/
def taintSlot (p : Tag) (x : MxSlot) : MxSlot := { x with bad := tagOr x.bad p }

/-- Fault or wait that a slot's use raises at a matrix word. Slot numbers are 0 A, 1 B, 2 D. -/
def slotFault (s : State) (a : TileAt) (ix slot : Nat) (x : MxSlot) (u : SlotUse) : State :=
  match u with
  | .format => tileFault s a 1 ix 0x0312 0 (slot + 16 * x.w.fmt.toNat)
  | .extent addr => if x.w.src then ringExtent s a 1 ix addr x.w.ring.toNat else t0Extent s a 1 ix addr
  | .ring .form => tileFault s a 1 ix 0x0323 0 x.w.ring.toNat
  | .ring (.epoch c) => tileFault s a 1 ix 0x0321 0 (x.w.ring.toNat + 256 * (c % 2 ^ 24))
  | .ring .waits => blockOnRings s a 1 [x.w.ring.toNat]
  | _ => s

/-- Rings whose head bobbin a slot's use waits for. -/
def slotWaits (x : MxSlot) (u : SlotUse) : List Nat := if u = .ring .waits then [x.w.ring.toNat] else []

/-- The matrix word at its queue's head, if the engine takes it. -/
def mxWord (s : State) (a : TileAt) (x : TWord) (f : QWord → State) : State :=
  match atHead s a 1 x with
  | none => s
  | some h => f h

/-- CANON_ORDER with its detail (R83). FR.DETAIL[15:0] is the NEXTK of the register concerned: while a window is held that is
the held register, also where MXMUL, MXDELTA or MXFIN names another one; with no window held, as for an MXDELTA that finds
none, it is the word's own register (DESIGN CHOICE, log entry 29: R83 does not say which one is concerned). -/
def canonFault (s : State) (a : TileAt) (ix r hi : Nat) : State :=
  tileFault s a 1 ix 0x0310 0 ((treg (tileAt s a.part a.tile) r).nextk + 65536 * (hi % 65536))

/-- CANON_ORDER that concerns the held register, with the held group's index: its TRS.NEXTK − 1 (R83). -/
def heldFault (s : State) (a : TileAt) (ix r : Nat) : State :=
  canonFault s a ix r ((treg (tileAt s a.part a.tile) r).nextk + 65535)

/-! ### Command words -/

/-- A slot word leaves the scale plane's address as MXSETS set it (R75, R77). -/
def setSlot (x : MxSlot) (w : MxSlotW) (p : Tag) : MxSlot := { x with w := w, addr := w.addr.toNat, bad := p }

def execMxseta (a : TileAt) (w : MxSlotW) (s : State) : Out :=
  ok (mxWord s a (.mxseta w) fun h =>
    let t := tileAt s a.part a.tile
    finishWord s a 1 { t with slotA := setSlot t.slotA w h.bad })
def execMxsetb (a : TileAt) (w : MxSlotW) (s : State) : Out :=
  ok (mxWord s a (.mxsetb w) fun h =>
    let t := tileAt s a.part a.tile
    finishWord s a 1 { t with slotB := setSlot t.slotB w h.bad })
def execMxsetd (a : TileAt) (w : MxSlotW) (s : State) : Out :=
  ok (mxWord s a (.mxsetd w) fun h =>
    let t := tileAt s a.part a.tile
    finishWord s a 1 { t with slotD := setSlot t.slotD w h.bad })

/-- MXSETS (R77). -/
def execMxsets (a : TileAt) (w : MxScaleW) (s : State) : Out :=
  ok (mxWord s a (.mxsets w) fun h =>
    let t := tileAt s a.part a.tile
    let f (x : MxSlot) : MxSlot := { x with saddr := w.addr.toNat, skstride := w.kstride.toNat, sbad := h.bad }
    finishWord s a 1 (if w.slot = 0 then { t with slotA := f t.slotA }
      else if w.slot = 1 then { t with slotB := f t.slotB } else { t with slotD := f t.slotD }))

/-- MXORG (R68, R78). -/
def execMxorg (a : TileAt) (w : MxOrgW) (s : State) : Out :=
  ok (mxWord s a (.mxorg w) fun h =>
    let t := tileAt s a.part a.tile
    let r := w.dst.toNat
    if (t.held.map (fun g => g.dst)) = some r then heldFault s a h.ix r
    else finishWord s a 1 (setTreg t r
      { treg t r with rowb := w.rowb.toNat, colb := w.colb.toNat, stream := w.stream.toNat, obad := h.bad }))

/-- Run-boundary checks of R63. -/
def runOk (run : Nat) (x : TReg) (w : MxMulW) : Bool :=
  let k := w.kidx.toNat
  let inRun := decide (k / run = (k + w.nk.toNat - 1) / run)
  inRun && (if w.acc then x.run && decide (k = x.nextk) && decide (k % run ≠ 0) else decide (k % run = 0))

/-- The slot after a multiply word of n groups: advanced, its pop spent (R75, R76). An address that grows beyond its 17-bit
or 19-bit field does not wrap (DESIGN CHOICE, log entry 29): the next block then lies outside every window and faults. -/
def advSlot (x : MxSlot) (n : Nat) : MxSlot :=
  { x with w := { x.w with pop := false }, addr := x.addr + n * x.w.kstride.toNat,
           saddr := x.saddr + n * x.skstride }

/-- Rings that a slot's pop releases. -/
def slotPops (x : MxSlot) : List Nat := if x.w.src && x.w.pop then [x.w.ring.toNat] else []

/-- A slot's head bobbin is in use from its first read. -/
def useSlot (t : Tile) (x : MxSlot) : Tile := if x.w.src then useHead t x.w.ring.toNat else t

/-- The elements that a predicate mode selects, as a set; none where it selects all of them (R66). -/
def selectedSet (t : Tile) (pm p : Nat) : Option NSet :=
  if pm = 0 then none
  else some ((List.range 4096).filterMap (fun n => if selected t pm p n then some (n, true) else none))

/-- A register with the elements of a set, and their poison, taken from another one (R66, R70). -/
def takeElems (r : Nat) (sel : NSet) (x y : TReg) : TReg :=
  sel.foldl (fun z e => { z with elems := mapPut z.elems e.1 (tregElem r y e.1), pois := tagPut z.pois e.1 (tagGet y.pois e.1) }) x

/-- A register after a multiply word: the elements that the word updates come from it, the others keep the value and the poison that
they have when it completes (R66, R70); its run, its window and its flags are the word's. -/
def writeBack (x : TReg) (p : MxPend) : TReg :=
  match p.sel with
  | none => p.reg
  | some sel =>
    let z := takeElems p.dst sel x p.reg
    { p.reg with elems := z.elems, pois := z.pois, gen := x.gen }

/-- The register after the groups of an MXMUL that are not held (R61, R66). TRS.NEXTK has 16 bits: where MM.KIDX + MM.NK exceeds 65,535
it is taken modulo 2^16 (DESIGN CHOICE, log entry 29: R63 does not say). -/
def mulReg (sh : NShape) (wh : Whorl) (t : Tile) (fmode : Bool) (w : MxMulW) (ba bb : Nat) : TReg :=
  let r := w.dst.toNat
  let x0 := treg t r
  let x0 := if w.acc then x0 else { x0 with flags := 0 }
  let n := if w.hold then w.nk.toNat - 1 else w.nk.toNat
  let sel (e : Nat) : Bool := selected t w.pm.toNat w.pred.toNat e
  let x := (List.range n).foldl (fun x g =>
    let ab := slotBlock t t.slotA false ba g
    let bl := slotBlock t t.slotB false bb g
    groupInto fmode sh.sr1 wh t.whorlBad r (w.kidx.toNat + g) (decide (g = 0) && !w.acc) sel
      (fun e => pairsAt ab bl (e / 64) (e % 64)) x) x0
  { x with run := true, nextk := (w.kidx.toNat + w.nk.toNat) % 65536, held := w.hold, holdn := 0, dmask := [] }

/-- MXMUL (R61, R63, R66 to R68, R71, R79). Order of checks where several fail (DESIGN CHOICE, log entry 29): the held
window, the run boundary, F mode with a hold, slot A, then slot B. OPERAND_FORMAT of F mode with a hold names a slot whose format is
F32, slot A where both are (DESIGN CHOICE, log entry 29: R71 does not say which). -/
def execMxmul (a : TileAt) (w : MxMulW) (s : State) : Out :=
  ok (mxWord s a (.mxmul w) fun h =>
    let t := tileAt s a.part a.tile
    let r := w.dst.toNat
    let sh := shapeOf s a.part
    let fm (x : MxSlot) : Bool := decide (x.w.fmt = 0)
    let fmode := fm t.slotA || fm t.slotB
    match t.held with
    | some g => canonFault s a h.ix g.dst w.kidx.toNat
    | none =>
      if !runOk sh.run (treg t r) w then canonFault s a h.ix r w.kidx.toNat
      else if fmode && w.hold then
        (if fm t.slotA then slotFault s a h.ix 0 t.slotA .format else slotFault s a h.ix 1 t.slotB .format)
      else
        match slotUse s a t.slotA false w.nk.toNat, slotUse s a t.slotB false w.nk.toNat with
        | .ok ba, .ok bb =>
          if braked s.power then s
          else
            let sa := taintSlot h.bad t.slotA
            let reg := mulReg sh (whorlOf s a.part) { t with slotA := sa } fmode w ba bb
            let last := w.nk.toNat - 1
            let held := if w.hold then
              some ⟨r, w.kidx.toNat + last, decide (last = 0) && !w.acc, slotBlock t sa false ba last,
                [⟨slotBlock t t.slotB false bb last,
                  (List.range 4096).filterMap (fun e =>
                    if selected t w.pm.toNat w.pred.toNat e then some (e, true) else none)⟩]⟩
              else none
            let t := useSlot (useSlot t t.slotA) t.slotB
            setTile s a.part a.tile { t with
              blocked := t.blocked.filter (fun b => b.q ≠ 1),
              mxPend := some { dst := r, reg := reg,
                               sel := if w.hold && decide (last = 0) then some [] else selectedSet t w.pm.toNat w.pred.toNat,
                               pops := slotPops t.slotA ++ slotPops t.slotB, held := held,
                               slots := [advSlot t.slotA w.nk.toNat, advSlot t.slotB w.nk.toNat, t.slotD],
                               kgroups := w.nk.toNat } }
        | .ok _, u => slotFault s a h.ix 1 t.slotB u
        | .ring .waits, u => blockOnRings s a 1 (slotWaits t.slotA (.ring .waits) ++ slotWaits t.slotB u)
        | u, _ => slotFault s a h.ix 0 t.slotA u)

/-- The elements that some pass of a held window selects, each once (R70). -/
def Held.selected (g : Held) : NSet :=
  (List.range 4096).filterMap (fun e => if g.passes.any (fun p => setHas p.sel e) then some (e, true) else none)

/-- The register when a held window closes: every pass as one group (R67, R70). -/
def closeHeld (sh : NShape) (wh : Whorl) (bad : Map Tag) (g : Held) (x : TReg) : TReg :=
  let sel (e : Nat) : Bool := g.passes.any (fun p => setHas p.sel e)
  groupInto false sh.sr1 wh bad g.dst g.kidx g.start sel
    (fun e => (g.passes.map (fun p => if setHas p.sel e then pairsAt g.a p.b (e / 64) (e % 64) else [])).flatten) x

/-- MXDELTA (R67 to R71, R80). With no window held it raises CANON_ORDER, the "any other order" of R68, with the NEXTK of
its own register; the row masks are checked before slot D's format and extent (DESIGN CHOICE, log entry 29). -/
def execMxdelta (a : TileAt) (w : MxDeltaW) (s : State) : Out :=
  ok (mxWord s a (.mxdelta w) fun h =>
    let t := tileAt s a.part a.tile
    let r := w.dst.toNat
    match t.held with
    | none => canonFault s a h.ix r w.kidx.toNat
    | some g =>
      let x := treg t g.dst
      let rows := (List.range 64).filter (fun i => predAt t w.pred.toNat i 0)
      if g.dst ≠ r ∨ g.kidx ≠ w.kidx.toNat ∨ x.holdn = 15 then canonFault s a h.ix g.dst w.kidx.toNat
      else match rows.find? (fun i => setHas x.dmask i) with
      | some i => tileFault s a 1 h.ix 0x0311 0 i
      | none =>
        match slotUse s a t.slotD true 1 with
        | .ok bd =>
          if braked s.power then s
          else
            let sel : NSet := ((List.range 4096).filter (fun e => rows.contains (e / 64))).map (fun e => (e, true))
            let g' : Held := { g with passes := g.passes ++ [⟨slotBlock t (taintSlot h.bad t.slotD) true bd 0, sel⟩] }
            let x' := { x with holdn := x.holdn + 1, dmask := rows.foldl (fun m i => setPut m i true) x.dmask }
            let reg := if w.hold then x'
              else { closeHeld (shapeOf s a.part) (whorlOf s a.part) t.whorlBad g' x' with held := false, holdn := 0, dmask := [] }
            let t := useSlot t t.slotD
            setTile s a.part a.tile { t with
              blocked := t.blocked.filter (fun b => b.q ≠ 1),
              mxPend := some { dst := r, reg := reg, sel := some (if w.hold then [] else g'.selected), pops := slotPops t.slotD,
                               held := if w.hold then some g' else none,
                               slots := [t.slotA, t.slotB, { t.slotD with w := { t.slotD.w with pop := false } }],
                               kgroups := 0 } }
        | u => slotFault s a h.ix 2 t.slotD u)

/-- A multiply word is done (R18, R82): register, held window, slots and pops take effect together. -/
def execMultiplyWordComplete (a : TileAt) (s : State) : Out :=
  ok (let t := tileAt s a.part a.tile
    match t.mxPend with
    | none => s
    | some p =>
      if !issues s a.part then s
      else
        let t := setTreg { t with mxPend := none, held := p.held, slotA := p.slots.getD 0 t.slotA,
                                  slotB := p.slots.getD 1 t.slotB, slotD := p.slots.getD 2 t.slotD } p.dst (writeBack (treg t p.dst) p)
        let t := p.pops.foldl popHead t
        finishWord (addCtr s (ctrKey a.part 1 a.tile cKgroups) p.kgroups) a 1 t)

def ftqCap : Nat := 4

/-- A finished-tile entry that has met a parity error: whatever is read through it carries the poison (R30). -/
def taintFtq (p : Tag) (e : FtqE) : FtqE :=
  if p = 0 then e
  else { e with pois := (List.range 4096).map (fun n => (n, tagOr (tagGet e.pois n) p)), obad := tagOr e.obad p }

/-- MXFIN (R68, R73, R81). While a window is held it raises CANON_ORDER with the held group's index also where it names another register
(DESIGN CHOICE, log entry 29: R83 gives the detail for the held register only). -/
def execMxfin (a : TileAt) (w : MxFinW) (s : State) : Out :=
  ok (mxWord s a (.mxfin w) fun h =>
    let t := tileAt s a.part a.tile
    let r := w.dst.toNat
    match t.held with
    | some g => heldFault s a h.ix g.dst
    | none =>
      if ftqCap ≤ t.ftq.length then s
      else
        let x := treg t r
        let e : FtqE := { elems := (List.range 4096).map (tregElem r x), pois := x.pois, flags := x.flags,
                          rowb := x.rowb, colb := x.colb, stream := x.stream, obad := x.obad, reg := r, tag := w.tag.toNat }
        let e := taintFtq h.bad e
        finishWord s a 1 { t with ftq := t.ftq ++ [e] })

end Sys2Proof.Machine
end

