-- ==== Sys2Proof/Machine/Chains.lean ====
section
/-! DEFINITION. The element-wise engine (R117 to R140): chain words, the checks of a chain, its lanes,
reductions and destinations. A chain computes at CHAIN_START and takes effect at CHAIN_COMPLETE. -/

namespace Sys2Proof.Machine

open Sys2Proof

/-! ### Chain words (R118) -/

/-- EWHEAD opens a chain. -/
def execEwhead (a : TileAt) (w : EwHeadW) (s : State) : Out :=
  ok (match atHead s a 2 (.ewhead w) with
    | none => s
    | some h =>
      let t := tileAt s a.part a.tile
      match t.chain with
      | some c => chainFault s a h.ix c.n 1
      | none =>
        if 4 < w.nsrc.toNat ∨ w.ndst = 0 ∨ w.ndst = 3 then chainFault s a h.ix 0 2
        else
          let c : ChainAsm :=
            ⟨w, (h.vals.getD 0 0).setWidth 32, (h.vals.getD 1 0).toNat % 2 ^ 40, 1, [h.ix], none, [], [], [], h.bad⟩
          finishWord s a 2 { t with chain := some c })

/-- Another word of a chain: `f` places it, or finds it out of order (reason 1). -/
def ewPart (s : State) (a : TileAt) (x : TWord) (f : QWord → ChainAsm → Option ChainAsm) : State :=
  match atHead s a 2 x with
  | none => s
  | some h =>
    let t := tileAt s a.part a.tile
    match t.chain with
    | none => chainFault s a h.ix 0 1
    | some c => match f h c with
      | none => chainFault s a h.ix c.n 1
      | some d => finishWord s a 2 { t with chain := some { d with n := c.n + 1, ixs := c.ixs ++ [h.ix], bad := tagOr c.bad h.bad } }

def val0 (h : QWord) : Word64 := h.vals.getD 0 0

/-- Is the chain past its head and, where it has one, its origin word? -/
def orgDone (c : ChainAsm) : Bool := !c.head.org || c.org.isSome

def execEworg (a : TileAt) (w : EwOrgW) (s : State) : Out :=
  ok (ewPart s a (.eworg w) fun h c =>
    if c.head.org && c.org.isNone then some { c with org := some (w, val0 h) } else none)

def execEwsrc (a : TileAt) (w : EwSrcW) (s : State) : Out :=
  ok (ewPart s a (.ewsrc w) fun h c =>
    if orgDone c && decide (c.srcs.length < c.head.nsrc.toNat) then
      some { c with srcs := c.srcs ++ [(w, (val0 h).toNat % 16)] } else none)

def execEwop (a : TileAt) (w : EwOpW) (s : State) : Out :=
  ok (ewPart s a (.ewop w) fun h c =>
    if orgDone c && decide (c.srcs.length = c.head.nsrc.toNat) && decide (c.ops.length < c.head.nst.toNat + 1) then
      some { c with ops := c.ops ++ [(w, (val0 h).setWidth 32)] } else none)

def execEwdst (a : TileAt) (w : EwDstW) (s : State) : Out :=
  ok (ewPart s a (.ewdst w) fun h c =>
    if decide (c.ops.length = c.head.nst.toNat + 1) && decide (c.dsts.length < c.head.ndst.toNat) then
      some { c with dsts := c.dsts ++ [(w, (val0 h).toNat % 16)] } else none)

/-! ### Form (R118 to R137, R146) -/

/-- Format code of a source or destination (R121, R131). -/
def srcFmt (e : EwSrcW × Nat) : Nat := if e.1.freg then e.2 else e.1.fmt.toNat
def dstFmt (e : EwDstW × Nat) : Nat := if e.1.freg then e.2 else e.1.fmt.toNat

/-- Is a format code usable, with a scale plane where one is asked for (R99)? -/
def fmtOk (code : Nat) (scl : Bool) : Bool :=
  match Fmt.ofCode code with
  | some f => !scl || f.scalable
  | none => false

/-- Reason of the head word, 0 where it has none. -/
def headReason (c : ChainAsm) : Nat :=
  let h := c.head
  if h.red = 3 ∨ 5 < h.rop.toNat then 2
  else if h.red ≠ 0 && h.vec then 7
  else if h.nst.toNat < h.rsrc.toNat then 3
  else 0

/-- Does an earlier finished-tile source keep its entry? -/
def keptBefore (c : ChainAsm) (k : Nat) : Bool := (c.srcs.take k).any (fun e => decide (e.1.kind = 0) && !e.1.pop)

def srcReason (c : ChainAsm) (k : Nat) (e : EwSrcW × Nat) : Nat :=
  let w := e.1
  if 4 < w.kind.toNat ∨ w.bc = 3 ∨ (w.kind = 4 ∧ 7 < w.idx.toNat) then 2
  else if c.head.vec ∧ (w.kind = 0 ∨ w.bc ≠ 0) then 7
  else if w.kind = 0 ∧ w.pop ∧ keptBefore c k then 9
  else if (w.kind = 2 ∨ w.kind = 3) ∧ fmtOk (srcFmt e) w.scl = false then 5
  else 0

/-- Selectors of the operands that an operation reads (R124). -/
def opSels (w : EwOpW) : List Nat := [w.sela.toNat, w.selb.toNat, w.selc.toNat].take (opReads w.op.toNat)

def selOk (nsrc n v : Nat) : Bool :=
  if v ≤ 3 then decide (v < nsrc)
  else if 8 ≤ v ∧ v ≤ 15 then decide (v - 8 < n)
  else decide (0x10 ≤ v) && decide (v ≤ 0x19)

/-- Operations that site 3 permits (R126). -/
def site3Ops : List Nat := [0x00, 0x01, 0x02, 0x03, 0x04, 0x05]

/-- Reason of a stage word, 0 where it has none. FCVT to the reserved format 0xF is given reason 5, the reason of a format
that may not stand where it does (DESIGN CHOICE, log entry 29: R126 names no fault for it). -/
def opReason (ts : List TabD) (c : ChainAsm) (n : Nat) (w : EwOpW) : Nat :=
  let op := w.op.toNat
  if (opSels w).any (fun v => !selOk c.head.nsrc.toNat n v) then 3
  else if op = 0x0F ∧ w.fmt = 15 then 5
  else if (w.rm = 4 ∧ op ≠ 0x0F) ∨ w.site = 1 ∨ ((w.site = 2 ∨ w.site = 3) ∧ w.rm ≠ 0) ∨ (w.site = 2 ∧ op ≠ 0) ∨
      (w.site = 3 ∧ site3Ops.contains op = false) then 6
  else if op = 0x33 ∧ (tabAt ts (16 + w.fmt.toNat)).kind ≠ 2 then 10
  else if op = 0x34 ∧ (tabAt ts (16 + w.fmt.toNat)).kind ≠ 3 then 10
  else 0

def dstReason (c : ChainAsm) (e : EwDstW × Nat) : Nat :=
  let w := e.1
  let sel := w.sel.toNat
  if 3 < w.kind.toNat then 2
  else if 9 < sel ∨ (sel < 8 ∧ c.head.nst.toNat < sel) ∨ (8 ≤ sel ∧ c.head.red = 0) ∨ (sel = 9 ∧ c.head.rop ≠ 5) then 4
  else if (w.kind ≠ 2 ∧ fmtOk (dstFmt e) w.scl = false) ∨ (w.scl ∧ (Fmt.ofCode (dstFmt e)).all (fun f => !f.scalable)) then 5
  else if w.kind = 1 ∧ dstFmt e ≠ 0 ∧ dstFmt e ≠ 8 then 8
  else 0

/-- Malformed words of a chain: position and reason, in order. -/
def formFaults (ts : List TabD) (c : ChainAsm) : List (Nat × Nat) :=
  let o := 1 + b2n c.head.org
  let n := c.head.nsrc.toNat
  let m := c.head.nst.toNat + 1
  let all := [(0, headReason c)] ++ c.srcs.zipIdx.map (fun e => (o + e.2, srcReason c e.2 e.1)) ++
    c.ops.zipIdx.map (fun e => (o + n + e.2, opReason ts c e.2 e.1.1)) ++
    c.dsts.zipIdx.map (fun e => (o + n + m + e.2, dstReason c e.1))
  all.filter (fun e => e.2 ≠ 0)

/-! ### Places of sources and destinations -/

/-- Is a source read as a vector (R121, R137)? -/
def srcVec (c : ChainAsm) (w : EwSrcW) : Bool := c.head.vec || decide (w.bc ≠ 0)
def dstVec (c : ChainAsm) (w : EwDstW) : Bool := c.head.vec || decide (8 ≤ w.sel.toNat)

def elemCount (vec : Bool) : Nat := if vec then 64 else 4096

/-- Bytes of elements and scale plane. -/
def areaBytes (f : Fmt) (scl : Bool) (sblk cnt : Nat) : Nat :=
  packedBytes f cnt + (if scl then cdiv cnt (sblkLen sblk) else 0)

/-- How many finished-tile sources stand before source k. -/
def ftqRank (c : ChainAsm) (k : Nat) : Nat := ((c.srcs.take k).filter (fun e => decide (e.1.kind = 0))).length

/-- Index in the segment's list of the word of source k, and of destination k. -/
def srcIx (c : ChainAsm) (k : Nat) : Nat := c.ixs.getD (1 + b2n c.head.org + k) 0
def dstIx (c : ChainAsm) (k : Nat) : Nat := c.ixs.getD (2 + b2n c.head.org + c.head.nsrc.toNat + c.head.nst.toNat + k) 0

/-- What stands in a chain's way: a fault with its status, word and detail, EXTENT in T0 or in a ring's bobbin, or a wait. -/
inductive Bar where
  | fault (status ix addr detail : Nat)
  | extent (ix addr : Nat)
  | ringExtent (ix addr r : Nat)
  | ring (r : Nat)
  | waits
  deriving DecidableEq, Repr

def Bar.status : Bar → Nat
  | .fault st _ _ _ => st
  | .extent _ _ => 0x0307
  | .ringExtent _ _ _ => 0x0307
  | _ => 0x10000

/-- Bars and the T0 base of source k (R122). -/
def srcBase (s : State) (a : TileAt) (c : ChainAsm) (k : Nat) (e : EwSrcW × Nat) : List Bar × Nat :=
  let t := tileAt s a.part a.tile
  let w := e.1
  let ix := srcIx c k
  let f := (Fmt.ofCode (srcFmt e)).getD .f32
  let bytes := areaBytes f w.scl w.sblk.toNat (elemCount (srcVec c w))
  match w.kind.toNat with
  | 0 => match t.ftq[ftqRank c k]? with
    | none => ([.waits], 0)
    | some q =>
      if w.tagen && decide (q.tag ≠ w.addr.toNat / 2) then
        ([.fault 0x0318 ix 0 (w.addr.toNat / 2 + 65536 * q.tag)], 0)
      else ([], 0)
  | 2 =>
    let b := 64 * w.addr.toNat
    if t0Ok s a false b bytes then ([], b) else ([.extent ix b], b)
  | 3 => match headRead s a w.idx.toNat 2 with
    | .form => ([.fault 0x0323 ix 0 w.idx.toNat], 0)
    | .waits => ([.ring w.idx.toNat], 0)
    | .epoch cur => ([.fault 0x0321 ix 0 (w.idx.toNat + 256 * (cur % 2 ^ 24))], 0)
    | .at base size =>
      let b := base + 64 * w.addr.toNat
      if 64 * w.addr.toNat + bytes ≤ size then ([], b) else ([.ringExtent ix b w.idx.toNat], b)
  | _ => ([], 0)

def dstRing (w : EwDstW) : Nat := w.addr.toNat / 8192
def dstOff (w : EwDstW) : Nat := 64 * (w.addr.toNat % 8192)

/-- Bars and the T0 base of destination k (R131, R132, R165, R178, R179). -/
def dstBase (s : State) (a : TileAt) (c : ChainAsm) (k : Nat) (e : EwDstW × Nat) : List Bar × Nat :=
  let t := tileAt s a.part a.tile
  let w := e.1
  let ix := dstIx c k
  let f := (Fmt.ofCode (dstFmt e)).getD .f32
  let bytes := areaBytes f w.scl w.sblk.toNat (elemCount (dstVec c w))
  match w.kind.toNat with
  | 0 =>
    let b := 64 * w.addr.toNat
    if t0Ok s a true b bytes then ([], b) else ([.extent ix b], b)
  | 3 =>
    let x := ringAt t (dstRing w)
    match x.walk with
    | none => ([.fault 0x0323 ix 0 (dstRing w)], 0)
    | some v =>
      let b := bobBase v x.head + dstOff w
      if x.dir ≠ 2 then ([.fault 0x0323 ix 0 (dstRing w)], 0)
      else if (bobAt x x.head).st = .sending then ([.fault 0x0306 ix 0 (dstRing w)], b)
      else if 64 * v.r.bsize < dstOff w + bytes then ([.ringExtent ix b (dstRing w)], b)
      else ([], b)
  | _ => ([], 0)

/-! ### Lanes -/

/-- What a chain computes from: the tile, the words, bases, tables, whorl, shape and logical origin with its poison. -/
structure CEnv where
  t : Tile
  c : ChainAsm
  bases : List Nat
  ts : List TabD
  wh : Whorl
  sh : NShape
  rowb : Nat
  colb : Nat
  stream : Nat
  ld : Nat
  tensor : Nat
  obad : Tag

/-- A lane's value with its poison tag and the flags raised in making it. -/
structure LaneV where
  x : Word32
  p : Tag
  fl : FlagWord
  deriving DecidableEq, Repr

/-- A stored element as a lane receives it (R122). -/
def laneOfCode (f : Fmt) (raw : Bool) (code : Nat) (scale : Option Nat) : Word32F :=
  if raw then ⟨BitVec.ofNat 32 code, 0#7⟩
  else match scale with
    | some _ => toF32 .rne 0 ⟨scaledValue f code scale, 0#7⟩
    | none => match f with
      | .f32 | .i32 => ⟨BitVec.ofNat 32 code, 0#7⟩
      | .i16 | .i8 | .i4 => ⟨BitVec.ofInt 32 (signOf f.bits code), 0#7⟩
      | .u8 | .m1 => ⟨BitVec.ofNat 32 code, 0#7⟩
      | _ => toF32 .rne 0 ⟨decodeCode f code, 0#7⟩

/-- Element index that lane n of a source reads: stored position, transposed or broadcast (R121). A vector read from a
register or a predicate is row 0 (R122); one read from a finished tile is taken as row 0 too (DESIGN CHOICE, log entry 29:
the rules do not say which of its elements the vector is). -/
def srcElemIx (c : ChainAsm) (w : EwSrcW) (n : Nat) : Nat :=
  if c.head.vec then n
  else match w.bc.toNat with
    | 1 => n / 64
    | 2 => n % 64
    | _ => if w.tr && (decide (w.kind = 2) || decide (w.kind = 3)) then 64 * (n % 64) + n / 64 else n

/-- Lane n of source k. -/
def srcLane (v : CEnv) (k n : Nat) : LaneV :=
  match v.c.srcs[k]? with
  | none => ⟨0, 0, 0⟩
  | some e =>
    let w := e.1
    let i := srcElemIx v.c w n
    match w.kind.toNat with
    | 0 => match v.t.ftq[ftqRank v.c k]? with
      | some q => ⟨q.elems.getD i 0, tagGet q.pois i, 0⟩
      | none => ⟨0, 0, 0⟩
    | 1 => ⟨tregElem w.idx.toNat (treg v.t w.idx.toNat) i, tagGet (treg v.t w.idx.toNat).pois i, 0⟩
    | 4 => ⟨boolW (setHas (mapGet [] v.t.preds w.idx.toNat) i), 0, 0⟩
    | _ =>
      let f := (Fmt.ofCode (srcFmt e)).getD .f32
      let b := v.bases.getD k 0
      let sa := b + packedBytes f (elemCount (srcVec v.c w)) + i / sblkLen w.sblk.toNat
      let scaled := w.scl && !w.raw
      let r := laneOfCode f w.raw (memElem v.t.t0 b f i)
        (if scaled then some (memGet v.t.t0 sa).toNat else none)
      ⟨r.x, tagOr (elemPois v.t b f i) (if scaled then tagGet v.t.pois sa else 0), r.fl⟩

/-- Position (i, j) of lane n (R117, R137). -/
def lanePos (c : ChainAsm) (n : Nat) : Nat × Nat := if c.head.vec then (0, n) else (n / 64, n % 64)

def logRow (v : CEnv) (i : Nat) : Nat := 64 * v.rowb + i
def logCol (v : CEnv) (j : Nat) : Nat := 64 * v.colb + j

/-- Flat index of an element (R130). -/
def flatIx (v : CEnv) (ij : Nat × Nat) : Nat := logRow v ij.1 * v.ld + logCol v ij.2

/-- The operand that a selector names, for lane n (R124). -/
def operand (v : CEnv) (n : Nat) (rs : List (Word32 × Tag)) (sreg : Word32) (sel : Nat) : Word32 × Tag :=
  let ij := lanePos v.c n
  if sel ≤ 3 then
    let l := srcLane v sel n
    (l.x, l.p)
  else if 8 ≤ sel ∧ sel ≤ 15 then rs.getD (sel - 8) (0, 0)
  else match sel with
    | 0x11 => (f32One, 0)
    | 0x12 => (f32NegOne, 0)
    | 0x13 => (f32Inf, 0)
    | 0x14 => (f32NegInf, 0)
    | 0x15 => (sreg, 0)
    | 0x16 => (BitVec.ofNat 32 (logRow v ij.1), v.obad)
    | 0x17 => (BitVec.ofNat 32 (logCol v ij.2), v.obad)
    | 0x18 => (v.c.kappa, 0)
    | 0x19 =>
      let l : LIndex := ⟨5, logRow v ij.1, logCol v ij.2, v.c.lic⟩
      ((classA v.wh v.stream l).setWidth 32, tagOr v.obad (classATag v.t.whorlBad v.wh v.stream l))
    | _ => (f32Zero, 0)

/-- How a lane rounds: the mode, the bits of SR, and their poison (R150). -/
structure RoundV where
  rm : RMode
  u : Nat
  p : Tag
  deriving DecidableEq, Repr

/-- A mode that draws no bits. -/
def plainRound (rm : RMode) : RoundV := ⟨rm, 0, 0⟩

/-- SR with the bits of a logical index (R94, R110). -/
def srRound (v : CEnv) (l : LIndex) : RoundV :=
  ⟨.sr, srBits v.wh v.stream l, tagOr v.obad (classATag v.t.whorlBad v.wh v.stream l)⟩

/-- Rounding mode and stochastic bits of stage k at lane n (R130). -/
def stageRound (v : CEnv) (n k : Nat) (w : EwOpW) : RoundV :=
  let ij := lanePos v.c n
  if w.site = 2 then
    if v.sh.sr2 then srRound v ⟨2, logRow v ij.1, logCol v ij.2, v.c.lic⟩ else plainRound .rne
  else if w.site = 3 then
    if v.sh.sr3 then srRound v ⟨3, flatIx v ij, 16 * v.tensor + k, v.c.lic⟩ else plainRound .rne
  else match RMode.ofCode w.rm.toNat with
    | some .sr => srRound v ⟨4, flatIx v ij, 16 * v.tensor + k, v.c.lic⟩
    | some r => plainRound r
    | none => plainRound .rne

/-- Does a stage act on lane n (R123)? -/
def stageActs (v : CEnv) (n : Nat) (w : EwOpW) : Bool :=
  !w.pen || xor (setHas (mapGet [] v.t.preds w.pred.toNat) n) w.pinv

/-- Stage k on lane n, after the results of the earlier stages (R125, R126, R140). -/
def stageLane (v : CEnv) (n : Nat) (acc : List (Word32 × Tag) × FlagWord) (k : Nat) : List (Word32 × Tag) × FlagWord :=
  match v.c.ops[k]? with
  | none => acc
  | some e =>
    let w := e.1
    let o (sel : Nat) : Word32 × Tag := operand v n acc.1 e.2 sel
    let a := o w.sela.toNat
    if stageActs v n w then
      let m := opReads w.op.toNat
      let b := if 2 ≤ m then o w.selb.toNat else (0, 0)
      let c := if 3 ≤ m then o w.selc.toNat else (0, 0)
      let rr := stageRound v n k w
      let r := laneOp v.ts v.c.kappa w.op.toNat w.p rr.rm rr.u w.sat w.fmt.toNat a.1 b.1 c.1
      (acc.1 ++ [(r.x, tagAll [v.c.bad, a.2, b.2, c.2, roundTag rr.rm r.fl rr.p])], acc.2 ||| r.fl)
    else (acc.1 ++ [(a.1, tagOr v.c.bad a.2)], acc.2)

/-- Every stage's result on lane n, and the lane's flags: sources, stages, poison (R138, R140). -/
def evalLane (v : CEnv) (n : Nat) : List (Word32 × Tag) × FlagWord :=
  let srcs := (List.range v.c.srcs.length).map (fun k => srcLane v k n)
  let f0 := srcs.foldl (fun f l => f ||| l.fl ||| flagIf (decide (l.p ≠ 0)) flagPZ) (flagIf (decide (v.c.bad ≠ 0)) flagPZ)
  (List.range v.c.ops.length).foldl (stageLane v n) ([], f0)

/-! ### Reductions (R134, R135) -/

/-- A reduction's result: first and second value, poison, flags. -/
structure RedV where
  m : Word32
  l : Word32
  p : Tag
  fl : FlagWord
  deriving DecidableEq, Repr

/-- Fold a two-operand operation over values from the first one. -/
def foldFrom (f : Word32 → Word32 → Word32F) (empty : Word32) : List Word32 → Word32F
  | [] => ⟨empty, 0#7⟩
  | x :: r => r.foldl (fun acc y =>
      let z := f acc.x y
      ⟨z.x, acc.fl ||| z.fl⟩) ⟨x, 0#7⟩

def f32max (a b : Word32) : Word32F := toF32 .rne 0 (exMinMax true (f32v a) (f32v b))
def f32min (a b : Word32) : Word32F := toF32 .rne 0 (exMinMax false (f32v a) (f32v b))

def reduce (ts : List TabD) (kappa : Word32) (rop : Nat) (bad : Tag) (xs : List (Word32 × Tag)) : RedV :=
  let vs := xs.map (fun e => e.1)
  let p := tagAll (bad :: xs.map (fun e => e.2))
  let one (r : Word32F) : RedV := ⟨r.x, 0, p, r.fl⟩
  match rop with
  | 0 => one (foldFrom f32add f32Zero vs)
  | 1 => one (foldFrom f32max f32NegInf vs)
  | 2 => one (foldFrom f32min f32Inf vs)
  | 3 => one (foldFrom f32max f32Zero (vs.map (fun x => x &&& 0x7FFFFFFF)))
  | 4 => one (foldFrom (fun a b => intRes true (a.toInt + b.toInt)) 0 vs)
  | _ =>
    let m := foldFrom f32max f32NegInf vs
    let es := vs.map (fun x => smexp ts kappa x m.x)
    let l := foldFrom f32add f32Zero (es.map (fun e => e.x))
    ⟨m.x, l.x, p, es.foldl (fun f e => f ||| e.fl) (m.fl ||| l.fl)⟩

/-- The 64 results of a chain's reduction. -/
def reductions (v : CEnv) (rows : List (List (Word32 × Tag) × FlagWord)) : List RedV :=
  let h := v.c.head
  if h.red = 0 then []
  else (List.range 64).map (fun k =>
    let lanes := (List.range 64).map (fun j => if h.red = 1 then 64 * k + j else 64 * j + k)
    let inc := lanes.filter (fun n => !h.rpen || setHas (mapGet [] v.t.preds h.rpred.toNat) n)
    reduce v.ts v.c.kappa h.rop.toNat v.c.bad (inc.map (fun n => ((rows.getD n ([], 0)).1).getD h.rsrc.toNat (0, 0))))

/-! ### Destinations (R130 to R132) -/

/-- Position of element n of a destination (R130). -/
def dstPos (c : ChainAsm) (w : EwDstW) (n : Nat) : Nat × Nat :=
  if 8 ≤ w.sel.toNat then (if c.head.red = 1 then (n, 0) else (0, n)) else lanePos c n

/-- Value and poison of element n of a destination. -/
def dstVal (w : EwDstW) (rows : List (List (Word32 × Tag) × FlagWord)) (rd : List RedV) (n : Nat) : Word32 × Tag :=
  let sel := w.sel.toNat
  let r := rd.getD n ⟨0, 0, 0, 0⟩
  if sel = 8 then (r.m, r.p) else if sel = 9 then (r.l, r.p) else ((rows.getD n ([], 0)).1).getD sel (0, 0)

/-- Rounding mode and bits of destination d at element n (R130). -/
def dstRound (v : CEnv) (d : Nat) (w : EwDstW) (n : Nat) : RoundV :=
  match RMode.ofCode w.rm.toNat with
  | some .sr =>
    let site3 := decide (w.sel.toNat < 8) && decide ((v.c.ops[w.sel.toNat]?.map (fun e => e.1.site)) = some 3)
    let li (k : Nat) : LIndex := ⟨k, flatIx v (dstPos v.c w n), 16 * v.tensor + 8 + d, v.c.lic⟩
    if site3 then (if v.sh.sr3 then srRound v (li 3) else plainRound .rne) else srRound v (li 4)
  | some r => plainRound r
  | none => plainRound .rne

/-- A lane's code in an unscaled destination format (R132). -/
def dstCode (f : Fmt) (rm : RMode) (u : Nat) (x : Word32) : CodeF :=
  match f with
  | .f32 | .i32 => ⟨x.toNat, 0#7⟩
  | .m1 => ⟨b2n (decide (x ≠ 0)), 0#7⟩
  | .i16 | .i8 | .i4 | .u8 =>
    let lo := f.intRange.1
    let hi := f.intRange.2
    let i := x.toInt
    if i < lo then ⟨patOf f.bits lo, flagSA ||| flagNX⟩
    else if hi < i then ⟨patOf f.bits hi, flagSA ||| flagNX⟩
    else ⟨patOf f.bits i, 0#7⟩
  | _ => convert f rm u (f32v x)

/-- Elements that share a packing unit (R88), over which poison is kept. -/
def packUnit (f : Fmt) : Nat := if f.bits = 4 then 2 else if f.bits = 6 then 4 else if f.bits = 1 then 8 else 1

/-- One destination's effect; `pois` is the poison that meets a predicate register. -/
structure DstOut where
  ws : List EWrite
  fl : FlagWord
  stat : List StatAdd
  pois : Tag

/-- floor(log2) of a positive magnitude. -/
def log2Of (m : Nat) (e : Int) : Int := e + bitLen m - 1

/-- Statistics of the values of a destination (R113, R132). -/
def statOf (v : CEnv) (w : EwDstW) (cnt : Nat) (take : Nat → Bool) (val : Nat → Word32 × Tag) (sats : Nat) : StatAdd :=
  let ns := (List.range cnt).filter (fun n => take n && decide ((val n).2 = 0))
  let m := sblkLen w.sblk.toNat
  let am (b : Nat) : Nat × Int := blockAmax ((ns.filter (fun n => decide (n / m = b))).map (fun n => f32v (val n).1))
  let all := blockAmax (ns.map (fun n => f32v (val n).1))
  let ds := ns.filterMap (fun n => match f32v (val n).1 with
    | .fin _ k e => if k = 0 then none else
        let a := am (n / m)
        some (log2Of a.1 a.2 - log2Of k e)
    | _ => none)
  { gsel := w.statix.toNat, step := v.c.lic,
    amax := (toF32 .rne 0 ⟨.fin false all.1 all.2, 0#7⟩).x, nonzero := ds.length,
    d := [4, 6, 9, 18, 32, 40].map (fun (k : Int) => (ds.filter (fun x => decide (k ≤ x))).length),
    sat := sats, nan := (ns.filter (fun n => (f32v (val n).1).isNaN)).length }

/-- Destination d of a chain: writes, flags, statistics, and whether poison meets a predicate (R132, R140). -/
def dstOut (v : CEnv) (rows : List (List (Word32 × Tag) × FlagWord)) (rd : List RedV) (d base : Nat)
    (e : EwDstW × Nat) : DstOut :=
  let w := e.1
  let vec := dstVec v.c w
  let cnt := elemCount vec
  let val (n : Nat) : Word32 × Tag := dstVal w rows rd n
  let take (n : Nat) : Bool := !w.pen || setHas (mapGet [] v.t.preds w.pred.toNat) n
  let ns := (List.range cnt).filter take
  let stat (sats : Nat) : List StatAdd := if w.stat then [statOf v w cnt take val sats] else []
  match w.kind.toNat with
  | 1 => ⟨ns.map (fun n => .reg (w.addr.toNat % 16) n (val n).1 (val n).2), 0, stat 0, 0⟩
  | 2 => ⟨ns.map (fun n => .pred (w.addr.toNat % 8) n (decide ((val n).1 ≠ 0))), 0, stat 0,
      tagAll (ns.map (fun n => (val n).2))⟩
  | _ =>
    let f := (Fmt.ofCode (dstFmt e)).getD .f32
    let m := sblkLen w.sblk.toNat
    let blockNs (b : Nat) : List Nat := ns.filter (fun n => decide (n / m = b))
    let sc (b : Nat) : Nat := blockScale f w.head.toNat ((blockNs b).map (fun n => f32v (val n).1))
    let code (n : Nat) : CodeF :=
      let r := dstRound v d w n
      if w.scl then scaledCode f r.rm r.u (sc (n / m)) (f32v (val n).1) else dstCode f r.rm r.u (val n).1
    let u := packUnit f
    let ep (n : Nat) : Tag :=
      let r := dstRound v d w n
      tagOr (val n).2 (if r.p = 0 then 0 else roundTag r.rm (code n).fl r.p)
    let unit (n : Nat) : List Nat := (List.range u).map (fun j => n / u * u + j)
    let pu (n : Nat) : Tag := tagAll (((unit n).filter take).map ep)
    let cs := ns.map (fun n => (n, code n))
    let els := cs.map (fun x => EWrite.elem base f x.1 x.2.code (pu x.1) ((unit x.1).filter (fun k => !take k)))
    let bytes := if w.scl then
        (List.range (cdiv cnt m)).filterMap (fun b =>
          if blockNs b = [] then none
          else some (EWrite.byte (base + packedBytes f cnt + b) (sc b) (tagAll ((blockNs b).map (fun n => (val n).2)))))
      else []
    let sats := (cs.filter (fun x => decide (x.2.fl &&& flagSA ≠ 0) && decide ((val x.1).2 = 0))).length
    ⟨els ++ bytes, cs.foldl (fun acc x => acc ||| x.2.fl) 0#7, stat sats, 0⟩

/-! ### Start and completion -/

/-- Logical origin of a chain (R120): rows, columns, stream, LD, TENSOR. -/
def chainOrg (t : Tile) (c : ChainAsm) : Nat × Nat × Nat × Nat × Nat :=
  match c.org with
  | some (o, x) => (o.rowb.toNat, o.colb.toNat, o.stream.toNat, x.toNat % 2 ^ 32, x.toNat / 2 ^ 32 % 65536)
  | none => if c.srcs.any (fun e => decide (e.1.kind = 0)) then
      match t.ftq[0]? with
      | some q => (q.rowb, q.colb, q.stream, 0, 0)
      | none => (0, 0, 0, 0, 0)
    else (0, 0, 0, 0, 0)

/-- Poison of a logical origin that a chain takes from a finished tile (R30, R120). -/
def chainObad (t : Tile) (c : ChainAsm) : Tag :=
  if c.org.isNone && c.srcs.any (fun e => decide (e.1.kind = 0)) then ((t.ftq[0]?).map (fun q => q.obad)).getD 0 else 0

/-- Everything a chain computes, as its completion will apply it. -/
def chainPend (s : State) (a : TileAt) (c : ChainAsm) (sb db : List Nat) : ChainPend :=
  let t := tileAt s a.part a.tile
  let o := chainOrg t c
  let ts := ((progOf (partAt s a.part)).map (fun p => p.tables)).getD []
  let v : CEnv := ⟨t, c, sb, ts, whorlOf s a.part, shapeOf s a.part, o.1, o.2.1, o.2.2.1, o.2.2.2.1, o.2.2.2.2,
    chainObad t c⟩
  let rows := (List.range (elemCount c.head.vec)).map (evalLane v)
  let rd := reductions v rows
  let outs := c.dsts.zipIdx.map (fun e => dstOut v rows rd e.2 (db.getD e.2 0) e.1)
  let ftqs := c.srcs.filter (fun e => decide (e.1.kind = 0))
  let fl0 := (t.ftq.take ftqs.length).foldl (fun f q => f ||| q.flags) 0#7
  let fl1 := rows.foldl (fun f r => f ||| r.2) fl0
  let fl2 := rd.foldl (fun f r => f ||| r.fl) fl1
  { writes := (outs.map (fun x => x.ws)).flatten, flags := outs.foldl (fun f x => f ||| x.fl) fl2,
    quiet := c.head.fquiet, mask := (partAt s a.part).flagmask,
    ftqPop := (ftqs.filter (fun e => e.1.pop)).length,
    ringPops := (c.srcs.filter (fun e => decide (e.1.kind = 3) && e.1.pop)).map (fun e => e.1.idx.toNat),
    tails := (c.dsts.filter (fun e => decide (e.1.kind = 3))).map (fun e =>
      (dstRing e.1, dstOff e.1, areaBytes ((Fmt.ofCode (dstFmt e)).getD .f32) e.1.scl e.1.sblk.toNat (elemCount (dstVec c e.1)))),
    stats := (outs.map (fun x => x.stat)).flatten,
    poisonAt := (outs.zipIdx.find? (fun e => decide (e.1.pois ≠ 0))).map (fun e => (dstIx c e.2, e.1.pois)),
    ix := c.ixs.getD 0 0 }

/-- The bar with the lowest status; a chain that meets several faults reports that one (R140). -/
def lowestBar (bs : List Bar) : Option Bar :=
  bs.foldl (fun acc b => match acc with
    | none => some b
    | some x => if b.status < x.status then some b else some x) none

/-- Rings that bars wait for. -/
def barRings (bs : List Bar) : List Nat := (bs.filterMap (fun b => match b with
  | .ring r => some r
  | _ => none)).dedup

/-- What a bar does: its fault, or the wait for the rings of all the bars. -/
def raiseBar (s : State) (a : TileAt) (bs : List Bar) (b : Bar) : State :=
  match b with
  | .fault st ix addr d => tileFault s a 2 ix st addr d
  | .extent ix addr => t0Extent s a 2 ix addr
  | .ringExtent ix addr r => ringExtent s a 2 ix addr r
  | .ring _ => blockOnRings s a 2 (barRings bs)
  | .waits => blockOnRings s a 2 (barRings bs)

/-- May the element-wise engine of a tile start a chain? Under a power brake it starts none; one that has begun completes (R145). -/
def ewReady (s : State) (a : TileAt) : Bool :=
  let t := tileAt s a.part a.tile
  issues s a.part && decide (a.tile.val < nTiles s a.part) && t.seg.isSome && !braked s.power && t.chPend.isNone

/-- CHAIN_START (R118, R122, R133): once every word and every source is there. Of several faults the lowest status is raised
(R140); a malformed word's own place is not checked further. -/
def execChainStart (a : TileAt) (s : State) : Out :=
  ok (let t := tileAt s a.part a.tile
    match t.chain with
    | none => s
    | some c =>
      if !(ewReady s a && chainFull c) then s
      else
        let ts := ((progOf (partAt s a.part)).map (fun p => p.tables)).getD []
        let form := (formFaults ts c).map (fun e => Bar.fault 0x031A (c.ixs.getD e.1 0) 0 (e.1 + 256 * e.2))
        if form ≠ [] then
          let bars := form ++ (c.srcs.zipIdx.map (fun e =>
              if srcReason c e.2 e.1 = 0 then (srcBase s a c e.2 e.1).1 else [])).flatten ++
            (c.dsts.zipIdx.map (fun e => if dstReason c e.1 = 0 then (dstBase s a c e.2 e.1).1 else [])).flatten
          match lowestBar bars with
          | some b => raiseBar s a bars b
          | none => s
        else
          let sb := c.srcs.zipIdx.map (fun e => srcBase s a c e.2 e.1)
          let db := c.dsts.zipIdx.map (fun e => dstBase s a c e.2 e.1)
          let bars := ((sb ++ db).map (fun x => x.1)).flatten
          match lowestBar bars with
          | some b => raiseBar s a bars b
          | none =>
            let p := chainPend s a c (sb.map (fun x => x.2)) (db.map (fun x => x.2))
            let t := (c.srcs.filter (fun e => decide (e.1.kind = 3))).foldl (fun t e => useHead t e.1.idx.toNat) t
            setTile s a.part a.tile { t with
              chain := none, chPend := some p, blocked := t.blocked.filter (fun b => b.q ≠ 2) })

/-- Apply one write of a chain. Elements that it keeps in the same packing unit keep the poison that they have by then, that of an
overlapping earlier destination included (R133, R140). -/
def applyWrite (t : Tile) (w : EWrite) : Tile :=
  match w with
  | .elem base f n code p kept =>
    let bit := elemBit f n
    let p := tagAll (p :: kept.map (elemPois t base f))
    { t with t0 := memPutElem t.t0 base f n code,
             pois := tagRange t.pois (base + bit / 8) ((bit % 8 + f.bits + 7) / 8) p }
  | .byte a b p => t0Write t a [BitVec.ofNat 8 b] p
  | .reg r n x p =>
    let y := treg t r
    setTreg t r { y with elems := mapPut y.elems n x, pois := tagPut y.pois n p }
  | .pred r n b => { t with preds := mapSet [] t.preds r (setPut (mapGet [] t.preds r) n b) }

/-- Rings whose tail a chain completes, which are sent automatically, each once: the write covers the unit at BPB × P − 64 of the walk
that this send belongs to (R178, R181). -/
def autoSends (t : Tile) (tails : List (Nat × Nat × Nat)) : List Nat :=
  ((tails.filter (fun e =>
    match sendWalk (ringAt t e.1) with
    | some w => w.r.auto && decide (e.2.1 ≤ w.r.bpb * w.pitch - 64) && decide (w.r.bpb * w.pitch - 64 < e.2.1 + e.2.2)
    | none => false)).map (fun e => e.1)).dedup

/-- CHAIN_COMPLETE (R133, R138, R140, R178). -/
def execChainComplete (a : TileAt) (s : State) : Out :=
  ok (let t := tileAt s a.part a.tile
    match t.chPend with
    | none => s
    | some p =>
      if !issues s a.part then s
      else match p.poisonAt with
      | some e => poisonFault s a 2 e.1 0 e.2
      | none =>
        let t := p.writes.foldl applyWrite { t with chPend := none }
        let t := { t with ftq := t.ftq.drop p.ftqPop, ewf := t.ewf ||| p.flags, chains := t.chains + 1,
                          stats := t.stats ++ p.stats }
        let t := p.ringPops.foldl popHead t
        let t := p.tails.foldl (fun t e =>
          let x := ringAt t e.1
          setRing t e.1 (setBob x x.head { bobAt x x.head with wrote := true })) t
        let s := addCtr (setTile s a.part a.tile t) (ctrKey a.part 1 a.tile cChains) 1
        let s := (autoSends t p.tails).foldl (fun s n => if issues s a.part then sendTail s a 2 p.ix n else s) s
        if !issues s a.part then s
        else if !p.quiet && decide (p.flags &&& p.mask ≠ 0) then tileFault s a 2 p.ix 0x030A 0 p.flags.toNat
        else s)

/-- EWFLAG (R139). -/
def execEwflag (a : TileAt) (w : EwFlagW) (s : State) : Out :=
  ok (match atHead s a 2 (.ewflag w) with
    | none => s
    | some h =>
      let t := tileAt s a.part a.tile
      let b := 64 * w.addr.toNat
      match t.chain with
      | some c => chainFault s a h.ix c.n 1
      | none =>
        if !t0Ok s a true b 8 then t0Extent s a 2 h.ix b
        else
          let v := t.ewf.toNat + 2 ^ 32 * (t.chains % 2 ^ 32)
          let t := t0Write t b (leBytes 8 v) h.bad
          finishWord s a 2 (if w.clr then { t with ewf := 0 } else t))

end Sys2Proof.Machine
end

