-- ==== Sys2Proof/Machine/Sampling.lean ====
section
/-! DEFINITION. The sampling units (R141 to R144, R160, R162 to R164, R257). -/

namespace Sys2Proof.Machine

open Sys2Proof

/-- EWSAMP (R141, R142, R30): the part's descriptor and values are read; the unit has yet to accept it. -/
def execEwsamp (a : TileAt) (w : EwSampW) (s : State) : Out :=
  ok (match atHead s a 2 (.ewsamp w) with
    | none => s
    | some h =>
      let t := tileAt s a.part a.tile
      let b := 64 * w.daddr.toNat
      match t.chain with
      | some c => chainFault s a h.ix c.n 1
      | none =>
        if !t0Ok s a false b 32 then t0Extent s a 2 h.ix b
        else
          let d := partDescOf (leNat (memRead t.t0 b 32))
          let n := d.count * (if d.list then 8 else if d.f16 then 2 else 4)
          if !t0Ok s a false (64 * d.addr) n then t0Extent s a 2 h.ix (64 * d.addr)
          else if tagAll [h.bad, tagFirst t.pois b 32, tagFirst t.pois (64 * d.addr) n] ≠ 0 then
            poisonFault s a 2 h.ix 0 (tagAll [h.bad, tagFirst t.pois b 32, tagFirst t.pois (64 * d.addr) n])
          else setTile s a.part a.tile { t with sampWait := some d })

/-- Candidate k of a part: its id and logit, and the flags of its conversion to F32 (R98, R144, R164). -/
def partCand (t : Tile) (d : PartDesc) (k : Nat) : Nat × Word32F :=
  let b := 64 * d.addr
  if d.list then (leNat (memRead t.t0 (b + 8 * k) 4), ⟨BitVec.ofNat 32 (leNat (memRead t.t0 (b + 8 * k + 4) 4)), 0#7⟩)
  else if d.f16 then (d.base + k, toF32 .rne 0 ⟨decodeCode .f16 (leNat (memRead t.t0 (b + 2 * k) 2)), 0#7⟩)
  else (d.base + k, ⟨BitVec.ofNat 32 (leNat (memRead t.t0 (b + 4 * k) 4)), 0#7⟩)

/-- Ids and logits of a part. -/
def partIds (t : Tile) (d : PartDesc) : List (Nat × Word32) :=
  (List.range d.count).map (fun k => ((partCand t d k).1, (partCand t d k).2.x))

/-- Flags that reading a part's logits raised. -/
def partFlags (t : Tile) (d : PartDesc) : FlagWord :=
  (List.range d.count).foldl (fun f k => f ||| (partCand t d k).2.fl) 0#7

/-- Does the die's unit hold this entry's request? -/
def openReq (s : State) (p req : Nat) : Option SampReq :=
  s.samp.find? (fun r => decide (r.part = p) && decide (r.req = req))

/-- Is a request entry being prefilled or decoded? -/
def reqActive (r : Req) : Bool :=
  decide (r.st = .pfill) || decide (r.st = .decode) || decide (r.st = .spec)

/-- Rows of a request record whose logits are drawn (R256). -/
def sampledRows (r : StepReq) : Nat := if r.kind = 1 then r.ndin + 1 else if r.kind = 3 then 1 else 0

/-- The step record of a running rollout turn. -/
def stepRec (s : State) (p step : Nat) : Option StepRec :=
  (runOf (partAt s p)).bind (fun r => r.steps.find? (fun x => decide (x.step = step)))

/-- Draws made for an entry in a step. -/
def drawsOf (x : StepRec) (req : Nat) : List Draw := x.draws.filter (fun d => d.req = req)

/-- Has the entry a sampled row left to draw in the step (R257)? -/
def drawLeft (s : State) (p req step : Nat) : Bool :=
  match stepRec s p step with
  | some x => (x.reqs.find? (fun r => decide (r.req = req))).any (fun r =>
      decide ((drawsOf x req).length < sampledRows r))
  | none => false

/-- The first condition of R143 point 6 that a part breaks; 0: none. An SPD.NPART of 193 to 255, an SPD.COUNT of 0 and reserved bits that
are set break none of them and are accepted (DESIGN CHOICE, log entry 32: R142 gives ranges and no fault). -/
def partBad (s : State) (p : Nat) (d : PartDesc) (ids : List (Nat × Word32)) : Nat :=
  let o := openReq s p d.req
  let old := (o.map (fun r => (r.parts.map (fun x => x.ids)).flatten)).getD []
  let ns := ids.map (fun e => e.1)
  if o.any (fun r => decide (r.npart ≠ d.npart) || decide (r.step ≠ d.step)) then 1
  else if d.npart ≤ d.part || o.any (fun r => r.parts.any (fun x => decide (x.ix = d.part))) then 2
  else if ns.any (fun n => decide (2 ^ 20 ≤ n)) || !noDup ns || ns.any (fun n => old.any (fun e => e.1 = n)) then 3
  else if 1048576 < old.length + ids.length then 4
  else if d.list && d.f16 then 5
  else if nTiles s p ≤ d.rtile then 6
  else if !((mapFind (partAt s p).reqs d.req).any reqActive) then 7
  else 0

def sampCap : Nat := 1024

/-- The unit accepts a part (R143): it opens or extends the request, or raises SAMPLE_FORM or STEP_FORM; a
part that would open a request in a full queue waits. SPD.RTILE, SPD.RSEM and SPD.RADDR of a request are those of its first accepted
part, also where later parts differ (DESIGN CHOICE, log entry 32: R143 does not say). -/
def execSamplePartAccept (a : TileAt) (s : State) : Out :=
  ok (let t := tileAt s a.part a.tile
    match t.sampWait with
    | none => s
    | some d =>
      let ix := ((headWord t 2).map (fun h => h.ix)).getD 0
      let p := a.part.val
      let ids := partIds t d
      let bad := partBad s p d ids
      let die := dieOf s p d.rtile
      if !issues s p then s
      else if bad ≠ 0 then tileFault s a 2 ix 0x0319 0 (d.req + 2 ^ 24 * bad)
      else
        let part : SampPart := ⟨d.part, ids, partFlags t d⟩
        match openReq s p d.req with
        | some _ =>
          let s := s.withSamp (s.samp.map (fun r =>
            if r.part = p ∧ r.req = d.req then { r with parts := r.parts ++ [part] } else r))
          finishWord s a 2 { t with sampWait := none }
        | none =>
          if !drawLeft s p d.req d.step then tileFault s a 2 ix 0x0330 0 (d.req + 2 ^ 24 * 3)
          else if sampCap ≤ (s.samp.filter (fun r => decide (dieOf s r.part r.rtile = die))).length then s
          else
            let s := s.withSamp (s.samp ++ [⟨p, d.req, d.step, d.npart, [part], d.rtile, d.rsem, 64 * d.raddr⟩])
            finishWord s a 2 { t with sampWait := none })

/-! ### The draw (R143, R163, R164) -/

/-- A candidate: id, z, e, q. -/
structure Cand where
  id : Nat
  z : Word32
  q : Nat
  deriving DecidableEq, Repr

/-- Does candidate a rank before b: z descending, id ascending? -/
def candBefore (a b : Cand) : Bool :=
  fvalLt false (f32v b.z) (f32v a.z) || (!fvalLt false (f32v a.z) (f32v b.z) && decide (a.id < b.id))

/-- Insert by rank. -/
def rankIns (c : Cand) : List Cand → List Cand
  | [] => [c]
  | d :: r => if candBefore c d then c :: d :: r else d :: rankIns c r

def rankAll (l : List Cand) : List Cand := l.foldl (fun acc c => rankIns c acc) []

/-- One level of the canon's tree (R104). -/
def treeLevel : List Word32 → List Word32 × FlagWord
  | a :: b :: r =>
    let x := f32add a b
    let y := treeLevel r
    (x.x :: y.1, x.fl ||| y.2)
  | l => (l, 0#7)

/-- The tree of R104 with RNE. -/
def treeSum : Nat → List Word32 → Word32F
  | 0, l => ⟨l.getD 0 0, 0#7⟩
  | n + 1, l =>
    if l.length ≤ 1 then ⟨l.getD 0 0, 0#7⟩
    else
      let y := treeLevel l
      let z := treeSum n y.1
      ⟨z.x, y.2 ||| z.fl⟩

/-- A sum by R105: leaves of 64 added in order, then the tree. -/
def canonSum (l : List Word32) : Word32F :=
  let leaves := (List.range (cdiv l.length 64)).map (fun k => foldFrom f32add 0 ((l.drop (64 * k)).take 64))
  let t := treeSum 64 (leaves.map (fun x => x.x))
  ⟨t.x, leaves.foldl (fun f x => f ||| x.fl) t.fl⟩

/-- floor of e × 2^32 (R163); no value is stated where e is a NaN, which a z beyond F32 gives. -/
def qOf (e : Word32) : Nat :=
  match f32v e with
  | .fin false m k => shiftNat m (k + 32)
  | _ => Config.freeNat e.toNat

/-- The first rank whose running sum satisfies a test. -/
def firstRank (c : Nat → Bool) : List Nat → Nat → Nat → Option Nat
  | [], _, _ => none
  | q :: r, acc, k => if c (acc + q) then some k else firstRank c r (acc + q) (k + 1)

/-- Candidates kept by top-k and top-p (R163). -/
def keptOf (temp : FVal) (topk topp : Nat) (qs : List Nat) : Nat :=
  let n := if temp.isZero || decide (topk = 1) then 1 else if topk ≠ 0 then min topk qs.length else qs.length
  if 1 < n ∧ topp ≠ 0 ∧ !temp.isZero then
    let e := (qs.take n).sum
    match firstRank (fun q => decide (topp * e ≤ q * 65536)) (qs.take n) 0 0 with
    | some r => r + 1
    | none => n
  else n

/-- SR.KEPT where no candidate can be drawn: the manual states no value, and it depends on nothing but the request (R12; log
entry 10). -/
def keptFree (off : Nat) (cands : List (Nat × Word32)) : Nat :=
  Config.srKept (off :: (cands.map (fun e => [e.1, e.2.toNat])).flatten) % 2 ^ 21

/-- The draw for an entry at one offset (R143 points 2 and 4, R163, R164); `fl` are the flags of the reading of its logits.
A signalling NaN among F32 logits, which are read with no conversion, raises no NV (DESIGN CHOICE, log entry 32: R163 and R164 do not
say). -/
def drawToken (ts : List TabD) (r : Req) (off : Nat) (fl : FlagWord) (cands : List (Nat × Word32)) : Draw :=
  let ls := cands.map (fun e => if e.2 = f32Inf then (e.1, (0x7F7FFFFF : Word32)) else e)
  let f0 := fl ||| flagIf (cands.any (fun e => decide (e.2 = f32Inf))) flagNX
  let stat := if ls.any (fun e => (f32v e.2).isNaN) then 2 else if ls.all (fun e => decide (e.2 = f32NegInf)) then 1 else 0
  if stat ≠ 0 then ⟨0, 0xFFFFF, stat, f32NaN, f0, keptFree off cands⟩
  else
    let temp := f32v r.temp
    let zs := ls.map (fun e =>
      let d := f32div e.2 r.temp
      (e.1, if temp.isZero then (⟨e.2, 0#7⟩ : Word32F) else d))
    let m := (foldFrom f32max f32NegInf (zs.map (fun e => e.2.x))).x
    let es := zs.map (fun e =>
      let d := f32sub e.2.x m
      let x := fexp ts d.x
      (e.1, e.2, (⟨x.x, d.fl ||| x.fl⟩ : Word32F)))
    let f1 := es.foldl (fun f e => f ||| e.2.1.fl ||| e.2.2.fl) f0
    let ranked := rankAll (es.map (fun e => ⟨e.1, e.2.1.x, qOf e.2.2.x⟩))
    let qs := ranked.map (fun c => c.q)
    let n := keptOf temp r.topk r.topp qs
    let k := if n = 1 then 0
      else
        let e := (qs.take n).sum
        let w := classB r.bg.key0 r.bg.key1 (r.bg.ctr + BitVec.ofNat 128 off)
        let x := (w.toNat * e) >>> 64
        (firstRank (fun q => decide (x < q)) (qs.take n) 0 0).getD 0
    let c := ranked.getD k ⟨0xFFFFF, 0, 0⟩
    let sorted := (rankAll (es.map (fun e => ⟨e.1, 0, 0⟩))).map (fun c => c.id)
    let sum := canonSum (sorted.filterMap (fun i => (es.find? (fun e => decide (e.1 = i))).map (fun e => e.2.2.x)))
    let lg := flogs ts true sum.x
    let a := f32sub c.z m
    let lp := f32sub a.x lg.x
    ⟨0, c.id, 0, lp.x, f1 ||| sum.fl ||| lg.fl ||| a.fl ||| lp.fl, n⟩

/-- Sampling result record (R144). -/
def srBytes (d : Draw) (step : Nat) : List Byte :=
  leBytes 16 (packFields [⟨0, 20, d.token⟩, ⟨20, 2, d.stat⟩, ⟨22, 7, d.flags.toNat⟩, ⟨32, 32, d.logprob.toNat⟩,
    ⟨64, 21, d.kept⟩, ⟨96, 32, step⟩])

/-- Add a draw to its step's record. -/
def addDraw (s : State) (p step : Nat) (d : Draw) : State :=
  updPart s p (fun x => { x with camp := x.camp.map (fun c => { c with run := c.run.map (fun r =>
    { r with steps := r.steps.map (fun y => if y.step = step then { y with draws := y.draws ++ [d] } else y) }) }) })

/-- SAMPLE_DRAW: request n of a die's unit, once all its parts are there (R143, R163). -/
def execSampleDraw (die : Fin 2) (n : Nat) (s : State) : Out :=
  ok (match (s.samp.filter (fun r => decide (dieOf s r.part r.rtile = die.val)))[n]? with
    | none => s
    | some q =>
      match mapFind (partAt s q.part).reqs q.req, stepRec s q.part q.step with
      | some r, some x =>
        let t := tileAt s q.part q.rtile
        if q.parts.length ≠ q.npart ∨ !issues s q.part ∨ inboundCap ≤ t.sigin.length then s
        else
          let ts := ((progOf (partAt s q.part)).map (fun p => p.tables)).getD []
          let cands := (q.parts.map (fun y => y.ids)).flatten
          let fl := q.parts.foldl (fun f y => f ||| y.fl) 0#7
          let d : Draw := { drawToken ts r (drawsOf x q.req).length fl cands with req := q.req }
          let s := s.withSamp (s.samp.filter (fun y => !(decide (y.part = q.part) && decide (y.req = q.req))))
          let s := setTile s q.part q.rtile
            { t0Write t q.raddr (srBytes d q.step) 0 with sigin := t.sigin ++ [⟨q.rsem, 1, 0xFFFF, 0⟩] }
          addDraw s q.part q.step d
      | _, _ => s)

end Sys2Proof.Machine
end

