-- ==== Sys2Proof/Machine/Requests.lean ====
section
/-! DEFINITION. Requests (R244 to R252), drawers (R251, R252, R266), prefix handles (R261 to R264), variants
(R267 to R271) and ranks (R273), as operations that the rows share. -/

namespace Sys2Proof.Machine

open Sys2Proof

/-! ### Journal records by what they run -/

/-- SE.PART of a record (R331). -/
def recPart (r : JRec) : Nat := fld r.entry.hdr.toNat 24 5

/-- CE.DETAIL of record i: the stated value, or a free one (log entry 10). -/
def detailOr (s : State) (detail : Option Nat) (i : Nat) : Nat :=
  detail.getD ((Config.free64 (s.free + i)).toNat % 2 ^ 32)

/-- Complete every started command that satisfies a test. -/
def commitWhere (s : State) (c : JRec → Bool) (status : Nat) (detail : Option Nat) : State :=
  assertWake ((s.withJournal (s.journal.zipIdx.map (fun e =>
    if decide (e.1.st = .started) && c e.1 then
      { e.1 with st := .committed, status := status, detail := detailOr s detail e.2, tdone := s.time.now }
    else e.1))).withFree (s.free + s.journal.length)) (s.journal.any (fun r => decide (r.st = .started) && c r))

/-! ### Drawers (R251, R252) -/

def drawerNone : Nat := 0xFFFFFFFF

/-- Key of a drawer's count: its region and number. -/
def drawerKey (reg d : Nat) : Nat := reg * 2 ^ 32 + d

def drawerRefs (x : Part) (reg d : Nat) : Nat := mapGet 0 x.drawers (drawerKey reg d)

def setRefs (s : State) (p reg d n : Nat) : State :=
  updPart s p (fun x => { x with drawers := mapSet 0 x.drawers (drawerKey reg d) n })

def incRef (s : State) (p reg d : Nat) : State := setRefs s p reg d (drawerRefs (partAt s p) reg d + 1)
def decRef (s : State) (p reg d : Nat) : State := setRefs s p reg d (drawerRefs (partAt s p) reg d - 1)

/-- Drawers of a pool. -/
def poolSize (s : State) (p reg : Nat) : Nat := ((regionAt s p reg).map (fun g => g.p.pages)).getD 0

/-- Free drawers of a pool. -/
def freeCount (s : State) (p reg : Nat) : Nat :=
  poolSize s p reg - ((partAt s p).drawers.filter (fun e => decide (e.1 / 2 ^ 32 = reg))).length

def isFreeDrawer (s : State) (p reg d : Nat) : Bool :=
  decide (d < poolSize s p reg) && decide (drawerRefs (partAt s p) reg d = 0)

/-- Entries of one map drawer. -/
def mapWords : Nat := 16383

/-- A 32-bit word of a drawer. -/
def drawerWord (s : State) (p reg d w : Nat) : Nat :=
  match regionAt s p reg with
  | some g => leNat (readBytes s g.wpages (pageSize * d + 4 * w) 4)
  | none => drawerNone

def setDrawerWord (s : State) (p reg d w v : Nat) : State := writeRegion s p reg (pageSize * d + 4 * w) (leBytes 4 v)

/-- Map drawer k of a chain that starts at d. -/
def mapDrawer (s : State) (p reg : Nat) : Nat → Nat → Nat
  | 0, d => d
  | k + 1, d => if d = drawerNone then d else mapDrawer s p reg k (drawerWord s p reg d mapWords)

/-- The drawers that hold a map, in order; at most `fuel` of them. -/
def mapChain (s : State) (p reg : Nat) : Nat → Nat → List Nat
  | 0, _ => []
  | f + 1, d => if d = drawerNone then [] else d :: mapChain s p reg f (drawerWord s p reg d mapWords)

/-- Longest chain: 1,048,576 positions in blocks of 16, 4,095 lanes. -/
def chainFuel : Nat := 16400

/-- The drawer at a map index. -/
def mapEntry (s : State) (p reg dhead ix : Nat) : Nat :=
  let d := mapDrawer s p reg (ix / mapWords) dhead
  if d = drawerNone then drawerNone else drawerWord s p reg d (ix % mapWords)

def setMapEntry (s : State) (p reg dhead ix v : Nat) : State :=
  let d := mapDrawer s p reg (ix / mapWords) dhead
  if d = drawerNone then s else setDrawerWord s p reg d (ix % mapWords) v

/-- Take a map drawer: every entry none, no next. -/
def openMapDrawer (s : State) (p reg d : Nat) : State :=
  incRef (writeRegion s p reg (pageSize * d) (List.replicate pageSize 0xFF#8)) p reg d

/-- Drawers that a map drawer names. -/
def namedBy (s : State) (p reg d : Nat) : List Nat :=
  ((List.range mapWords).map (fun w => drawerWord s p reg d w)).filter (fun x => x ≠ drawerNone)

/-- Release a map: every drawer named loses a count, every map drawer goes (R249, R252). -/
def releaseMap (s : State) (p reg dhead : Nat) : State :=
  (mapChain s p reg chainFuel dhead).foldl (fun s d =>
    decRef ((namedBy s p reg d).foldl (fun s x => decRef s p reg x) s) p reg d) s

/-- Map drawers that n entries need. -/
def mapNeed (n : Nat) : Nat := cdiv n mapWords

/-- Link fresh map drawers after each other and return the first. -/
def linkMaps (s : State) (p reg : Nat) : List Nat → State × Nat
  | [] => (s, drawerNone)
  | d :: r =>
    let x := linkMaps s p reg r
    (setDrawerWord (openMapDrawer x.1 p reg d) p reg d mapWords x.2, d)

/-- Copy the first n entries of a map into fresh map drawers, each drawer named gaining a count (R261, R262). -/
def copyMap (s : State) (p reg dhead n : Nat) (drs : List Nat) : State × Nat :=
  let x := linkMaps s p reg (drs.take (mapNeed n))
  ((List.range n).foldl (fun s k =>
    let d := mapEntry s p reg dhead k
    if d = drawerNone then s else incRef (setMapEntry s p reg x.2 k d) p reg d) x.1, x.2)

/-- Would a copy take a count above 65,535 (R252)? -/
def copyOver (s : State) (p reg dhead n : Nat) : Bool :=
  (List.range n).any (fun k =>
    let d := mapEntry s p reg dhead k
    decide (d ≠ drawerNone) && decide (65535 ≤ drawerRefs (partAt s p) reg d))

/-- Fresh drawers chosen for a pool: distinct and free. -/
def goodDrawers (s : State) (p reg n : Nat) (drs : List Nat) : Bool :=
  decide (n ≤ drs.length) && noDup drs && drs.all (fun d => isFreeDrawer s p reg d)

/-! ### Variants (R267 to R269) -/

def ventAt (x : Part) (v : Nat) : VEnt := (mapFind x.variants v).getD ⟨none, none, 0, 0⟩

/-- Keep an entry only while it has a version. -/
def setVent (s : State) (p v : Nat) (e : VEnt) : State :=
  updPart s p (fun x => { x with variants :=
    if e.cur.isNone && e.prv.isNone then mapDel x.variants v else mapPut x.variants v e })

/-- An entry's reference on its version goes; a previous version without references is dropped (R268). -/
def unbind (s : State) (p v ver : Nat) : State :=
  let e := ventAt (partAt s p) v
  match e.cur, e.prv with
  | some c, q =>
    if c.ver = ver then setVent s p v { e with cur := some { c with refs := c.refs - 1 } }
    else match q with
      | some x => if x.ver = ver then
          setVent s p v { e with prv := if x.refs ≤ 1 then none else some { x with refs := x.refs - 1 } } else s
      | none => s
  | none, some x => if x.ver = ver then
      setVent s p v { e with prv := if x.refs ≤ 1 then none else some { x with refs := x.refs - 1 } } else s
  | none, none => s

/-- A variant's current version, if its image is still current (R269). -/
def boundable (s : State) (p v : Nat) : Option VVer :=
  (ventAt (partAt s p) v).cur.bind (fun c =>
    match regionAt s p c.region with
    | some g => if g.cur.isSome ∧ curEpoch g = c.epoch then some c else none
    | none => none)

/-- The current version steps down: it becomes the previous one where it has references (R268). -/
def stepDown (e : VEnt) : VEnt :=
  match e.cur with
  | some c => if 0 < c.refs then { e with cur := none, prv := some c } else { e with cur := none }
  | none => e

/-- Give a variant a new current version (R268). -/
def setVersion (s : State) (p ver : Nat) (v : VSetP) : State :=
  let ep := ((regionAt s p v.region).map curEpoch).getD 0
  let e := stepDown (ventAt (partAt s p) v.variant)
  setVent s p v.variant { e with cur := some ⟨ver, v.region, v.off, ep, 0⟩, fmt := v.fmt, cls := v.cls }

/-! ### Entries -/

def reqAt (s : State) (p e : Nat) : Option Req := mapFind (partAt s p).reqs e

def setReq (s : State) (p e : Nat) (r : Req) : State := updPart s p (fun x => { x with reqs := mapPut x.reqs e r })

/-- States that R248 evicts from. -/
def reqOpen (r : Req) : Bool := decide (r.st = .admitted) || reqActive r

def reqCode : RState → Nat
  | .free => 0 | .admitted => 1 | .pfill => 2 | .decode => 3 | .spec => 4 | .done => 5 | .evicted => 6

/-- Rollout parameters of a campaign's next rollout turn from index k on. -/
def nextRoll (c : Camp) (k : Nat) : Option RollP :=
  ((c.p.turns.drop k).find? (fun t => decide (t.kind = .rollout))).map (fun t => t.rp)

/-- Rollout parameters that govern a partition's entries: the running turn's, or the next rollout turn's. -/
def rollOf (x : Part) : Option RollP := x.camp.bind (fun c => nextRoll c c.turnIx)

/-- Request record (R250). -/
def outRecord (r : Req) (t : Word64) : List Byte :=
  leBytes 64 (packFields [⟨0, 64, r.tag.toNat⟩, ⟨64, 3, reqCode r.st⟩, ⟨68, 4, r.reason⟩, ⟨72, 24, r.plen⟩,
    ⟨96, 24, r.clen⟩, ⟨128, 16, if r.ven then r.variant else 0xFFFF⟩, ⟨144, 16, r.version⟩, ⟨160, 64, t.toNat⟩,
    ⟨224, 128, r.bg.ctr.toNat⟩])

/-- An entry goes FREE; its handle loses a user, and goes with its last one (R249, R264). -/
def releaseHandle (s : State) (p h : Nat) : State :=
  match mapFind (partAt s p).handles h with
  | none => s
  | some x =>
    let y := { x with users := x.users - 1 }
    if !y.live && decide (y.users = 0) then
      updPart (releaseMap s p x.dreg x.map) p (fun q => { q with handles := mapDel q.handles h })
    else updPart s p (fun q => { q with handles := mapPut q.handles h y })

def freeReq (s : State) (p e : Nat) : State :=
  match reqAt s p e with
  | none => s
  | some r =>
    let s := releaseMap s p r.dreg r.dhead
    let s := updPart s p (fun x => { x with reqs := mapDel x.reqs e })
    if r.prefixH = 0xFFFF then s else releaseHandle s p r.prefixH

/-- An entry reaches DONE or EVICTED (R249, REQUEST_FINISH): its version's reference, its record, its drawers,
and its place where the prompt list admitted it. -/
def finishReq (s : State) (p e : Nat) (st : RState) (reason : Nat) : State :=
  match reqAt s p e with
  | none => s
  | some r0 =>
    let r := { r0 with st := st, reason := reason, cancel := false, due := 0 }
    let s := setReq s p e r
    let s := if r.ven then unbind s p r.variant r.version else s
    let s := match rollOf (partAt s p) with
      | some rp => writeRegion s p rp.oregion r.outoff (outRecord r s.time.now)
      | none => s
    let s := if st = .done ∧ r.list = false then s
      else setReq (releaseMap s p r.dreg r.dhead) p e { r with dhead := drawerNone }
    if r.list then freeReq s p e else s

/-- Evict the entries that satisfy a test. -/
def evictWhere (s : State) (p reason : Nat) (c : Req → Bool) : State :=
  ((partAt s p).reqs.filter (fun e => reqOpen e.2 && c e.2)).foldl (fun s e => finishReq s p e.1 .evicted reason) s

/-- Is an entry bound to a version? -/
def boundTo (v ver : Nat) (r : Req) : Bool := r.ven && decide (r.variant = v) && decide (r.version = ver)

/-- Versions with references whose image is a region's current publication (R270). -/
def versionsOf (x : Part) (reg epoch : Nat) : List (Nat × VVer) :=
  (x.variants.map (fun e => (e.2.cur.toList ++ e.2.prv.toList).map (fun c => (e.1, c)))).flatten.filter
    (fun e => decide (e.2.region = reg) && decide (e.2.epoch = epoch) && decide (0 < e.2.refs))

/-- RETIRED_EVICT (R270): ADMITTED entries bound to versions whose image is about to be replaced. -/
def evictRetired (s : State) (p : Nat) (regs : List (Nat × Nat)) : State :=
  (((regs.map (fun g => versionsOf (partAt s p) g.1 g.2)).flatten)).foldl (fun s v =>
    evictWhere s p 9 (fun r => boundTo v.1 v.2.ver r && decide (r.st = .admitted))) s

/-- VARIANT_SET_APPLY (R271). -/
def applyVset (s : State) (p : Nat) (v : VSetP) : State :=
  let s := match (ventAt (partAt s p) v.variant).prv with
    | some q => evictWhere s p 9 (boundTo v.variant q.ver)
    | none => s
  let e := ventAt (partAt s p) v.variant
  let s := setVent s p v.variant { e with prv := none }
  setVersion s p ((((e.cur.map (fun c => c.ver)).getD 0) + 1) % 65536) v

/-- Entries in use against the quota (R244). -/
def entriesUsed (x : Part) : Nat := x.reqs.length

/-- Are all of the module's 16,384 entries in use (R244)? -/
def entriesFull (s : State) : Bool := decide (16384 ≤ (s.parts.map entriesUsed).sum)

/-- Is an entry in use on the module? -/
def entryTaken (s : State) (e : Nat) : Bool := s.parts.any (fun x => (mapFind x.reqs e).isSome)

/-- Is the running rollout turn's admission open (R243)? -/
def admissionOpen (x : Part) : Option Nat :=
  (runOf x).bind (fun r => if decide (r.kind = .rollout) && r.admOpen then some x.turnSeq else none)

/-- Is a temperature one that an admission takes: not negative, infinite or NaN; −0 counts as +0 (R162)? -/
def tempOk (x : Word32) : Bool :=
  (!x.getLsbD 31 || decide (x.extractLsb' 0 31 = 0)) && decide (x.extractLsb' 23 8 ≠ 255#8)

/-- AD fields lie in their ranges (R162, R245, R250). -/
def admitRange (a : AdmitP) : Bool :=
  decide (1 ≤ a.maxgen) && decide (a.topk ≤ 1024) && tempOk a.temp && decide (a.stops.length ≤ 4) && decide (a.outoff % 64 = 0)

/-- Status of an admission (R162, R244, R252, R262, R269); 0 where it is accepted. -/
def admitStatus (s : State) (p : Nat) (a : AdmitP) : Nat :=
  let x := partAt s p
  let h := mapFind x.handles a.prefixH
  let v := boundable s p a.variant
  if !admitRange a then 0x0103
  else if x.entries ≤ entriesUsed x ∨ entriesFull s then 0x0108
  else if a.prefixH ≠ 0xFFFF ∧ !((h.map (fun y => y.live)).getD false) then 0x0106
  else if a.ven ∧ v.isNone then 0x010F
  else match (if a.prefixH = 0xFFFF then none else h) with
    | none => 0
    | some y =>
      if a.plen ≤ y.len then 0x0103
      else if y.ven ∧ !(a.ven && decide (a.variant = y.variant) && decide ((v.map (fun c => c.ver)) = some y.version)) then 0x010F
      else if !y.ven ∧ a.ven then 0x010F
      else if copyOver s p y.dreg y.map (mapWords * (mapChain s p y.dreg chainFuel y.map).length) then 0x0108
      else if freeCount s p y.dreg < (mapChain s p y.dreg chainFuel y.map).length then 0x0108
      else 0

/-- Map drawers that an admission with a handle takes. -/
def admitNeed (s : State) (p : Nat) (a : AdmitP) : Option (Nat × Nat) :=
  if a.prefixH = 0xFFFF then none
  else (mapFind (partAt s p).handles a.prefixH).map (fun y => (y.dreg, (mapChain s p y.dreg chainFuel y.map).length))

/-- Did the D7 choose a free entry and free map drawers? -/
def admitChoice (s : State) (p e : Nat) (a : AdmitP) (drs : List Nat) : Bool :=
  decide (e < 16384) && !entryTaken s e && (match admitNeed s p a with
    | some n => decide (drs.length = n.2) && goodDrawers s p n.1 n.2 drs
    | none => true)

/-- Admit a request into entry e (R248, R158, R262, R269). -/
def admitReq (s : State) (p e : Nat) (a : AdmitP) (list : Bool) (drs : List Nat) : State :=
  let x := partAt s p
  let k := if a.keysrc then (BitVec.ofNat 64 a.key.toNat, BitVec.ofNat 64 (a.key.toNat / 2 ^ 64))
    else deriveKey x.seedOn a.tag
  let h := if a.prefixH = 0xFFFF then none else mapFind x.handles a.prefixH
  let ver := if a.ven then ((ventAt x a.variant).cur.map (fun c => c.ver)).getD 0 else 0
  let m := match h with
    | some y => copyMap s p y.dreg y.map (mapWords * drs.length) drs
    | none => (s, drawerNone)
  let r : Req :=
    { st := .admitted, prio := a.prio, keysrc := a.keysrc, ven := a.ven, list := list, reason := 0,
      variant := a.variant, version := ver, prefixH := a.prefixH, tag := a.tag, plen := a.plen,
      klen := (h.map (fun y => y.len)).getD 0, clen := 0, tlen := 0, maxgen := a.maxgen, deadline := a.deadline,
      dhead := m.2, outoff := a.outoff, temp := a.temp, topk := a.topk, topp := a.topp, seq := x.reqSeq,
      proff := a.proff, stops := a.stops, bg := ⟨k.1, k.2, if a.ctrsrc then a.ctr else 0⟩, draft := [],
      cancel := false, turn := admissionOpen x, dreg := (h.map (fun y => y.dreg)).getD 0,
      dposl := (h.map (fun y => y.dposl)).getD 0, dlanes := (h.map (fun y => y.dlanes)).getD 0,
      due := 0, last := 0, seen := false }
  let s := updPart (setReq m.1 p e r) p (fun y => { y with reqSeq := y.reqSeq + 1 })
  let s := match h with
    | some y => updPart s p (fun q => { q with handles := mapPut q.handles a.prefixH { y with users := y.users + 1 } })
    | none => s
  if a.ven then
    let v := ventAt (partAt s p) a.variant
    setVent s p a.variant { v with cur := v.cur.map (fun c => { c with refs := c.refs + 1 }) }
  else s

/-! ### Rank (R273) -/

def rankKey (r : Req) : Nat × Nat × Nat :=
  (r.prio, if r.deadline = 0 then 2 ^ 64 - 1 else r.deadline.toNat, r.seq)

def rankLt (a b : Req) : Bool :=
  let x := rankKey a
  let y := rankKey b
  decide (x.1 < y.1) || (decide (x.1 = y.1) && (decide (x.2.1 < y.2.1) ||
    (decide (x.2.1 = y.2.1) && decide (x.2.2 < y.2.2))))

/-- Insert an entry by a strict order. -/
def insBy {α : Type} (lt : α → α → Bool) (x : α) : List α → List α
  | [] => [x]
  | y :: r => if lt x y then x :: y :: r else y :: insBy lt x r

/-- Sort by a strict order, equal elements in their order. -/
def sortBy {α : Type} (lt : α → α → Bool) (l : List α) : List α := l.foldl (fun acc x => insBy lt x acc) []

def byRank (l : List (Nat × Req)) : List (Nat × Req) := sortBy (fun a b => rankLt a.2 b.2) l

end Sys2Proof.Machine
end

