-- ==== Sys2Proof/Machine/Ply.lean ====
section
/-! DEFINITION. Positions (R297, R352), the Ply engine (R304 to R310) and the landing of chunks (R301, R303). -/

namespace Sys2Proof.Machine

open Sys2Proof

/-- Positions of a campaign that this module holds (R352). -/
def heldPos (s : State) (c : Camp) : List Nat :=
  (List.range c.p.positions.length).filter (fun k => decide (c.p.positions[k]? = some s.fabric.member))

/-- Member bound to a position. -/
def memberAt (c : Camp) (pos : Nat) : Nat := c.p.positions.getD pos noMember

/-- Is a member's partition bound to the same campaign: did it send the digest that this one has (R303, R353)? -/
def boundWith (s : State) (c : Camp) (m : Nat) : Bool :=
  decide (m = s.fabric.member) || c.digests.any (fun e => decide (e.1 = m) && decide (e.2 = c.digest))

/-- A fabric message or chunk that reaches no partition of its campaign is discarded and counted (R303, R388). -/
def dropChunk (s : State) : State := addCtr s (ctrKey 0 6 0 cFabDrop) 1

/-- A campaign message for a partition: delivered once, and only where the sender's partition is bound to the same campaign
(R298, R303). -/
def fromBound (s : State) (p : Nat) (m : MsgAt) (f : State → State) : State :=
  fromMember s m (fun s => match (partAt s p).camp with
    | some c => if boundWith s c m.frm then f s else dropChunk s
    | none => dropChunk s)

/-- Distinct members of a campaign. -/
def campMembers (c : Camp) : List Nat := c.p.positions.dedup

/-- Pairs of positions that a collective joins (R311): a SEND its two members, a BROADCAST its first member with the others, the other
kinds every two. -/
def collHops (d : Coll) : List (Nat × Nat) :=
  let to0 (n : Nat) : List (Nat × Nat) := (d.members.drop 1).take n |>.map (fun b => (d.members.getD 0 0, b))
  if d.kind = 1 then to0 1
  else if d.kind = 3 then to0 d.members.length
  else (d.members.map (fun a => d.members.map (fun b => (a, b)))).flatten

/-- The positions that some positions are joined to by pairs, through other positions too: n rounds. -/
def joinedTo (hops : List (Nat × Nat)) : Nat → List Nat → List Nat
  | 0, l => l
  | n + 1, l =>
    joinedTo hops n (l ++ ((hops.map (fun h => (if l.contains h.1 then [h.2] else []) ++ (if l.contains h.2 then [h.1] else []))).flatten.filter
      (fun k => !l.contains k))).dedup

/-- The positions of this module's decoding set (R253): those that the turn's program joins to its own by collectives. DEDUCED: no
field of the spec lists the sets (log entry 36). -/
def setPos (s : State) (c : Camp) (pr : Option Program) : List Nat :=
  joinedTo ((pr.map (fun q => (q.colls.map collHops).flatten)).getD []) c.p.positions.length (heldPos s c)

/-- The other members of this module's decoding set. -/
def setPeers (s : State) (c : Camp) (pr : Option Program) : List Nat :=
  ((setPos s c pr).map (memberAt c)).dedup.filter (fun m => m ≠ s.fabric.member)

/-! ### Pieces (R308) -/

/-- Bit offset of element (r, c) of a piece from PC.OFFSET. -/
def pieceBit (p : Piece) (f : Fmt) (r c : Nat) : Nat :=
  if p.panel then 8 * (c / 64 * p.pstride + r * p.rstride) + elemBit f (c % 64)
  else 8 * (r * p.rstride) + elemBit f c

/-- Storage index of element (r, c). -/
def pieceIx (p : Piece) (r c : Nat) : Nat :=
  if p.panel then c / 64 * (64 * p.nrows) + 64 * r + c % 64 else r * p.ncols + c

/-- Element of a storage index. -/
def pieceElem (p : Piece) (i : Nat) : Nat × Nat :=
  if p.panel then (i % (64 * p.nrows) / 64, 64 * (i / (64 * p.nrows)) + i % 64) else (i / p.ncols, i % p.ncols)

def fmtOf (n : Nat) : Fmt := (Fmt.ofCode n).getD .f32

/-- Elements and scale bytes of a list of offsets, as maximal runs: start and length. -/
def groupRuns : List Nat → List (Nat × Nat)
  | [] => []
  | a :: l => match groupRuns l with
    | [] => [(a, 1)]
    | (b, n) :: r => if a + 1 = b then (a, n + 1) :: r else (a, 1) :: (b, n) :: r

/-- Rows of a rectangle as runs of columns in destination storage order: row, first column, columns. -/
def colRuns (p : Piece) (r0 r1 c0 c1 : Nat) : List (Nat × Nat × Nat) :=
  if p.panel then
    ((List.range (cdiv p.ncols 64)).map (fun k =>
      let a := max c0 (64 * k)
      let b := min c1 (64 * k + 64)
      if b ≤ a then [] else (List.range (r1 - r0)).map (fun r => (r0 + r, a, b - a)))).flatten
  else if c1 ≤ c0 then [] else (List.range (r1 - r0)).map (fun r => (r0 + r, c0, c1 - c0))

/-- Bits of a run within the region. -/
def runRange (p : Piece) (f : Fmt) (x : Nat × Nat × Nat) : Range := ⟨8 * p.off + pieceBit p f x.1 x.2.1, x.2.2 * f.bits⟩

/-- Bits of a run of scale bytes. -/
def scaleRange (p : Piece) (x : Nat × Nat) : Range := ⟨8 * (p.spoff + x.1), 8 * x.2⟩

/-- The bytes that hold a range of bits: the first, and their number. -/
def firstByte (r : Range) : Nat := r.off / 8
def byteCount (r : Range) : Nat := (r.off + r.len + 7) / 8 - r.off / 8

/-- Have two ranges a bit in common? -/
def touches (a b : Range) : Bool := decide (a.off < b.off + b.len) && decide (b.off < a.off + a.len)

/-- The common part of two ranges. -/
def clip (a b : Range) : Range := ⟨max a.off b.off, min (a.off + a.len) (b.off + b.len) - max a.off b.off⟩

/-- Bits of a range in n bytes from one on. -/
def clipTo (r : Range) (off n : Nat) : Range := clip r ⟨8 * off, 8 * n⟩

/-- Do n bytes from one on lie in the bytes that hold a range? -/
def inBytes (r : Range) (off n : Nat) : Bool := within off n (firstByte r) (byteCount r)

/-- Scale bytes of a rectangle, as runs. -/
def scaleRuns (p : Piece) (blk r0 r1 c0 c1 : Nat) : List (Nat × Nat) :=
  groupRuns ((((colRuns p r0 r1 c0 c1).map (fun x =>
    (List.range x.2.2).map (fun j => pieceIx p x.1 (x.2.1 + j) / blk))).flatten).dedup)

/-- Everything of a destination piece that must land: element ranges, then scale ranges. -/
def pieceNeed (h : LPair) (p : Piece) : List Range :=
  (colRuns p 0 p.nrows 0 p.ncols).map (runRange p (fmtOf h.dfmt)) ++
    (if h.dscl then (scaleRuns p (sblkLen h.dsblk) 0 p.nrows 0 p.ncols).map (scaleRange p) else [])

/-! ### Reading and converting (R310) -/

/-- A source element's value, at logical row and column; none where its memory is poisoned (R304). -/
def plyRead (s : State) (part : Nat) (h : LPair) (p : Piece) (row col : Nat) : Option FVal :=
  match regionAt s part h.sregion with
  | none => none
  | some g =>
    let f := fmtOf h.sfmt
    let r := row - p.row0
    let c := col - p.col0
    let pages := readPages g
    let b := pieceBit p f r c
    let k := (b % 8 + f.bits + 7) / 8
    let so := p.spoff + pieceIx p r c / sblkLen h.ssblk
    if (firstPoison s pages (p.off + b / 8) k).isSome || (h.sscl && (firstPoison s pages so 1).isSome) then none
    else
      let code := fld (leNat (readBytes s pages (p.off + b / 8) k)) (b % 8) f.bits
      some (scaledValue f code (if h.sscl then some (readByte s pages so).toNat else none))

/-- Position of a source piece under a replica entry (R304). -/
def srcPos (p : Piece) (o : Int) : Nat := ((p.pos : Int) + o).toNat

/-- The source piece of this module that holds an element, for the replica entry o. -/
def srcPieceOf (pr : PairD) (held : List Nat) (o : Int) (tensor row col : Nat) : Option Piece :=
  pr.pieces.find? (fun p => !p.dst && decide (p.tensor = tensor) && held.contains (srcPos p o) &&
    decide (p.row0 ≤ row) && decide (row < p.row0 + p.nrows) && decide (p.col0 ≤ col) && decide (col < p.col0 + p.ncols))

/-- Does a storage index of a piece name an element? -/
def pieceHas (d : Piece) (i : Nat) : Bool := decide ((pieceElem d i).1 < d.nrows) && decide ((pieceElem d i).2 < d.ncols)

/-- Value of a destination element that this module's positions hold. -/
def plyValue (s : State) (part : Nat) (pr : PairD) (held : List Nat) (o : Int) (d : Piece) (i : Nat) : Option FVal :=
  let rc := pieceElem d i
  if !pieceHas d i then none
  else (srcPieceOf pr held o d.tensor (d.row0 + rc.1) (d.col0 + rc.2)).bind (fun p =>
    plyRead s part pr.hd p (d.row0 + rc.1) (d.col0 + rc.2))

/-- Scale byte q of a destination piece (R100); none where an element of its block cannot be read (R304). -/
def plyScale (s : State) (part : Nat) (pr : PairD) (held : List Nat) (o : Int) (d : Piece) (q : Nat) : Option Nat :=
  let m := sblkLen pr.hd.dsblk
  let is := ((List.range m).map (fun k => q * m + k)).filter (pieceHas d)
  let vs := is.filterMap (plyValue s part pr held o d)
  if vs.length = is.length then some (blockScale (fmtOf pr.hd.dfmt) pr.hd.dhead vs) else none

/-- Code of a destination element (R310 item 2). -/
def plyCode (s : State) (part : Nat) (pr : PairD) (held : List Nat) (o : Int) (epoch : Nat) (d : Piece) (r c : Nat) : Option Nat :=
  let h := pr.hd
  let i := pieceIx d r c
  (plyValue s part pr held o d i).bind (fun v =>
    let f := fmtOf h.dfmt
    let rm := (RMode.ofCode h.rm).getD .rne
    let u := srBits (whorlOf s part) h.stream ⟨4, (d.row0 + r) * d.ld + d.col0 + c, d.tensor, epoch⟩
    if h.dscl then (plyScale s part pr held o d (i / sblkLen h.dsblk)).map (fun x => (scaledCode f rm u x v).code)
    else some (convert f rm u v).code)

/-- Bytes of a run: the codes packed from its first byte; none where a source is poisoned. -/
def runBytes (s : State) (part : Nat) (pr : PairD) (held : List Nat) (o : Int) (epoch : Nat) (d : Piece) (x : Nat × Nat × Nat) :
    Option (List Byte) :=
  let f := fmtOf pr.hd.dfmt
  let cs := (List.range x.2.2).map (fun j => plyCode s part pr held o epoch d x.1 (x.2.1 + j))
  if cs.all (fun c => c.isSome) then
    let b := pieceBit d f x.1 x.2.1 % 8
    let v := ((List.range x.2.2).zip cs).foldl (fun acc e => acc ||| ((e.2.getD 0) <<< (b + e.1 * f.bits))) 0
    some (leBytes ((b + x.2.2 * f.bits + 7) / 8) v)
  else none

/-- Bytes of a run of scale bytes; none where one cannot be formed. -/
def scaleBytes (s : State) (part : Nat) (pr : PairD) (held : List Nat) (o : Int) (d : Piece) (x : Nat × Nat) : Option (List Byte) :=
  let l := (List.range x.2).filterMap (fun j => plyScale s part pr held o d (x.1 + j))
  if l.length = x.2 then some (l.map (fun q => BitVec.ofNat 8 q)) else none

/-- Cut bytes at an offset into chunks of at most 1 MiB. -/
def cutChunks (off : Nat) (b : List Byte) : List (Nat × List Byte) :=
  (List.range (cdiv b.length chunkMax)).map (fun k => (off + chunkMax * k, (b.drop (chunkMax * k)).take chunkMax))

/-- The rows and columns of a destination piece that a source piece gives: first and past the last of each. -/
def meetRect (p d : Piece) : Nat × Nat × Nat × Nat :=
  (max p.row0 d.row0 - d.row0, min (p.row0 + p.nrows) (d.row0 + d.nrows) - d.row0,
   max p.col0 d.col0 - d.col0, min (p.col0 + p.ncols) (d.col0 + d.ncols) - d.col0)

/-- Source pieces of a destination piece. -/
def sourcesOf (pr : PairD) (d : Piece) : List Piece :=
  pr.pieces.filter (fun p => !p.dst && decide (p.tensor = d.tensor) &&
    decide ((meetRect p d).1 < (meetRect p d).2.1) && decide ((meetRect p d).2.2.1 < (meetRect p d).2.2.2))

/-- Bits of the region that a source piece gives to a destination piece, elements first. -/
def meetRanges (pr : PairD) (d p : Piece) : List Range :=
  let q := meetRect p d
  (colRuns d q.1 q.2.1 q.2.2.1 q.2.2.2).map (runRange d (fmtOf pr.hd.dfmt)) ++
    (if pr.hd.dscl then (scaleRuns d (sblkLen pr.hd.dsblk) q.1 q.2.1 q.2.2.1 q.2.2.2).map (scaleRange d) else [])

/-- The same with the bytes, where every source of them can be read (R304, R310 items 1 and 2); 1 marks scale bytes. -/
def meetBytes (s : State) (part : Nat) (pr : PairD) (held : List Nat) (o : Int) (epoch : Nat) (d p : Piece) :
    List (Nat × Range × Option (List Byte)) :=
  let q := meetRect p d
  (colRuns d q.1 q.2.1 q.2.2.1 q.2.2.2).map (fun x =>
    (0, runRange d (fmtOf pr.hd.dfmt) x, runBytes s part pr held o epoch d x)) ++
  (if pr.hd.dscl then (scaleRuns d (sblkLen pr.hd.dsblk) q.1 q.2.1 q.2.2.1 q.2.2.2).map (fun x =>
    (1, scaleRange d x, scaleBytes s part pr held o d x)) else [])

/-! ### Landing (R301, R303, R310, R318) -/

/-- Is a range covered by landed ranges? -/
def coverTo (l : List Range) : Nat → Nat → Nat
  | 0, a => a
  | f + 1, a => match l.find? (fun r => decide (r.off ≤ a) && decide (a < r.off + r.len)) with
    | some r => coverTo l f (r.off + r.len)
    | none => a

def covered (l : List Range) (r : Range) : Bool := decide (r.off + r.len ≤ coverTo l l.length r.off)

/-- A layout pair of the program of the turn that a switch leads into. -/
def pairDesc (x : Part) (c : Camp) (sw : Switch) (id : Nat) : Option PairD :=
  (c.p.turns[sw.into]?).bind (fun t => (mapFind x.progs t.prog).bind (fun p =>
    p.pairs.find? (fun d => decide (d.hd.id = id))))

def updCamp (s : State) (p : Nat) (f : Camp → Camp) : State := updPart s p (fun x => { x with camp := x.camp.map f })

/-- Change what a partition's switch keeps of a pair. -/
def updPairRun (s : State) (p id : Nat) (f : PairRun → PairRun) : State :=
  updCamp s p (fun c => { c with sw := c.sw.map (fun w => { w with
    pairs := w.pairs.map (fun y => if y.pair = id then f y else y) }) })

/-- Bytes at an offset of a publication with the bits of a range replaced: a byte at an end of the range keeps its other bits, which
belong to another source piece (R88, R310). -/
def mergeBits (s : State) (pages : List Nat) (r : Range) (off : Nat) (b : List Byte) : List Byte :=
  b.zipIdx.map (fun e =>
    let m := clipTo r (off + e.2) 1
    if m.len = 8 then e.1
    else
      let k : Byte := BitVec.ofNat 8 (2 ^ (m.off % 8 + m.len) - 2 ^ (m.off % 8))
      (e.1 &&& k) ||| (readByte s pages (off + e.2) &&& ~~~k))

/-- Write bits of a layout pair into the staging publication of its region, once (R310 item 3, R318). -/
def landPly (s : State) (part : Nat) (pr : PairD) (r : Range) (off : Nat) (b : List Byte) : State :=
  match (partAt s part).camp.bind (fun c => c.sw), (regionAt s part pr.hd.dregion).bind (fun g => g.next) with
  | some sw, some pub =>
    match sw.pairs.find? (fun y => decide (y.pair = pr.hd.id)) with
    | none => s
    | some y =>
      if covered y.landed r then s
      else
        let s := markStale (writePages s pub.pages off (mergeBits s pub.pages r off b)) part pr.hd.dregion off b.length
        updPairRun s part pr.hd.id (fun y => { y with landed := y.landed ++ [r] })
  | _, _ => s

/-- A chunk at the first of some positions along a chain: written where the position is on this module, sent on where it is not
(R310 items 3 and 4). `r` is the bits that it gives, `buf` the chunk buffer that holds it, where one does. -/
def passOn (s : State) (part : Nat) (c : Camp) (pr : PairD) (r : Range) (x : Chunk) (buf : Option Nat) : List Nat → State
  | [] => s
  | k :: l =>
    if memberAt c k = s.fabric.member then passOn (landPly s part pr r x.off x.data) part c pr r x buf l
    else
      let y := { x with dpos := k, dmem := memberAt c k }
      match buf, chunkRoute s y.dmem y.index with
      | some n, some w => forwardFrom s n y w
      | _, _ => sendChunk s y

/-- Positions of a destination piece, the piece's own and its chain's, in order. -/
def posList (d : Piece) : List Nat := d.pos :: d.chain

/-- Positions of a destination piece from one of them on. -/
def fromPos (d : Piece) (pos : Nat) : List Nat := (posList d).drop ((posList d).idxOf pos)

/-- A transfer has taken its number (R301). -/
def nextXfer (s : State) : State := s.withFabric { s.fabric with xfer := s.fabric.xfer + 1 }

/-- Send what this module's source pieces give to a destination piece: for a replica entry, along some of its positions, as far as
a test of ranges asks for it. The last answer lists ranges whose source is poisoned, of which nothing is sent, with their source
positions. -/
def sendPiece (s : State) (part : Nat) (c : Camp) (pr : PairD) (epoch : Nat) (o : Int) (d : Piece) (poss : List Nat)
    (want : Range → Bool) (ix0 : Nat) : State × Nat × List (Nat × Range) :=
  let held := heldPos s c
  ((sourcesOf pr d).filter (fun p => held.contains (srcPos p o))).foldl (fun acc p =>
    ((meetBytes s part pr held o epoch d p).filter (fun e => want e.2.1)).foldl (fun (acc : State × Nat × List (Nat × Range)) e =>
      match e.2.2 with
      | none => (acc.1, acc.2.1, acc.2.2 ++ [(srcPos p o, e.2.1)])
      | some b =>
        ((cutChunks (firstByte e.2.1) b).filter (fun z => want (clipTo e.2.1 z.1 z.2.length))).foldl
          (fun (acc : State × Nat × List (Nat × Range)) z =>
          let x : Chunk :=
            { xfer := s.fabric.xfer, index := acc.2.1, spos := srcPos p o, dpos := poss.headD d.pos, part := Fin.ofNat 32 part,
              kind := e.1, region := pr.hd.dregion, hops := 0, off := z.1, fmt := 0, epoch := epoch, tokens := 0, dmem := 0,
              data := z.2 }
          (passOn acc.1 part c pr (clipTo e.2.1 z.1 z.2.length) x none poss, acc.2.1 + 1, acc.2.2)) acc) acc) (s, ix0, [])

/-- The bits of a destination piece that a chunk from a source position gives. -/
def chunkRange (pr : PairD) (d : Piece) (spos off n : Nat) : Option Range :=
  (((((sourcesOf pr d).filter (fun q => pr.hd.repl.any (fun o => decide (srcPos q o = spos)))).map (meetRanges pr d)).flatten ++
    pieceNeed pr.hd d).find? (fun r => inBytes r off n)).map (fun r => clipTo r off n)

/-- Destination piece of a pair that a chunk for a position belongs to, with the bits that the chunk gives. -/
def pieceFor (pr : PairD) (pos spos off n : Nat) : Option (Nat × Piece × Range) :=
  pr.pieces.zipIdx.findSome? (fun e =>
    if e.1.dst && (posList e.1).contains pos then (chunkRange pr e.1 spos off n).map (fun r => (e.2, e.1, r)) else none)

/-- What must land on this module for a pair. -/
def needOf (pr : PairD) (held : List Nat) : List Range :=
  ((pr.pieces.filter (fun d => d.dst && (d.pos :: d.chain).any held.contains)).map (pieceNeed pr.hd)).flatten.dedup

/-! ### Missing shards (R304, R305) -/

/-- Where a destination piece is fetched from: an earlier position of its chain, the source pieces under a replica entry, or the
host copy. -/
inductive Source where
  | pos (k : Nat)
  | repl (o : Int)
  | host
  deriving DecidableEq, Repr

/-- Sources of a destination piece at a position, in order (R304): a chain member's own list first, then the layout's. A position
that is on this module too is no source: it has what this module has. -/
def sourceList (s : State) (c : Camp) (pr : PairD) (d : Piece) (pos : Nat) : List Source :=
  let own := (((posList d).take ((posList d).idxOf pos)).reverse).filter (fun k => memberAt c k ≠ s.fabric.member)
  own.map (fun k => .pos k) ++ pr.hd.repl.map (fun o => .repl o) ++ (if pr.hd.hregion = 0xFFFF then [] else [.host])

/-- The position of this module that a piece is for: the first of its chain. -/
def herePos (s : State) (c : Camp) (d : Piece) : Nat := ((posList d).find? (heldPos s c).contains).getD d.pos

/-- The switch fails (R305): its staging publications are abandoned. -/
def abandonSwitch (s : State) (p : Nat) : State :=
  match (partAt s p).camp with
  | none => s
  | some c => match c.sw with
    | none => s
    | some sw =>
      let regs := sw.pairs.filterMap (fun y => (pairDesc (partAt s p) c sw y.pair).map (fun d => d.hd.dregion))
      let s := regs.foldl (fun s r => match regionAt s p r with
        | some g => setRegion s p r { g with next := none }
        | none => s) s
      updCamp s p (fun c => { c with sw := none })

/-- SHARD_LOST (R305). -/
def shardLost (s : State) (p pair piece : Nat) : State :=
  abandonSwitch (hubFault s p 0x0339 (pair % 65536 + 65536 * (piece % 65536))) p

/-- The source of bits of a piece that is in use: the last entry that has been asked for one of them. -/
def tryOf (y : PairRun) (piece : Nat) (r : Range) : Nat :=
  ((y.tries.filter (fun e => decide (e.piece = piece) && touches e.r r)).map (fun e => e.k)).foldl max 0

/-- What has not landed of a piece. -/
def needLeft (pr : PairD) (y : PairRun) (d : Piece) : List Range := (pieceNeed pr.hd d).filter (fun r => !covered y.landed r)

/-- Bits of a piece are asked of a source (R304): of another member by a message, of this module's own source pieces at once. The
second answer lists what a poisoned source of this module cannot give. The host copy arrives as its transfer completes. -/
def askSource (s : State) (p : Nat) (c : Camp) (sw : Switch) (pr : PairD) (piece : Nat) (d : Piece) (x : Source)
    (r : Range) : State × List Range :=
  match x with
  | .host => (s, [])
  | .pos k => (sendTo s (memberAt c k) (.fetch ⟨Fin.ofNat 32 p, pr.hd.id, piece, k, true, r.off, r.len⟩), [])
  | .repl o =>
    let far := (sourcesOf pr d).filter (fun q => memberAt c (srcPos q o) ≠ s.fabric.member)
    let s1 := far.foldl (fun s q => ((meetRanges pr d q).filter (touches r)).foldl (fun s m =>
      sendTo s (memberAt c (srcPos q o)) (.fetch ⟨Fin.ofNat 32 p, pr.hd.id, piece, srcPos q o, false, (clip m r).off, (clip m r).len⟩))
      s) s
    let w := sendPiece s1 p c pr sw.epoch o d (fromPos d (herePos s1 c d)) (touches r) 0
    (nextXfer w.1, w.2.2.map (fun e => e.2))

/-- Bits of a piece are fetched from the next source of their list (R304), and from the one after it where that one is poisoned;
SHARD_LOST where the list is exhausted. -/
def nextSource : Nat → State → Nat → Nat → Nat → Range → State
  | 0, s, _, _, _, _ => s
  | n + 1, s, p, pair, piece, r =>
    match (partAt s p).camp.bind (fun c => c.sw.map (fun sw => (c, sw))) with
    | none => s
    | some e =>
      match e.2.pairs.find? (fun y => decide (y.pair = pair)), pairDesc (partAt s p) e.1 e.2 pair with
      | some y, some pr =>
        match pr.pieces[piece]? with
        | none => s
        | some d =>
          let k := tryOf y piece r + 1
          match (sourceList s e.1 pr d (herePos s e.1 d))[k]? with
          | none => shardLost s p pair piece
          | some x =>
            let s := updPairRun s p pair (fun y => { y with tries := y.tries ++ [⟨piece, r, k⟩] })
            let w := askSource s p e.1 e.2 pr piece d x r
            w.2.foldl (fun s q => nextSource n s p pair piece q) w.1
      | _, _ => s

/-- A source list holds at most eight chain positions, four replica entries and the host copy. -/
def refetch (s : State) (p pair piece : Nat) (r : Range) : State := nextSource 13 s p pair piece r

/-- The members that bits of a piece are fetched from now (R304). -/
def pieceSource (s : State) (c : Camp) (pr : PairD) (y : PairRun) (ix : Nat) (d : Piece) (r : Range) : List Nat :=
  match (sourceList s c pr d (herePos s c d))[tryOf y ix r]? with
  | some (.pos k) => [memberAt c k]
  | some (.repl o) => ((sourcesOf pr d).filter (fun q => (meetRanges pr d q).any (touches r))).map (fun q => memberAt c (srcPos q o))
  | _ => []

/-- The pieces that this module receives in a switch, each with its pair and its place. -/
def herePieces (s : State) (c : Camp) (x : Part) (sw : Switch) : List (PairRun × PairD × Nat × Piece) :=
  (sw.pairs.map (fun y => ((pairDesc x c sw y.pair).map (fun pr =>
    (pr.pieces.zipIdx.filter (fun e => e.1.dst && (posList e.1).any (heldPos s c).contains)).map (fun e =>
      (y, pr, e.2, e.1)))).getD [])).flatten

/-- CHUNK_REFETCH of what has not landed of a partition's switch and is being fetched from a member that has left (R304). -/
def refetchFrom (s : State) (p m : Nat) : State :=
  match (partAt s p).camp.bind (fun c => c.sw.map (fun sw => (c, sw))) with
  | none => s
  | some e => (herePieces s e.1 (partAt s p) e.2).foldl (fun s k =>
      ((needLeft k.2.1 k.1 k.2.2.2).filter (fun r => (pieceSource s e.1 k.2.1 k.1 k.2.2.1 k.2.2.2 r).contains m)).foldl
        (fun s r => refetch s p k.1.pair k.2.2.1 r) s) s

/-- Tell a destination that bytes of a layout pair for one of its positions do not come (R304). -/
def tellLost (s : State) (p : Nat) (pr : PairD) (m dpos : Nat) (e : Nat × Range) : State :=
  sendTo s m (.lost ⟨Fin.ofNat 32 p, pr.hd.dregion, dpos, e.1, firstByte e.2, byteCount e.2⟩)

/-- LAYOUT_PAIR_RUN (R310): everything that this module's source pieces give under the first replica entry goes to its destination
pieces. What a poisoned source cannot give is fetched from the next source: here, or by the member of the destination position, which
is told (R304). -/
def runPair (s : State) (part : Nat) (c : Camp) (pr : PairD) (epoch : Nat) : State :=
  let o := pr.hd.repl.headD 0
  let w := (pr.pieces.zipIdx.filter (fun e => e.1.dst)).foldl (fun (acc : State × Nat × List (Nat × Piece × Nat × Range)) e =>
    let w := sendPiece acc.1 part c pr epoch o e.1 (posList e.1) (fun _ => true) acc.2.1
    (w.1, w.2.1, acc.2.2 ++ w.2.2.map (fun q => (e.2, e.1, q)))) (s, 0, [])
  w.2.2.foldl (fun s q =>
    if memberAt c q.2.1.pos = s.fabric.member then refetch s part pr.hd.id q.1 q.2.2.2
    else tellLost s part pr (memberAt c q.2.1.pos) q.2.1.pos q.2.2) (nextXfer w.1)

/-- Bits of a piece that this module has go along some positions of its chain in chunks, as one transfer from a position. -/
def sendRange (s : State) (p : Nat) (c : Camp) (sw : Switch) (pr : PairD) (d : Piece) (spos : Nat) (poss : List Nat) (r : Range)
    (b : List Byte) : State :=
  let elems := (colRuns d 0 d.nrows 0 d.ncols).map (runRange d (fmtOf pr.hd.dfmt))
  let w := (cutChunks (firstByte r) b).foldl (fun (acc : State × Nat) z =>
    let x : Chunk :=
      { xfer := s.fabric.xfer, index := acc.2, spos := spos, dpos := poss.headD d.pos, part := Fin.ofNat 32 p,
        kind := if elems.any (touches r) then 0 else 1, region := pr.hd.dregion, hops := 0, off := z.1, fmt := 0,
        epoch := sw.epoch, tokens := 0, dmem := 0, data := z.2 }
    (passOn acc.1 p c pr (clipTo r z.1 z.2.length) x none poss, acc.2 + 1)) (s, 0)
  nextXfer w.1

/-- What this module has of a piece goes on from one of its chain's positions (R304). -/
def sendLanded (s : State) (p : Nat) (c : Camp) (sw : Switch) (pr : PairD) (y : PairRun) (d : Piece) (f : FetchP)
    (poss : List Nat) : State :=
  let pages := (((regionAt s p pr.hd.dregion).bind (fun g => g.next)).map (fun b => b.pages)).getD []
  ((y.landed.filter (touches ⟨f.off, f.len⟩)).map (clip ⟨f.off, f.len⟩)).foldl (fun s r =>
    sendRange s p c sw pr d f.pos poss r (readBytes s pages (firstByte r) (byteCount r))) s

/-- A member asks this module for bits of a piece (R304): of what has landed here, or of a source piece; a poisoned source answers that
it cannot. -/
def serveFetch (s : State) (p m : Nat) (f : FetchP) : State :=
  match (partAt s p).camp.bind (fun c => c.sw.map (fun sw => (c, sw))) with
  | none => s
  | some e =>
    match e.2.pairs.find? (fun y => decide (y.pair = f.pair)), pairDesc (partAt s p) e.1 e.2 f.pair with
    | some y, some pr =>
      match pr.pieces[f.piece]? with
      | none => s
      | some d =>
        let k := ((posList d).find? (fun q => decide (memberAt e.1 q = m))).getD d.pos
        if f.chain then sendLanded s p e.1 e.2 pr y d f (fromPos d k)
        else match pr.hd.repl.find? (fun o => (sourcesOf pr d).any (fun q => decide (srcPos q o = f.pos))) with
          | none => s
          | some o =>
            let w := sendPiece s p e.1 pr e.2.epoch o d (fromPos d k) (touches ⟨f.off, f.len⟩) 0
            w.2.2.foldl (fun s q => tellLost s p pr m k q) (nextXfer w.1)
    | _, _ => s

/-- Does an entry of a source list fetch from a position? A position of the chain passes on what others read. -/
def givenBy (pr : PairD) (d : Piece) (pos : Nat) : Source → Bool
  | .pos _ => true
  | .repl o => (sourcesOf pr d).any (fun q => decide (srcPos q o = pos))
  | .host => false

/-- A chunk for this module does not come (R304): it is fetched from its next source, where it has not landed and its source is the
one in use. -/
def chunkLost (s : State) (p : Nat) (l : LostP) : State :=
  match (partAt s p).camp.bind (fun c => c.sw.map (fun sw => (c, sw))) with
  | none => s
  | some e =>
    match (e.2.pairs.filterMap (fun y => (pairDesc (partAt s p) e.1 e.2 y.pair).bind (fun pr =>
        if pr.hd.dregion = l.region then (pieceFor pr l.dpos l.spos l.off l.len).map (fun k => (y, pr, k)) else none))).head? with
    | none => s
    | some k =>
      let y := k.1
      let pr := k.2.1
      let ix := k.2.2.1
      let d := k.2.2.2.1
      let r := k.2.2.2.2
      if covered y.landed r ∨ ((sourceList s e.1 pr d (herePos s e.1 d))[tryOf y ix r]?).elim false (givenBy pr d l.spos) = false then s
      else refetch s p y.pair ix r

/-- Every piece that this module still lacks is asked of the source in use, where that is another member: what such a member had sent
is lost (R349, R399). -/
def askAgain (s : State) (p : Nat) : State :=
  match (partAt s p).camp.bind (fun c => c.sw.map (fun sw => (c, sw))) with
  | none => s
  | some e => (herePieces s e.1 (partAt s p) e.2).foldl (fun s k =>
      (needLeft k.2.1 k.1 k.2.2.2).foldl (fun s r =>
        match (sourceList s e.1 k.2.1 k.2.2.2 (herePos s e.1 k.2.2.2))[tryOf k.1 k.2.2.1 r]? with
        | some x => (askSource s p e.1 e.2 k.2.1 k.2.2.1 k.2.2.2 x r).1
        | none => s) s) s

/-- The host copy of a piece arrives (R304): offsets as in the region; a read that fails takes the next source. -/
def hostCopyLands (s : State) (p pair piece off : Nat) (data : List Byte) (good : Bool) : State :=
  match (partAt s p).camp.bind (fun c => c.sw.map (fun sw => (c, sw))) with
  | none => s
  | some e =>
    match (herePieces s e.1 (partAt s p) e.2).find? (fun k => decide (k.1.pair = pair) && decide (k.2.2.1 = piece)) with
    | none => s
    | some k =>
      let y := k.1
      let pr := k.2.1
      let d := k.2.2.2
      let asked := (y.tries.filter (fun e => decide (e.piece = piece))).map (fun e => e.r)
      (asked.filter (fun r => !covered y.landed r && inBytes ⟨8 * off, 8 * data.length⟩ (firstByte r) (byteCount r) &&
          decide ((sourceList s e.1 pr d (herePos s e.1 d))[tryOf y piece r]? = some .host))).foldl (fun s r =>
        if good then
          sendRange s p e.1 e.2 pr d (herePos s e.1 d) (fromPos d (herePos s e.1 d)) r
            ((data.drop (firstByte r - off)).take (byteCount r))
        else refetch s p pair piece r) s

end Sys2Proof.Machine
end

