-- ==== Sys2Proof/Machine/Collectives.lean ====
section
/-! DEFINITION. Collectives (R311 to R313): shards, leaf slots, scatter, gather, the other kinds, and the landing of
their chunks. -/

namespace Sys2Proof.Machine

open Sys2Proof

/-- The turn descriptor that a partition runs. -/
def turnOf (x : Part) : Option TurnP := x.camp.bind (fun c => c.run.bind (fun r => c.p.turns[r.turn]?))

/-- First step of a turn (R214, R253); one-shot programs run step 0. -/
def firstStep (t : TurnP) : Nat := if t.kind = .learning then t.lt.step0 else 0

/-- Contribution buffers G of R312. -/
def gbufsOf (t : TurnP) : Nat := if t.kind = .learning then t.lt.gbufs + 1 else 1

/-- Ranks of a collective that this module holds. -/
def heldRanks (s : State) (c : Camp) (d : Coll) : List Nat :=
  (List.range d.members.length).filter (fun j => decide (memberAt c (d.members.getD j 65535) = s.fabric.member))

/-- Member that holds a rank. -/
def rankMember (c : Camp) (d : Coll) (j : Nat) : Nat := memberAt c (d.members.getD j 65535)

/-- Formats that a shape permits for gradients (R38, R116). -/
def gradFmts (n : NShape) : List Fmt := ((List.range 15).filter (fun f => bitOf n.gradfmt f)).filterMap Fmt.ofCode

/-- The widest permitted gradient format (R115, R116); F32 where none is named. Of two permitted formats of one width, S8e5 and S8e4
or S6e3 and S6e2, it is the one with the lower FMT code (DESIGN CHOICE, log entry 25: the manual does not say which is the
widest). -/
def widestFmt (n : NShape) : Fmt :=
  (gradFmts n).foldl (fun w f => if w.bits < f.bits then f else w) ((gradFmts n).headD .f32)

def anyScaled (n : NShape) : Bool := (gradFmts n).any Fmt.scalable

/-- May a member's partition be bound to a campaign that waits for digests? -/
def mayBind (s : State) (c : Camp) (m : Nat) : Bool :=
  boundWith s c m || (decide (c.phase = .rendezvous) && (campMembers c).contains m && (mapFind c.digests m).isNone)

/-- Does a chunk or message come from a member that is ahead, for a switch (`switch`) or a turn that has not begun here (R303, R312)? It
waits: a chunk of a collective of a learning turn's own steps does not. -/
def comesEarly (s : State) (p : Nat) (m : Nat) (switch : Bool) (step : Nat) : Bool :=
  match (partAt s p).camp with
  | none => false
  | some c => mayBind s c m && (match c.phase with
    | .rendezvous => true
    | .readBack => true
    | .switching => !switch
    | .turnEnd => decide (c.turnIx + 1 < c.p.turns.length) && (switch || (match turnOf (partAt s p) with
      | some t => decide (t.kind ≠ .learning) || decide (step < t.lt.step0) || decide (t.lt.step0 + t.lt.steps ≤ step)
      | none => true))
    | .turn => false
    | .closing => false)

/-- Shard size S and shard i of R312 item 1. -/
def shardSize (d : Coll) : Nat := cdiv d.elems (4096 * d.members.length) * 4096
def shardLen (d : Coll) (i : Nat) : Nat := min ((i + 1) * shardSize d) d.elems - i * shardSize d

/-- Element area and scale plane of n elements, sized for the widest format (R116). -/
def areaOf (n : NShape) (k : Nat) : Nat := packedBytes (widestFmt n) k
def slotBytes (n : NShape) (d : Coll) : Nat :=
  areaOf n (shardSize d) + (if anyScaled n then shardSize d / sblkLen n.block else 0)

/-- First leaf slot, after the leaf table (R312 item 4). -/
def leafBase (g : Nat) (d : Coll) : Nat := d.leaf + cdiv (64 + 8 * g * d.members.length) 4096 * 4096

def leafArea (n : NShape) (g : Nat) (d : Coll) : Nat := g * d.members.length * slotBytes n d

/-- Bytes of the result area that land (R312, R313). -/
def resultBytes (d : Coll) : Nat :=
  if d.kind = 0 then 4 * d.elems else if d.kind = 2 then d.members.length * d.bytes else d.bytes

/-- Bytes that must land on this module before a step's result is whole. -/
def expectBytes (s : State) (c : Camp) (d : Coll) : Nat :=
  if d.kind = 1 then (if (heldRanks s c d).contains 1 then d.bytes else 0)
  else if d.kind = 4 then d.bytes / d.members.length * d.members.length
  else resultBytes d

/-- Bytes of the result area with the token total beside it (R312 item 6), for the conflicts of R214. -/
def resultSpan (d : Coll) : Nat := if d.kind = 0 then cdiv (4 * d.elems) 64 * 64 + 8 else resultBytes d

/-- A transfer of which bytes cannot be sent: it takes its number and never lands (R312 item 2). -/
def lostXfer (s : State) : State :=
  s.withFabric { s.fabric with xfer := s.fabric.xfer + 1, lostX := setPut s.fabric.lostX s.fabric.xfer true }

def updRun (s : State) (p : Nat) (f : Run → Run) : State := updCamp s p (fun c => { c with run := c.run.map f })

def inResult (d : Coll) (off : Nat) : Bool := decide (d.result ≤ off) && decide (off < d.result + resultBytes d)

/-- Bytes of a step's result that have landed. -/
def landedBytes (r : Run) (d : Coll) (step : Nat) : Nat :=
  ((r.collLand.filter (fun l => decide (l.coll = d.id) && decide (l.step = step) && inResult d l.off)).map
    (fun l => l.len)).sum

/-- Has the collective's result for a step landed (R311)? -/
def resultDone (s : State) (c : Camp) (r : Run) (d : Coll) (step : Nat) : Bool :=
  decide (expectBytes s c d ≤ landedBytes r d step)

/-- Bytes of a collective land in its region, once. -/
def landBytes (s : State) (p : Nat) (d : Coll) (l : CollLand) (b : List Byte) : State :=
  if (((runOf (partAt s p)).map (fun r => r.collLand)).getD []).any (fun x => decide (x.coll = l.coll) &&
      decide (x.step = l.step) && decide (x.rank = l.rank) && decide (x.off = l.off)) then s
  else updRun (writeRegion s p d.region l.off b) p (fun r => { r with collLand := r.collLand ++ [l] })

/-- Give bytes of a collective to a rank: landed here, or sent in chunks. -/
def collGive (s : State) (p : Nat) (c : Camp) (d : Coll) (j k step fmt tokens off : Nat) (b : List Byte) : State :=
  let m := rankMember c d k
  if b = [] then s
  else if m = s.fabric.member then landBytes s p d ⟨d.id, step, j, off, b.length, fmt, tokens⟩ b
  else
    let s := ((cutChunks off b).foldl (fun (acc : State × Nat) e =>
      (sendChunk acc.1
        { xfer := s.fabric.xfer, index := acc.2, spos := d.members.getD j 0, dpos := d.members.getD k 0,
          part := Fin.ofNat 32 p, kind := 2, region := d.region, hops := 0, off := e.1, fmt := fmt, epoch := step,
          tokens := tokens, dmem := m, data := e.2 }, acc.2 + 1)) (s, 0)).1
    s.withFabric { s.fabric with xfer := s.fabric.xfer + 1 }

/-- Format of a contribution (R226): the choice of a selection record for the step. Which record serves a collective, and which
permitted format where the program has no record, the manual names in no field: it is free, and the same in every run (R12; log
entry 10). -/
def contribFmt (r : Run) (pr : Program) (d : Coll) (step : Nat) : Nat :=
  let k := Config.contribRec pr.meas d.id
  match pr.gsels[k % max 1 pr.gsels.length]? with
  | some g => ((r.gsel.find? (fun x => decide (x.step = step) && decide (x.ix = k % max 1 pr.gsels.length))).map
      (fun x => x.fmt)).getD g.init
  | none => ((gradFmts pr.shape)[k % max 1 (gradFmts pr.shape).length]?.getD .f32).code

/-- Token count of a contribution (R232): 32 bits. -/
def contribTokens (pr : Program) (d : Coll) (step rank : Nat) : Nat := Config.tokenCount pr.meas d.id step rank % 2 ^ 32

def regionBytes (s : State) (p reg off n : Nat) : List Byte :=
  match regionAt s p reg with
  | some g => readBytes s g.wpages off n
  | none => []

/-- A shard of a contribution goes to its rank (R312 item 2); one whose source cannot be read is lost. -/
def shardGive (s : State) (p : Nat) (c : Camp) (d : Coll) (j k step fmt tokens off n : Nat) (b : List Byte) : State :=
  if b = [] ∧ n ≠ 0 then lostXfer s else collGive s p c d j k step fmt tokens off b

/-- Bytes of a collective's source; of a range with a poisoned line nothing is sent (DESIGN CHOICE, log entry 34: R304 says so of a
layout pair's source, and no rule speaks of a collective's). -/
def collSource (s : State) (p reg off n : Nat) : List Byte :=
  match regionAt s p reg with
  | some g => if (firstPoison s g.wpages off n).isSome then [] else readBytes s g.wpages off n
  | none => []

/-- COLLECTIVE_SCATTER and the other kinds (R312 item 2, R313): what the trigger segment's commit sends. -/
def collTrigger (s : State) (p : Nat) (c : Camp) (r : Run) (t : TurnP) (pr : Program) (d : Coll) (step : Nat) : State :=
  let rr := d.members.length
  let n := pr.shape
  (heldRanks s c d).foldl (fun s j =>
    if d.kind = 0 then
      let g := gbufsOf t
      let f := contribFmt r pr d step
      let fm := fmtOf f
      let tok := contribTokens pr d step j
      let buf := d.cbuf + step % g * d.bytes
      (List.range rr).foldl (fun s i =>
        let k := shardLen d i
        let slot := leafBase g d + (step % g * rr + j) * slotBytes n d
        let eb := collSource s p d.region (buf + packedBytes fm (i * shardSize d)) (packedBytes fm k)
        let s := shardGive s p c d j i step f tok slot k eb
        if fm.scalable then
          let blk := sblkLen n.block
          let sb := collSource s p d.region (buf + areaOf n d.elems + i * shardSize d / blk) (cdiv k blk)
          shardGive s p c d j i step f tok (slot + areaOf n (shardSize d)) k sb
        else s) s
    else
      let all := List.range rr
      let buf (off k : Nat) : List Byte := collSource s p d.region (d.cbuf + off) k
      if d.kind = 1 then (if j = 0 then collGive s p c d 0 1 step 0 0 d.result (buf 0 d.bytes) else s)
      else if d.kind = 2 then
        all.foldl (fun s k => collGive s p c d j k step 0 0 (d.result + j * d.bytes) (buf 0 d.bytes)) s
      else if d.kind = 3 then
        (if j = 0 then all.foldl (fun s k => collGive s p c d 0 k step 0 0 d.result (buf 0 d.bytes)) s else s)
      else
        let q := d.bytes / rr
        all.foldl (fun s k => collGive s p c d j k step 0 0 (d.result + j * q) (buf (k * q) q)) s) s

/-- Token total of a step's close list. -/
def closeOf (r : Run) (coll step : Nat) : Option CloseP :=
  r.closes.find? (fun x => decide (x.step = step) && decide (x.coll = coll))

/-- COLLECTIVE_GATHER (R312 item 6): result shards to every member, and the token total beside the sum. -/
def collGather (s : State) (p : Nat) (c : Camp) (r : Run) (d : Coll) (step : Nat) : State :=
  let s := (heldRanks s c d).foldl (fun s i =>
    let off := d.result + 4 * i * shardSize d
    let b := collSource s p d.region off (4 * shardLen d i)
    (List.range d.members.length).foldl (fun s k => collGive s p c d i k step 0 0 off b) s) s
  writeRegion s p d.region (d.result + cdiv (4 * d.elems) 64 * 64)
    (leBytes 8 (((closeOf r d.id step).map (fun x => x.tokens)).getD 0))

/-- Where a collective's chunk from rank j for a step must lie: the place in its leaf or result area. -/
def collPlaceOk (n : NShape) (g : Nat) (d : Coll) (j step off len : Nat) : Bool :=
  let rr := d.members.length
  let slot := leafBase g d + (step % g * rr + j) * slotBytes n d
  if d.kind = 0 then
    within off len slot (slotBytes n d) || within off len (d.result + 4 * j * shardSize d) (4 * shardLen d j)
  else if d.kind = 1 then decide (j = 0) && within off len d.result d.bytes
  else if d.kind = 2 then within off len (d.result + j * d.bytes) d.bytes
  else if d.kind = 3 then decide (j = 0) && within off len d.result d.bytes
  else within off len (d.result + j * (d.bytes / rr)) (d.bytes / rr)

/-- The collective whose areas hold a region offset. -/
def collAtOff (pr : Program) (g reg off : Nat) : Option Coll :=
  pr.colls.find? (fun d => decide (d.region = reg) && (inResult d off ||
    (decide (d.kind = 0) && decide (leafBase g d ≤ off) && decide (off < leafBase g d + leafArea pr.shape g d))))

/-- Leaf table (R312 item 4). -/
def leafTable (g : Nat) (d : Coll) (x : CloseP) : List Byte :=
  leBytes 64 (packFields [⟨0, 32, x.step⟩, ⟨32, 16, x.leaves.length⟩, ⟨64, 32, x.tokens⟩]) ++
    (x.leaves.map (fun l => leBytes 8 (packFields [⟨0, 16, l.step % g * d.members.length + l.rank⟩, ⟨16, 12, l.rank⟩,
      ⟨32, 32, l.step⟩]))).flatten

end Sys2Proof.Machine
end

