-- ==== Sys2Proof/Machine/Governor.lean ====
section
/-! DEFINITION. The governor (R363, R364, R367 to R372): readiness (R33, R214, R253, R311), costs and limits,
segment start (R48, R113 to R115, R180, R215), and the choice of R372. -/

namespace Sys2Proof.Machine

open Sys2Proof

/-! ### Gears (R363) -/

def gearEF : List Nat := [551, 655, 746, 842, 944, 1024, 1165, 1346]
def gearIF : List Nat := [111, 364, 518, 688, 874, 1024, 1173, 1348]

/-- Physical groups of a segment. -/
def segGroups (x : Part) (d : SegD) : List Nat :=
  ((List.range x.groups.length).filter (fun k => bitOf d.groups k)).filterMap (fun k => x.groups[k]?)

/-- Distaff's cap on a segment's groups. -/
def segCap (s : State) (p : Nat) (d : SegD) : Nat :=
  (segGroups (partAt s p) d).foldl (fun a g => min a (groupCap s.power g)) 7

/-- Distaff's cap on the segment that a tile runs: the lowest of its groups, so that all its tiles run at one gear (R364, R376). -/
def tileCap (s : State) (tile seg : Nat) : Nat :=
  let p := (groupAt s (tile / 8)).part
  match (progOf (partAt s p)).bind (fun pr => segDesc pr seg) with
  | some d => min (groupCap s.power (tile / 8)) (segCap s p d)
  | none => groupCap s.power (tile / 8)

/-- The gear that a tile's segment holds: it falls with a cap, and no cap that rises raises it again (R364). -/
def heldGear (s : State) (tile : Nat) (r : SegRun) : Nat := min r.gear (tileCap s tile r.seg)

/-- Gear at which a tile runs: the one that its segment holds, or G1 under a brake; G0 without a segment (R364, R373). -/
def runGear (s : State) (tile : Nat) (t : Tile) : Nat :=
  match t.seg with
  | some r => if braked s.power then 1 else heldGear s tile r
  | none => 0

/-- A tile takes the gear that its segment, the caps and the brakes give. -/
def regearTile (s : State) (tile : Nat) (t : Tile) : Tile :=
  { t with gear := runGear s tile t,
           seg := t.seg.map (fun r => { r with gear := heldGear s tile r, t0 := s.time.now, work := workDone s.time.now t.gear r }) }

/-- The cycles that a tile has run at its gear go to its counter (R385). -/
def countGear (s : State) (m : Map Word64) (e : Nat × Tile) : Map Word64 :=
  match e.2.seg, tileRel s e.1 with
  | some r, some x =>
    let k := ctrKey x.1 1 x.2 (cGear e.2.gear)
    mapSet 0 m k (mapGet 0 m k + BitVec.ofNat 64 (tileWork s e.2 / 10 - r.work / 10))
  | _, _ => m

def countGears (s : State) : State := s.withCtrs (s.tiles.foldl (countGear s) s.ctrs)

/-- GEAR_CHANGE (R364) on every tile. -/
def regear (s : State) : State :=
  (countGears s).withTiles (s.tiles.map (fun e => (e.1, regearTile s e.1 e.2)))

/-- The gears of the running segments fall with the caps (R364). -/
def lowerLive (s : State) : State :=
  s.withParts (s.parts.zipIdx.map (fun e => match progOf e.1, e.1.camp with
    | some pr, some c => { e.1 with camp := some { c with run := c.run.map (fun r => { r with live := r.live.map (fun l =>
        { l with gear := min l.gear (((segDesc pr l.seg).map (segCap s e.2)).getD 7) }) }) } }
    | _, _ => e.1))

/-- B of R369, in units of 1/1,024 µJ. -/
def budgetOf (x : Part) : Int := (x.watts * 1000 * 1024 : Nat)

/-- cost(x, g) of R369, in the same unit. -/
def costOf (d : SegD) (g : Nat) : Nat := d.energy * gearEF.getD g 1024

/-- Share of the peak current of R371, in units of 1/1,048,576. -/
def currentOf (d : SegD) (g : Nat) : Nat := (d.peak + 1) * 128 * gearIF.getD g 1024

/-- Peak current of every running segment. -/
def runningCurrent (s : State) : Nat :=
  ((List.range 32).map (fun p =>
    match runOf (partAt s p), progOf (partAt s p) with
    | some r, some pr => (r.live.map (fun l => match segDesc pr l.seg with
        | some d => currentOf d l.gear
        | none => 0)).sum
    | _, _ => 0)).sum

def currentFits (s : State) (d : SegD) (g : Nat) : Bool := decide (runningCurrent s + currentOf d g ≤ 1024 * 1024)

/-- T_grp of a physical group in 1/16 °C: its pair's fast filtered value (R370, R375). -/
def groupTemp (s : State) (g : Nat) : Rat := (s.power.sensors.getD g Sensor.reset).fast

/-- The heat limit of R370. -/
def heatFits (s : State) (p : Nat) (d : SegD) (g : Nat) : Bool :=
  let gs := segGroups (partAt s p) d
  gs.all (fun k => decide (groupTemp s k / 16 +
    (s.power.kgrp.getD k 20 : Rat) / 1000 * ((costOf d g : Rat) / 1024000) / (gs.length : Rat) ≤ 95))

/-! ### Readiness -/

/-- Extents of a segment, with the areas that its collectives write (R34, R311): region, write, offset, length. -/
def segExts (pr : Program) (g : Nat) (id : Nat) : List Ext :=
  pr.sec.extents.filter (fun e => decide (e.seg = id)) ++
    (pr.colls.map (fun d =>
      (if d.trigseg = id ∧ d.kind = 0 then
        [(⟨id, d.region, true, d.leaf, leafBase g d + leafArea pr.shape g d - d.leaf⟩ : Ext)] else []) ++
      (if (if d.kind = 0 then d.sumseg else d.trigseg) = id then
        [(⟨id, d.region, true, d.result, resultSpan d⟩ : Ext)] else []))).flatten

/-- Do two segments conflict in the sense of R34? -/
def conflict (pr : Program) (g x y : Nat) : Bool :=
  (segExts pr g x).any (fun a => (segExts pr g y).any (fun b =>
    decide (a.region = b.region) && (a.write || b.write) && overlap a.off a.len b.off b.len)) ||
  (pr.sec.windows.filter (fun w => decide (w.seg = x))).any (fun a =>
    (pr.sec.windows.filter (fun w => decide (w.seg = y))).any (fun b =>
      decide (a.tile = b.tile) && (a.write || b.write) && overlap a.base a.size b.base b.size))

def doneAt (r : Run) (seg step : Nat) : Bool := r.done.any (fun x => decide (x.seg = seg) && decide (x.step = step))

/-- The next step of a segment: its instances commit in step order (R214). -/
def nextInst (r : Run) (t : TurnP) (seg : Nat) : Nat := firstStep t + (r.done.filter (fun x => decide (x.seg = seg))).length

/-- The first step of a turn that no member had started when the stop reached it, as far as the members' words tell (R355). -/
def stopBoundAt (c : Camp) (turn : Nat) : Nat := c.stops.foldl (fun m e => if e.2.1 = turn then max m e.2.2 else m) 0

def stopBound (c : Camp) : Nat := stopBoundAt c c.turnIx

/-- Is a step of the turn open for issue on this module (R214, R216, R253, R355)? -/
def stepOpen (c : Camp) (r : Run) (t : TurnP) (step : Nat) : Bool :=
  match t.kind with
  | .learning => decide (step ≤ r.lastStep) && (!c.stop || decide (step < stopBound c))
  | .rollout => decide (step < r.nextStep)
  | .reward => decide (step = 0) && !c.stop
  | .checkpoint => false

/-- Is the settle domain's rule on contribution buffers met (R233)? -/
def bufOk (r : Run) (t : TurnP) (step : Nat) : Bool :=
  !(decide (t.kind = .learning) && decide (t.lt.readyseg ≠ 0xFFFF)) ||
    decide (step < t.lt.step0 + t.lt.gbufs + 1) ||
    (closeOf r t.lt.coll (step - t.lt.gbufs - 1 + t.lt.smax)).isSome

/-- Is a segment instance ready (R33, R214, R253, R311, R312)? -/
def segReady (s : State) (c : Camp) (r : Run) (t : TurnP) (pr : Program) (d : SegD) (step : Nat) : Bool :=
  let g := gbufsOf t
  stepOpen c r t step && bufOk r t step &&
    pr.segs.all (fun y => !y.succ.contains d.id || doneAt r y.id step) &&
    (decide (step = firstStep t) || pr.segs.all (fun y =>
      !(decide (y.id = d.id) || conflict pr g y.id d.id) || doneAt r y.id (step - 1))) &&
    pr.colls.all (fun k => (decide (k.nextseg ≠ d.id) || resultDone s c r k step) &&
      (decide (k.kind ≠ 0) || decide (k.sumseg ≠ d.id) || (closeOf r k.id step).isSome))

/-- A ready segment instance. -/
structure Cand1 where
  part : Nat
  d : SegD
  step : Nat
  deriving DecidableEq, Repr

/-- Ready instances of a partition that have not started. -/
def readySegs (s : State) (p : Nat) : List Cand1 :=
  let x := partAt s p
  match x.camp, turnOf x, progOf x with
  | some c, some t, some pr =>
    (match c.run with
    | none => []
    | some r =>
      if !issues s p || r.ended2 || decide (c.phase ≠ .turn) then []
      else (pr.segs.map (fun d => (⟨p, d, nextInst r t d.id⟩ : Cand1))).filter (fun k =>
        !r.live.any (fun l => decide (l.seg = k.d.id)) && segReady s c r t pr k.d k.step))
  | _, _, _ => []

/-- Are all tile groups of a segment idle? -/
def groupsIdle (s : State) (p : Nat) (d : SegD) : Bool :=
  (List.range (nTiles s p)).all (fun k => !segHasTile d k || (tileAt s p k).seg.isNone)

/-- Does an instance count as urgent (R372)? Durations are kept in ns × 100 MHz. -/
def urgent (s : State) (k : Cand1) : Bool :=
  match runOf (partAt s k.part) with
  | none => false
  | some r => decide (k.d.deadline ≠ 0) &&
      decide (27 * ((r.tstart.toNat + k.d.deadline * 1000 : Nat) : Int) - 27 * (s.time.now.toNat : Int) <
        2 * ((mapGet 0 (partAt s k.part).lastDur (65536 * r.slot + k.d.id) : Nat) : Int))

/-- Order of R372's candidates. -/
def candKey (s : State) (k : Cand1) : List Nat :=
  [b2n (!urgent s k), b2n k.d.filler, if k.d.deadline = 0 then 2 ^ 32 else k.d.deadline, k.part, k.d.id]

/-- Lexicographic order of keys. -/
def keyLt : List Nat → List Nat → Bool
  | a :: r, b :: q => decide (a < b) || (decide (a = b) && keyLt r q)
  | [], _ :: _ => true
  | _, [] => false

/-! ### Statistics and gradient formats (R113, R115) -/

/-- The statistics record of a selection record for a step. -/
def gsOff (g : GSel) (step : Nat) : Nat := 64 * g.off + 64 * (step % 3)

def gsRead (s : State) (p : Nat) (g : GSel) (step : Nat) : Nat := leNat (regionBytes s p g.region (gsOff g step) 64)

/-- STAT_RECORD_OPEN (R113): the record is zero, with its step and GS.VALID. -/
def statOpen (s : State) (p : Nat) (g : GSel) (step : Nat) : State :=
  writeRegion s p g.region (gsOff g step) (leBytes 64 (packFields [⟨32, 32, step % 2 ^ 32⟩, ⟨352, 1, 1⟩]))

/-- Tests of R115 in order, by format. -/
def gradTest (v l : Nat) (f : Fmt) : Bool :=
  match f with
  | .s4 => decide (fld v 96 32 ≤ l)
  | .s6e2 => decide (fld v 128 32 ≤ l)
  | .s6e3 => decide (fld v 160 32 ≤ l)
  | .s8e4 => decide (fld v 192 32 ≤ l)
  | .s8e5 => decide (fld v 224 32 ≤ l)
  | .f16 => decide (fld v 256 32 ≤ l) && !fvalLt false (decodeCode .f32 0x477FE000) (decodeCode .f32 (fld v 0 32))
  | .b16 => true
  | .f32 => true
  | _ => false

/-- GRADIENT_FORMAT_CHOICE (R115): the FMT code of a selection record for a step. -/
def gradChoice (s : State) (p : Nat) (n : NShape) (g : GSel) (step : Nat) : Nat :=
  if step < 2 then g.init
  else
    let v := gsRead s p g (step - 2)
    if !bitOf v 352 || decide (fld v 32 32 ≠ (step - 2) % 2 ^ 32) then g.init
    else
      let l := fld v 64 32 * g.thresh / 2 ^ 32
      match ([.s4, .s6e2, .s6e3, .s8e4, .s8e5, .f16, .b16, .f32] : List Fmt).find? (fun f =>
          bitOf n.gradfmt f.code && gradTest v l f) with
      | some f => f.code
      | none => (widestFmt n).code

/-- The choice of a selection record for a step: as it was made, or as it is made now (R115). -/
def fmtChoice (s : State) (p : Nat) (r : Run) (pr : Program) (step : Nat) (e : GSel × Nat) : Nat :=
  ((r.gsel.find? (fun g => decide (g.step = step) && decide (g.ix = e.2))).map (fun g => g.fmt)).getD
    (gradChoice s p pr.shape e.1 step)

/-- Format choices of a step, one for each selection record in record order (R115, R236). -/
def stepFmts (s : State) (p : Nat) (r : Run) (pr : Program) (step : Nat) : List Nat :=
  pr.gsels.zipIdx.map (fmtChoice s p r pr step)

/-- Choices once made are kept: the format that a step's record lists for a segment that has not started is the one that it then takes
(DESIGN CHOICE, log entry 34: R115 chooses before the segment's first word). -/
def keepFmts (s : State) (p : Nat) (pr : Program) (step : Nat) (es : List (GSel × Nat)) : State :=
  updRun s p (fun r => { r with
    gsel := r.gsel.filter (fun g => !(decide (g.step = step) && es.any (fun e => decide (e.2 = g.ix)))) ++
      es.map (fun e => ⟨step, e.2, fmtChoice s p r pr step e⟩) })

/-- STAT_MERGE (R113): one tile's partial record goes into the step's record. -/
def statMerge (s : State) (p : Nat) (g : GSel) (x : StatAdd) : State :=
  let v := gsRead s p g x.step
  let am := fld v 0 32
  let sat (lo : Nat) (k : Nat) : Nat := min (fld v lo 32 + k) (2 ^ 32 - 1)
  let amax := if fvalLt false (decodeCode .f32 am) (f32v x.amax) then x.amax.toNat else am
  let ds := ((List.range 6).map (fun k => (⟨96 + 32 * k, 32, sat (96 + 32 * k) (x.d.getD k 0)⟩ : FieldVal)))
  writeRegion s p g.region (gsOff g x.step) (leBytes 64 (packFields ([⟨0, 32, amax⟩, ⟨32, 32, fld v 32 32⟩,
    ⟨64, 32, sat 64 x.nonzero⟩] ++ ds ++ [⟨288, 32, sat 288 x.sat⟩, ⟨320, 32, sat 320 x.nan⟩, ⟨352, 1, fld v 352 1⟩])))

/-! ### Segment start -/

/-- A tile at the start of a segment (R48, R138, R139, R150, R180, R215): run states, EWF and the chain count cleared, element values
open, the whorl table rewritten where it held an error, the list at its first word. -/
def startTile (t : Tile) (gen : Nat) (r : SegRun) (words : List Word64) (regs : List (Nat × Nat)) : Tile :=
  let rs := (List.range 16).foldl (fun m k =>
    mapSet TReg.reset m k { TReg.reset with gen := gen, pois := (mapGet TReg.reset t.tregs k).pois,
                                            nextk := (mapGet TReg.reset t.tregs k).nextk,
                                            flags := (mapGet TReg.reset t.tregs k).flags,
                                            rowb := (mapGet TReg.reset t.tregs k).rowb,
                                            colb := (mapGet TReg.reset t.tregs k).colb,
                                            stream := (mapGet TReg.reset t.tregs k).stream,
                                            obad := (mapGet TReg.reset t.tregs k).obad }) t.tregs
  let t := { t with
    tregs := rs, seg := some r, words := words, pc := 0, loops := [], q1 := [], q2 := [], q3 := [], closed := [],
    ended := [], blocked := [], held := none, mxPend := none, chain := none, chPend := none, stats := [], marks := [],
    ewf := 0, chains := 0, whorlBad := [] }
  regs.foldl (fun t e => setSreg t e.1 (BitVec.ofNat 64 e.2)) t

/-- Registers set before an instance issues (R215, R253). -/
def stepRegs (t : TurnP) (step : Nat) : List (Nat × Nat) :=
  match t.kind with
  | .learning => [(t.lt.sreg, step), (t.lt.creg, min step t.lt.clamp)]
  | .rollout => [(t.rp.sreg, step)]
  | _ => []

/-- SEGMENT_START (R33, R364, R369): the instance starts on its tiles at a gear. -/
def startSeg (s : State) (k : Cand1) (g : Nat) : State :=
  let p := k.part
  match turnOf (partAt s p), progOf (partAt s p) with
  | some t, some pr =>
    let r0 := runOf (partAt s p)
    let fresh := !((r0.map (fun r => r.statOpen.contains k.step)).getD true)
    let s := if fresh then
        updRun (pr.gsels.foldl (fun s e => statOpen s p e k.step) s) p (fun r => { r with statOpen := k.step :: r.statOpen })
      else s
    let gs := pr.gsels.zipIdx.filter (fun e => decide (e.1.seg = k.d.id))
    let ch := gs.map (fun e => (e.1.sreg, ((runOf (partAt s p)).map (fun r => fmtChoice s p r pr k.step e)).getD 0))
    let live : SegRun := ⟨k.d.id, k.step, g, s.time.now, 0⟩
    let s := updRun (keepFmts s p pr k.step gs) p (fun r => { r with live := r.live ++ [live] })
    let s := updPart s p (fun x => { x with bal := x.bal - (costOf k.d g : Int) })
    let s := addCtr s (ctrKey 0 2 p cSegs) 1
    let s := if k.d.filler then addCtr s (ctrKey 0 2 p cFillers) 1 else s
    let s := addCtr s (ctrKey 0 2 p cEnergy) (costOf k.d g / 1024)
    let tiles := (List.range (nTiles s p)).filter (segHasTile k.d)
    let regs := stepRegs t k.step ++ ch
    let gen := s.free + 1
    let s := s.withFree (s.free + 1)
    let s := tiles.foldl (fun s n => updTile s p n (fun u =>
      startTile u gen live (((pr.sec.lists.find? (fun l => decide (l.seg = k.d.id) && decide (l.tile = n))).map
        (fun l => l.words)).getD []) regs)) s
    let s := calTrigger s p pr 1 k.d.id
    let s := tiles.foldl (fun s n =>
      let a : TileAt := ⟨Fin.ofNat 32 p, Fin.ofNat 192 n⟩
      let s := armSegment s a pr k.d.id
      if (partAt s p).fault.isNone then seqPass s a else s) s
    regear s
  | _, _ => s

/-- Gears from a start downward. -/
def gearsDown (top lo : Nat) : List Nat := ((List.range (top + 1)).filter (fun g => decide (lo ≤ g))).reverse

/-- Lowest and highest gear of SEG.GEARS. -/
def gearLow (d : SegD) : Nat := ((List.range 8).find? (fun g => bitOf d.gears g)).getD 0
def gearHigh (d : SegD) : Nat := ((List.range 8).reverse.find? (fun g => bitOf d.gears g)).getD 0

/-- One pass of R372's loop. -/
def tryStart (s : State) (k : Cand1) : State :=
  let x := partAt s k.part
  let blocked := k.d.filler && (readySegs s k.part).any (fun y =>
    !y.d.filler && decide (y.d.groups &&& k.d.groups ≠ 0))
  if !groupsIdle s k.part k.d || blocked || !issues s k.part then s
  else
    let top := min (min (gearHigh k.d) x.gearMax) (segCap s k.part k.d)
    let lo := gearLow k.d
    let fits (g : Nat) : Bool := currentFits s k.d g && heatFits s k.part k.d g
    let pay (g : Nat) : Bool := urgent s k || decide ((costOf k.d g : Int) ≤ x.bal) || decide (x.bal = budgetOf x)
    match (gearsDown top lo).find? (fun g => fits g && pay g) with
    | some g => startSeg s k g
    | none =>
      if top < lo then (if currentFits s k.d top then startSeg s k top else s)
      else if (gearsDown top lo).any fits then addCtr s (ctrKey 0 2 k.part cEmpty) 1 else s

/-- Calendar entries with trigger 0: an instance has become ready (R200, R201). -/
def readyTriggers (s : State) : State :=
  ((List.range 32).map (readySegs s)).flatten.foldl (fun s k =>
    let key := k.step * 65536 + k.d.id
    match runOf (partAt s k.part), progOf (partAt s k.part) with
    | some r, some pr =>
      if r.trig.contains key then s
      else calTrigger (updRun s k.part (fun r => { r with trig := key :: r.trig })) k.part pr 0 k.d.id
    | _, _ => s) s

/-- GOVERNOR_SCHEDULE (R372). -/
def schedule (s : State) : State :=
  let s := readyTriggers s
  let cands := (((List.range 32).map (readySegs s)).flatten).filter (fun k => groupsIdle s k.part k.d)
  (sortBy (fun a b => keyLt (candKey s a) (candKey s b)) cands).foldl tryStart s

/-- ENERGY_WINDOW_START (R369, R372). -/
def execEnergyWindowStart (t : Word64) (s : State) : Out :=
  ok (if t.toNat % 1000000 = 0 ∧ s.time.windows < t.toNat / 1000000 then
      atTime s t (fun s =>
        let s := s.withTime { s.time with windows := t.toNat / 1000000 }
        let s := s.withParts (s.parts.map (fun x => { x with bal := min (x.bal + budgetOf x) (budgetOf x) }))
        schedule s)
    else s)

end Sys2Proof.Machine
end

