-- ==== Sys2Proof/Machine/Turns.lean ====
section
/-! DEFINITION. Campaigns and turns (R7 to R11, R352 to R356): publication (R192, R194), switches (R305, R310), turn
start and end (R8, R354), stops (R355), and the commit of segments (R36). -/

namespace Sys2Proof.Machine

open Sys2Proof

/-! ### Publications (R187, R192, R194, R196, R199) -/

/-- Unused pages from a start upward, around the end. -/
def pickPages (used : List Nat) : Nat → Nat → Nat → List Nat
  | 0, _, _ => []
  | _ + 1, 0, _ => []
  | f + 1, n + 1, a =>
    if used.contains (a % t2Pages) then pickPages used f (n + 1) (a + 1)
    else (a % t2Pages) :: pickPages used f n (a + 1)

/-- n unused pages; which they are is a free value (log entry 10). -/
def freshPages (s : State) (n : Nat) : List Nat :=
  let used := usedPages s
  pickPages used (n + used.length) n (if n = 0 then 0 else Config.freeNat s.free)

def heatCap : Nat := 2097152

def trackedAll (s : State) : Nat :=
  (s.parts.map (fun x => (x.regions.map (fun e =>
    ((e.2.cur.map (fun b => b.tracked)).getD 0) + ((e.2.next.map (fun b => b.tracked)).getD 0))).sum)).sum

/-- Open a staging publication (R192, R196); pages taken into use are zeroed (R346). -/
def stagePub (s : State) (p r epoch : Nat) (haddr : Word64) (pages : List Nat) : State :=
  match regionAt s p r with
  | none => s
  | some g =>
    let n := if g.p.never then 0 else min g.p.pages (heatCap - trackedAll s)
    let s := setRegion (zeroPages s pages) p r { g with next := some ⟨epoch, pages, haddr, [], n⟩ }
    if g.p.never then s else addCtr s (ctrKey 0 4 0 cUntracked) (g.p.pages - n)

/-- Drop a staging publication; its storage returns to the quota (R192). -/
def abandonPub (s : State) (p r : Nat) : State :=
  match regionAt s p r with
  | none => s
  | some g =>
    let s := zeroPages s ((g.next.map (fun b => b.pages)).getD [])
    setRegion s p r { g with next := none }

/-- Fill a page of STORE_PIN into T1 on its die, or have it wait for a frame (R194 step 5, R199). -/
def pinPage (s : State) (k : PageKey) : State :=
  let x := takeFrame s k (k.page % 2) none true []
  if x.2 then x.1 else x.1.withT1 { x.1.t1 with pins := x.1.t1.pins ++ [(k, k.page % 2)] }

/-- Does a fetch in flight still read a publication of a region (R194 step 3)? -/
def pubRead (s : State) (p r : Nat) (b : Pub) : Bool :=
  (List.range (nTiles s p)).any (fun t => tileFetches (tileAt s p t) r b.epoch)

/-- Publish one region (R194 steps 2 to 5, R199). The pages of the replaced publication stay in use while fetches issued against it
are on their way. -/
def publishRegion (s : State) (p r : Nat) : State :=
  match regionAt s p r with
  | none => s
  | some g => match g.next with
    | none => s
    | some n =>
      let old := (g.cur.map (fun b => b.heat)).getD []
      let s := setRegion s p r { g with
        cur := some { n with heat := old.filter (fun e => decide (e.1 < n.tracked)) }, next := none,
        old := (g.cur.toList ++ g.old).filter (pubRead s p r) }
      let s := match g.cur with
        | some b => releaseEpoch s p r b.epoch
        | none => s
      if g.p.pin then (List.range g.p.pages).foldl (fun s k => pinPage s ⟨p, r, n.epoch, k⟩) s else s

/-- Every pinned page that has no frame is filled again, once T1 has been lost (R199). -/
def repin (s : State) : State :=
  (List.range 32).foldl (fun s p => (partAt s p).regions.foldl (fun s e =>
    match e.2.cur with
    | some b => if e.2.p.pin then (List.range e.2.p.pages).foldl (fun s k => pinPage s ⟨p, e.1, b.epoch, k⟩) s else s
    | none => s) s) s

/-! ### The end of a campaign -/

/-- A command of a partition by its parameters. -/
def cmdOf (p : Nat) (c : HostCmd → Bool) (r : JRec) : Bool := decide (recPart r = p) && c r.entry.cmd

def isStop : HostCmd → Bool
  | .partStop => true
  | _ => false
def isDestroy : HostCmd → Bool
  | .partDestroy => true
  | _ => false
def isStart : HostCmd → Bool
  | .partStart => true
  | _ => false
def isCampStop : HostCmd → Bool
  | .campaignStop => true
  | _ => false

/-- Does a started command of a partition satisfy a test? -/
def runsCmd (s : State) (p : Nat) (c : HostCmd → Bool) : Bool :=
  s.journal.any (fun r => decide (r.st = .started) && cmdOf p c r)

/-- A running partition that is to stop is STOPPING (R340); its campaign goes on to its next boundary (R343 step 1). -/
def beginStop (s : State) (p : Nat) : State :=
  let x := partAt s p
  if x.st = .running ∧ (runsCmd s p isStop ∨ runsCmd s p isDestroy) then setPState s p .stopping else s

/-- Open entries of a rollout turn that has stopped keep their committed state and belong to the next one (R243, R355). -/
def detachReq (r : Req) : Req := if reqOpen r then { r with turn := none } else r

/-- A campaign's command completes on this member; commands that wait for it go on (R355). Where a turn record could not be written
it completes with HOST_WRITE in place of SUCCESS or STOPPED (R337; DESIGN CHOICE, log entry 26). -/
def closeCampaign (s : State) (p status : Nat) (detail : Option Nat) : State :=
  match (partAt s p).camp with
  | none => s
  | some c =>
    let status := if c.badRec ∧ (status = 0 ∨ status = 0x0201) then 0x0203 else status
    let s := match detail with
      | some d => commitCmd s c.q status d
      | none => endCmd s c.q status
    let s := updPart s p (fun x => { x with camp := none, reqs := x.reqs.map (fun e => (e.1, detachReq e.2)) })
    let s := commitWhere s (cmdOf p isCampStop) 0 none
    beginStop s p

/-- A campaign ends on this member: its command completes once its turn records are in host memory. What a switch has staged and not
published stays staged where a fault other than SHARD_LOST cuts it off, and where a reset, a lost host or lost memory does: the host
abandons it or publishes it (DESIGN CHOICE, log entry 35: R10, R192 and R305 say nothing of it). -/
def endCampaign (s : State) (p status : Nat) (detail : Option Nat) : State :=
  match (partAt s p).camp with
  | none => s
  | some c =>
    if c.fin.isSome then s
    else if c.due = [] then closeCampaign s p status detail
    else updCamp s p (fun c => { c with phase := .closing, fin := some (status, detail), sw := none, run := none })

/-! ### Turn records (R354) -/

/-- Steps of a turn that have committed whole. -/
def stepsDone (r : Run) (pr : Program) : Nat :=
  pr.segs.foldl (fun m d => min m (r.done.filter (fun x => decide (x.seg = d.id))).length) r.done.length

/-- TR.STEPLAST: the last step committed, the step before the first where there is none, modulo 2^32 (log entry 26). -/
def stepLast (x : Part) (r : Run) (t : TurnP) : Nat :=
  (firstStep t + ((mapFind x.progs r.slot).map (stepsDone r)).getD 0 + (2 ^ 32 - 1)) % 2 ^ 32

/-- One slot of a turn record. -/
def turnSlot (c : Camp) (r : Run) (last status : Nat) (t : Word64) (step0 k n : Nat) : List Byte :=
  let l := (r.ended.drop (112 * k)).take 112
  leBytes 64 (packFields [⟨0, 16, r.turn⟩, ⟨16, 2, match r.kind with
      | .rollout => 0 | .reward => 1 | .learning => 2 | .checkpoint => 3⟩, ⟨18, 1, b2n (decide (k + 1 < n))⟩,
    ⟨24, 8, mapGet 0 c.rerun r.turn⟩, ⟨32, 16, status⟩, ⟨48, 16, k⟩, ⟨64, 32, step0⟩, ⟨96, 32, last⟩, ⟨128, 32, c.epoch⟩,
    ⟨160, 32, r.ended.length⟩, ⟨192, 64, r.tstart.toNat⟩, ⟨256, 64, t.toNat⟩, ⟨320, 16, l.length⟩]) ++
    (l.map (fun e => leBytes 4 e)).flatten ++ List.replicate (448 - 4 * l.length) 0#8

/-- A turn's record goes to the host, and its source-5 event follows (R354). -/
def turnRecord (s : State) (p status : Nat) : State :=
  let x := partAt s p
  match x.camp, turnOf x with
  | some c, some t => (match c.run with
    | none => s
    | some r =>
      let n := max 1 (cdiv r.ended.length 112)
      let slots : List RecDue := (List.range n).map (fun k =>
        ⟨c.p.recaddr.toNat + 512 * ((c.recs + k) % c.p.recslots),
          turnSlot c r (stepLast x r t) status s.time.now (firstStep t) k n,
          if k + 1 = n then some (packFields [⟨0, 32, c.p.id⟩, ⟨32, 16, r.turn⟩, ⟨48, 16, status⟩]) else none⟩)
      updCamp s p (fun c => { c with recs := c.recs + n, due := c.due ++ slots }))
  | _, _ => s

/-- The oldest slot of a turn record that waits has been written to the host, or could not be (R337, R354). -/
def recordLands (s : State) (p : Nat) (good : Bool) : State :=
  match (partAt s p).camp with
  | none => s
  | some c => match c.due with
    | [] => s
    | x :: l =>
      let s := updCamp s p (fun c => { c with due := l, badRec := c.badRec || !good })
      let s := if good then hostWrite s (hostSpace p c.p.pasid.toNat) x.addr x.bytes else s
      let s := match x.event with
        | some e => postEvent s 5 p e
        | none => s
      match l, c.fin with
      | [], some f => closeCampaign s p f.1 f.2
      | _, _ => s

/-! ### Turn start and switch -/

def freshRun (c : Camp) (k : Nat) (t : TurnP) (now : Word64) : Run :=
  { turn := k, kind := t.kind, slot := t.prog, tstart := now, done := [], live := [], trig := [],
    admOpen := decide (t.kind = .rollout) && !(decide (t.rp.close = 0) && decide (t.rp.nprompt = 0)) && !c.stop,
    nextStep := 0, steps := [], listNext := 0, ended := [], arrivals := [], closes := [], recs := 0, collLand := [],
    gsel := [], statOpen := [], lastStep := t.lt.step0 + t.lt.steps - 1, owed := [], phases := [], log := [], left := [],
    ckptLeft := List.range t.ckpts.length, ended2 := false }

/-- Pages that a checkpoint entry reads: a region's content or its current publication (R352). -/
def ckptPoison (s : State) (p : Nat) (k : CkptP) : Option Nat :=
  (regionAt s p k.region).bind (fun g => (firstPoison s (readPages g) k.off k.len).map (fun o => k.off + o))

/-- CHECKPOINT_TURN (R352): a poisoned line in a range faults. -/
def checkpointStart (s : State) (p : Nat) (t : TurnP) : State :=
  match ((List.range t.ckpts.length).zip t.ckpts).findSome? (fun e => (ckptPoison s p e.2).map (fun a => (e.1, a / 128 * 128))) with
  | some x => raiseFaults s p [{ mkFault s 0x0309 255 with addr := x.2, detail := x.1 }]
  | none => s

/-- Does every entry of a running rollout turn stand in DONE or EVICTED (R8)? -/
def rolloutIdle (x : Part) (r : Run) : Bool :=
  !r.admOpen && x.reqs.all (fun e => !(decide (e.2.turn = some x.turnSeq)) || !reqOpen e.2) &&
    r.steps.all (fun y => decide (y.reqs = []))

/-- Has a turn met its end condition on this member (R8)? A rollout turn also waits until no segment of it runs (DESIGN CHOICE, log entry
26: R8 names its requests and its admission only). -/
def turnMet (x : Part) (r : Run) (t : TurnP) : Bool :=
  match t.kind with
  | .rollout => rolloutIdle x r && decide (r.live = [])
  | .reward => (match mapFind x.progs r.slot with
    | some pr => pr.segs.all (fun d => doneAt r d.id 0)
    | none => true)
  | .learning => (match mapFind x.progs r.slot with
    | some pr => pr.segs.all (fun d => doneAt r d.id r.lastStep)
    | none => true)
  | .checkpoint => decide (r.ckptLeft = [])

/-- A turn-end beacon's place in Camp.beacons. -/
def beaconKey (turn member : Nat) : Nat := turn * 4096 + member

/-- TURN_START (R7): the turn that a switch led into starts. -/
def turnStart (s : State) (p : Nat) : State :=
  let x := partAt s p
  match x.camp with
  | none => s
  | some c => match c.p.turns[c.turnIx]? with
    | none => s
    | some t =>
      let s := updPart s p (fun x => if t.kind = .rollout then
        { x with turnSeq := x.turnSeq + 1,
                 reqs := x.reqs.map (fun e => (e.1,
                   if e.2.turn.isNone && reqOpen e.2 then { e.2 with turn := some (x.turnSeq + 1) } else e.2)) }
        else x)
      let s := updCamp s p (fun c => { c with
        phase := .turn, run := some (freshRun c c.turnIx t s.time.now) })
      let s := match progOf (partAt s p) with
        | some pr => if t.kind = .checkpoint then s else calTrigger s p pr 2 0
        | none => s
      if t.kind = .checkpoint then checkpointStart s p t else schedule s

/-- Regions that a switch publishes. -/
def switchRegions (x : Part) (c : Camp) (sw : Switch) : List Nat :=
  (sw.pairs.filterMap (fun y => (pairDesc x c sw y.pair).map (fun d => d.hd.dregion))).dedup

/-- Every chunk of this module has landed (R305). -/
def allLanded (sw : Switch) : Bool := sw.pairs.all (fun y => y.need.all (fun r => covered y.landed r))

/-- Send a message to every other member of a campaign. -/
def sendCamp (s : State) (c : Camp) (m : FMsg) : State :=
  ((campMembers c).filter (fun k => k ≠ s.fabric.member)).foldl (fun s k => sendTo s k m) s

/-- Has a stop reached its boundary within a turn (R355)? -/
def stopReached (c : Camp) (r : Run) : Bool :=
  c.stop && (match r.kind with
    | .rollout => decide (r.live = []) && r.steps.all (fun y => decide (y.reqs = []))
    | .reward => decide (r.live = [])
    | .learning => false
    | .checkpoint => false)

/-- A stop ends the campaign in its turn (R355): the turn's record, what its end releases (R201), and STOPPED with the turn from
which the host resumes. -/
def stopTurn (s : State) (p status next : Nat) : State :=
  endCampaign (endHolds (turnRecord s p status) p none) p 0x0201 (some next)

/-- Has every member said where the stop reached it (R355)? -/
def stopsKnown (c : Camp) : Bool := (campMembers c).all (fun m => (mapFind c.stops m).isSome)

/-- A stop in a learning turn, once every member's word is here (R355): S is the turn's last step, or, where no member had started
one, the campaign ends. -/
def stopLearn (s : State) (p : Nat) : State :=
  match (partAt s p).camp, turnOf (partAt s p) with
  | some c, some t =>
    if !c.stop ∨ c.phase ≠ .turn ∨ t.kind ≠ .learning ∨ !stopsKnown c then s
    else if stopBound c ≤ t.lt.step0 then stopTurn s p 0x0201 c.turnIx
    else updRun s p (fun r => { r with lastStep := min r.lastStep (stopBound c - 1) })
  | _, _ => s

/-- Does a stopped member go on into turn k (R355)? Into a learning turn of which another member has started steps, up to S; none
while the members' words are awaited. -/
def goesInto (c : Camp) (k : Nat) : Option Bool :=
  match c.p.turns[k]? with
  | some t => if t.kind = .learning then (if stopsKnown c then some (decide (t.lt.step0 < stopBoundAt c k)) else none) else some false
  | none => some false

/-- A switch has published: the turn starts, or the stop that waited for the switch takes effect (R10, R355). -/
def switchDone (s : State) (p : Nat) : State :=
  match (partAt s p).camp with
  | none => s
  | some c =>
    if !c.stop then turnStart s p
    else match goesInto c c.turnIx with
      | some true => stopLearn (turnStart s p) p
      | some false => endCampaign s p 0x0201 (some c.turnIx)
      | none => s

/-- Publication at the end of a switch (R270, R271, R305): evictions, the new epoch, variant sets, and what follows. -/
def publishSwitch (s : State) (p : Nat) : State :=
  let x := partAt s p
  match x.camp with
  | none => s
  | some c => match c.sw with
    | none => s
    | some sw =>
      let regs := switchRegions x c sw
      let s := evictRetired s p (regs.map (fun r => (r, ((regionAt s p r).map curEpoch).getD 0)))
      let s := regs.foldl (fun s r => publishRegion s p r) s
      let s := (((c.p.turns[sw.into]?).map (fun t => t.vsets)).getD []).foldl (fun s v => applyVset s p v) s
      switchDone (updCamp s p (fun c => { c with sw := none, epoch := if regs = [] then 0 else sw.epoch })) p

/-- Room for a switch's staging publication (R192, R204): an epoch in range, and T2 pages within the quota and to be had. -/
def canStage (s : State) (p ep : Nat) (g : Region) : Bool :=
  decide (ep < 0xFFFFFFFF) && !g.p.hostback && decide (t2Used s p + g.p.pages ≤ (partAt s p).quota.t2) &&
    decide ((freshPages s g.p.pages).length = g.p.pages)

/-- A switch stages a destination region (R192, R204). A publication that the host has staged is abandoned for it, and a region
without room is not staged, so that the switch ends with FABRIC_TIMEOUT (DESIGN CHOICE, log entry 35: R11, R192 and R204 say
neither). -/
def switchStage (s : State) (p ep r : Nat) : State :=
  let s := abandonPub s p r
  match regionAt s p r with
  | none => s
  | some g => if canStage s p ep g then (stagePub s p r ep 0 (freshPages s g.p.pages)).withFree (s.free + 1) else s

/-- SWITCH_START (R11, R310, R352): the switch into turn k. -/
def startSwitch (s : State) (p k : Nat) : State :=
  let x := partAt s p
  match x.camp, (x.camp.bind (fun c => c.p.turns[k]?)) with
  | some c, some t =>
    let prs := (mapFind x.progs t.prog).map (fun pr => t.pairs.filterMap (fun i => pr.pairs.find? (fun d => decide (d.hd.id = i))))
    let prs := if t.kind = .checkpoint then [] else prs.getD []
    let regs := (prs.map (fun d => d.hd.dregion)).dedup
    let ep := 1 + regs.foldl (fun m r => max m (((regionAt s p r).map curEpoch).getD 0)) 0
    let held := heldPos s c
    let sw : Switch := ⟨k, s.time.now, ep, prs.map (fun d => ⟨d.hd.id, needOf d held, [], []⟩)⟩
    let s := regs.foldl (fun s r => switchStage s p ep r) s
    let s := updCamp s p (fun c => { c with phase := .switching, turnIx := k, run := none, sw := some sw })
    let s := prs.foldl (fun s d => runPair s p { c with sw := some sw } d ep) s
    if prs = [] then publishSwitch s p else s
  | _, _ => s

/-- All members have ended the turn: the campaign ends, or the next switch starts (R7, R355). -/
def checkBeacons (s : State) (p : Nat) : State :=
  match (partAt s p).camp with
  | none => s
  | some c =>
    if c.phase ≠ .turnEnd ∨ !(campMembers c).all (fun m => setHas c.beacons (beaconKey c.turnIx m)) then s
    else if c.p.turns.length ≤ c.turnIx + 1 then endCampaign s p 0 (some (c.turnIx + 1 - c.p.fromTurn))
    else if !c.stop then startSwitch s p (c.turnIx + 1)
    else match goesInto c (c.turnIx + 1) with
      | some true => startSwitch s p (c.turnIx + 1)
      | some false => endCampaign s p 0x0201 (some (c.turnIx + 1))
      | none => s

/-- TURN_END (R8, R354): the turn record, the beacon, and what its end releases (R201). -/
def turnEnd (s : State) (p : Nat) : State :=
  match (partAt s p).camp with
  | none => s
  | some c =>
    let s := turnRecord s p 0
    let s := endHolds s p none
    let s := updCamp s p (fun c => { c with
      phase := .turnEnd, beacons := setPut c.beacons (beaconKey c.turnIx s.fabric.member) true,
      run := c.run.map (fun r => { r with ended2 := true }),
      lastCkpt := if (c.run.map (fun r => r.kind)) = some .checkpoint then some c.turnIx else c.lastCkpt })
    let s := sendCamp s c (.turnBeacon c.p.id c.turnIx)
    checkBeacons s p

/-- Where a turn stands: it has ended, a stop has reached its boundary, or it goes on. A stop that came before a turn met its
end condition names that turn, or after a checkpoint turn the next (R355). -/
def turnCheck (s : State) (p : Nat) : State :=
  let x := partAt s p
  match x.camp, turnOf x with
  | some c, some t => (match c.run with
    | none => s
    | some r =>
      if r.ended2 ∨ c.phase ≠ .turn ∨ !issues s p then s
      else if turnMet x r t then
        if c.stop then
          (if t.kind = .checkpoint then stopTurn s p 0 (c.turnIx + 1) else stopTurn s p 0x0201 c.turnIx)
        else turnEnd s p
      else if stopReached c r then stopTurn s p 0x0201 c.turnIx
      else s)
  | _, _ => s

/-- The first step of a learning turn that has not started here (R355). -/
def notStarted (r : Run) (t : TurnP) : Nat :=
  ((r.live.map (fun (l : SegRun) => l.step + 1)) ++ (r.done.map (fun (d : SegDone) => d.step + 1))).foldl (fun (a b : Nat) => max a b) t.lt.step0

/-- What this member says of its steps when the stop reaches it: 0 outside a learning turn. -/
def stopWord (x : Part) (c : Camp) : Nat :=
  match c.run, turnOf x with
  | some r, some t => if t.kind = .learning then notStarted r t else 0
  | _, _ => 0

/-- What a stop does between two turns, with the words that have come (R355): after a turn's end the campaign ends, unless another member
may have started steps of the learning turn that follows. -/
def stopBetween (s : State) (p : Nat) : State :=
  match (partAt s p).camp with
  | none => s
  | some c =>
    if !c.stop then s
    else match c.phase with
      | .turnEnd => (match goesInto c (c.turnIx + 1) with
        | some true => checkBeacons s p
        | some false => endCampaign s p 0x0201 (some (c.turnIx + 1))
        | none => s)
      | .switching => if c.sw.isNone then switchDone s p else s
      | _ => s

/-- A stop reaches this member (R355), which passes it on to the members with which it has exchanged the digest. -/
def campStop (s : State) (p : Nat) : State :=
  let x := partAt s p
  match x.camp with
  | none => s
  | some c =>
    if c.stop then s
    else
      let w := stopWord x c
      let s := ((campMembers c).filter (fun k => k ≠ s.fabric.member && boundWith s c k)).foldl
        (fun s k => sendTo s k (.stop c.p.id c.turnIx w)) s
      let s := updCamp s p (fun c => { c with stop := true, stops := mapPut c.stops s.fabric.member (c.turnIx, w) })
      match c.phase with
      | .rendezvous => endCampaign s p 0x0201 (some c.p.fromTurn)
      | .turn => turnCheck (stopLearn s p) p
      | _ => stopBetween s p

/-- In a learning turn a stop may make steps up to S ready (R355). -/
def stopGoesOn (s : State) (p : Nat) : State :=
  if ((turnOf (partAt s p)).map (fun t => t.kind)) = some .learning then schedule s else s

/-- The first turn, once every member has started with an equal digest (R353). -/
def rendezvousMet (s : State) (p : Nat) : State :=
  match (partAt s p).camp with
  | none => s
  | some c =>
    if c.phase ≠ .rendezvous then s
    else if c.digests.any (fun e => decide (e.2 ≠ c.digest)) then endCampaign s p 0x0207 none
    else if (campMembers c).all (fun m => decide (m = s.fabric.member) || c.digests.any (fun e => decide (e.1 = m))) then
      startSwitch s p c.p.fromTurn
    else s

/-- Turns that end at their start end in the same step: one check for each turn of the list. -/
def turnLoop (s : State) (p : Nat) : State :=
  (List.range ((((partAt s p).camp.map (fun c => c.p.turns.length)).getD 0) + 1)).foldl (fun s _ => turnCheck s p) s

/-! ### Rows -/

/-- TURN_END_BEACON_ARRIVAL (R7). A beacon of a turn that this member has not reached is kept for it, and a turn that is run again
wants new ones (DESIGN CHOICE, log entry 26: the manual says neither). -/
def execTurnEndBeaconArrival (part : Fin 32) (m : MsgAt) (turn : Nat) (t : Word64) (s : State) : Out :=
  ok (match (partAt s part).camp with
    | none => s
    | some c =>
      if c.turnIx ≤ turn ∧ turn < c.p.turns.length ∧ (campMembers c).contains m.frm ∧ issues s part then
        atTime s t (fun s => fromBound s part m (fun s =>
          turnLoop (checkBeacons (updCamp s part (fun c => { c with
            beacons := setPut c.beacons (beaconKey turn m.frm) true })) part) part))
      else s)

/-- Members of a campaign that hold a destination position of a pair of a switch (R305). -/
def destMembers (x : Part) (c : Camp) (sw : Switch) : List Nat :=
  ((sw.pairs.filterMap (fun y => pairDesc x c sw y.pair)).map (fun d =>
    ((d.pieces.filter (fun e => e.dst)).map (fun e => (posList e).map (memberAt c))).flatten)).flatten.dedup

/-- SWITCH_PUBLISH (R305): `reports` are the members that have told Utora that their destination pieces are whole. -/
def execSwitchPublish (part : Fin 32) (e : PublishAt) (s : State) : Out :=
  ok (match (partAt s part).camp.bind (fun c => c.sw.map (fun sw => (c, sw))) with
    | none => s
    | some x =>
      if allLanded x.2 ∧ issues s part ∧
          (destMembers (partAt s part) x.1 x.2).all (fun m => decide (m = s.fabric.member) || e.reports.contains m) then
        atTime s e.t (fun s => turnLoop (publishSwitch s part) part)
      else s)

/-- CAMPAIGN_DIGEST_RECEIVE (R353). -/
def execCampaignDigestReceive (part : Fin 32) (m : MsgAt) (d : BitVec 512) (t : Word64) (s : State) : Out :=
  ok (match (partAt s part).camp with
    | none => s
    | some c =>
      if c.phase = .rendezvous ∧ (campMembers c).contains m.frm ∧ issues s part then
        atTime s t (fun s => fromMember s m (fun s => turnLoop (rendezvousMet (updCamp s part (fun c => { c with
          digests := (m.frm, d) :: c.digests.filter (fun e => e.1 ≠ m.frm) })) part) part))
      else s)

/-- RENDEZVOUS_TIMEOUT (R353). -/
def execRendezvousTimeout (part : Fin 32) (t : Word64) (s : State) : Out :=
  ok (match (partAt s part).camp with
    | none => s
    | some c =>
      let lim := 1000000 * (if c.p.rdvlimit = 0 then 10000 else c.p.rdvlimit)
      if c.phase = .rendezvous ∧ c.rdv0.toNat + lim ≤ t.toNat then
        atTime s t (fun s => endCampaign s part 0x0205 none) else s)

/-- CAMPAIGN_STOP_RECEIVE (R355). -/
def execCampaignStopReceive (part : Fin 32) (e : StopAt) (s : State) : Out :=
  ok (atTime s e.t (fun s => fromBound s part e.msg (fun s =>
    let s := updCamp s part (fun c => { c with stops := mapPut c.stops e.msg.frm (e.turn, e.last) })
    stopGoesOn (turnLoop (stopBetween (stopLearn (campStop s part) part) part) part) part)))

end Sys2Proof.Machine
end

