-- ==== Sys2Proof/Machine/Settle.lean ====
section
/-! DEFINITION. Settle (R229 to R239): arrivals, the close of a step by its arbiter, close lists, step records. -/

namespace Sys2Proof.Machine

open Sys2Proof

/-- Member of rank 0 of a collective: the arbiter (R229). -/
def arbiterOf (c : Camp) (d : Coll) : Nat := rankMember c d 0

/-- The collective whose members form the settle domain (R229). -/
def domainColl (t : TurnP) (pr : Program) : Option Coll :=
  if t.kind = .learning ∧ t.lt.readyseg ≠ 0xFFFF then pr.colls.find? (fun d => decide (d.id = t.lt.coll)) else none

/-- Does the settle domain's rule apply to a collective? -/
def inDomain (t : TurnP) (pr : Program) (d : Coll) : Bool := decide ((domainColl t pr).map (fun x => x.id) = some d.id)

/-- Arrival of a leaf at the arbiter. -/
def arrivalAt (r : Run) (coll : Nat) (l : LeafP) : Option Arrival :=
  r.arrivals.find? (fun a => decide (a.coll = coll) && decide (a.leaf = l))

/-- Leaves of earlier steps that are pending: absent from their own step, neither added nor dropped since
(R231), in increasing origin step, then rank. -/
def pendingLeaves (cs : List CloseP) : List LeafP :=
  (cs.map (fun c => c.pend.map (fun k => (⟨c.step, k⟩ : LeafP)))).flatten.filter (fun l =>
    !cs.any (fun c => c.late.any (fun e => decide (e.1 = l)) || c.drop.any (fun e => decide (e.1 = l))))

/-- Close lists of a collective, in step order. -/
def closesOf (r : Run) (coll : Nat) : List CloseP := r.closes.filter (fun c => decide (c.coll = coll))

def maxTime (l : List Word64) : Word64 := l.foldl (fun a b => if a.ult b then b else a) 0

/-- The n-th time in increasing order. -/
def nthTime (l : List Word64) (n : Nat) : Word64 := (sortBy (fun (a b : Word64) => a.ult b) l).getD (n - 1) 0

/-- SE.DELAY in ms (R237). -/
def delayMs (a c : Word64) : Nat := min ((a.toNat - c.toNat) / 1000000) 0xFFFE

/-- The step's reduction deadline d_s (R230). -/
def deadlineOf (t : TurnP) (prev : Option CloseP) (step : Nat) : Word64 :=
  let d := t.lt.deadline0.toNat + (step - t.lt.step0) * t.lt.period * 1000
  match prev with
  | some c => BitVec.ofNat 64 (max d (c.closeT.toNat + t.lt.mingap * 1000))
  | none => BitVec.ofNat 64 d

/-- Mode of a close: SRC.MODE (R236). -/
def closeMode (t : TurnP) (n : NShape) : Nat := if !n.detmode then 0 else if t.lt.replay then 2 else 1

/-! ### The replay log (R234 to R237) -/

/-- A step record's slot as it stands in the log: header and entries. -/
structure LogSlot where
  hdr : Nat
  ents : List Nat

def logSlot (b : List Byte) : LogSlot :=
  let h := leNat (b.take 64)
  ⟨h, (List.range (min 48 (fld h 288 8))).map (fun k => leNat ((b.drop (64 + 8 * k)).take 8))⟩

/-- Slots of one record: SRC.SLOT 0 begins it. -/
def logGroup : List LogSlot → List (List LogSlot)
  | [] => []
  | x :: r => match logGroup r with
    | [] => [[x]]
    | g :: gs => if (g.head?.map (fun y => fld y.hdr 32 16)).getD 0 = 0 then [x] :: g :: gs else (x :: g) :: gs

/-- The close that a record tells: its on-time leaves are the ranks that it lists neither as pending nor as dropped at their own
step (R236, R237). -/
def logClose (coll : Nat) (g : List LogSlot) : CloseP :=
  let h := (g.head?.map (fun x => x.hdr)).getD 0
  let es := (g.map (fun x => x.ents)).flatten
  let kind (k : Nat) : List (LeafP × Nat) := (es.filter (fun e => decide (fld e 12 2 = k))).map (fun e =>
    (⟨fld e 16 32, fld e 0 12⟩, fld e 48 16))
  let step := fld h 0 32
  let pend := (kind 2).map (fun e => e.1.rank)
  let out := pend ++ ((kind 1).filter (fun e => decide (e.1.step = step))).map (fun e => e.1.rank)
  let on := (List.range (fld h 192 12)).filter (fun j => !out.contains j)
  { coll := coll, step := step, closeT := BitVec.ofNat 64 (fld h 128 64), deadline := 0, mode := 2, last := bitOf h 48,
    leaves := on.map (fun j => ⟨step, j⟩) ++ (kind 0).map (fun e => e.1), ontime := fld h 204 12, late := kind 0, drop := kind 1,
    pend := pend, tokens := fld h 256 32, members := fld h 192 12 }

/-- The records of the log that have been read, in step order: those before a slot that could not be read, which is kept empty. -/
def logCloses (r : Run) (coll : Nat) : List CloseP :=
  (logGroup (((r.log.map (fun e => e.2)).takeWhile (fun b => b ≠ [])).map logSlot)).map (logClose coll)

/-- Record i of the log: none where the log has no such record, or where its slots have not been read. -/
inductive LogRead where
  | missing
  | unread
  | at (c : CloseP)

def logAt (r : Run) (t : TurnP) (coll i : Nat) : LogRead :=
  let l := logCloses r coll
  let all := decide (t.lt.logslots ≤ r.log.length)
  match l[i]? with
  | some c => if all || decide (i + 1 < l.length) then .at c else .unread
  | none => if all then .missing else .unread

/-- Has a log already added or dropped a contribution? -/
def logTaken (cs : List CloseP) (l : LeafP) : Bool :=
  cs.any (fun c => c.leaves.contains l || c.drop.any (fun e => decide (e.1 = l)))

/-- The lowest condition of R235 that record i of a log breaks; 0: none. -/
def replayBad (cs : List CloseP) (rr step i : Nat) (c : CloseP) : Nat :=
  let late := c.late.map (fun e => e.1)
  if c.members ≠ rr then 2
  else if c.step ≠ step then 3
  else if c.leaves.any (fun l => decide (rr ≤ l.rank)) then 4
  else if late.any (logTaken (cs.take i)) || !decide (c.leaves.Nodup) then 5
  else 0

/-! ### Deciding a close -/

/-- What a close decides from c_s: leaves, delays, drops, pending (R231, R232). -/
def decide1 (r : Run) (d : Coll) (t : TurnP) (dom : Bool) (mode step : Nat) (c dl : Word64) : CloseP :=
  let cs := closesOf r d.id
  let ranks := List.range d.members.length
  let smax := if dom && decide (mode ≠ 0) then t.lt.smax else 0
  let arr (l : LeafP) : Option Arrival := arrivalAt r d.id l
  let inBy (l : LeafP) : Bool := (arr l).any (fun a => !(c.ult a.time))
  let on := ranks.filter (fun j => inBy ⟨step, j⟩)
  let closeT (k : Nat) : Word64 := ((cs.find? (fun x => decide (x.step = k))).map (fun x => x.closeT)).getD c
  let old := pendingLeaves cs
  let late := old.filter (fun l => inBy l && decide (step ≤ l.step + smax))
  let own := ranks.filter (fun j => !on.contains j)
  let gone := (old.filter (fun l => !inBy l && decide (l.step + smax ≤ step))) ++
    (if smax = 0 then own.map (fun j => (⟨step, j⟩ : LeafP)) else [])
  let leaves := on.map (fun j => (⟨step, j⟩ : LeafP)) ++ late
  { coll := d.id, step := step, closeT := c, deadline := dl, mode := mode,
    last := decide (t.kind = .learning) && decide (step = r.lastStep), leaves := leaves, ontime := on.length,
    late := late.map (fun l => (l, ((arr l).map (fun a => delayMs a.time (closeT l.step))).getD 0)),
    drop := gone.map (fun l => (l, ((arr l).map (fun a => delayMs a.time (closeT l.step))).getD 0xFFFF)),
    pend := if smax = 0 then [] else own,
    tokens := (leaves.map (fun l => ((arr l).map (fun a => a.tokens)).getD 0)).sum,
    members := d.members.length }

/-- Has every contribution that a close may still take arrived: each of the step's, and each pending one? -/
def noneLeft (r : Run) (d : Coll) (step : Nat) : Bool :=
  (List.range d.members.length).all (fun j => (arrivalAt r d.id ⟨step, j⟩).isSome) &&
    (pendingLeaves (closesOf r d.id)).all (fun l => (arrivalAt r d.id l).isSome)

/-- c_s and d_s of the next step to close, where it may close at the time now (R230). What arrives at exactly c_s is on time or a
late leaf (R239), so a close waits until c_s has passed unless nothing can arrive any more. -/
def closeTime (r : Run) (d : Coll) (t : TurnP) (dom : Bool) (mode step : Nat) (now : Word64) : Option (Word64 × Word64) :=
  let cs := closesOf r d.id
  let ranks := List.range d.members.length
  let times := ranks.filterMap (fun j => (arrivalAt r d.id ⟨step, j⟩).map (fun a => a.time))
  let all := decide (times.length = d.members.length)
  let last := decide (t.kind = .learning) && decide (step = r.lastStep)
  let dl := deadlineOf t (cs.find? (fun c => decide (c.step + 1 = step))) step
  let due (c : Word64) : Option (Word64 × Word64) := if noneLeft r d step || c.ult now then some (c, dl) else none
  if !dom || decide (mode = 0) || last then
    let old := if last && dom then (pendingLeaves cs).filter (fun l => decide (step ≤ l.step + t.lt.smax)) else []
    let ot := old.filterMap (fun l => (arrivalAt r d.id l).map (fun a => a.time))
    if all && decide (ot.length = old.length) then some (maxTime (times ++ ot), if dom && decide (mode = 1) then dl else 0)
    else none
  else
    let early := times.filter (fun x => !(dl.ult x))
    if all && decide (early.length = times.length) then due (maxTime times)
    else
      let q := min t.lt.quorum d.members.length
      if dl.ule now && decide (q ≤ times.length) then due (maxTime [dl, nthTime times q]) else none

/-- c_s in replay (R230, R234): the leaves that the log lists have arrived, and at the last step what every last step
waits for. -/
def replayTime (r : Run) (d : Coll) (t : TurnP) (step : Nat) (now : Word64) (c : CloseP) : Option Word64 :=
  let ts := c.leaves.filterMap (fun l => (arrivalAt r d.id l).map (fun a => a.time))
  if ts.length ≠ c.leaves.length then none
  else if step = r.lastStep then (closeTime r d t true 2 step now).map (fun w => maxTime (w.1 :: ts))
  else some (maxTime ts)

/-! ### Step records (R236, R237) -/

def recEntries (c : CloseP) : List Nat :=
  let e (rank kind step delay : Nat) : Nat := packFields [⟨0, 12, rank⟩, ⟨12, 2, kind⟩, ⟨16, 32, step⟩, ⟨48, 16, delay⟩]
  c.late.map (fun x => e x.1.rank 0 x.1.step x.2) ++ c.drop.map (fun x => e x.1.rank 1 x.1.step x.2) ++
    c.pend.map (fun k => e k 2 c.step 0)

/-- Slot k of n of a step record. -/
def recSlot (c : CloseP) (rank k n : Nat) (gs : List Nat) : List Byte :=
  let es := ((recEntries c).drop (48 * k)).take 48
  let fs := (gs.drop (64 * k)).take 64
  leBytes 64 (packFields [⟨0, 32, c.step⟩, ⟨32, 16, k⟩, ⟨48, 1, b2n c.last⟩, ⟨49, 2, c.mode⟩,
    ⟨51, 1, b2n (decide (k + 1 < n))⟩, ⟨52, 12, rank⟩, ⟨64, 64, c.deadline.toNat⟩, ⟨128, 64, c.closeT.toNat⟩,
    ⟨192, 12, c.members⟩, ⟨204, 12, c.ontime⟩, ⟨216, 12, c.late.length⟩, ⟨228, 12, c.drop.length⟩,
    ⟨240, 12, c.pend.length⟩, ⟨256, 32, c.tokens⟩, ⟨288, 8, es.length⟩, ⟨296, 7, fs.length⟩]) ++
    (es.map (fun e => leBytes 8 e)).flatten ++ List.replicate (384 - 8 * es.length) 0#8 ++
    fs.map (fun f => BitVec.ofNat 8 f) ++ List.replicate (64 - fs.length) 0#8

/-- STEP_RECORD_WRITE (R236). -/
def stepRecord (s : State) (p : Nat) (t : TurnP) (rank : Nat) (c : CloseP) : State :=
  match runOf (partAt s p) with
  | none => s
  | some r =>
    let gs := ((progOf (partAt s p)).map (fun pr => stepFmts s p r pr c.step)).getD []
    let s := match progOf (partAt s p) with
      | some pr => keepFmts s p pr c.step pr.gsels.zipIdx
      | none => s
    let n := max 1 (max (cdiv (recEntries c).length 48) (cdiv gs.length 64))
    updRun ((List.range n).foldl (fun s k => hostWrite s p (t.lt.recaddr.toNat + 512 * ((r.recs + k) % t.lt.recslots))
      (recSlot c rank k n gs)) s) p (fun r => { r with recs := r.recs + n })

/-- A close list takes effect on a member (R312 items 3 to 5): step record, leaf table, the sum segment. -/
def applyClose (s : State) (p : Nat) (c : CloseP) : State :=
  let x := partAt s p
  match x.camp, turnOf x, progOf x, runOf x with
  | some cp, some t, some pr, some r =>
    (match pr.colls.find? (fun d => decide (d.id = c.coll)) with
    | none => s
    | some d =>
      if (closeOf r c.coll c.step).isSome then s
      else
        let s := updRun s p (fun r => { r with closes := r.closes ++ [c] })
        let s := if inDomain t pr d then stepRecord s p t ((heldRanks s cp d).headD 0) c else s
        writeRegion s p d.region d.leaf (leafTable (gbufsOf t) d c))
  | _, _, _, _ => s

/-- SETTLE_MEMBER (R238): the lowest rank whose member has left the membership epoch during the turn. -/
def lostRank (r : Run) : Option Nat := (r.left.find? (fun e => e.2)).map (fun e => e.1)

/-- A fault of a step's close goes to every member of the campaign (R238): its condition with SETTLE_REPLAY. -/
def refuseClose (s : State) (p : Nat) (cp : Camp) (d : Coll) (step bad : Nat) : State :=
  let c : CloseP :=
    { coll := d.id, step := step, closeT := s.time.now, deadline := 0, mode := 2, last := false, leaves := [], ontime := 0,
      late := [], drop := [], pend := [], tokens := 0, members := d.members.length }
  hubFault (sendCamp s cp (.closeList cp.p.id cp.turnIx c bad)) p 0x0329 (step % 2 ^ 20 + 2 ^ 20 * bad)

/-- STEP_CLOSE (R230): the arbiter closes the next step of a collective where it may. -/
def settleStep (s : State) (p : Nat) (d : Coll) : State :=
  let x := partAt s p
  match x.camp, turnOf x, progOf x, runOf x with
  | some cp, some t, some pr, some r =>
    if arbiterOf cp d ≠ s.fabric.member ∨ d.kind ≠ 0 ∨ !issues s p then s
    else
      let dom := inDomain t pr d
      let mode := if dom then closeMode t pr.shape else 0
      let step := firstStep t + (closesOf r d.id).length
      let fin (c : CloseP) : State :=
        let s := sendCamp s cp (.closeList cp.p.id cp.turnIx c 0)
        match if dom then lostRank r else none with
        | some j => hubFault s p 0x032A j
        | none => applyClose s p c
      if t.kind = .learning ∧ (r.lastStep < step ∨ (cp.stop ∧ !stopsKnown cp ∧ stopBound cp ≤ step + 1)) then s
      else if dom && decide (mode = 2) then
        let i := step - t.lt.step0
        match logAt r t d.id i with
        | .unread => s
        | .missing => refuseClose s p cp d step 1
        | .at c =>
          let bad := replayBad (logCloses r d.id) d.members.length step i c
          if bad ≠ 0 then refuseClose s p cp d step bad
          else (match replayTime r d t step s.time.now c with
            | some w =>
              let k := decide1 r d t dom 2 step w 0
              fin { k with
                leaves := c.leaves, ontime := c.ontime, late := c.late, drop := c.drop, pend := c.pend,
                tokens := (c.leaves.map (fun l => ((arrivalAt r d.id l).map (fun a => a.tokens)).getD 0)).sum }
            | none => s)
      else match closeTime r d t dom mode step s.time.now with
        | some w => fin (decide1 r d t dom mode step w.1 w.2)
        | none => s
  | _, _, _, _ => s

/-- Close what may close: the steps of every SUM collective whose arbiter this module is. -/
def settleTry (s : State) (p : Nat) : State :=
  ((progOf (partAt s p)).map (fun pr => pr.colls)).getD [] |>.foldl (fun s d =>
    (List.range 17).foldl (fun s _ => settleStep s p d) s) s

/-- Has a transfer of this module not landed: a chunk of it waits for a buffer, stands in one, or has been lost (R312 item 2)? -/
def xferUnderWay (s : State) (x : Nat) : Bool :=
  setHas s.fabric.lostX x ||
  s.fabric.chunks.any (fun c => decide (c.xfer = x)) || s.fabric.bufs.any (fun e => decide (e.2.own = some x))

/-- The shards of a contribution have landed: its part has started, and none of its chunks is on its way. A chunk counts as landed
when the first link of its route has acknowledged it whole (DESIGN CHOICE, log entry 23: no message tells of a landing). -/
def shardsLanded (s : State) (r : Run) (o : ReadyOwed) : Bool :=
  match r.phases.find? (fun y => decide (y.coll = o.coll) && decide (y.step = o.step)) with
  | some y => y.xfers.all (fun x => !xferUnderWay s x)
  | none => false

/-- Send the ready beacons whose shards have landed (R229, R312 item 2). -/
def beaconsDue (s : State) (p : Nat) : State :=
  match (partAt s p).camp, runOf (partAt s p), progOf (partAt s p) with
  | some c, some r, some pr =>
    if r.owed = [] then s
    else
      let due := r.owed.filter (shardsLanded s r)
      let s := updRun s p (fun r => { r with owed := r.owed.filter (fun o => !due.contains o) })
      due.foldl (fun s o => match pr.colls.find? (fun d => decide (d.id = o.coll)) with
        | some d => sendTo s (arbiterOf c d) (.stepBeacon c.p.id c.turnIx d.id ⟨o.step, o.rank⟩ o.tokens)
        | none => s) s
  | _, _, _ => s

/-! ### Rows -/

/-- STEP_BEACON_ARRIVAL (R229, R230): stamped with the arbiter's timebase. A close whose time has passed does not know of it (R239). -/
def execStepBeaconArrival (part : Fin 32) (m : MsgAt) (coll : Nat) (leaf : LeafP) (tokens : Nat) (t : Word64) (s : State) : Out :=
  ok (let x := partAt s part
    match x.camp, progOf x, runOf x with
    | some c, some pr, some r =>
      (match pr.colls.find? (fun d => decide (d.id = coll)) with
      | some d =>
        if arbiterOf c d = s.fabric.member ∧ leaf.rank < d.members.length ∧ (arrivalAt r coll leaf).isNone ∧
            issues s part then
          atTime s t (fun s => fromBound s part m (fun s =>
            let s := settleTry s part
            let s := updRun s part (fun r => { r with arrivals := r.arrivals ++ [⟨coll, leaf, s.time.now, tokens⟩] })
            schedule (settleTry s part)))
        else s
      | none => s)
    | _, _, _ => s)

/-- SETTLE_DEADLINE (R230). -/
def execSettleDeadline (part : Fin 32) (t : Word64) (s : State) : Out :=
  ok (if issues s part then atTime s t (fun s => schedule (settleTry s part)) else s)

/-- LT.WAITMAX in ns (R216). -/
def waitMax (t : TurnP) : Nat := 1000 * (if t.lt.waitmax = 0 then 600000000 else t.lt.waitmax)

/-- When the bound of a step's wait begins (R235): the step's deadline under RECORDED, the arbiter's own arrival otherwise, which
the arbiter tells the other members. -/
def waitFrom (s : State) (c : Camp) (r : Run) (t : TurnP) (n : NShape) (d : Coll) (step : Nat) (told : Word64) : Option Nat :=
  if closeMode t n = 1 then
    some (deadlineOf t ((closesOf r d.id).find? (fun x => decide (x.step + 1 = step))) step).toNat
  else if arbiterOf c d = s.fabric.member then (arrivalAt r d.id ⟨step, 0⟩).map (fun a => a.time.toNat)
  else some told.toNat

/-- Ranks whose contributions a step waits for (R230): its own that have not arrived, and at the last step those of
pending leaves that may still be added; in replay those of the leaves that the log lists. -/
def missingRanks (r : Run) (d : Coll) (t : TurnP) (n : NShape) (step : Nat) : List Nat :=
  let gone (l : LeafP) : Bool := (arrivalAt r d.id l).isNone
  let listed : List LeafP := match closeMode t n, logAt r t d.id (step - t.lt.step0) with
    | 2, .at c => c.leaves
    | _, _ => (List.range d.members.length).map (fun j => ⟨step, j⟩)
  let last : List LeafP := if step = r.lastStep then
      (List.range d.members.length).map (fun j => ⟨step, j⟩) ++
        (pendingLeaves (closesOf r d.id)).filter (fun l => decide (step ≤ l.step + t.lt.smax))
    else []
  (List.range d.members.length).filter (fun j => (listed ++ last).any (fun l => decide (l.rank = j) && gone l))

/-- SETTLE_TIMEOUT (R235, R238). `since` and `rank` are the arbiter's word to a member that is not the arbiter: when its own
contribution arrived, and the lowest rank that is missing. -/
def execSettleTimeout (part : Fin 32) (e : MissAt) (s : State) : Out :=
  ok (let x := partAt s part
    match x.camp, turnOf x, progOf x, runOf x with
    | some c, some tn, some pr, some r =>
      (match domainColl tn pr with
      | none => s
      | some d =>
        let step := firstStep tn + (closesOf r d.id).length
        match waitFrom s c r tn pr.shape d step e.since with
        | some w =>
          if issues s part ∧ step ≤ r.lastStep ∧ w + waitMax tn < e.t.toNat then
            atTime s e.t (fun s =>
              let k := if arbiterOf c d = s.fabric.member then (missingRanks r d tn pr.shape step).headD 0 else e.rank
              hubFault s part 0x0328 (step % 2 ^ 20 + 2 ^ 20 * (k % 4096)))
          else s
        | none => s)
    | _, _, _, _ => s)

/-- CLOSE_LIST_RECEIVE (R312, R236, R238): a close list, or the arbiter's word that the log does not match (`bad`). -/
def execCloseListReceive (part : Fin 32) (c : CloseMsg) (t : Word64) (s : State) : Out :=
  ok (if issues s part && (runOf (partAt s part)).isSome then
      atTime s t (fun s => fromBound s part c.msg (fun s =>
        let x := partAt s part
        match turnOf x, progOf x, runOf x, ((progOf x).bind (fun pr => pr.colls.find? (fun d => decide (d.id = c.close.coll)))) with
        | some tn, some pr, some r, some d =>
          if c.bad ≠ 0 then hubFault s part 0x0329 (c.close.step % 2 ^ 20 + 2 ^ 20 * (c.bad % 16))
          else (match if inDomain tn pr d then lostRank r else none with
            | some j => hubFault s part 0x032A j
            | none => schedule (applyClose s part c.close))
        | _, _, _, _ => s))
    else s)

/-- A chunk of a collective at its destination (R303, R313, R320). -/
def landColl (s : State) (c : Chunk) : State :=
  let p := c.part.val
  let x := partAt s p
  match x.camp, turnOf x, progOf x, runOf x with
  | some cp, some tn, some pr, some r =>
    if !issues s p || !boundWith s cp (memberAt cp c.spos) || !(heldPos s cp).contains c.dpos then dropChunk s
    else (match collAtOff pr (gbufsOf tn) c.region c.off with
    | none => dropChunk s
    | some d =>
      let j := d.members.idxOf c.spos
      let lastOk := if tn.kind = .learning then firstStep tn ≤ c.epoch ∧ c.epoch ≤ r.lastStep else c.epoch = 0 ∨ tn.kind = .rollout
      if d.members.length ≤ j ∨ ¬ lastOk ∨ !collPlaceOk pr.shape (gbufsOf tn) d j c.epoch c.off c.data.length then
        hubFault s p 0x033A (d.id % 65536 + 65536 * (j % 4096))
      else schedule (landBytes s p d ⟨d.id, c.epoch, j, c.off, c.data.length, c.fmt, c.tokens⟩ c.data))
  | _, _, _, _ => dropChunk s

/-- COLLECTIVE_CHUNK_RECEIVE (R301 to R303, R313, R320): a collective's chunk for this module that a buffer holds whole. One that comes
before its turn has begun here waits. -/
def execCollectiveChunkReceive (buf : Fin 48) (t : Word64) (s : State) : Out :=
  ok (match mapFind s.fabric.bufs buf with
    | none => s
    | some b =>
      match chunkOf b.bytes with
      | none => s
      | some c =>
        if !b.whole ∨ b.written ∨ c.kind ≠ 2 ∨ c.dmem ≠ s.fabric.member then s
        else if (partAt s c.part).camp.elim false (fun cp => comesEarly s c.part (memberAt cp c.spos) false c.epoch) then s
        else atTime s t (fun s => bufDone (setBuf (landColl s c) buf { b with written := true }) buf))

/-- When a collective phase or a layout pair started, where it has not completed (R320). -/
def phaseStart (s : State) (p id : Nat) (pair : Bool) : Option Word64 :=
  let x := partAt s p
  match x.camp with
  | none => none
  | some c =>
    if pair then
      c.sw.bind (fun sw => (sw.pairs.find? (fun y => decide (y.pair = id) && !y.need.all (fun r => covered y.landed r))).map
        (fun _ => sw.t0))
    else match turnOf x, progOf x, c.run with
      | some t, some pr, some r =>
        (pr.colls.find? (fun d => decide (d.id = id))).bind (fun d =>
          if inDomain t pr d then none
          else
            let dn := r.done.filter (fun y => decide (y.seg = d.trigseg))
            (dn.find? (fun y => !resultDone s c r d y.step)).map (fun y =>
              ((r.phases.find? (fun z => decide (z.coll = d.id) && decide (z.step = y.step))).map (fun z => z.time)).getD r.tstart))
      | _, _, _ => none

/-- PH.WAITLIMIT of the program that a switch leads into, or that runs. -/
def fabricLimit (s : State) (p : Nat) : Nat :=
  let x := partAt s p
  match x.camp.bind (fun c => c.sw.bind (fun sw => (c.p.turns[sw.into]?).bind (fun t => mapFind x.progs t.prog))) with
  | some pr => 1000 * (if pr.waitlimit = 0 then 100000 else pr.waitlimit)
  | none => waitLimit s p

/-- FABRIC_TIMEOUT (R320). -/
def execFabricTimeout (part : Fin 32) (id : Nat) (pair : Bool) (t : Word64) (s : State) : Out :=
  ok (match phaseStart s part id pair with
    | some w =>
      if issues s part ∧ w.toNat + fabricLimit s part < t.toNat then
        atTime s t (fun s => hubFault s part 0x033B (id % 65536 + 2 ^ 31 * b2n pair))
      else s
    | none => s)

end Sys2Proof.Machine
end

