-- ==== Sys2Proof/Machine/Commits.lean ====
section
/-! DEFINITION. The commit of a segment (R36) with what comes about inside it: statistics (R113), holds (R201), missed
deadlines (R372), ready beacons (R229) and collectives (R312, R313). -/

namespace Sys2Proof.Machine

open Sys2Proof

/-! ### Segment commit (R36) -/

/-- Tiles of a segment, partition-relative. -/
def segTiles (s : State) (p : Nat) (d : SegD) : List Nat := (List.range (nTiles s p)).filter (segHasTile d)

/-- Has a tile ended its part: four SEGEND words, nothing in execution or on its way? -/
def tileEnded (t : Tile) : Bool :=
  [0, 1, 2, 3].all t.ended.contains && t.mxPend.isNone && t.chPend.isNone && decide (t.sigin = []) && t.rings.all (fun e => decide (e.2.dir = 0))

/-- First poisoned byte within a tile's write windows of a segment: its T0 offset and its tag. -/
def windowPoison (pr : Program) (seg tile : Nat) (t : Tile) : Option (Nat × Tag) :=
  (winsOf pr seg tile true).findSome? (fun w =>
    t.pois.find? (fun e => decide (e.2 ≠ 0) && decide (4096 * w.base ≤ e.1) && decide (e.1 < 4096 * (w.base + w.size))))

/-- POISON at a segment's commit (R30): the tile, the sequencer's SEGEND as the word, the T0 offset in FR.DETAIL, and where the
poison entered. -/
def commitPoison (s : State) (p n : Nat) (w : Nat × Tag) : State :=
  poisonFault s ⟨Fin.ofNat 32 p, Fin.ofNat 192 n⟩ 0 ((tileAt s p n).words.length - 1) w.1 w.2

/-- A tile after its segment has committed. -/
def idleTile (t : Tile) : Tile :=
  { t with seg := none, words := [], pc := 0, loops := [], q1 := [], q2 := [], q3 := [], closed := [], ended := [],
           stats := [], gear := 0, marks := [] }

/-- Step record slot (R236) of a turn without a domain: no entries. -/
def plainRecord (fs : List Nat) (step k : Nat) (last : Bool) (t : Word64) : List Byte :=
  let gs := (fs.drop (64 * k)).take 64
  let n := fs.length
  leBytes 64 (packFields [⟨0, 32, step⟩, ⟨32, 16, k⟩, ⟨48, 1, b2n last⟩, ⟨49, 2, 3⟩,
    ⟨51, 1, b2n (decide (64 * (k + 1) < n))⟩, ⟨128, 64, t.toNat⟩, ⟨296, 7, gs.length⟩]) ++
    List.replicate 384 0#8 ++ (gs.map (fun g => BitVec.ofNat 8 g)) ++ List.replicate (64 - gs.length) 0#8

/-- STEP_RECORD_WRITE of a turn without a domain (R236): at the commit of a step's last segment instance. -/
def plainStep (s : State) (p : Nat) (t : TurnP) (pr : Program) (step : Nat) : State :=
  match runOf (partAt s p) with
  | none => s
  | some r =>
    if t.kind = .learning ∧ t.lt.readyseg = 0xFFFF ∧ pr.segs.all (fun d => doneAt r d.id step) then
      let fs := stepFmts s p r pr step
      let n := max 1 (cdiv fs.length 64)
      updRun ((List.range n).foldl (fun s k => hostWrite s p (t.lt.recaddr.toNat + 512 * ((r.recs + k) % t.lt.recslots))
        (plainRecord fs step k (decide (step = r.lastStep)) s.time.now)) s) p (fun r => { r with recs := r.recs + n })
    else s

/-- READY_BEACON_SEND (R229, R312 item 2): the ranks held here are ready. The arbiter's own arrive at once, at the commit; a
beacon to another arbiter goes once the shards have landed. -/
def readyBeacon (s : State) (p : Nat) (c : Camp) (pr : Program) (d : Coll) (step : Nat) : State :=
  beaconsDue ((heldRanks s c d).foldl (fun s j =>
    let tok := contribTokens pr d step j
    updRun s p (fun r => if arbiterOf c d = s.fabric.member then
        { r with arrivals := r.arrivals ++ [⟨d.id, ⟨step, j⟩, s.time.now, tok⟩] }
      else { r with owed := r.owed ++ [⟨d.id, step, j, tok⟩] })) s) p

/-- A part of a collective starts at its trigger segment's commit (R311, R312 item 2, R313): when, and with which transfers. -/
def startPhase (s : State) (p : Nat) (c : Camp) (r : Run) (t : TurnP) (pr : Program) (d : Coll) (step : Nat) : State :=
  let x0 := s.fabric.xfer
  let s := collTrigger s p c r t pr d step
  updRun s p (fun r => { r with
    phases := r.phases ++ [⟨d.id, step, s.time.now, (List.range (s.fabric.xfer - x0)).map (fun k => x0 + k)⟩] })

/-- What a segment's commit sends (R229, R312, R313). -/
def commitSends (s : State) (p : Nat) (t : TurnP) (pr : Program) (seg step : Nat) : State :=
  let s := pr.colls.foldl (fun s d =>
    match (partAt s p).camp, runOf (partAt s p) with
    | some c, some r =>
      let s := if d.trigseg = seg then startPhase s p c r t pr d step else s
      let s := if d.kind = 0 ∧ d.sumseg = seg then collGather s p c r d step else s
      if d.kind = 0 ∧ d.trigseg = seg ∧ (domainColl t pr).map (fun x => x.id) ≠ some d.id then readyBeacon s p c pr d step else s
    | _, _ => s) s
  match (partAt s p).camp, domainColl t pr with
  | some c, some d => if t.lt.readyseg = seg then readyBeacon s p c pr d step else beaconsDue s p
  | _, _ => s

/-- Fitted heat coefficients after a segment (R370): free values within the clamp. -/
def refit (s : State) (gs : List Nat) : State :=
  let k := gs.foldl (fun l g => listSet l g (max 20 (min 1000 (Config.kfit g s.free)))) s.power.kgrp
  (s.withPower { s.power with kgrp := k }).withFree (s.free + 1)

/-- The commit itself, once its conditions hold. -/
def commitSeg (s : State) (p : Nat) (t : TurnP) (pr : Program) (d : SegD) (l : SegRun) : State :=
  let tiles := segTiles s p d
  let s := tiles.foldl (fun s n => (tileAt s p n).stats.foldl (fun s x => match pr.gsels[x.gsel]? with
    | some g => statMerge s p g x
    | none => s) s) s
  let u := tileAt s p (tiles.headD 0)
  let dur := workDone s.time.now u.gear (u.seg.getD l)
  let s := regear s
  let s := tiles.foldl (fun s n => updTile s p n idleTile) s
  let s := updRun s p (fun r => { r with
    live := r.live.filter (fun y => decide (y.seg ≠ l.seg)), done := r.done ++ [⟨l.seg, l.step⟩] })
  let s := updPart s p (fun x => { x with
    lastDur := mapPut x.lastDur (65536 * ((runOf x).map (fun r => r.slot)).getD 0 + d.id) dur })
  let late := decide (d.deadline ≠ 0) && (match runOf (partAt s p) with
    | some r => decide (r.tstart.toNat + d.deadline * 1000 < s.time.now.toNat)
    | none => false)
  let s := if late then addCtr s (ctrKey 0 2 p cMissed) 1 else s
  let s := refit (endHolds s p (some d.id)) (segGroups (partAt s p) d)
  let s := commitSends s p t pr d.id l.step
  plainStep s p t pr l.step

/-- SEGMENT_COMMIT (R36). -/
def execSegmentCommit (part : Fin 32) (seg step : Nat) (t : Word64) (s : State) : Out :=
  ok (let x := partAt s part
    match turnOf x, progOf x, runOf x with
    | some tn, some pr, some r =>
      (match r.live.find? (fun l => decide (l.seg = seg) && decide (l.step = step)), segDesc pr seg with
      | some l, some d =>
        let tiles := segTiles s part d
        if !issues s part ∨ !tiles.all (fun n => tileEnded (tileAt s part n)) then s
        else atTime s t (fun s =>
          match tiles.findSome? (fun n => (windowPoison pr seg n (tileAt s part n)).map (fun w => (n, w))) with
          | some e => commitPoison s part e.1 e.2
          | none =>
            let bad := tiles.filterMap (fun n => ((tileAt s part n).sems.head?).map (fun e => (n, e)))
            if bad ≠ [] then
              raiseFaults s part (bad.map (fun b => { mkFault s 0x0304 b.1 with sem := b.2.1, seg := seg, detail := b.2.2 }))
            else
              let s := settleTry s part
              if !issues s part then s else schedule (turnLoop (settleTry (commitSeg s part tn pr d l) part) part))
      | _, _ => s)
    | _, _, _ => s)

end Sys2Proof.Machine
end

