-- ==== Sys2Proof/Machine/Rollout.lean ====
section
/-! DEFINITION. The rollout turn (R241 to R278): composition (R254 to R256), chunked prefill (R260), shared blocks
(R263), commits (R258, R265, R266), evictions (R274, R275), list admissions (R243) and the turn's end time (R8). -/

namespace Sys2Proof.Machine

open Sys2Proof

/-! ### Drawer blocks (R251, R252, R263) -/

/-- DPOS of R241. -/
def dpos (rp : RollP) : Nat := 2 ^ rp.dposl

/-- The region whose pool an entry's drawers come from. -/
def reqReg (rp : RollP) (r : Req) : Nat := if r.dhead = drawerNone then rp.dregion else r.dreg

/-- The drawer of a lane of a block; none where the map names none. -/
def blockDrawer (s : State) (p : Nat) (rp : RollP) (r : Req) (b l : Nat) : Nat :=
  if r.dhead = drawerNone then drawerNone else mapEntry s p r.dreg r.dhead (b * rp.dlanes + l)

/-- First free drawer at or after d, around the end of the pool. -/
def scanDrawer (s : State) (p reg : Nat) : Nat → Nat → Nat
  | 0, d => d % max 1 (poolSize s p reg)
  | f + 1, d =>
    let k := d % max 1 (poolSize s p reg)
    if isFreeDrawer s p reg k then k else scanDrawer s p reg f (d + 1)

/-- Drawers being taken: the state so far, the drawers still to be tried first, and those taken. -/
structure Picks where
  s : State
  ask : List Nat
  got : List Nat

/-- Take a free drawer: the search starts at the drawer that is asked for, or, where none is, at a free value that depends on this
partition's region and drawers alone (R12; log entry 11). -/
def pickDrawer (k : Picks) (p reg : Nat) : Nat × Picks :=
  let n := (partAt k.s p).drawers.length
  match k.ask with
  | d :: r =>
    let x := scanDrawer k.s p reg n d
    (x, ⟨k.s, r, k.got ++ [x]⟩)
  | [] =>
    let x := scanDrawer k.s p reg n (Config.drawerPick reg n)
    (x, ⟨k.s, [], k.got ++ [x]⟩)

/-- What a selection takes: the entry, its rows and their kind, and the blocks to open and to copy, the map drawers to
add (R254, R263). -/
structure Plan where
  e : Nat
  n : Nat
  kind : Nat
  fresh : List Nat
  copy : List Nat
  maps : Nat
  deriving DecidableEq, Repr

/-- Drawers of an entry's map. -/
def chainOf (s : State) (p : Nat) (r : Req) : List Nat :=
  if r.dhead = drawerNone then [] else mapChain s p r.dreg chainFuel r.dhead

/-- The drawers that n rows of an entry need, from position KLEN on (R254). -/
def planOf (s : State) (p : Nat) (rp : RollP) (e : Nat) (r : Req) (n kind : Nat) : Plan :=
  let lo := r.klen / dpos rp
  let hi := (r.klen + n - 1) / dpos rp
  let bs := (List.range (hi - lo + 1)).map (fun k => lo + k)
  let lanes := List.range rp.dlanes
  let none_ (b : Nat) : Bool := lanes.all (fun l => decide (blockDrawer s p rp r b l = drawerNone))
  let shared (b : Nat) : Bool := lanes.any (fun l =>
    let d := blockDrawer s p rp r b l
    decide (d ≠ drawerNone) && decide (1 < drawerRefs (partAt s p) (reqReg rp r) d))
  { e := e, n := n, kind := kind, fresh := bs.filter none_, copy := bs.filter shared,
    maps := mapNeed ((hi + 1) * rp.dlanes) - (chainOf s p r).length }

def planDrawers (rp : RollP) (q : Plan) : Nat := rp.dlanes * (q.fresh.length + q.copy.length) + q.maps

/-- Add a map drawer at the end of an entry's map. -/
def addMap (k : Picks) (p : Nat) (rp : RollP) (e : Nat) : Picks :=
  match reqAt k.s p e with
  | none => k
  | some r =>
    let reg := reqReg rp r
    let x := pickDrawer k p reg
    let s := openMapDrawer x.2.s p reg x.1
    { x.2 with
      s := match (chainOf s p r).getLast? with
        | some m => setDrawerWord s p reg m mapWords x.1
        | none => setReq s p e { r with dhead := x.1, dreg := reg, dposl := rp.dposl, dlanes := rp.dlanes } }

/-- Put a drawer in a lane of a block of an entry's map. -/
def putLane (s : State) (p : Nat) (rp : RollP) (e b l d : Nat) : State :=
  match reqAt s p e with
  | none => s
  | some r => setMapEntry s p r.dreg r.dhead (b * rp.dlanes + l) d

/-- Open a block: a drawer for each lane. -/
def openBlock (k : Picks) (p : Nat) (rp : RollP) (e b : Nat) : Picks :=
  (List.range rp.dlanes).foldl (fun k l =>
    match reqAt k.s p e with
    | none => k
    | some r =>
      let x := pickDrawer k p (reqReg rp r)
      { x.2 with s := putLane (incRef x.2.s p r.dreg x.1) p rp e b l x.1 }) k

/-- SHARED_BLOCK_COPY (R263): each lane whole, into a drawer of the entry's own. -/
def copyBlock (k : Picks) (p : Nat) (rp : RollP) (e b : Nat) : Picks :=
  (List.range rp.dlanes).foldl (fun k l =>
    match reqAt k.s p e with
    | none => k
    | some r =>
      let old := blockDrawer k.s p rp r b l
      if old = drawerNone then k
      else
        let x := pickDrawer k p r.dreg
        let s := x.2.s
        let src := ((regionAt s p r.dreg).map (fun g => readBytes s g.wpages (pageSize * old) pageSize)).getD []
        let s := writeRegion s p r.dreg (pageSize * x.1) src
        { x.2 with s := putLane (decRef (incRef s p r.dreg x.1) p r.dreg old) p rp e b l x.1 }) k

/-- Take what a plan needs. -/
def applyPlan (k : Picks) (p : Nat) (rp : RollP) (q : Plan) : Picks :=
  let k := (List.range q.maps).foldl (fun k _ => addMap k p rp q.e) k
  let k := q.fresh.foldl (fun k b => openBlock k p rp q.e b) k
  q.copy.foldl (fun k b => copyBlock k p rp q.e b) k

/-- DRAFT_TRUNCATE (R266): blocks without a committed entry leave the map; a map drawer left without an entry goes. -/
def truncateReq (s : State) (p : Nat) (rp : RollP) (e : Nat) : State :=
  match reqAt s p e with
  | none => s
  | some r =>
    let ch := chainOf s p r
    let lo := cdiv r.klen (dpos rp) * rp.dlanes
    let s := (List.range (ch.length * mapWords - lo)).foldl (fun s k =>
      let d := mapEntry s p r.dreg r.dhead (lo + k)
      if d = drawerNone then s else setMapEntry (decRef s p r.dreg d) p r.dreg r.dhead (lo + k) drawerNone) s
    let keep := (List.range ch.length).filter (fun k => decide (namedBy s p r.dreg (ch.getD k 0) ≠ []))
    let n := (keep.map (fun k => k + 1)).foldl max 0
    let s := (ch.drop n).foldl (fun s d => decRef s p r.dreg d) s
    match (ch.take n).getLast? with
    | some m => if n = ch.length then s else setDrawerWord s p r.dreg m mapWords drawerNone
    | none => if ch = [] then s else setReq s p e { r with dhead := drawerNone }

/-! ### Evictions (R248, R274 to R276) -/

/-- Does a step in flight contain an entry? -/
def inFlight (r : Run) (e : Nat) : Bool := r.steps.any (fun y => y.reqs.any (fun q => decide (q.req = e)))

/-- Entries that a composition considers: of the running turn, open, every earlier step applied (R254). -/
def considered (x : Part) (r : Run) : List (Nat × Req) :=
  x.reqs.filter (fun e => decide (e.2.turn = some x.turnSeq) && reqOpen e.2 && !inFlight r e.1)

/-- Reason for which R275 or R276 evicts an entry at a time; 0: none. -/
def dueReason (r : Req) (now : Word64) : Nat :=
  if r.deadline ≠ 0 ∧ r.deadline.ule now then 3 else if r.cancel then 4 else r.due

/-- Does an admitted entry fit the turn (R248, FORM)? -/
def fitsTurn (s : State) (p : Nat) (rp : RollP) (r : Req) : Bool :=
  decide (r.plen + r.maxgen ≤ rp.maxlen) &&
    within r.outoff (64 + 8 * r.maxgen) 0 (((regionAt s p rp.oregion).map (fun g => g.p.pages * pageSize)).getD 0) &&
    (!r.ven || decide ((ventAt (partAt s p) r.variant).cls = rp.vclass))

/-- Evict an entry; those that the turn's end evicts are listed for its record (R8). -/
def evictReq (s : State) (p e reason : Nat) : State :=
  let s := if reason = 7 then updRun s p (fun r => { r with ended := r.ended ++ [e] }) else s
  finishReq s p e .evicted reason

/-- A composition in progress: selections (last first), rows selected, versions, evictions decided. -/
structure Comp where
  s : State
  sel : List Plan
  rows : Nat
  left : Nat
  vers : List (Nat × Nat)
  evicts : List (Nat × Nat)
  stop : Bool

def compEvict (p : Nat) (c : Comp) (e reason : Nat) : Comp :=
  { c with s := evictReq c.s p e reason, evicts := c.evicts ++ [(e, reason)] }

/-- Drawers that the selections so far will take. -/
def reserved (rp : RollP) (c : Comp) : Nat := (c.sel.map (planDrawers rp)).sum

/-- drawers_for (R254). -/
def drawersFor (p : Nat) (rp : RollP) (c : Comp) (r : Req) (q : Plan) : Bool :=
  decide (planDrawers rp q + reserved rp c ≤ freeCount c.s p (reqReg rp r))

/-- The lowest-ranked entry below an entry that holds drawers and has not been selected (R274). -/
def drawerVictim (p : Nat) (c : Comp) (r : Req) : Option (Nat × Req) :=
  (byRank ((partAt c.s p).reqs.filter (fun e => reqActive e.2 && rankLt r e.2 && decide (e.2.dhead ≠ drawerNone) &&
    decide (e.2.due = 0) && !c.sel.any (fun q => decide (q.e = e.1))))).getLast?

/-- DRAWER_EVICT (R274): until the entry fits or no victim remains. -/
def evictFor (p : Nat) (rp : RollP) (e n kind : Nat) : Nat → Comp → Comp
  | 0, c => c
  | f + 1, c =>
    match reqAt c.s p e with
    | none => c
    | some r =>
      if drawersFor p rp c r (planOf c.s p rp e r n kind) then c
      else match drawerVictim p c r with
        | none => c
        | some v =>
          let fl := ((runOf (partAt c.s p)).map (fun y => inFlight y v.1)).getD false
          let c := if fl then { c with s := setReq c.s p v.1 { v.2 with due := 5 }, evicts := c.evicts ++ [(v.1, 5)] }
            else compEvict p c v.1 5
          evictFor p rp e n kind f c

/-! ### Selection (R254) -/

def verOf (r : Req) : Option (Nat × Nat) := if r.ven then some (r.variant, r.version) else none

/-- new_version with the set full. -/
def versFull (rp : RollP) (c : Comp) (r : Req) : Bool :=
  match verOf r with
  | some v => !c.vers.contains v && decide (rp.vstep ≤ c.vers.length)
  | none => false

/-- select (R254). -/
def selectReq (c : Comp) (r : Req) (q : Plan) (decode : Bool) : Comp :=
  { c with
    sel := q :: c.sel,
    rows := if decode then c.rows + q.n else c.rows,
    left := if decode then c.left else c.left - q.n,
    vers := match verOf r with
      | some v => if c.vers.contains v then c.vers else v :: c.vers
      | none => c.vers }

def evictFuel (p : Nat) (c : Comp) : Nat := (partAt c.s p).reqs.length + 1

def composeDecode (p : Nat) (rp : RollP) (c : Comp) (e : Nat) : Comp :=
  match reqAt c.s p e with
  | none => c
  | some r =>
    let n := 1 + r.tlen
    if !(decide (r.st = .decode) || decide (r.st = .spec)) || decide (rp.maxdec < c.rows + n) || versFull rp c r then c
    else
      let c := evictFor p rp e n 1 (evictFuel p c) c
      let q := planOf c.s p rp e r n 1
      if drawersFor p rp c r q then selectReq c r q true else c

/-- Rows of the next chunk of an entry (R254, R260). -/
def chunkRows (rp : RollP) (left : Nat) (r : Req) : Nat :=
  let lim := min (64 * rp.chunk) left
  if r.plen ≤ r.klen + lim then r.plen - r.klen else (r.klen + lim) / 64 * 64 - r.klen

def composePrefill (p : Nat) (rp : RollP) (bad : List Nat) (c : Comp) (e : Nat) : Comp :=
  match reqAt c.s p e with
  | none => c
  | some r =>
    let n := chunkRows rp c.left r
    let kind := if r.plen ≤ r.klen + n then 3 else 2
    if c.stop || !(decide (r.st = .admitted) || decide (r.st = .pfill)) || decide (n = 0) || versFull rp c r then c
    else
      let c := evictFor p rp e n kind (evictFuel p c) c
      let q := planOf c.s p rp e r n kind
      let hb := ((regionAt c.s p rp.pregion).map (fun g => g.p.hostback)).getD false
      if !drawersFor p rp c r q then { c with stop := true }
      else if hb && bad.contains e then compEvict p c e 10
      else selectReq c r q false

/-! ### Packing (R255) -/

/-- A selected request in its place: the plan, first row, and the entry as it is composed. -/
structure Laid where
  q : Plan
  r : Req
  row0 : Nat

/-- Variant slot key: requests without a variant first, then by id, then by version. -/
def slotKey (r : Req) : Nat × Nat := if r.ven then (r.variant + 1, r.version) else (0, 0)

/-- Row order of R255. -/
def rowBefore (a b : Plan × Req) : Bool :=
  let x := slotKey a.2
  let y := slotKey b.2
  decide (x.1 < y.1) || (decide (x.1 = y.1) && (decide (x.2 < y.2) || (decide (x.2 = y.2) &&
    (decide (a.1.kind = 1 ∧ b.1.kind ≠ 1) || (decide (a.1.kind = 1 ↔ b.1.kind = 1) && rankLt a.2 b.2)))))

/-- Where the packing stands: next row, the pairs of its block, the requests laid. -/
structure Pack where
  pos : Nat
  vs : List (Nat × Nat)
  out : List Laid

def packOne (rp : RollP) (k : Pack) (x : Plan × Req) : Pack :=
  let vs := if k.pos % 64 = 0 then [] else k.vs
  let full := match verOf x.2 with
    | some v => !vs.contains v && decide (rp.vmax ≤ vs.length)
    | none => false
  let pos := if full then cdiv k.pos 64 * 64 else k.pos
  let own : List (Nat × Nat) := (verOf x.2).toList
  let vs := if full then own else (vs ++ own).dedup
  let fin := pos + x.1.n
  { pos := fin, vs := if fin / 64 = pos / 64 then vs else own, out := k.out ++ [⟨x.1, x.2, pos⟩] }

def packAll (rp : RollP) (l : List (Plan × Req)) : Pack :=
  (sortBy rowBefore l).foldl (packOne rp) ⟨0, [], []⟩

/-- Take requests out, last selected first, until the rows fit (R255). -/
def packFit (rp : RollP) : List (Plan × Req) → List Laid
  | [] => []
  | x :: r =>
    let k := packAll rp (x :: r)
    if k.pos ≤ rp.tokbudget then k.out else packFit rp r

/-! ### Manifests (R256) -/

def slotSize (rp : RollP) : Nat := 64 + 82 * rp.tokbudget

def slotBase (rp : RollP) (step : Nat) : Nat := step % (rp.mbufs + 1) * slotSize rp

/-- Variants of a block, in the order of its rows. -/
def blockVers (l : List Laid) (b : Nat) : List (Nat × Nat) :=
  (l.filterMap (fun x => if x.row0 < 64 * b + 64 ∧ 64 * b < x.row0 + x.q.n then verOf x.r else none)).dedup

/-- Image of a variant's version: region and offset. -/
def imageOf (x : Part) (v : Nat × Nat) : Nat × Nat :=
  let e := ventAt x v.1
  match (e.cur.toList ++ e.prv.toList).find? (fun c => decide (c.ver = v.2)) with
  | some c => (c.region, c.off)
  | none => (0, 0)

/-- Position at which an entry's prompt image starts: the length of its prefix (R245, R262). -/
def promptStart (x : Part) (r : Req) : Nat :=
  if r.prefixH = 0xFFFF then 0 else ((mapFind x.handles r.prefixH).map (fun h => h.len)).getD 0

/-- Prompt token at a position (R260): read from T2, or as host memory answers for a HOSTBACK region. -/
def promptToken (s : State) (p : Nat) (rp : RollP) (toks : List (Nat × List Nat)) (e : Nat) (r : Req) (j : Nat) : Nat :=
  match regionAt s p rp.pregion with
  | none => 0
  | some g =>
    if g.p.hostback then (((toks.find? (fun x => decide (x.1 = e))).map (fun x => x.2)).getD []).getD j 0 % 2 ^ 20
    else leNat (readBytes s (readPages g) (r.proff + 4 * (r.klen + j - promptStart (partAt s p) r)) 4) % 2 ^ 20

/-- Row record of row n. -/
def rowRecord (s : State) (p : Nat) (rp : RollP) (toks : List (Nat × List Nat)) (l : List Laid) (n : Nat) : List Byte :=
  let ix := (List.range l.length).find? (fun k => match l[k]? with
    | some x => decide (x.row0 ≤ n) && decide (n < x.row0 + x.q.n)
    | none => false)
  leBytes 16 (match ix.bind (fun k => l[k]?) with
  | none => packFields [⟨16, 4, 15⟩]
  | some x =>
    let j := n - x.row0
    let kind := if x.q.kind = 1 then (if j = 0 then 1 else 2) else 3
    let vs := match verOf x.r with
      | some v => (blockVers l (n / 64)).idxOf v
      | none => 15
    let smp := decide (x.q.kind = 1) || (decide (x.q.kind = 3) && decide (j + 1 = x.q.n))
    let tok := if x.q.kind = 1 then (if j = 0 then x.r.last else x.r.draft.getD (j - 1) 0)
      else promptToken s p rp toks x.q.e x.r j
    packFields [⟨0, 14, x.q.e⟩, ⟨14, 2, kind⟩, ⟨16, 4, vs⟩, ⟨20, 1, b2n smp⟩,
      ⟨21, 4, if x.q.kind = 1 then j else 0⟩, ⟨32, 24, x.r.klen + j⟩, ⟨64, 20, tok⟩, ⟨96, 16, ix.getD 0⟩])

/-- What the composer writes of a request record: bits [143:0]. -/
def reqRecord (s : State) (p : Nat) (x : Laid) : List Byte :=
  let dh := ((reqAt s p x.q.e).map (fun r => r.dhead)).getD drawerNone
  leBytes 18 (packFields [⟨0, 14, x.q.e⟩, ⟨14, 2, x.q.kind⟩, ⟨16, 16, x.row0⟩, ⟨32, 16, x.q.n⟩,
    ⟨48, 4, if x.q.kind = 1 then x.r.tlen else 0⟩, ⟨64, 32, dh⟩, ⟨96, 24, x.r.klen⟩])

def blockRecord (x : Part) (l : List Laid) (b : Nat) : List Byte :=
  let vs := blockVers l b
  leBytes 128 (packFields (((List.range vs.length).zip vs).map (fun e =>
      (⟨64 * e.1, 64, (imageOf x e.2).1 % 65536 + 65536 * (imageOf x e.2).2⟩ : FieldVal)) ++
    [⟨960, 15, 2 ^ vs.length - 1⟩]))

/-- Write a manifest slot's parts: header and rows, request records, block records. -/
def putManifest (s : State) (p : Nat) (rp : RollP) (step : Nat) (head : List Byte) (rs : List (List Byte))
    (blocks : List Byte) : State :=
  let base := slotBase rp step
  let s := writeRegion s p rp.mregion base head
  let s := ((List.range rs.length).zip rs).foldl (fun s e =>
    writeRegion s p rp.mregion (base + 64 + 16 * rp.tokbudget + 64 * e.1) e.2) s
  writeRegion s p rp.mregion (base + 64 + 80 * rp.tokbudget) blocks

/-- Header and row records of a composition. -/
def manifestHead (s : State) (p : Nat) (rp : RollP) (toks : List (Nat × List Nat)) (step : Nat) (l : List Laid) : List Byte :=
  let count (k : Bool) : Nat := ((l.filter (fun x => decide (x.q.kind = 1) == k)).map (fun x => x.q.n)).sum
  leBytes 64 (packFields [⟨0, 32, step⟩, ⟨32, 16, rp.tokbudget⟩, ⟨48, 16, l.length⟩, ⟨64, 16, count true⟩,
    ⟨80, 16, count false⟩, ⟨96, 16, (l.filterMap (fun x => verOf x.r)).dedup.length⟩]) ++
    ((List.range rp.tokbudget).map (rowRecord s p rp toks l)).flatten

/-- A request as a step record holds it. -/
def laidReq (x : Laid) : StepReq := ⟨x.q.e, x.q.kind, x.row0, x.q.n, if x.q.kind = 1 then x.r.tlen else 0, x.r.klen⟩

/-- A step is in flight from its manifest on: entries placed for the first time are being prefilled (R248). -/
def openStep (s : State) (p step : Nat) (reqs : List StepReq) : State :=
  let s := updRun s p (fun r => { r with nextStep := step + 1, steps := r.steps ++ [⟨step, reqs, []⟩] })
  reqs.foldl (fun s q => match reqAt s p q.req with
    | some r => if r.st = .admitted then setReq s p q.req { r with st := .pfill } else s
    | none => s) s

/-- Evictions by R275 before a composition, and by FORM at the first that considers an entry (R248, R254). -/
def composeEvicts (s : State) (p : Nat) (rp : RollP) (l : List (Nat × Req)) : Comp :=
  l.foldl (fun c e =>
    let k := dueReason e.2 s.time.now
    if k ≠ 0 then compEvict p c e.1 k
    else if e.2.st = .admitted ∧ !e.2.seen then
      (if fitsTurn c.s p rp e.2 then { c with s := setReq c.s p e.1 { e.2 with seen := true } } else compEvict p c e.1 10)
    else c)
    ⟨s, [], 0, 0, [], [], false⟩

/-- Send a message to the other members of this module's decoding set (R253). -/
def sendSet (s : State) (p : Nat) (c : Camp) (m : FMsg) : State :=
  (setPeers s c (progOf (partAt s p))).foldl (fun s k => sendTo s k m) s

/-- The composition of a step (R254 to R256). -/
def composeStep (s : State) (p : Nat) (c : Camp) (r : Run) (rp : RollP) (drs : List Nat) (toks : List (Nat × List Nat))
    (bad : List Nat) : State :=
  let k := composeEvicts s p rp (considered (partAt s p) r)
  let order := (byRank (considered (partAt k.s p) r)).map (fun e => e.1)
  let k := order.foldl (composeDecode p rp) k
  let k := order.foldl (composePrefill p rp bad) { k with left := rp.tokbudget - k.rows }
  let laid := packFit rp (k.sel.filterMap (fun q => (reqAt k.s p q.e).map (fun r => (q, r))))
  let s := k.s
  if laid = [] then
    if k.evicts = [] then s else sendSet s p c (.manifest c.p.id c.turnIx r.nextStep [] k.evicts [])
  else
    let step := r.nextStep
    let a := (laid.map (fun x => x.q)).foldl (fun k q => applyPlan k p rp q) ⟨s, drs, []⟩
    let s := a.s
    let head := manifestHead s p rp toks step laid
    let blocks := ((List.range (rp.tokbudget / 64)).map (blockRecord (partAt s p) laid)).flatten
    let s := putManifest s p rp step head (laid.map (reqRecord s p)) blocks
    let s := openStep s p step (laid.map laidReq)
    let slot := ((regionAt s p rp.mregion).map (fun g => readBytes s g.wpages (slotBase rp step) (slotSize rp))).getD []
    sendSet s p c (.manifest c.p.id c.turnIx step slot k.evicts a.got)

/-! ### Commits (R258) -/

/-- Parts that this module plays in its set: the composer holds the set's lowest position, the sampler its highest (R253). -/
def isComposer (s : State) (p : Nat) (c : Camp) : Bool :=
  (heldPos s c).any (fun k => (setPos s c (progOf (partAt s p))).all (fun j => decide (k ≤ j)))
def isSampler (s : State) (p : Nat) (c : Camp) : Bool :=
  (heldPos s c).any (fun k => (setPos s c (progOf (partAt s p))).all (fun j => decide (j ≤ k)))

/-- A running rollout turn of a partition: campaign, run, parameters. -/
def rollRun (s : State) (p : Nat) : Option (Camp × Run × RollP) :=
  let x := partAt s p
  match x.camp, turnOf x with
  | some c, some t => (match c.run with
    | some r => if t.kind = .rollout ∧ c.phase = .turn ∧ !r.ended2 ∧ issues s p then some (c, r, t.rp) else none
    | none => none)
  | _, _ => none

/-- A request record of a manifest slot, as it stands in memory. -/
def recordNow (s : State) (p : Nat) (rp : RollP) (step k : Nat) : Nat :=
  leNat (regionBytes s p rp.mregion (slotBase rp step + 64 + 16 * rp.tokbudget + 64 * k) 64)

/-- QR.NDOUT and QR.DOUT. -/
def ndoutOf (v : Nat) : Nat := fld v 52 4
def doutOf (v : Nat) : List Nat := (List.range 15).map (fun n => fld v (144 + 20 * n) 20)

/-- STEP_FORM conditions 1 and 2 of a record; 0: none (R258). -/
def recordForm (rp : RollP) (y : StepRec) (q : StepReq) (ndout : Nat) : Nat :=
  if (drawsOf y q.req).length ≠ sampledRows q then 1 else if rp.specmax < ndout then 2 else 0

/-- Commit one token (R258 item 3): the output area, CLEN, BG.CTR and, for decode, KLEN. -/
def commitToken (s : State) (p : Nat) (rp : RollP) (e : Nat) (decode : Bool) (d : Draw) (token : Nat) : State :=
  match reqAt s p e with
  | none => s
  | some r =>
    let s := writeRegion s p rp.oregion (r.outoff + 64 + 8 * r.clen)
      (leBytes 8 (packFields [⟨0, 20, token⟩, ⟨32, 32, d.logprob.toNat⟩]))
    setReq s p e { r with clen := r.clen + 1, klen := if decode then r.klen + 1 else r.klen, last := token,
                          bg := { r.bg with ctr := r.bg.ctr + 1 } }

/-- How a request stands after a commit: it goes on, has ended, or its draw has failed. -/
def endReason (r : Req) (token : Nat) : Nat := if r.stops.contains token then 1 else if r.clen = r.maxgen then 2 else 0

/-- Commit draws from offset t on (R258 items 2 to 4, R265). The answer's second part is the reason it ended, 0 none. -/
def commitDraws (p : Nat) (rp : RollP) (e : Nat) (decode : Bool) (drafts : List Nat) : List Draw → State → State × Nat
  | [], s => (s, 0)
  | d :: r, s =>
    if d.stat ≠ 0 then (s, 6)
    else
      let s := commitToken s p rp e decode d d.token
      let why := ((reqAt s p e).map (fun q => endReason q d.token)).getD 0
      if why ≠ 0 then (s, why)
      else match drafts with
        | x :: xs => if d.token = x then commitDraws p rp e decode xs r s else (s, 0)
        | [] => (s, 0)

/-- Commit a request record (R258). `evict` answers the reason for which the entry is then evicted, 0 none. -/
def commitReq (s : State) (p : Nat) (rp : RollP) (q : StepReq) (draws : List Draw) (ndout : Nat) (dout : List Nat)
    (evict : Req → Nat) : State :=
  match reqAt s p q.req with
  | none => s
  | some r0 =>
    let s := if q.kind = 1 then s else setReq s p q.req { r0 with klen := r0.klen + q.nrows }
    let x := if q.kind = 2 then (s, 0)
      else commitDraws p rp q.req (decide (q.kind = 1)) (if q.kind = 1 then r0.draft.take q.ndin else []) draws s
    let s := truncateReq x.1 p rp q.req
    match reqAt s p q.req with
    | none => s
    | some r =>
      if x.2 = 1 ∨ x.2 = 2 then finishReq s p q.req .done x.2
      else if x.2 = 6 then evictReq s p q.req 6
      else
        let n := if q.kind = 2 then 0 else min (min ndout rp.specmax) (r.maxgen - r.clen - 1)
        let r1 : Req := { r with tlen := n, draft := dout.take n,
                                 st := if q.kind = 2 then .pfill else if n = 0 then .decode else .spec }
        let s := setReq s p q.req r1
        if evict r1 = 0 then s else evictReq s p q.req (evict r1)

/-- Take a step out of flight. -/
def closeStep (s : State) (p step : Nat) : State :=
  updRun s p (fun r => { r with steps := r.steps.filter (fun y => y.step ≠ step) })

/-- Request records of a step with their places. -/
def numbered (y : StepRec) : List (Nat × StepReq) := (List.range y.reqs.length).zip y.reqs

/-- Is the sampler done with a step: every segment committed, no whole request undrawn (R258)? -/
def stepDrawn (s : State) (p : Nat) (r : Run) (pr : Program) (step : Nat) : Bool :=
  pr.segs.all (fun d => doneAt r d.id step) &&
    !s.samp.any (fun q => decide (q.part = p) && decide (q.step = step) && decide (q.parts.length = q.npart))

/-- The sampler's commit of a step (R258): the commit record goes to the other positions. -/
def samplerCommit (s : State) (p : Nat) (c : Camp) (rp : RollP) (y : StepRec) : State :=
  let now := s.time.now
  let rs := (numbered y).map (fun e => (e.2, recordNow s p rp y.step e.1))
  match rs.findSome? (fun e =>
      let k := recordForm rp y e.1 (ndoutOf e.2)
      if k = 0 then none else some (e.1.req, k)) with
  | some b => hubFault s p 0x0330 (b.1 + 2 ^ 24 * b.2)
  | none =>
    let gone := rs.filterMap (fun e => (reqAt s p e.1.req).bind (fun r =>
      if dueReason r now = 0 then none else some (e.1.req, dueReason r now)))
    let s := rs.foldl (fun s e => commitReq s p rp e.1 (drawsOf y e.1.req) (ndoutOf e.2) (doutOf e.2)
      (fun r => dueReason r now)) s
    let s := closeStep s p y.step
    sendSet s p c (.commit c.p.id c.turnIx y.step y.draws
      (rs.map (fun e => (e.1.req, (doutOf e.2).take (ndoutOf e.2)))) gone)

/-! ### Prompt lists (R243, R357) -/

/-- REQ_ADMIT parameters from 112 bytes (R357). -/
def admitOf (b : List Byte) : AdmitP :=
  let v := leNat (b.take 112)
  { tag := BitVec.ofNat 64 (fld v 0 64), deadline := BitVec.ofNat 64 (fld v 64 64), outoff := fld v 128 64,
    proff := fld v 192 64, plen := fld v 256 24, maxgen := fld v 280 24, variant := fld v 304 16,
    prefixH := fld v 320 16, temp := BitVec.ofNat 32 (fld v 336 32), topk := fld v 368 11, topp := fld v 384 16,
    prio := fld v 400 3, ven := bitOf v 403, keysrc := bitOf v 404, ctrsrc := bitOf v 405,
    stops := (List.range (fld v 406 3)).map (fun k => fld v (416 + 20 * k) 20),
    key := BitVec.ofNat 128 (fld v 512 128), ctr := BitVec.ofNat 128 (fld v 640 128) }

/-- The prompt-list entry that is next, where it is held in T2. -/
def listEntry (s : State) (p : Nat) (rp : RollP) (n : Nat) : Option AdmitP :=
  (regionAt s p rp.pregion).bind (fun g =>
    if g.p.hostback then none else some (admitOf (readBytes s (readPages g) (rp.listoff + 128 * n) 112)))

/-! ### Rows -/

/-- TURN_END_TIME (R8, R276): admission closes and what remains is evicted; entries of a step in flight at its
commit. -/
def execTurnEndTime (part : Fin 32) (t : Word64) (s : State) : Out :=
  ok (match rollRun s part with
    | none => s
    | some x =>
      if x.2.2.endt = 0 ∨ t.ult x.2.2.endt then s
      else atTime s t (fun s =>
        let s := updRun s part (fun r => { r with admOpen := false })
        let l := ((partAt s part).reqs.filter (fun e => decide (e.2.turn = some (partAt s part).turnSeq) && reqOpen e.2))
        let s := l.foldl (fun s e => if inFlight x.2.1 e.1 then setReq s part e.1 { e.2 with due := 7 }
          else evictReq s part e.1 7) s
        schedule (turnLoop s part)))

/-- The chunk in buffer n is discarded and counted. -/
def discardChunk (s : State) (n : Nat) (b : ChunkBuf) : State :=
  bufDone (setBuf (dropChunk s) n { b with written := true }) n

/-- A chunk for another member goes one hop further while CH.HOPS allows it (R299, R301). -/
def relayChunk (s : State) (n : Nat) (b : ChunkBuf) (c : Chunk) : State :=
  let l := ((s.fabric.bulk.find? (fun e => decide (e.1 = c.dmem))).map (fun e => e.2)).getD []
  match (if c.hops = 0 then none else l.find? (fun w => decide (w.2 = c.dmem))) with
  | some w => bufDone (forwardFrom (setBuf s n { b with written := true }) n c w) n
  | none => discardChunk s n b

/-- The pair and destination piece of a running switch to which a layout pair's chunk belongs, with the bits that it gives. -/
def pairPiece (x : Part) (cp : Camp) (sw : Switch) (c : Chunk) : Option (PairD × Piece × Range) :=
  (sw.pairs.filterMap (fun y => pairDesc x cp sw y.pair)).findSome? (fun pr =>
    if pr.hd.dregion = c.region then (pieceFor pr c.dpos c.spos c.off c.data.length).map (fun e => (pr, e.2)) else none)

/-- A chunk of a layout pair at its destination lands and goes on along its chain (R303, R310, R318). -/
def landPair (s : State) (n : Nat) (b : ChunkBuf) (c : Chunk) : State :=
  let p := c.part.val
  match (partAt s p).camp.bind (fun cp => cp.sw.map (fun sw => (cp, sw))) with
  | none => discardChunk s n b
  | some e =>
    match pairPiece (partAt s p) e.1 e.2 c with
    | none => discardChunk s n b
    | some d =>
      if !issues s p ∨ c.epoch ≠ e.2.epoch ∨ !boundWith s e.1 (memberAt e.1 c.spos) ∨ !(heldPos s e.1).contains c.dpos then
        discardChunk s n b
      else bufDone (passOn (setBuf s n { b with written := true }) p e.1 d.1 d.2.2 c (some n) (fromPos d.2.1 c.dpos)) n

/-- A whole chunk in a buffer, that is not a collective's for this module. One that comes before its switch has begun here waits. -/
def takeChunk (n : Nat) (t : Word64) (s : State) : State :=
  match mapFind s.fabric.bufs n with
  | none => s
  | some b =>
    if !b.whole ∨ b.written then s
    else match chunkOf b.bytes with
      | none => atTime s t (fun s => discardChunk s n b)
      | some c =>
        if c.dmem ≠ s.fabric.member then atTime s t (fun s => relayChunk s n b c)
        else if c.kind = 2 then s
        else if decide (c.kind < 2) && ((partAt s c.part).camp.elim false (fun cp => comesEarly s c.part (memberAt cp c.spos) true c.epoch))
        then s
        else atTime s t (fun s => if 2 < c.kind then discardChunk s n b else landPair s n b c)

/-- A message on a layout pair's chunks for a partition (R303, R304): it waits for its switch as a chunk does. -/
def pairMsg (s : State) (p : Nat) (m : MsgAt) (t : Word64) (f : State → State) : State :=
  if comesEarly s p m.frm true 0 then s else atTime s t (fun s => fromBound s p m f)

/-- CHUNK_RECEIVE (R301 to R304, R310, R318): a chunk, or a message on chunks, for which the table has no row (DESIGN CHOICE, log entry
23). -/
def execChunkReceive (x : Inbound) (t : Word64) (s : State) : Out :=
  ok (match x with
    | .chunk n => takeChunk n t s
    | .fetch m f => pairMsg s f.part m t (fun s => serveFetch s f.part m.frm f)
    | .lost m l => pairMsg s l.part m t (fun s => chunkLost s l.part l))

/-- LIST_ADMISSION (R243, R244): the next prompt-list entry, once it can be admitted. An entry that R262 or R269 rejects
is passed over (log entry 12). -/
def execListAdmission (part : Fin 32) (p : AdmitP) (e : Nat) (drs : List Nat) (t : Word64) (s : State) : Out :=
  ok (match rollRun s part with
    | none => s
    | some x =>
      let r := x.2.1
      let rp := x.2.2
      let st := admitStatus s part p
      let ok := (match listEntry s part rp r.listNext with
        | some a => decide (a = p)
        | none => true)
      if !r.admOpen ∨ rp.nprompt ≤ r.listNext ∨ !ok ∨ st = 0x0108 ∨ (st = 0 ∧ !admitChoice s part e p drs) then s
      else atTime s t (fun s =>
        let s := if st = 0 then admitReq s part e p true drs else s
        let s := updRun s part (fun r => { r with
          listNext := r.listNext + 1,
          admOpen := r.admOpen && !(decide (rp.close = 0) && decide (r.listNext + 1 = rp.nprompt)) })
        schedule (turnLoop s part)))

/-- The other members whose modules must have committed a step before its manifest slot is used again (R253). -/
def slotPeers (s : State) (p : Nat) (c : Camp) (rp : RollP) (step : Nat) : List Nat :=
  if step ≤ rp.mbufs then [] else setPeers s c (progOf (partAt s p))

/-- STEP_COMPOSE (R253 to R256). `reports` are the members that have told the composer that they have committed the step that used
the manifest slot before. -/
def execStepCompose (part : Fin 32) (e : ComposeIn) (toks : List (Nat × List Nat)) (bad : List Nat) (t : Word64)
    (s : State) : Out :=
  ok (match rollRun s part with
    | none => s
    | some x =>
      if !isComposer s part x.1 ∨ x.1.stop ∨ !(slotPeers s part x.1 x.2.2 x.2.1.nextStep).all e.reports.contains ∨ !x.2.1.steps.all (fun y => decide (x.2.1.nextStep < y.step + x.2.2.mbufs + 1)) then s
      else atTime s t (fun s => schedule (turnLoop (composeStep s part x.1 x.2.1 x.2.2 e.drs toks bad) part)))

/-- MANIFEST_RECEIVE (R253): the slot, the evictions and the drawers of the composer's step; a message without a slot
carries the evictions of a composition that selected nothing (log entry 36). It is applied once the earlier steps that hold one of its
entries have committed here: their rows start from the KLEN that those commits leave. -/
def execManifestReceive (part : Fin 32) (w : MsgNum) (slot : List Byte) (e : ManifestReqs)
    (evicts : List (Nat × Nat)) (t : Word64) (s : State) : Out :=
  ok (match rollRun s part with
    | none => s
    | some x =>
      let rp := x.2.2
      if isComposer s part x.1 ∨ e.reqs.any (fun q => inFlight x.2.1 q.req) ∨ w.num ≠ x.2.1.nextStep ∨ (slot.length ≠ slotSize rp ∧ (slot ≠ [] ∨ e.reqs ≠ [])) then s
      else atTime s t (fun s => fromBound s part w.msg (fun s =>
        let s := evicts.foldl (fun s v => match reqAt s part v.1 with
          | some r => if !reqOpen r then s
            else if inFlight x.2.1 v.1 then setReq s part v.1 { r with due := v.2 } else evictReq s part v.1 v.2
          | none => s) s
        if slot = [] then schedule (turnLoop s part)
        else
        let s := (e.reqs.foldl (fun (k : Picks) q => match reqAt k.s part q.req with
          | some r => applyPlan k part rp (planOf k.s part rp q.req r q.nrows q.kind)
          | none => k) ⟨s, e.drs, []⟩).s
        let rec0 := (List.range e.reqs.length).map (fun k => bytesAt slot (64 + 16 * rp.tokbudget + 64 * k) 18)
        let s := putManifest s part rp w.num (slot.take (64 + 16 * rp.tokbudget)) rec0
          (bytesAt slot (64 + 80 * rp.tokbudget) (2 * rp.tokbudget))
        schedule (turnLoop (openStep s part w.num e.reqs) part))))

/-- ROLLOUT_COMMIT (R258). -/
def execRolloutCommit (part : Fin 32) (step : Nat) (t : Word64) (s : State) : Out :=
  ok (match rollRun s part, progOf (partAt s part) with
    | some x, some pr =>
      (match x.2.1.steps.head? with
      | some y =>
        if y.step ≠ step ∨ !isSampler s part x.1 ∨ !stepDrawn s part x.2.1 pr step then s
        else atTime s t (fun s => schedule (turnLoop (samplerCommit s part x.1 x.2.2 y) part))
      | none => s)
    | _, _ => s)

/-- COMMIT_RECORD_RECEIVE (R253): the sampler's commit, applied as it decided; an entry that this module has had to evict at the step's
commit is evicted then too, where the sampler committed first (R274, R276). -/
def execCommitRecordReceive (part : Fin 32) (w : MsgNum) (draws : List Draw) (drafts : List (Nat × List Nat))
    (evicts : List (Nat × Nat)) (t : Word64) (s : State) : Out :=
  ok (match rollRun s part with
    | none => s
    | some x =>
      match x.2.1.steps.head? with
      | some y =>
        if y.step ≠ w.num ∨ isSampler s part x.1 then s
        else atTime s t (fun s => fromBound s part w.msg (fun s =>
          let s := y.reqs.foldl (fun s q =>
            let dr := ((drafts.find? (fun e => decide (e.1 = q.req))).map (fun e => e.2)).getD []
            let why := ((evicts.find? (fun e => decide (e.1 = q.req))).map (fun e => e.2)).getD 0
            commitReq s part x.2.2 q (draws.filter (fun d => d.req = q.req)) dr.length dr (fun r => if why ≠ 0 then why else r.due)) s
          schedule (turnLoop (closeStep s part w.num) part)))
      | none => s)

end Sys2Proof.Machine
end

