-- ==== Sys2Proof/Machine/Entries.lean ====
section
/-! DEFINITION. Submission entries (R331, R336): opcodes, and the parameter records that have a byte layout (R203, R216,
R241, R330, R339, R352, R357, R367, R368, R374). -/

namespace Sys2Proof.Machine

open Sys2Proof

/-- SE.OPC of a command (R336). -/
def opcOf : HostCmd → Nat
  | .partCreate _ => 0x0101
  | .partDestroy => 0x0102
  | .partStart => 0x0103
  | .partStop => 0x0104
  | .partQuota _ => 0x0105
  | .partSeed _ => 0x0106
  | .partFlagmask _ => 0x0107
  | .partServe _ _ => 0x0108
  | .groupAdd _ => 0x0109
  | .groupRemove _ => 0x010A
  | .partRecover => 0x010B
  | .partSave _ => 0x010C
  | .partRestore _ => 0x010D
  | .queueCreate _ => 0x010E
  | .queueDelete _ _ => 0x010F
  | .regionCreate _ => 0x0201
  | .regionFree _ => 0x0202
  | .regionStage _ _ _ => 0x0203
  | .regionPublish _ => 0x0204
  | .regionAbandon _ => 0x0205
  | .copyIn _ => 0x0206
  | .copyOut _ => 0x0207
  | .regionFill _ => 0x0208
  | .progLoad _ => 0x0301
  | .progUnload _ => 0x0302
  | .campaignStart _ => 0x0401
  | .campaignStop => 0x0402
  | .reqAdmit _ => 0x0501
  | .reqCancel _ => 0x0502
  | .reqRelease _ => 0x0503
  | .prefixCreate _ _ => 0x0504
  | .prefixRelease _ => 0x0505
  | .variantSet _ _ => 0x0506
  | .variantClear _ => 0x0507
  | .admitClose => 0x0508
  | .groupId _ => 0x0601
  | .groupFound => 0x0602
  | .groupLeave => 0x0603
  | .portEnable _ => 0x0604
  | .portDisable _ => 0x0605
  | .portHello _ => 0x0606
  | .powerLevel _ => 0x0701
  | .gearLimit _ _ => 0x0702
  | .energyBudget _ _ => 0x0703
  | .brakeTest _ => 0x0704
  | .snapshotAt _ _ => 0x0801
  | .snapshotMark _ _ => 0x0802
  | .counterRead _ _ => 0x0803
  | .recordRead _ _ => 0x0804
  | .faultLogRead _ _ _ => 0x0805
  | .historyRead _ => 0x0806
  | .attest _ _ _ => 0x0901
  | .measureRead _ _ => 0x0902
  | .certRead _ => 0x0903
  | .configUpdate _ => 0x0904
  | .undefined n => n

/-- Is an opcode of R336's table? -/
def opcDefined (n : Nat) : Bool :=
  [(0x0101, 0x010F), (0x0201, 0x0208), (0x0301, 0x0302), (0x0401, 0x0402), (0x0501, 0x0508), (0x0601, 0x0606),
   (0x0701, 0x0704), (0x0801, 0x0806), (0x0901, 0x0904)].any (fun r => decide (r.1 ≤ n) && decide (n ≤ r.2))

/-! ### Records with a byte layout -/

/-- Quota record (R203). -/
def quotaOf (v : Nat) : Quota := ⟨fld v 0 16, fld v 16 16, fld v 32 16, fld v 48 16, fld v 64 32, fld v 96 32⟩

/-- Queue descriptor (R330). -/
def qdescOf (v : Nat) : QDesc :=
  { num := fld v 0 3, isCQ := bitOf v 3, lsize := fld v 4 5, cq := fld v 9 3, vec := fld v 12 6, ien := bitOf v 18,
    itime := fld v 32 16, base := BitVec.ofNat 64 (fld v 64 64), araddr := BitVec.ofNat 64 (fld v 128 64),
    seq0 := BitVec.ofNat 64 (fld v 192 64) }

/-- PART_CREATE parameters (R339). -/
def partCreateOf (v : Nat) : PartCreateP :=
  { part := Fin.ofNat 32 (fld v 0 5), groups := (List.range (fld v 5 5)).map (fun i => fld v (64 + 5 * i) 5),
    flagmask := BitVec.ofNat 7 (fld v 10 7), entries := fld v 17 15, handles := fld v 32 13,
    seed := BitVec.ofNat 256 (fld v 192 256), quota := quotaOf (fld v 448 256) }

/-- Learning parameters (R216). -/
def learnOf (v : Nat) : LearnP :=
  { steps := fld v 0 32, step0 := fld v 32 32, deadline0 := BitVec.ofNat 64 (fld v 64 64), period := fld v 128 32,
    mingap := fld v 160 32, waitmax := fld v 192 32, smax := fld v 224 4, gbufs := fld v 228 4, quorum := fld v 232 12,
    replay := bitOf v 244, sreg := fld v 245 6, readyseg := fld v 256 16, clamp := fld v 272 16, creg := fld v 288 6,
    coll := fld v 304 16, recaddr := BitVec.ofNat 64 (fld v 320 64), logaddr := BitVec.ofNat 64 (fld v 384 64),
    recslots := fld v 448 16, logslots := fld v 464 16 }

/-- Rollout parameters (R241). -/
def rollParamsOf (v : Nat) : RollP :=
  { tokbudget := fld v 0 16, maxdec := fld v 16 16, chunk := fld v 32 8, specmax := fld v 40 4, vmax := fld v 44 4,
    dposl := fld v 48 4, dlanes := fld v 52 12, dregion := fld v 64 16, mregion := fld v 80 16, mbufs := fld v 96 4,
    sreg := fld v 100 6, oregion := fld v 120 16, pregion := fld v 136 16, vclass := fld v 152 16,
    maxlen := fld v 168 24, nprompt := fld v 192 24, listoff := fld v 216 40, endt := BitVec.ofNat 64 (fld v 256 64),
    vstep := fld v 320 16, close := fld v 336 2 }

def vsetOf (v : Nat) : VSetP := ⟨fld v 0 16, fld v 16 2, fld v 32 16, fld v 48 16, fld v 64 48⟩
def ckptOf (v : Nat) : CkptP := ⟨fld v 0 16, fld v 32 48, fld v 80 48, BitVec.ofNat 64 (fld v 128 64)⟩

def turnKindOf (n : Nat) : TKind := if n = 0 then .rollout else if n = 1 then .reward else if n = 2 then .learning else .checkpoint

/-- Offsets of a turn's variant-set and checkpoint entries, after the pair ids padded to 32 bytes (R352). -/
def vsetOff (b : List Byte) (o : Nat) : Nat := numAt b (o + 8) 8 + cdiv (2 * numAt b (o + 1) 1) 32 * 32
def ckptOff (b : List Byte) (o : Nat) : Nat := vsetOff b o + 32 * numAt b (o + 4) 2

/-- Turn descriptor at an offset of a campaign's parameters (R352). -/
def turnAt (b : List Byte) (o : Nat) : TurnP :=
  let v := numAt b o 256
  { kind := turnKindOf (fld v 0 2), prog := fld v 16 16,
    pairs := (List.range (fld v 8 8)).map (fun j => numAt b (fld v 64 64 + 2 * j) 2),
    vsets := (List.range (fld v 32 16)).map (fun j => vsetOf (numAt b (vsetOff b o + 32 * j) 32)),
    ckpts := (List.range (fld v 48 16)).map (fun j => ckptOf (numAt b (ckptOff b o + 32 * j) 32)),
    lt := learnOf (fld v 128 512), rp := rollParamsOf (fld v 128 512) }

/-- Campaign descriptor (R352). -/
def campaignOf (b : List Byte) : CampaignP :=
  let v := numAt b 0 128
  { id := fld v 0 32, fromTurn := fld v 48 16,
    positions := (List.range (fld v 64 12)).map (fun j => numAt b (fld v 96 32 + 2 * j) 2),
    autoresume := bitOf v 76, rdvlimit := fld v 80 16, recaddr := BitVec.ofNat 64 (fld v 128 64),
    recslots := fld v 192 16, pasid := BitVec.ofNat 20 (fld v 208 20),
    turns := (List.range (fld v 32 16)).map (fun k => turnAt b (fld v 256 32 + 256 * k)) }

/-- The command that an opcode and its parameter bytes spell, where the manual gives their layout. -/
def cmdOfParams (opc : Nat) (b : List Byte) : Option HostCmd :=
  let v := leNat (b.take 112)
  if opc = 0x0101 then some (.partCreate (partCreateOf v))
  else if opc = 0x0102 then some .partDestroy
  else if opc = 0x0103 then some .partStart
  else if opc = 0x0104 then some .partStop
  else if opc = 0x0105 then some (.partQuota (quotaOf v))
  else if opc = 0x010B then some .partRecover
  else if opc = 0x010E then some (.queueCreate (qdescOf v))
  else if opc = 0x0401 then some (.campaignStart (campaignOf b))
  else if opc = 0x0402 then some .campaignStop
  else if opc = 0x0501 then some (.reqAdmit (admitOf b))
  else if opc = 0x0508 then some .admitClose
  else if opc = 0x0602 then some .groupFound
  else if opc = 0x0603 then some .groupLeave
  else if opc = 0x0702 then some (.gearLimit (Fin.ofNat 32 (fld v 0 5)) (fld v 5 3))
  else if opc = 0x0703 then some (.energyBudget (Fin.ofNat 32 (fld v 0 5)) (fld v 16 16))
  else if opc = 0x0704 then some (.brakeTest (fld v 0 16))
  else if opcDefined opc then none
  else some (.undefined opc)

/-- Fields of a list that are not zero, as byte offsets from a base. -/
def setFields (v base : Nat) (fs : List (Nat × Nat)) : List Nat :=
  (fs.filter (fun f => decide (fld v f.1 f.2 ≠ 0))).map (fun f => base + f.1 / 8)

/-- Reserved fields of a turn descriptor and of its lists that are not zero, as byte offsets of the parameters. -/
def turnResv (b : List Byte) (o : Nat) : List Nat :=
  let v := numAt b o 256
  let k := fld v 0 2
  setFields v o [(2, 6)] ++
    (if k = 2 then setFields (fld v 128 512) (o + 16) [(251, 5), (294, 10), (480, 32)]
     else if k = 0 then setFields (fld v 128 512) (o + 16) [(106, 14), (338, 174)] else setFields v o [(128, 512)]) ++
    setFields v o [(640, 1408)] ++
    ((List.range (fld v 32 16)).map (fun j =>
      setFields (numAt b (vsetOff b o + 32 * j) 32) (vsetOff b o + 32 * j) [(18, 14), (112, 144)])).flatten ++
    ((List.range (fld v 48 16)).map (fun j =>
      setFields (numAt b (ckptOff b o + 32 * j) 32) (ckptOff b o + 32 * j) [(16, 16), (192, 64)])).flatten

/-- Reserved fields of a parameter record that are not zero, as byte offsets of the parameters (R333, R337 BAD_FIELD). -/
def paramResv (opc : Nat) (b : List Byte) : List Nat :=
  let v := leNat (b.take 112)
  if opc = 0x0101 then setFields v 0 [(45, 19), (64 + 5 * fld v 5 5, 120 - 5 * fld v 5 5), (184, 8), (576, 128)]
  else if opc = 0x0105 then setFields v 0 [(128, 128)]
  else if opc = 0x010E then setFields v 0 [(19, 13), (48, 16)]
  else if opc = 0x0401 then
    setFields (numAt b 0 128) 0 [(77, 3), (228, 28), (288, 736)] ++
      ((List.range (fld v 32 16)).map (fun k => turnResv b (fld v 256 32 + 256 * k))).flatten
  else if opc = 0x0501 then setFields v 0 [(379, 5), (409, 7), (496, 16), (768, 128)]
  else if opc = 0x0702 then setFields v 0 [(8, 56)]
  else if opc = 0x0703 then setFields v 0 [(5, 11), (32, 32)]
  else if opc = 0x0704 then setFields v 0 [(16, 48)]
  else []

/-- Bytes that a record with a layout takes. -/
def paramNeed (opc : Nat) : Nat :=
  if opc = 0x0101 then 88
  else if opc = 0x0105 ∨ opc = 0x010E then 32
  else if opc = 0x0401 then 128
  else if opc = 0x0501 then 112
  else if opc = 0x0702 ∨ opc = 0x0703 ∨ opc = 0x0704 then 8
  else 0

/-! ### The entry's own fields (R331) -/

def entOpc (e : SubEntry) : Nat := fld e.hdr.toNat 0 16
def entExt (e : SubEntry) : Bool := bitOf e.hdr.toNat 16
def entFence (e : SubEntry) : Bool := bitOf e.hdr.toNat 17
def entPlen (e : SubEntry) : Nat := fld e.hdr.toNat 32 32
def entSeq (e : SubEntry) : Word64 := BitVec.ofNat 64 (fld e.hdr.toNat 64 64)

/-- Is an entry one that can be fetched: its command is what its opcode and bytes spell? -/
def entryIs (e : SubEntry) : Bool :=
  decide (opcOf e.cmd = entOpc e) &&
    (match cmdOfParams (entOpc e) e.params with
    | some c => decide (c = e.cmd)
    | none => true)

/-- What is wrong with an entry's own fields (R331, R337 BAD_FIELD): a reserved bit set, a length out of range, or, with SE.EXT, an
SE.PADDR that is not 64-byte aligned or a reserved bit after it. -/
def entryForm (e : SubEntry) : Bool :=
  decide (setFields e.hdr.toNat 0 [(18, 6), (29, 3)] ≠ []) || decide ((if entExt e then 1048576 else 112) < entPlen e) ||
    decide (entPlen e < paramNeed (entOpc e)) ||
    (entExt e && (decide (e.ext.toNat % 64 ≠ 0) || decide (2 ^ 64 ≤ e.ext.toNat)))

/-- Is an entry one that BAD_FIELD refuses? -/
def entryBad (e : SubEntry) : Bool := entryForm e || decide (paramResv (entOpc e) e.params ≠ [])

/-- CE.DETAIL[15:0] of that refusal: the first offending parameter's byte offset, 0xFFFF where none offends (R333). -/
def badOffset (e : SubEntry) : Nat := if entryForm e then 0xFFFF else (paramResv (entOpc e) e.params).foldl min 0xFFFF

/-- Commands without parameters (R336). -/
def noParams (opc : Nat) : Bool :=
  [0x0102, 0x0103, 0x0104, 0x010B, 0x0402, 0x0508, 0x0602, 0x0603].contains opc

end Sys2Proof.Machine
end

