-- ==== Sys2Proof/Machine/Host.lean ====
section
/-! DEFINITION. The host's door: doorbells (R326), the fetch of submissions (R332), the journal (R347), completions
(R333, R350), interrupts (R330), the admin queues (R325), register writes (R325, R327, R329, R380), and how a command
starts (R335, R336, R340). -/

namespace Sys2Proof.Machine

open Sys2Proof

/-! ### Queues -/

def sqAt (s : State) (f n : Nat) : Option SubQ := (fnAt s f).sqs.getD n none
def cqAt (s : State) (f n : Nat) : Option CplQ := (fnAt s f).cqs.getD n none

def setSq (s : State) (f n : Nat) (x : Option SubQ) : State :=
  setFn s f { fnAt s f with sqs := listSet (fnAt s f).sqs n x }
def setCq (s : State) (f n : Nat) (x : Option CplQ) : State :=
  setFn s f { fnAt s f with cqs := listSet (fnAt s f).cqs n x }

/-- Entries of a queue. -/
def qsize (d : QDesc) : Nat := 2 ^ d.lsize

def freshSq (d : QDesc) : SubQ := ⟨d, 0, 0, d.seq0, []⟩
def freshCq (d : QDesc) : CplQ := ⟨d, 0, 0, none, false⟩

/-- Has a queue's completion ring room (R333)? Heads and completions are counted without wrapping (log entry 6). -/
def cqRoom (s : State) (f n : Nat) : Bool :=
  match cqAt s f n with
  | some c => decide (c.posted - c.head < qsize c.d)
  | none => false

/-- Is Utora running with the link up (R323, R325)? -/
def hubUp (s : State) : Bool :=
  decide (s.boot.phase = .utora) && decide (s.boot.fw = 2) && s.io.linkUp && !s.io.linkLost

/-- Is a command of a queue accepted and not completed? -/
def openOn (s : State) (f n : Nat) : Bool :=
  s.journal.any (fun r => decide (r.q.fn.val = f) && decide (r.q.sq.val = n) &&
    (decide (r.st = .accepted) || decide (r.st = .started)))

/-! ### Starting a command (R335, R336, R340) -/

/-- SE.FENCE: a command of the partition accepted earlier has not completed. -/
def fenced (s : State) (r : JRec) : Bool :=
  entFence r.entry && (s.journal.takeWhile (fun x => !(decide (x.q = r.q) && decide (x.seq = r.seq) &&
      decide (x.st = r.st)))).any (fun x =>
    decide (recPart x = recPart r) && (decide (x.st = .accepted) || decide (x.st = .started)))

/-- Parameter bytes of the head command of a queue (R331). -/
def paramsOf (s : State) (q : QId) : List Byte :=
  ((headRec s q).map (fun r => r.entry.params.take (entPlen r.entry))).getD []

/-- Commands run at PL0; a POWER_LEVEL that names PL0 is accepted at every level that the hub is up in (R366). -/
def awakeFor (s : State) (c : HostCmd) : Bool :=
  decide (s.power.level = 0) || (decide (s.power.level ≤ 3) && decide (c = .powerLevel 0))

/-- The head record of a queue, where it holds a command that may start now. -/
def canStart (s : State) (q : QId) (c : HostCmd) : Option JRec :=
  match headRec s q with
  | some r =>
    if r.st = .accepted ∧ r.entry.cmd = c ∧ hubUp s ∧ awakeFor s c ∧ cqRoom s q.fn r.cq ∧ !fenced s r then some r
    else none
  | none => none

/-- Commands that the PF may give for any partition (R336). -/
def anyPart (c : HostCmd) : Bool :=
  let n := opcOf c
  decide (n / 256 = 1 ∧ n ≠ 0x010E ∧ n ≠ 0x010F) || decide (n / 256 = 7) || decide (n / 256 = 8 ∧ n ≠ 0x0806) ||
    decide (n / 256 = 9 ∧ n ≠ 0x0904)

/-- Commands of the PF alone (R336). -/
def pfOnly (c : HostCmd) : Bool :=
  let n := opcOf c
  decide (n = 0x0101 ∨ n = 0x0102 ∨ n = 0x0105 ∨ n = 0x0108 ∨ n = 0x0109 ∨ n = 0x010A ∨ n = 0x010D) ||
    decide (n / 256 = 6) || decide (n / 256 = 7) || decide (n = 0x0806 ∨ n = 0x0904)

/-- May a function give a command for a partition (R335, R336)? -/
def permitted (f p : Nat) (c : HostCmd) : Bool :=
  if f = 0 then (anyPart c || decide (p = 0)) && !(decide (p = 0) && decide (opcOf c = 0x0101 ∨ opcOf c = 0x0102))
  else decide (p = f) && !pfOnly c

/-- What the partition's state makes of a command that would start (R322, R340). -/
inductive Gate where
  | go | wait | flush | wrong
  deriving DecidableEq, Repr

def gateOf (x : Part) (c : HostCmd) : Gate :=
  let n := opcOf c
  match x.st with
  | .unused => if n / 256 = 8 ∨ n = 0x0101 then .go else .wrong
  | .stopped => if n = 0x0401 then .wrong else .go
  | .starting => if n = 0x0401 then .wait else .go
  | .running => .go
  | .stopping => if n = 0x0401 then .wrong else .go
  | .pendingEnable => if n = 0x0401 then .wrong else .go
  | .faulted => if n / 256 = 8 ∨ n = 0x010B ∨ n = 0x0102 then .go else .flush
  | .destroying => .flush

/-- Completion by a failed acceptance check: CE.DETAIL holds the byte offset of the first offending parameter, and a reason that the
manual does not give, so that it is a free value (R333; log entry 10). -/
def rejectAt (s : State) (q : QId) (status off : Nat) : State :=
  let d := drawFree s
  commitCmd d.2 q status (off % 2 ^ 16 + 2 ^ 16 * (d.1.toNat % 2 ^ 16))

/-- The first of the parameters that offend: their byte offsets, 0xFFFF where none does (R333). -/
def firstOff (l : List (Bool × Nat)) : Nat := ((l.filter (fun e => e.1)).map (fun e => e.2)).foldl min 0xFFFF

/-- The same where no parameter offends, 0xFFFF, or where the manual lays out no parameters for the command, so that the offset is a
free value too. -/
def reject (s : State) (q : QId) (status : Nat) : State :=
  if status = 0x0101 ∨ status = 0x0104 ∨ ((headRec s q).map (fun r => noParams (entOpc r.entry))).getD false then
    rejectAt s q status 0xFFFF
  else endCmd s q status

/-- A command of queue q, once it may start: R335's permission, R340's states, R337's BAD_FIELD, then its own meaning
for the partition it names. -/
def hostCmd (s : State) (q : QId) (c : HostCmd) (f : State → Nat → State) : Out :=
  ok (match canStart s q c with
    | none => s
    | some r =>
      let p := recPart r
      if !permitted q.fn p c then reject s q 0x0104
      else match gateOf (partAt s p) c with
        | .wait => s
        | .flush => endCmd s q 0x0202
        | .wrong => rejectAt s q 0x0105 0xFFFF
        | .go => if entryBad r.entry then rejectAt s q 0x0103 (badOffset r.entry) else f s p)

/-- Success with a result, and without one. -/
def done (s : State) (q : QId) (detail : Nat) : State := commitCmd s q 0 detail
def doneOk (s : State) (q : QId) : State := endCmd s q 0

/-! ### Doorbells (R326) -/

def dbIgnored (s : State) : State := addCtr s (ctrKey 0 6 0 cDbIgnored) 1

/-- POWER_WAKE (R366): a doorbell at PL1 to PL3 wakes the module to PL0; from PL3 the command cores start anew. -/
def wake (s : State) : State :=
  if 1 ≤ s.power.level ∧ s.power.level ≤ 3 then
    let s := if s.power.level = 3 then s.withBoot { s.boot with beat := List.replicate 3 s.time.now } else s
    let pl3 := decide (s.power.level = 3)
    let s := setLevel s 0
    powerEvent (if pl3 then repin s else s) 6 false 0 0
  else s

/-- SQ_TAIL_DOORBELL (R326). -/
def execSqTailDoorbell (fn : Fin 32) (n : Fin 8) (ix : Nat) (w32 : Bool) (s : State) : Out :=
  ok (if !s.io.linkUp ∨ s.io.perst then s
    else
      let s := wake s
      match sqAt s fn n with
      | none => dbIgnored s
      | some x =>
        let d := (ix + qsize x.d - x.tail % qsize x.d) % qsize x.d
        if !w32 ∨ qsize x.d ≤ ix ∨ qsize x.d < x.tail + d - x.head then dbIgnored s
        else setSq s fn n (some { x with tail := x.tail + d }))

/-- Journal records whose completions the host has consumed are RETIRED (R347). -/
def retire (s : State) (f n head : Nat) : State :=
  s.withJournal (s.journal.filter (fun r => !(decide (r.q.fn.val = f) && decide (r.cq = n) &&
    decide (r.st = .posted) && decide (r.slot < head))))

/-- CQ_HEAD_DOORBELL (R326, R347). -/
def execCqHeadDoorbell (fn : Fin 32) (n : Fin 8) (ix : Nat) (w32 : Bool) (s : State) : Out :=
  ok (if !s.io.linkUp ∨ s.io.perst then s
    else match cqAt s fn n with
      | none => dbIgnored s
      | some c =>
        let d := (ix + qsize c.d - c.head % qsize c.d) % qsize c.d
        if !w32 ∨ qsize c.d ≤ ix ∨ c.posted - c.head < d then dbIgnored s
        else retire (setCq s fn n (some { c with head := c.head + d })) fn n (c.head + d))

/-- EVENT_HEAD_DOORBELL (R326, R329): the first entry after lost events is a source-8 entry with their count. -/
def execEventHeadDoorbell (fn : Fin 32) (ix : Nat) (w32 : Bool) (s : State) : Out :=
  ok (if !s.io.linkUp ∨ s.io.perst then s
    else
      let x := fnAt s fn
      let n := 2 ^ x.evlsize
      let d := (ix + n - x.evHead % n) % n
      if !x.even ∨ !w32 ∨ n ≤ ix ∨ x.evIx - x.evHead < d then dbIgnored s
      else
        let s := setFn s fn { x with evHead := x.evHead + d, evLost := if d = 0 then x.evLost else 0 }
        if 0 < d ∧ 0 < x.evLost then postEventTo s fn 8 fn (x.evLost % 2 ^ 32) else s)

/-! ### Fetching submissions (R332, R334, R347) -/

/-- Journal an entry and write the accept record. -/
def acceptEntry (s : State) (q : QId) (x : SubQ) (r : JRec) : State :=
  let s := s.withJournal (s.journal ++ [r])
  let s := setSq s q.fn q.sq (some { x with head := x.head + 1, expect := x.expect + 1 })
  hostWrite s q.fn x.d.araddr.toNat (leBytes 16 (packFields [⟨0, 64, x.expect.toNat⟩, ⟨64, 16, (x.head + 1) % qsize x.d⟩]))

/-- The oldest entry of a fetch buffer is accepted. One with a wrong sequence, or with parameters that cannot be read, completes as it
is accepted, once the earlier commands of its queue have (R332, R348); until then it stands in the buffer. -/
def acceptNext (s : State) (q : QId) : State :=
  match sqAt s q.fn q.sq with
  | none => s
  | some x =>
    match x.buf with
    | [] => s
    | e :: l =>
      let y := { x with buf := l }
      let bad := decide (entSeq e ≠ x.expect)
      let lost := entExt e && !e.readable
      let r : JRec := ⟨q, entSeq e, e, .accepted, x.d.cq, s.time.now, 0, 0, 0, [], [], 0⟩
      if (bad ∨ lost) ∧ openOn s q.fn q.sq then s
      else if bad then acceptEntry s q y { r with st := .committed, tdone := s.time.now, status := 0x0102,
                                                  detail := x.expect.toNat % 2 ^ 32 }
      else if lost then
        let d := drawFree s
        acceptEntry d.2 q y { r with st := .committed, tdone := s.time.now, status := 0x010D,
                                     detail := 0xFFFF + 2 ^ 16 * (d.1.toNat % 2 ^ 16) }
      else acceptEntry s q y r

/-- Depth of a submission fetch buffer (R26). -/
def fetchCap : Nat := 8

/-- A queue's fetch buffer empties into the journal as far as it can. -/
def acceptAll (s : State) (q : QId) : State := (List.range fetchCap).foldl (fun s _ => acceptNext s q) s

/-- SUBMISSION_FETCH (R26, R332): the next entry of the queue is read, with its extended parameters, into the fetch buffer, and
accepted. -/
def execSubmissionFetch (q : QId) (e : SubEntry) (t : Word64) (s : State) : Out :=
  ok (match sqAt s q.fn q.sq with
    | none => s
    | some x =>
      let bad := decide (entSeq e ≠ x.expect + BitVec.ofNat 64 x.buf.length)
      let lost := entExt e && !e.readable
      if !hubUp s ∨ s.power.level ≠ 0 ∨ fetchCap ≤ x.buf.length ∨ x.tail ≤ x.head + x.buf.length ∨
          (!bad && !lost && !entryIs e) then s
      else atTime s t (fun s => acceptAll (setSq s q.fn q.sq (some { x with buf := x.buf ++ [e] })) q))

/-! ### Completions (R333, R350) -/

/-- Records of a completion queue that may be posted: committed, every earlier one of their submission queue posted. -/
def postable (f n : Nat) : List QId → List JRec → List JRec
  | _, [] => []
  | seen, r :: l =>
    let held := seen.contains r.q
    let seen' := if r.st = .posted then seen else r.q :: seen
    if !held && decide (r.st = .committed) && decide (r.q.fn.val = f) && decide (r.cq = n) then r :: postable f n seen' l
    else postable f n seen' l

/-- The one that committed first. -/
def firstDone (l : List JRec) : Option JRec :=
  l.foldl (fun acc r => match acc with
    | none => some r
    | some b => if r.tdone.ult b.tdone then some r else some b) none

/-- Completion entry (R333). -/
def cplBytes (r : JRec) (ix size : Nat) : List Byte :=
  leBytes 32 (packFields [⟨0, 64, r.seq.toNat⟩, ⟨64, 16, r.status⟩, ⟨80, 1, b2n (decide (ix / size % 2 = 0))⟩,
    ⟨81, 3, r.q.sq⟩, ⟨96, 32, r.detail⟩, ⟨128, 64, r.tacc.toNat⟩, ⟨192, 64, r.tdone.toNat⟩])

/-- MSIX_INTERRUPT (R330): the vector, spaced by QD.ITIME. -/
def signalCq (s : State) (f n : Nat) : State :=
  match cqAt s f n with
  | none => s
  | some c =>
    if !c.d.ien then s
    else if (c.lastIrq.map (fun t => decide (t.toNat + 1000 * c.d.itime ≤ s.time.now.toNat))).getD true then
      raiseMsix (setCq s f n (some { c with lastIrq := some s.time.now, owed := false })) f c.d.vec
    else setCq s f n (some { c with owed := true })

/-- Post the completion that committed first, where its queue has room. -/
def postNext (s : State) (f n : Nat) : State :=
  match cqAt s f n, firstDone (postable f n [] s.journal) with
  | some c, some r =>
    if !cqRoom s f n then s
    else
      let s := hostWrite s f (c.d.base.toNat + 32 * (c.posted % qsize c.d)) (cplBytes r c.posted (qsize c.d))
      let s := s.withJournal (updFirst s.journal (fun x => decide (x.q = r.q) && decide (x.st = .committed))
        (fun x => { x with st := .posted, slot := c.posted }))
      signalCq (setCq s f n (some { c with posted := c.posted + 1 })) f n
  | _, _ => s

/-- Entries that waited in the fetch buffers of a function go on. -/
def acceptWaiting (s : State) (f : Fin 32) : State := (List.range 8).foldl (fun s k => acceptAll s ⟨f, Fin.ofNat 8 k⟩) s

/-- COMPLETION_POST. Entries that waited in the function's fetch buffers for earlier commands to complete go on. -/
def execCompletionPost (fn : Fin 32) (n : Fin 8) (t : Word64) (s : State) : Out :=
  ok (if !hubUp s ∨ !cqRoom s fn n ∨ (firstDone (postable fn n [] s.journal)).isNone then s
    else atTime s t (fun s => acceptWaiting (postNext s fn n) fn))

/-- INTERRUPT_INTERVAL_EXPIRY (R330). -/
def execInterruptIntervalExpiry (fn : Fin 32) (n : Fin 8) (t : Word64) (s : State) : Out :=
  ok (match cqAt s fn n with
    | none => s
    | some c =>
      if c.owed ∧ c.d.ien ∧ (c.lastIrq.map (fun u => decide (u.toNat + 1000 * c.d.itime ≤ t.toNat))).getD true then
        atTime s t (fun s =>
          raiseMsix (setCq s fn n (some { c with lastIrq := some s.time.now, owed := false })) fn c.d.vec)
      else s)

/-! ### Registers (R324, R325, R327, R329) -/

/-- Does BAR0 answer? -/
def bar0Up (s : State) : Bool :=
  s.io.linkUp && !s.io.perst && (decide (s.boot.phase = .rom) || decide (s.boot.phase = .utora))

/-- Descriptors that can stand in ID.AQS and ID.AQC (R330). -/
def adminDescOk (x : Fn) : Bool :=
  decide (x.aqs.num = 0) && !x.aqs.isCQ && decide (4 ≤ x.aqs.lsize) && decide (x.aqs.lsize ≤ 16) &&
    decide (x.aqs.cq = 0) && decide (x.aqs.base.toNat % 4096 = 0) && decide (x.aqs.araddr.toNat % 16 = 0) &&
    decide (x.aqc.num = 0) && x.aqc.isCQ && decide (4 ≤ x.aqc.lsize) && decide (x.aqc.lsize ≤ 16) &&
    decide (x.aqc.vec ≤ 62) && decide (x.aqc.base.toNat % 4096 = 0)

/-- ADMIN_QUEUE_ENABLE (R325, R330). Where SQ 0 has lived on through a device reset with commands that have not completed, it is
kept (DEDUCED, log entry 43). -/
def execAdminQueueEnable (fn : Fin 32) (v : Bool) (s : State) : Out :=
  ok (let x := fnAt s fn
    if !bar0Up s ∨ s.boot.fw ≠ 2 then s
    else if v then
      if x.aqen ∨ !adminDescOk x then s
      else if openOn s fn 0 then setFn s fn { x with aqen := true }
      else setFn s fn { x with aqen := true, sqs := listSet x.sqs 0 (some (freshSq x.aqs)),
                               cqs := listSet x.cqs 0 (some (freshCq x.aqc)) }
    else if !x.aqen ∨ openOn s fn 0 then s
    else setFn s fn { x with aqen := false, sqs := listSet x.sqs 0 none, cqs := listSet x.cqs 0 none })

/-- REGISTER_WRITE: a write to a field without a row of its own. -/
def execRegisterWrite (fn : Fin 32) (f : RegField) (s : State) : Out :=
  ok (let x := fnAt s fn
    match f with
    | .alertMask v =>
      s.withIo { s.io with alertMask := v, alertPin := decide (s.io.alerts &&& ~~~ v ≠ 0) }
    | .other _ _ => s
    | g =>
      if !bar0Up s then s
      else match g with
        | .aqs d => if x.aqen then s else setFn s fn { x with aqs := d }
        | .aqc d => if x.aqen then s else setFn s fn { x with aqc := d }
        | .evbase v => setFn s fn { x with evbase := v }
        | .evlsize v => setFn s fn { x with evlsize := v }
        | .even v => if v && !x.even then
            setFn s fn { x with even := true, evIx := 0, evHead := 0, evSeq := 0, evLost := 0 }
          else setFn s fn { x with even := v }
        | .w2base v => if fn.val = 0 then setFn s fn { x with w2base := v } else s
        | .w2we v => if fn.val = 0 then setFn s fn { x with w2we := v } else s
        | .mbaddr v => if fn.val = 0 then s.withBoot { s.boot with mbAddr := v } else s
        | .mblen v => if fn.val = 0 then s.withBoot { s.boot with mbLen := v } else s
        | .msix k a d m =>
          if 64 ≤ k then s
          else
            let old := x.msix.getD k MsixE.reset
            let s := setFn s fn { x with msix := listSet x.msix k ⟨a, d, m, old.pend && m⟩ }
            if old.pend && !m then hostWrite s fn a.toNat (leBytes 4 d.toNat) else s
        | .atsEnable v => setFn s fn { x with ats := v }
        | .pasidEnable v => setFn s fn { x with pasid := v }
        | .alertMask _ => s
        | .other _ _ => s)

/-! ### Reads of BAR0 (R3, R324, R325, R327, R329) -/

/-- A queue descriptor as 32 bytes (R330). -/
def qdescBits (d : QDesc) : Nat :=
  packFields [⟨0, 3, d.num⟩, ⟨3, 1, b2n d.isCQ⟩, ⟨4, 5, d.lsize⟩, ⟨9, 3, d.cq⟩, ⟨12, 6, d.vec⟩, ⟨18, 1, b2n d.ien⟩,
    ⟨32, 16, d.itime⟩, ⟨64, 64, d.base.toNat⟩, ⟨128, 64, d.araddr.toNat⟩, ⟨192, 64, d.seq0.toNat⟩]

/-- ID.FORMAT (R325). -/
def idFormat : Nat := 1

/-- The identity and status page of a function (R325). -/
def idPage (s : State) (f : Nat) : Nat :=
  let x := fnAt s f
  packFields [⟨0, 16, idFormat⟩, ⟨16, 5, f⟩, ⟨32, 5, f⟩, ⟨37, 3, (partAt s f).st.code⟩, ⟨40, 3, s.boot.fw⟩,
    ⟨48, 16, s.boot.level⟩, ⟨64, 64, s.time.now.toNat⟩, ⟨128, 32, s.boot.devfaults⟩, ⟨160, 32, s.boot.svn⟩,
    ⟨192, 256, qdescBits x.aqs⟩, ⟨448, 256, qdescBits x.aqc⟩, ⟨704, 1, b2n x.aqen⟩, ⟨768, 64, x.evbase.toNat⟩,
    ⟨832, 4, x.evlsize⟩, ⟨836, 1, b2n x.even⟩, ⟨896, 32, if f = 0 then x.w2base else 0⟩,
    ⟨928, 1, if f = 0 then b2n x.w2we else 0⟩]

/-- The mailbox (R327): MB.OP is write-only; it reads zero on a VF. -/
def mailbox (s : State) (f : Nat) : Nat :=
  if f = 0 then packFields [⟨8, 2, s.boot.mbState⟩, ⟨16, 16, s.boot.mbErr⟩, ⟨32, 64, s.boot.mbAddr.toNat⟩,
    ⟨96, 32, s.boot.mbLen⟩]
  else 0

/-- An MSI-X table entry as PCI Express lays it out (PRESUMED, log entry 50: the manual gives the table's place, not its layout). -/
def msixBits (x : MsixE) : Nat := packFields [⟨0, 64, x.addr.toNat⟩, ⟨64, 32, x.data.toNat⟩, ⟨96, 1, b2n x.mask⟩]

/-- What a byte of a function's BAR0 reads as (R324): the identity page, the MSI-X table, its pending bits, the mailbox, and 0
elsewhere. -/
def bar0Byte (s : State) (f off : Nat) : Nat :=
  let m := (fnAt s f).msix
  if off < 4096 then fld (idPage s f) (8 * off) 8
  else if 0x4000 ≤ off ∧ off < 0x4400 then fld (msixBits (m.getD ((off - 0x4000) / 16) MsixE.reset)) (8 * (off % 16)) 8
  else if 0x6000 ≤ off ∧ off < 0x6008 then
    ((List.range 8).map (fun k => 2 ^ k * b2n (m.getD (8 * (off - 0x6000) + k) MsixE.reset).pend)).sum
  else if 0x8000 ≤ off ∧ off < 0x8010 then fld (mailbox s f) (8 * (off - 0x8000)) 8
  else 0

/-! ### Address translation (R211) -/

/-- Pages of host memory, PASID and number, that a T1 frame's fill reads. -/
def fillPages (s : State) (f : Frame) : List (Nat × Nat) :=
  match regionAt s f.key.part f.key.region with
  | some g => hostPages g [(pageSize * f.key.page, pageSize * f.key.page + pageSize)]
  | none => []

/-- Reads in flight of a function's partition that use a translation: of bobbins, and of fills of T1 frames. -/
def pageUses (s : State) (p pasid page : Nat) : List AtsUse :=
  ((List.range (nTiles s p)).map (fun k => ((tileAt s p k).rings.map (fun e =>
    (e.2.bobs.zipIdx.filter (fun b => decide (b.1.st = .issued) && (match b.1.w with
      | some w => (match regionAt s p w.td.region with
        | some g => (hostPages g (homeSpans s p w b.1.frs (bobSpans w b.1.k))).contains (pasid, page)
        | none => false)
      | none => false))).map (fun b => AtsUse.bob k e.1 b.2 b.1.k))).flatten)).flatten ++
  ((s.t1.frames.filter (fun e => decide (e.2.key.part = p) && !e.2.whole && fillRuns s e.1 &&
    (fillPages s e.2).contains (pasid, page))).map (fun e => AtsUse.fill e.1))

/-- ATS_INVALIDATION (R210, R211): the translation leaves the cache, so that no later read uses it, and the invalidation completes when
the reads that use it have; until then it stands in Fn.invals. -/
def execAtsInvalidation (fn : Fin 32) (pasid page : Nat) (s : State) : Out :=
  ok (let x := fnAt s fn
    let us := pageUses s fn pasid page
    setFn s fn { x with
      atc := x.atc.filter (fun e => e ≠ (pasid, page)),
      invals := x.invals.filter (fun v => v.uses ≠ []) ++ (if us = [] then [] else [⟨pasid, page, us⟩]) })

/-! ### BAR2 (R324, R328) -/

def windowSize : Nat := 68719476736
def reservedBase : Nat := 1632087572480

/-- Module address of a BAR2 offset. -/
def windowAddr (s : State) (x : Nat) : Nat := (fnAt s 0).w2base * 1073741824 + x

/-- What a read through the window answers: all ones in Utora's reserved memory and in a poisoned line. -/
def windowRead (s : State) (a n : Nat) : List Byte :=
  (List.range n).map (fun k =>
    let b := a + k
    let line := b / 128 * 4
    if reservedBase ≤ b ∨ (List.range 4).any (fun j => secPois s.t2 (line + j)) then 0xFF#8 else memGet s.t2.mem b)

/-- The lines of module memory that a read through the window touches; Utora's reserved memory is not read (R328). -/
def windowLines (a n : Nat) : List Nat := (unitsOf 128 [(a, min (a + n) reservedBase)]).map (fun u => 128 * u)

/-- BAR2_READ: the answer is held with the pins (its last read data). -/
def execBar2Read (x : Nat) (l : BarLen) (s : State) : Out :=
  let n := l.n
  if windowSize < x + n then .fault .outsideWindow
  else ok (
    if !bar0Up s then s
    else
      let a := windowAddr s x
      let s := meetErrs s (windowLines a n) l.e
      let bad := (List.range (if n = 0 then 0 else cdiv (a % 128 + n) 128)).filter (fun k => (List.range 4).any (fun j => secPois s.t2 ((a / 128 + k) * 4 + j)) &&
        decide (a + 128 * k < reservedBase))
      let s := addCtr s (ctrKey 0 6 0 cB2Poison) bad.length
      s.withIo { s.io with rsp := windowRead s a n })

/-- Is an address in a region of a partition that is not at rest (R328)? -/
def inLiveRegion (s : State) (a : Nat) : Bool :=
  s.parts.any (fun x => (decide (x.st = .starting) || decide (x.st = .running) || decide (x.st = .stopping) ||
    decide (x.st = .pendingEnable)) && (partPages x).contains (a / pageSize))

/-- BAR2_WRITE. -/
def execBar2Write (x : Nat) (data : List Byte) (s : State) : Out :=
  if windowSize < x + data.length then .fault .outsideWindow
  else ok (
    if !bar0Up s then s
    else
      let a := windowAddr s x
      let hit := (List.range data.length).any (fun k => inLiveRegion s (a + k))
      let b := data.take (reservedBase - a)
      if !(fnAt s 0).w2we ∨ hit then addCtr s (ctrKey 0 6 0 cB2Drop) 1
      else s.withT2 (clearPoison { s.t2 with mem := memWrite s.t2.mem a b } a b.length))

end Sys2Proof.Machine
end

