-- ==== Sys2Proof/Machine/Repair.lean ====
section
/-! DEFINITION. The configuration record in force (R392), the repair map (R393, R394) and the spares it engages (R401, R402). -/

namespace Sys2Proof.Machine

open Sys2Proof

/-- The configuration record in force (R392, R396). -/
def activeCfg (s : State) : Option ConfigP := if s.boot.useB then s.boot.cfgB else s.boot.cfgA

/-! ### Entries (R393, R394) -/

/-- A repair entry (R393). -/
def repairEntry (kind logical physical : Nat) : BitVec 64 :=
  BitVec.ofNat 64 (packFields [⟨0, 8, kind⟩, ⟨8, 24, logical⟩, ⟨32, 24, physical⟩])

def rxKind (e : BitVec 64) : Nat := fld e.toNat 0 8
def rxLogical (e : BitVec 64) : Nat := fld e.toNat 8 24
def rxPhysical (e : BitVec 64) : Nat := fld e.toNat 32 24

/-- Entry that retires its logical unit (R393). -/
def retires (e : BitVec 64) : Bool := decide (rxPhysical e = 0xFFFFFF)

/-- The effective map (R394): a later entry for a logical unit replaces an earlier one. -/
def effMap (l : List (BitVec 64)) : List (BitVec 64) :=
  l.foldl (fun acc e => acc.filter (fun x => !(decide (rxKind x = rxKind e) && decide (rxLogical x = rxLogical e))) ++ [e]) []

/-- Entries of the record in force, then of the history (R394). -/
def allRepairs (s : State) : List (BitVec 64) :=
  ((activeCfg s).map (fun c => c.repair)).getD [] ++ (s.boot.hist.filter (fun h => h.repair)).map (fun h => h.detail)

def tileDie (n : Nat) : Nat := if n < 96 then 0 else 1

/-- Die of the logical unit of a tile's or a store bank's entry. -/
def rxDie (e : BitVec 64) : Nat := if rxKind e = 1 then tileDie (rxLogical e) else rxLogical e / 40

/-- Physical numbers of a die's spare tiles and spare store banks: they follow the numbers in use (DESIGN CHOICE, log entry 44: R393
numbers no physical unit). -/
def spareNums (kind die : Nat) : List Nat :=
  if kind = 1 then (List.range 4).map (fun k => 192 + 4 * die + k) else (List.range 2).map (fun k => 80 + 2 * die + k)

/-- Spares of a die that no entry of the record or of the history has named. -/
def unusedSpares (s : State) (kind die : Nat) : List Nat :=
  (spareNums kind die).filter (fun n => !((allRepairs s).any (fun e => decide (rxKind e = kind) && decide (rxPhysical e = n))))

/-- HR.KIND of a repair entry's kind (R393, R404). -/
def repairHistKind (k : Nat) : Nat :=
  match k with
  | 1 => 5 | 2 => 1 | 3 => 1 | 4 => 14 | 5 => 3 | 6 => 8 | 7 => 8 | 8 => 6 | 9 => 7 | 10 => 9 | 11 => 1
  | _ => 0

/-- HR.UNIT of a repair entry: the unit of R385 that its logical unit belongs to. R393 numbers units within their kinds only (DESIGN
CHOICE, log entry 44). -/
def repairUnit (e : BitVec 64) : Nat :=
  let n := rxLogical e
  match rxKind e with
  | 1 => ctrKey 0 1 n 0
  | 4 => ctrKey 0 4 0 0
  | 5 => ctrKey 0 3 (4 * n) 0
  | 6 => ctrKey 0 5 (n / 8) 0
  | 7 => ctrKey 0 5 (n / 3 * 3) 0
  | 10 => ctrKey 0 7 0 0
  | 11 => ctrKey 0 4 (n / 40) 0
  | _ => ctrKey 0 6 0 0

def bootLog (s : State) (n result detail : Nat) : State :=
  s.withBoot { s.boot with log := s.boot.log ++ [⟨n, result, s.time.now, detail⟩] }

/-- The boot log lists every repair entry that a boot's step has applied (R394, R398). -/
def logMap (s : State) (n : Nat) : State := s.boot.repair.foldl (fun s e => bootLog s n 0 e.toNat) s

/-! ### Shares of a store die (R204, R206, R401) -/

/-- Release the oldest frames that may go until use fits (R206). -/
def fitT1 (s : State) (p die : Nat) : Nat → State
  | 0 => s
  | f + 1 =>
    if keptFrames s p die ≤ t1Share s p die then s
    else match victimOf s p die 0 with
      | none => s
      | some v => fitT1 (releaseFrames s (fun n _ => decide (n = v.1))) p die f

/-- Take n frames from the partitions' shares of a die, one at a time, the largest share first (R401). -/
def cutShares (s : State) (die : Nat) : Nat → State
  | 0 => s
  | n + 1 =>
    let big := (List.range 32).foldl (fun b p => if t1Share s b die < t1Share s p die then p else b) 0
    let k := 32 * die + big
    cutShares (s.withT1 { s.t1 with cut := mapSet 0 s.t1.cut k (mapGet 0 s.t1.cut k + 1) }) die n

/-- After frames have left service: those that no quota covers go first, then the shares shrink (R401). -/
def fitShares (s : State) (die : Nat) : State :=
  let gone := (s.t1.dead.filter (fun e => decide (frameDie e.1 = die))).length
  let need := gone + ((List.range 32).map (fun p => t1Share s p die)).sum - dieFrames
  (List.range 32).foldl (fun s p => fitT1 s p die (partFrames s p die).length) (cutShares s die need)

/-! ### What an entry does (R393, R401) -/

/-- Groups that have FAILED leave their partition's list (R401). -/
def dropFailed (s : State) (p : Nat) : State :=
  updPart s p (fun x => { x with groups := x.groups.filter (fun g => !(decide ((groupAt s g).st = .failed))) })

/-- A tile's entry: with no physical unit left its group has FAILED. -/
def serveTile (s : State) (n : Nat) (gone : Bool) : State :=
  if !gone then s
  else
    let g := groupAt s (n / 8)
    let s := setGroup s (n / 8) ⟨.failed, 0⟩
    if g.st = .assigned then dropFailed s g.part else s

/-- A channel group's entry: its package serves it, or none does and its lines are lost. -/
def serveChannels (s : State) (k pkg : Nat) (gone : Bool) : State :=
  if gone then s.withT2 { s.t2 with lost := (s.t2.lost ++ [k]).dedup }
  else s.withT2 { s.t2 with map := listSet s.t2.map k pkg, spareUsed := s.t2.spareUsed || decide (pkg = 24) }

/-- A store bank's entry: its frames are released, and leave service where no bank serves them. -/
def serveBank (s : State) (bank : Nat) (gone : Bool) : State :=
  let die := bank / 40
  let lo := dieFrames * die + 512 * (bank % 40)
  let hit (n : Nat) : Bool := decide (lo ≤ n) && decide (n < lo + 512)
  let pins := s.t1.frames.filterMap (fun e => if !hit e.1 then none
    else if e.2.pin then some e.2.key else e.2.nxt.bind (fun x => if x.2.1 then some x.1 else none))
  let s := sweepAll (s.withT1 { s.t1 with
    frames := s.t1.frames.filter (fun e => !hit e.1), fills := s.t1.fills.filter (fun n => !hit n) })
  let s := if gone then fitShares (s.withT1 { s.t1 with dead := setRange s.t1.dead lo 512 true }) die else s
  pins.foldl pinPage s

/-- What a repair entry does to its unit. Of a laser unit, the entry that names a laser uses up the spare, and one that retires it a
second laser: lasers are numbered 3 to a unit (DESIGN CHOICE, log entry 44). A port lane's entry acts at training. -/
def serveUnit (s : State) (e : BitVec 64) : State :=
  let n := rxLogical e
  match rxKind e with
  | 1 => serveTile s n (retires e)
  | 5 => serveChannels s n (rxPhysical e) (retires e)
  | 7 => s.withFabric { s.fabric with
      lasers := listSet s.fabric.lasers (n / 3) (max (s.fabric.lasers.getD (n / 3) 0) (if retires e then 2 else 1)) }
  | 8 => s.withBoot { s.boot with core := s.boot.core.filter (fun c => c ≠ n) }
  | 11 => serveBank s n (retires e)
  | _ => s

/-- Apply an effective map at a boot (R394). -/
def applyMap (s : State) (m : List (BitVec 64)) : State := m.foldl serveUnit (s.withBoot { s.boot with repair := m })

/-- Spares that the entries of record and history leave (R401). -/
def countSpares (s : State) (l : List (BitVec 64)) : State :=
  let used (kind die : Nat) : Nat :=
    (l.dedup.filter (fun e => decide (rxKind e = kind) && decide (rxDie e = die) && !retires e)).length
  (s.withBoot { s.boot with tileSpare := [4 - used 1 0, 4 - used 1 1] }).withT1 { s.t1 with
    spareLeft := [2 - used 11 0, 2 - used 11 1] }

/-- A spare leaves its die's stock. -/
def takeSpare (s : State) (e : BitVec 64) : State :=
  if retires e then s
  else
    let d := rxDie e
    match rxKind e with
    | 1 => s.withBoot { s.boot with tileSpare := listSet s.boot.tileSpare d (s.boot.tileSpare.getD d 0 - 1) }
    | 11 => s.withT1 { s.t1 with spareLeft := listSet s.t1.spareLeft d (s.t1.spareLeft.getD d 0 - 1) }
    | _ => s

/-- Engage the spare that a repair entry names, and record it (R393, R400, R401). -/
def engage (s : State) (e : BitVec 64) : State :=
  let s := serveUnit (takeSpare s e) e
  let s := s.withBoot { s.boot with repair := effMap (s.boot.repair ++ [e]) }
  addHist s 0 (repairHistKind (rxKind e)) (repairUnit e) e true

/-- Spares of a die in stock. -/
def spareStock (s : State) (kind die : Nat) : Nat :=
  if kind = 1 then s.boot.tileSpare.getD die 0 else s.t1.spareLeft.getD die 0

/-- Which spare serves a unit is open: a free value (log entry 10). A tile and a store bank take an unused spare of their own die; with
none left they are retired (R393, R401). -/
def engageFree (s : State) (kind logical : Nat) : State :=
  let d := drawFree s
  let die := rxDie (repairEntry kind logical 0)
  let l := unusedSpares s kind die
  let unit := if kind = 1 ∨ kind = 11 then
      if spareStock s kind die = 0 then 0xFFFFFF else (l[d.1.toNat % max 1 l.length]?).getD 0xFFFFFF
    else d.1.toNat % 0xFFFFFF
  engage d.2 (repairEntry kind logical unit)

/-- Replace the marked tiles of a group (R401, R402). -/
def replaceTiles (s : State) (g : Nat) : State :=
  (List.range 8).foldl (fun s k =>
    let t := tileRaw s (8 * g + k)
    if !t.replace then s else engageFree (setTileRaw s (8 * g + k) { t with replace := false }) 1 (8 * g + k)) s

/-- May a self-test write a repair entry (R400, R401)? A tile and a store bank move to an unused spare of their own die, or are retired
where none is left. -/
def bistOk (s : State) (e : BitVec 64) : Bool :=
  if rxKind e = 1 ∨ rxKind e = 11 then
    if spareStock s (rxKind e) (rxDie e) = 0 then retires e
    else (unusedSpares s (rxKind e) (rxDie e)).contains (rxPhysical e)
  else true

end Sys2Proof.Machine
end

