-- ==== Sys2Proof/Machine/Partitions.lean ====
section
/-! DEFINITION. Partition, group and queue commands (R330, R338 to R344) and the events that complete them (R148, R342,
R343, R340), with the faults' last steps (R46, R344) and the function-level reset (R345). -/

namespace Sys2Proof.Machine

open Sys2Proof

/-! ### Quotas (R203 to R206, R244) -/

/-- Fields of a quota record, at an offset of the parameters, that are out of range (R203, R333). -/
def quotaOff (q : Quota) (base : Nat) : List (Bool × Nat) :=
  [(decide (40960 < q.t1pages) || decide (q.t1pages % 2 ≠ 0), base), (decide (q.res1 % 2 ≠ 0), base + 2),
   (decide (q.res2 % 2 ≠ 0), base + 4), (decide (q.res3 % 2 ≠ 0), base + 6)]

/-- A quota record's fields lie in their ranges. -/
def quotaRange (q : Quota) : Bool := (quotaOff q 0).all (fun e => !e.1)

/-- Fields of a quota record that take a sum of R203 too high, over all partitions with partition p's record replaced. -/
def sumsOff (s : State) (p : Nat) (q : Quota) (base : Nat) : List (Bool × Nat) :=
  let qs := (List.range 32).map (fun k => if k = p then q else (partAt s k).quota)
  [(decide (40960 < (qs.map (fun x => x.t1pages)).sum), base), (decide (q.t1pages < q.res1 + q.res2 + q.res3), base + 2),
   (decide (24903680 < (qs.map (fun x => x.t2)).sum), base + 8)]

def quotaSums (s : State) (p : Nat) (q : Quota) : Bool := (sumsOff s p q 0).all (fun e => !e.1)

/-- Entry quotas together (R244). -/
def entrySums (s : State) (p n : Nat) : Bool :=
  decide (((List.range 32).map (fun k => if k = p then n else (partAt s k).entries)).sum ≤ 16384)

/-- T3 pages in use: HOSTBACK publications (R204). -/
def t3Used (x : Part) : Nat :=
  (x.regions.map (fun e => if e.2.p.hostback then e.2.p.pages * (b2n e.2.cur.isSome + b2n e.2.next.isSome) else 0)).sum

/-- Pages pinned by regions of a partition (R190, R199). -/
def pinnedPages (x : Part) : Nat := (x.regions.map (fun e => if e.2.p.pin then e.2.p.pages else 0)).sum

/-- Pages of STORE_PIN regions that belong on a die: half of each, by page parity (R194, R199). -/
def pinsOn (x : Part) (die : Nat) : Nat :=
  (x.regions.map (fun e => if e.2.p.pin then (e.2.p.pages + 1 - die) / 2 else 0)).sum

/-- Frames of a partition on a die that hold a page for a calendar entry and not for a pin. -/
def heldOn (s : State) (p die : Nat) : Nat :=
  ((partFrames s p die).filter (fun e => match e.2.nxt with
    | some x => !x.2.1 && decide (x.2.2 ≠ [])
    | none => !e.2.pin && decide (e.2.holds ≠ []))).length

/-- Do the pins and holds fit a T1 quota on each die (R206)? -/
def heldFit (s : State) (p : Nat) (q : Quota) : Bool :=
  [0, 1].all (fun die =>
    decide (pinsOn (partAt s p) die + heldOn s p die ≤ q.t1pages / 2 - mapGet 0 s.t1.cut (32 * die + p)))

/-- A partition's frames go (R343 step 4). -/
def releasePart (s : State) (p : Nat) : State := freeFramesOf s (fun _ f => decide (f.key.part = p))

/-! ### Groups (R342, R402) -/

/-- Scrub a group's tiles. -/
def scrubGroup (s : State) (g : Nat) : State :=
  sweepAll ((List.range 8).foldl (fun s k =>
    let t := tileRaw s (8 * g + k)
    setTileRaw (readersDone s (tileFrames t)) (8 * g + k) (scrubTile t)) s)

def setGroups (s : State) (gs : List Nat) (x : Group) : State := gs.foldl (fun s g => setGroup s g x) s

/-- Complete a GROUP_ADD whose listed groups are all ready or cancelled (R342). -/
def finishAdd (s : State) (p : Nat) (r : JRec) : State :=
  match r.entry.cmd with
  | .groupAdd gs =>
    let x := partAt s p
    let mine := gs.filter (fun g => x.wait.contains g)
    if r.st ≠ .started ∨ recPart r ≠ p ∨ mine.any (fun g => decide ((groupAt s g).st ≠ .assigned)) then s
    else
      let s := updPart s p (fun x => { x with
        groups := x.groups ++ mine, wait := x.wait.filter (fun g => !mine.contains g) })
      commitCmd s r.q (if mine.length = gs.length then 0 else 0x0201) (partAt s p).groups.length
  | _ => s

def finishAdds (s : State) (p : Nat) : State := s.journal.foldl (fun s r => finishAdd s p r) s

/-- A partition that is to be destroyed becomes DESTROYING (R340); its groups are drained, with those that a GROUP_ADD waits for, which
ends as if they had been removed (R342; DEDUCED, log entry 27). -/
def beginDestroy (s : State) (p : Nat) : State :=
  let s := setGroups s ((partAt s p).groups ++ (partAt s p).wait) ⟨.draining, p⟩
  finishAdds (setPState (updPart s p (fun x => { x with groups := [], wait := [] })) p .destroying) p

/-! ### Partition commands -/

/-- PART_CREATE (R339, R340, R396). -/
def execPartCreate (q : QId) (c : PartCreateP) (s : State) : Out :=
  if !s.boot.restT2 then ok s
  else hostCmd s q (.partCreate c) (fun s p =>
    if c.part.val ≠ p then rejectAt s q 0x0103 0
    else if (partAt s p).st ≠ .unused then rejectAt s q 0x0105 0
    else if 24 < c.groups.length ∨ 16384 < c.entries ∨ 4096 < c.handles ∨ !quotaRange c.quota then
      rejectAt s q 0x0103 (firstOff ([(decide (24 < c.groups.length), 0), (decide (16384 < c.entries), 2),
        (decide (4096 < c.handles), 4)] ++ quotaOff c.quota 56))
    else if !noDup c.groups ∨ c.groups.any (fun g => decide ((groupAt s g).st ≠ .free)) then
      rejectAt s q 0x0109 (firstOff (c.groups.zipIdx.map (fun e =>
        (decide ((groupAt s e.1).st ≠ .free) || (c.groups.take e.2).contains e.1, 8 + 5 * e.2 / 8))))
    else if !quotaSums s p c.quota ∨ !entrySums s p c.entries then
      rejectAt s q 0x0107 (firstOff ((!entrySums s p c.entries, 2) :: sumsOff s p c.quota 56))
    else
      let s := setPart s p { Part.unused with
        groups := c.groups, quota := c.quota, seed := c.seed, seedOn := c.seed, flagmask := c.flagmask, entries := c.entries,
        handleQ := c.handles, watts := 1300 * c.groups.length / 24 }
      let s := setPState (setGroups s c.groups ⟨.assigned, p⟩) p .stopped
      doneOk s q)


/-- Cancel a pending start (R341). -/
def cancelStart (s : State) (p : Nat) : State := commitWhere s (cmdOf p isStart) 0x0201 none

/-- A stop or a destroy reaches a running partition, which is STOPPING from then on; its campaign stops at its next boundary (R340, R343
step 1). -/
def stopRunning (s : State) (p : Nat) : State := campStop (beginStop s p) p

/-- PART_DESTROY (R340). -/
def execPartDestroy (q : QId) (s : State) : Out :=
  hostCmd s q .partDestroy (fun s p =>
    let s := startCmd s q
    match (partAt s p).st with
    | .stopped => beginDestroy s p
    | .running => stopRunning s p
    | .pendingEnable => setPState (cancelStart s p) p .stopping
    | .faulted => setPState (updPart s p (fun x => { x with fault := none })) p .stopping
    | .starting => s
    | .stopping => s
    | .unused => s
    | .destroying => s)

/-- PART_START (R340, R341). While a PART_DESTROY waits for the stop, a start waits for its outcome. -/
def execPartStart (q : QId) (s : State) : Out :=
  hostCmd s q .partStart (fun s p =>
    match (partAt s p).st with
    | .stopped => setPState (updPart (startCmd s q) p (fun x => { x with seedOn := x.seed })) p .starting
    | .running => if runsCmd s p isDestroy then s else doneOk s q
    | .starting => startCmd s q
    | .stopping => if runsCmd s p isDestroy then s else setPState (startCmd s q) p .pendingEnable
    | .pendingEnable => startCmd s q
    | .unused => s
    | .faulted => s
    | .destroying => s)

/-- PART_STOP (R340, R341, R343). -/
def execPartStop (q : QId) (s : State) : Out :=
  hostCmd s q .partStop (fun s p =>
    match (partAt s p).st with
    | .stopped => doneOk s q
    | .running => stopRunning (startCmd s q) p
    | .pendingEnable => startCmd (setPState (cancelStart s p) p .stopping) q
    | .starting => startCmd s q
    | .stopping => startCmd s q
    | .unused => s
    | .faulted => s
    | .destroying => s)

/-- PART_QUOTA (R206). -/
def execPartQuota (q : QId) (c : Quota) (s : State) : Out :=
  hostCmd s q (.partQuota c) (fun s p =>
    let x := partAt s p
    if !quotaRange c then rejectAt s q 0x0103 (firstOff (quotaOff c 0))
    else if !quotaSums s p c ∨ c.t2 < t2Used s p ∨ c.t3 < t3Used x ∨ !heldFit s p c then
      rejectAt s q 0x0107 (firstOff (sumsOff s p c 0 ++
        [(!heldFit s p c, 0), (decide (c.t2 < t2Used s p), 8), (decide (c.t3 < t3Used x), 12)]))
    else
      let s := updPart s p (fun x => { x with quota := c })
      let s := [0, 1].foldl (fun s die => fitT1 s p die (partFrames s p die).length) s
      doneOk (servePins s) q)

/-- PART_SEED (R147, R158): while the partition runs, in effect at its next start; otherwise at once. -/
def execPartSeed (q : QId) (seed : BitVec 256) (s : State) : Out :=
  hostCmd s q (.partSeed seed) (fun s p => doneOk (updPart s p (fun x => { x with
      seed := seed, seedOn := if x.st = .stopped then seed else x.seedOn })) q)

/-- PART_FLAGMASK (R138). -/
def execPartFlagmask (q : QId) (m : FlagWord) (s : State) : Out :=
  hostCmd s q (.partFlagmask m) (fun s p => doneOk (updPart s p (fun x => { x with flagmask := m })) q)

/-- PART_SERVE (R244). -/
def execPartServe (q : QId) (entries handles : Nat) (s : State) : Out :=
  hostCmd s q (.partServe entries handles) (fun s p =>
    if 16384 < entries ∨ 4096 < handles then reject s q 0x0103
    else if !entrySums s p entries then reject s q 0x0107
    else doneOk (updPart s p (fun x => { x with entries := entries, handleQ := handles })) q)

/-- May groups be added or removed now (R342)? -/
def groupsOpen (x : Part) : Bool := decide (x.st = .stopped) || (decide (x.st = .running) && x.camp.isNone)

/-- GROUP_ADD (R342). -/
def execGroupAdd (q : QId) (gs : List Nat) (s : State) : Out :=
  hostCmd s q (.groupAdd gs) (fun s p =>
    if gs.any (fun g => decide (24 ≤ g)) then reject s q 0x0103
    else if !groupsOpen (partAt s p) ∨ gs.any (fun g => decide ((groupAt s g).st = .failed)) then reject s q 0x0105
    else if !noDup gs ∨ gs.any (fun g => decide ((groupAt s g).st = .assigned) || decide ((groupAt s g).st = .pendingEnable)) then
      reject s q 0x0109
    else
      let s := startCmd s q
      let s := gs.foldl (fun s g => setGroup s g ⟨if (groupAt s g).st = .free then .assigned else .pendingEnable, p⟩) s
      finishAdds (updPart s p (fun x => { x with wait := x.wait ++ gs })) p)

/-- GROUP_REMOVE (R341, R342): groups of the list drain; a pending enable is cancelled. -/
def execGroupRemove (q : QId) (gs : List Nat) (s : State) : Out :=
  hostCmd s q (.groupRemove gs) (fun s p =>
    let x := partAt s p
    if !groupsOpen x then reject s q 0x0105
    else if !noDup gs ∨ gs.any (fun g => !x.groups.contains g && !x.wait.contains g) then reject s q 0x0106
    else
      let s := setGroups s gs ⟨.draining, p⟩
      let s := updPart s p (fun x => { x with
        groups := x.groups.filter (fun g => !gs.contains g), wait := x.wait.filter (fun g => !gs.contains g) })
      done (finishAdds s p) q (partAt s p).groups.length)

/-- PART_RECOVER (R344). -/
def execPartRecover (q : QId) (s : State) : Out :=
  hostCmd s q .partRecover (fun s p =>
    if (partAt s p).st ≠ .faulted then reject s q 0x0105
    else doneOk (setPState (updPart s p (fun x => { x with fault := none })) p .stopping) q)

/-! ### Queue commands (R330) -/

/-- Fields of a descriptor that QUEUE_CREATE does not take, with their byte offsets. -/
def queueOff (d : QDesc) : List (Bool × Nat) :=
  [(decide (d.num = 0) || decide (7 < d.num) || decide (d.lsize < 4) || decide (16 < d.lsize), 0),
   (d.isCQ && decide (62 < d.vec), 1), (decide (d.base.toNat % 4096 ≠ 0), 8),
   (!d.isCQ && decide (d.araddr.toNat % 16 ≠ 0), 16)]

/-- Is a descriptor one that QUEUE_CREATE takes? -/
def queueRange (d : QDesc) : Bool := (queueOff d).all (fun e => !e.1)

/-- QUEUE_CREATE. -/
def execQueueCreate (q : QId) (d : QDesc) (s : State) : Out :=
  hostCmd s q (.queueCreate d) (fun s _ =>
    let f := q.fn.val
    if !queueRange d then rejectAt s q 0x0103 (firstOff (queueOff d))
    else if d.isCQ then
      if (cqAt s f d.num).isSome then rejectAt s q 0x0109 0 else doneOk (setCq s f d.num (some (freshCq d))) q
    else if (cqAt s f d.cq).isNone then rejectAt s q 0x0106 1
    else if (sqAt s f d.num).isSome then rejectAt s q 0x0109 0
    else doneOk (setSq s f d.num (some (freshSq d))) q)

/-- QUEUE_DELETE. -/
def execQueueDelete (q : QId) (num : Nat) (isCQ : Bool) (s : State) : Out :=
  hostCmd s q (.queueDelete num isCQ) (fun s _ =>
    let f := q.fn.val
    if num = 0 ∨ 7 < num then reject s q 0x0103
    else if isCQ then
      if (cqAt s f num).isNone then reject s q 0x0106
      else if (fnAt s f).sqs.any (fun x => (x.map (fun y => decide (y.d.cq = num))).getD false) then reject s q 0x0109
      else doneOk (setCq s f num none) q
    else if (sqAt s f num).isNone then reject s q 0x0106
    else if openOn s f num ∨ ((sqAt s f num).map (fun x => decide (x.buf ≠ []))).getD false then reject s q 0x0109
    else doneOk (setSq s f num none) q)

/-! ### Events that complete them -/

/-- The waiting PART_STOP or PART_DESTROY acts once a partition runs (R340). -/
def execStartingComplete (part : Fin 32) (t : Word64) (s : State) : Out :=
  ok (if (partAt s part).st ≠ .starting ∨ !hubUp s then s
    else atTime s t (fun s =>
      let s := updPart s part (fun x => { x with whorl := some (expandSeed x.seedOn), bal := budgetOf x })
      let s := commitWhere (setPState s part .running) (cmdOf part isStart) 0 none
      beginStop s part))

/-- Scrub of a partition's groups, tile replacement, and release of its T1 frames (R343 steps 3 and 4, R402). -/
def scrubPart (s : State) (p : Nat) : State :=
  let gs := (partAt s p).groups
  let s := gs.foldl scrubGroup s
  let s := dropFailed (gs.foldl replaceTiles s) p
  let s := updPart s p (fun x => { x with whorl := none, snaps := x.snaps.filter (fun e => !(e.2.mark && decide (e.2.need ≠ []))) })
  releasePart (s.withSamp (s.samp.filter (fun y => y.part ≠ p))) p

/-- STOP_COMPLETE (R340, R341, R343). -/
def execStopComplete (part : Fin 32) (t : Word64) (s : State) : Out :=
  ok (let x := partAt s part
    if !(decide (x.st = .stopping) || decide (x.st = .pendingEnable)) ∨ x.camp.isSome ∨ x.fault.isSome then s
    else atTime s t (fun s =>
      let s := commitWhere (scrubPart s part) (cmdOf part isStop) 0 none
      if runsCmd s part isDestroy then beginDestroy (cancelStart s part) part
      else if x.st = .pendingEnable then
        setPState (updPart s part (fun y => { y with seedOn := y.seed })) part .starting
      else setPState s part .stopped))

/-- GROUP_DRAIN_COMPLETE (R342, R343). -/
def execGroupDrainComplete (g : Fin 24) (t : Word64) (s : State) : Out :=
  ok (let x := groupAt s g
    if !(decide (x.st = .draining) || decide (x.st = .pendingEnable)) then s
    else atTime s t (fun s =>
      let s := replaceTiles (scrubGroup s g) g
      if (groupAt s g).st = .failed then
        finishAdds (updPart s x.part (fun y => { y with wait := y.wait.filter (fun k => k ≠ g.val) })) x.part
      else if x.st = .draining then setGroup s g ⟨.free, 0⟩
      else finishAdds (setGroup s g ⟨.assigned, x.part⟩) x.part))

/-- Complete every command of a function that is accepted or started, with a status for each (R340, R345). -/
def flushFn (s : State) (f started accepted : Nat) : State :=
  (s.withJournal (s.journal.zipIdx.map (fun e =>
    if e.1.q.fn.val = f ∧ (e.1.st = .started ∨ e.1.st = .accepted) then
      { e.1 with st := .committed, status := if e.1.st = .started then started else accepted,
                 detail := detailOr s none e.2, tdone := s.time.now }
    else e.1))).withFree (s.free + s.journal.length)

/-- Delete every queue of a function. -/
def dropQueues (s : State) (f : Nat) : State :=
  setFn s f { fnAt s f with aqen := false, sqs := List.replicate 8 none, cqs := List.replicate 8 none }

/-- REGIONS_SCRUBBED (R340): regions go, queues go, the partition is UNUSED. -/
def execRegionsScrubbed (part : Fin 32) (t : Word64) (s : State) : Out :=
  ok (if (partAt s part).st ≠ .destroying then s
    else atTime s t (fun s =>
      let p := part.val
      let s := zeroPages s (partPages (partAt s p))
      let s := commitWhere s (cmdOf p isDestroy) 0 none
      let s := dropQueues (flushFn s p 0x0202 0x0202) p
      let s := setPState s p .unused
      setPart s p Part.unused))

/-! ### Faults (R46, R344, R361) -/

/-- Evict every open entry with FAULT (R276). -/
def faultEvicts (s : State) (p : Nat) : State := evictWhere s p 8 (fun _ => true)

/-- What the other members fail with where a switch has lost a shard (R305): FR.DETAIL. -/
def shardDetail (x : Part) (f : PFault) : Option Nat :=
  if f.status = 0x0339 then some (((x.flog[f.ix]?).map (fun r => r.detail)).getD 0) else none

/-- FAULT_RECORD_COMPLETE (R46 steps 4 and 5, R361): the campaign's peers are told, the partition is FAULTED, its
running commands complete with the fault; a PART_DESTROY whose stop it cuts off does too (DEDUCED, log entry 27). -/
def execFaultRecordComplete (part : Fin 32) (t : Word64) (s : State) : Out :=
  ok (let p := part.val
    match (partAt s p).fault with
    | none => s
    | some f =>
      if f.completed then s
      else atTime s t (fun s =>
        let s := faultEvicts s p
        let s := match (partAt s p).camp with
          | some c => if f.peer then s else sendCamp s c (.peerFault c.p.id s.fabric.member (shardDetail (partAt s p) f))
          | none => s
        let s := if ((partAt s p).camp.map (fun c => decide (c.phase = .turn))).getD false then turnRecord s p f.status else s
        let s := updPart s p (fun x => { x with fault := some { f with completed := true } })
        let s := endCampaign (setPState s p .faulted) p f.status (some f.ix)
        commitWhere s (cmdOf p (fun c => isStop c || isStart c || isDestroy c)) f.status (some f.ix)))

/-- PEER_FAULT_RECEIVE (R305, R344): a campaign member's partition becomes FAULTED with PEER_FAULT; where the switch has lost a shard on
another member, with SHARD_LOST, and its staging publications are abandoned. -/
def execPeerFaultReceive (part : Fin 32) (m : PeerMsg) (t : Word64) (s : State) : Out :=
  ok (let p := part.val
    match (partAt s p).camp with
    | none => s
    | some c =>
      if !(campMembers c).contains m.msg.frm ∨ (partAt s p).fault.isSome then s
      else atTime s t (fun s => fromBound s p m.msg (fun s =>
        let s := match m.lost with
          | some d => abandonSwitch (hubFault s p 0x0339 d) p
          | none => raiseFaults s p [{ mkFault s 0x0340 255 with other := memberCode m.msg.frm }]
        updPart s p (fun x => { x with fault := x.fault.map (fun f => { f with peer := true }) }))))

/-- The management state of the PF: the mailbox (R327, R345). -/
def resetMailbox (s : State) : State :=
  s.withBoot { s.boot with mbState := 0, mbErr := 0, mbAddr := 0, mbLen := 0, held := none }

/-- FUNCTION_LEVEL_RESET (R345): the partition stops at once, commands complete, the function's fields are cleared, and for the PF
the mailbox; another function's pending start of it is cancelled (R341). -/
def execFunctionLevelReset (fn : Fin 32) (t : Word64) (s : State) : Out :=
  ok (if !s.io.linkUp ∨ s.io.perst then s
    else atTime s t (fun s =>
      let p := fn.val
      let s := updTiles s p (fun _ => haltTile)
      let s := s.withSamp (s.samp.filter (fun y => y.part ≠ p))
      let s := updPart s p (fun x => { x with camp := none, reqs := x.reqs.map (fun e => (e.1, detachReq e.2)) })
      let s := cancelStart (setFn (flushFn s p 0x0206 0x0202) p Fn.reset) p
      let s := if p = 0 then resetMailbox s else s
      let st := (partAt s p).st
      if st = .running ∨ st = .starting ∨ st = .pendingEnable then setPState s p .stopping else s))

end Sys2Proof.Machine
end

