-- ==== Sys2Proof/Machine/Regions.lean ====
section
/-! DEFINITION. Region commands (R189 to R194, R204, R213, R270, R336), the host copies and their transfers (R335, R336,
R337, R352). -/

namespace Sys2Proof.Machine

open Sys2Proof

/-! ### Creation, staging, publication -/

/-- A region's flags agree (R190). A HOSTBACK region needs ATS and PASID on its function. -/
def regionFlags (s : State) (p : Nat) (g : RegionP) : Bool :=
  decide (1 ≤ g.pages) && decide (g.pages < 2 ^ 32) && decide (g.bias ≤ 3) && decide (g.cls ≤ 3) &&
    (g.ro || (!g.hostback && !g.pin && decide (g.bias = 0))) && !(g.pin && g.never) &&
    (!g.hostback || ((fnAt s p).ats && (fnAt s p).pasid))

/-- REGION_CREATE (R190 to R192, R204). The region number and the pages behind a writable region are the D7's choice; a
choice that it cannot make leaves the state as it is (log entry 11). -/
def execRegionCreate (q : QId) (g : RegionP) (id : Nat) (pages : List Nat) (s : State) : Out :=
  if !s.boot.restT2 then ok s
  else hostCmd s q (.regionCreate g) (fun s p =>
    let x := partAt s p
    if !regionFlags s p g then reject s q 0x0103
    else if (!g.ro && decide (x.quota.t2 < t2Used s p + g.pages)) ∨
        (g.pin && decide (x.quota.t1pages < pinnedPages x + g.pages + 2)) then reject s q 0x0107
    else if 65534 < id ∨ (regionAt s p id).isSome ∨ !goodPlace s (if g.ro then 0 else g.pages) pages then s
    else done (setRegion (zeroPages s pages) p id ⟨g, pages, none, none, []⟩) q id)

/-- Regions that a program's extents, calendar and ring set-up name (R213). -/
def progNames (pr : Program) (r : Nat) : Bool :=
  pr.sec.extents.any (fun e => decide (e.region = r)) || pr.cal.any (fun c => decide (c.region = r)) ||
    pr.sec.rings.any (fun y =>
      let k := ringRecOf y.record.toNat
      !k.tdsrc && decide (k.dir ≠ 0) && decide ((tdOf (numAt pr.consts (64 * k.td) 64)).region = r))

/-- Checkpoint entries of a running campaign (R213). -/
def ckptNames (x : Part) (r : Nat) : Bool :=
  (x.camp.map (fun c => c.p.turns.any (fun t => decide (t.kind = .checkpoint) && t.ckpts.any (fun k => decide (k.region = r))))).getD false

/-- A region goes: its pages zeroed, its frames released (R336). -/
def freeRegion (s : State) (p r : Nat) : State :=
  let s := zeroPages s (((regionAt s p r).map (fun g => regionPages g ++ (g.old.map (fun b => b.pages)).flatten)).getD [])
  let s := updPart s p (fun x => { x with regions := mapDel x.regions r })
  freeFramesOf s (fun _ f => decide (f.key.part = p) && decide (f.key.region = r))

/-- REGION_FREE (R213, R336). -/
def execRegionFree (q : QId) (r : Nat) (s : State) : Out :=
  hostCmd s q (.regionFree r) (fun s p =>
    let x := partAt s p
    if (regionAt s p r).isNone then reject s q 0x0106
    else if x.progs.any (fun e => progNames e.2 r) ∨ ckptNames x r then reject s q 0x0109
    else doneOk (freeRegion s p r) q)

/-- REGION_STAGE (R192, R204). -/
def execRegionStage (q : QId) (r epoch : Nat) (haddr : Word64) (pages : List Nat) (s : State) : Out :=
  hostCmd s q (.regionStage r epoch haddr) (fun s p =>
    let x := partAt s p
    match regionAt s p r with
    | none => reject s q 0x0106
    | some g =>
      if !g.p.ro then reject s q 0x0105
      else if g.next.isSome then reject s q 0x010F
      else if epoch = 0 ∨ 0xFFFFFFFF ≤ epoch ∨ epoch ≤ curEpoch g then reject s q 0x0103
      else if (!g.p.hostback && decide (x.quota.t2 < t2Used s p + g.p.pages)) ∨
          (g.p.hostback && decide (x.quota.t3 < t3Used x + g.p.pages)) then reject s q 0x0107
      else if !goodPlace s (if g.p.hostback then 0 else g.p.pages) pages then s
      else doneOk (stagePub s p r epoch (if g.p.hostback then haddr else 0) pages) q)

/-- Regions that a running switch publishes. -/
def inSwitch (x : Part) (r : Nat) : Bool :=
  (x.camp.bind (fun c => c.sw.map (fun sw => (switchRegions x c sw).contains r))).getD false

/-- REGION_PUBLISH (R194, R270, R305). -/
def execRegionPublish (q : QId) (rs : List Nat) (s : State) : Out :=
  hostCmd s q (.regionPublish rs) (fun s p =>
    let x := partAt s p
    if rs = [] ∨ 8 < rs.length ∨ !noDup rs then reject s q 0x0103
    else if rs.any (fun r => (regionAt s p r).isNone) then reject s q 0x0106
    else if rs.any (fun r => ((regionAt s p r).bind (fun g => g.next)).isNone) then reject s q 0x0105
    else if rs.any (fun r => inSwitch x r) then reject s q 0x0109
    else if rs.any (fun r => decide (versionsOf x r (((regionAt s p r).map curEpoch).getD 0) ≠ [])) then reject s q 0x010F
    else
      let s := rs.foldl (fun s r => publishRegion s p r) s
      done s q (((rs.head?.bind (fun r => regionAt s p r)).map curEpoch).getD 0))

/-- REGION_ABANDON (R192). -/
def execRegionAbandon (q : QId) (r : Nat) (s : State) : Out :=
  hostCmd s q (.regionAbandon r) (fun s p =>
    match regionAt s p r with
    | none => reject s q 0x0106
    | some g =>
      if g.next.isNone then reject s q 0x0105
      else if inSwitch (partAt s p) r then reject s q 0x0109
      else doneOk (abandonPub s p r) q)

/-! ### Copies (R336) -/

/-- Length of a region in bytes. -/
def regionSpan (g : Region) : Nat := pageSize * g.p.pages

/-- Pages that COPY_IN writes: a writable region's, or a T2 staging publication's. -/
def copyTarget (g : Region) (c : CopyP) : Option (List Nat) :=
  if c.staging then (if g.p.hostback then none else g.next.map (fun b => b.pages))
  else if g.p.ro then none else some g.wpages

/-- Has a region content that COPY_OUT can read? -/
def copySource (g : Region) (c : CopyP) : Bool := !c.staging && (!g.p.ro || g.cur.isSome)

/-- The bytes that a copy has staged, in order. -/
def staged (r : JRec) (n : Nat) : List Byte := (List.range n).map (fun k => mapGet 0 r.stage k)

/-- The commit of COPY_IN: its target takes the bytes; a target that has gone takes none (log entry 21). -/
def copyInCommit (s : State) (q : QId) (p : Nat) (c : CopyP) (b : List Byte) : State :=
  let s := match regionAt s p c.region with
    | some g => (match copyTarget g c with
      | some pages => if c.staging then writePages s pages c.off b else writeRegion s p c.region c.off b
      | none => s)
    | none => s
  done s q (c.len % 2 ^ 32)

/-- COPY_IN (R336). -/
def execCopyIn (q : QId) (c : CopyP) (s : State) : Out :=
  hostCmd s q (.copyIn c) (fun s p =>
    match regionAt s p c.region with
    | none => reject s q 0x0106
    | some g =>
      if regionSpan g < c.off + c.len then reject s q 0x0103
      else if (copyTarget g c).isNone then reject s q 0x0105
      else if c.len = 0 then done s q 0
      else startCmd s q)

/-- COPY_OUT (R336). -/
def execCopyOut (q : QId) (c : CopyP) (s : State) : Out :=
  hostCmd s q (.copyOut c) (fun s p =>
    match regionAt s p c.region with
    | none => reject s q 0x0106
    | some g =>
      if regionSpan g < c.off + c.len ∨ c.staging then reject s q 0x0103
      else if !copySource g c then reject s q 0x0105
      else if c.len = 0 then done s q 0
      else startCmd s q)

/-- REGION_FILL (R336): byte o of the region takes byte o mod 8 of the pattern. -/
def fillBytes (c : FillP) : List Byte :=
  (List.range c.len).map (fun k => BitVec.ofNat 8 (fld c.pattern.toNat (8 * ((c.off + k) % 8)) 8))

def execRegionFill (q : QId) (c : FillP) (s : State) : Out :=
  hostCmd s q (.regionFill c) (fun s p =>
    match regionAt s p c.region with
    | none => reject s q 0x0106
    | some g =>
      if regionSpan g < c.off + c.len then reject s q 0x0103
      else if g.p.ro then reject s q 0x0105
      else doneOk (writeRegion s p c.region c.off (fillBytes c)) q)

/-! ### Host transfers (R335, R336, R352) -/

/-- Bytes of a range of a region's content or current publication; those of a HOSTBACK publication are what the host
answered. -/
def sourceBytes (s : State) (g : Region) (off : Nat) (data : List Byte) : List Byte :=
  if g.p.hostback then data else readBytes s (readPages g) off data.length

/-- First poisoned byte of a range of what a copy reads. -/
def sourcePoison (s : State) (g : Region) (off n : Nat) : Option Nat :=
  if g.p.hostback then none else firstPoison s (readPages g) off n

/-- What the error codes find in the lines that a copy reads (R208). -/
def copyErrs (s : State) (p r off n : Nat) (e : XferEnd) : State :=
  match regionAt s p r with
  | some g => if g.p.hostback then s else meetErrs s (spanLines (readPages g) [(off, off + n)]) e.errs
  | none => s

/-- COPY_OUT meets a poisoned line (R337): the host buffer holds the data before it, and free bytes from it on. -/
def copyPoisoned (s : State) (q : QId) (g : Region) (c : CopyP) (bad : Nat) : State :=
  let lines := (c.off + bad) / 128 - c.off / 128
  let keep := (c.off + bad) / 128 * 128 - c.off
  let b := readBytes s (readPages g) c.off keep ++
    (List.range (c.len - keep)).map (fun k => Config.freeByte (s.free + k))
  commitCmd ((hostWrite s q.fn c.haddr.toNat b).withFree (s.free + c.len)) q 0x0208 (min lines 0xFFFFFFFF)

/-- One range of a copy has been transferred; the copy commits once every byte has. -/
def copyRange (s : State) (q : QId) (p : Nat) (c : CopyP) (out : Bool) (off : Nat) (data : List Byte) : State :=
  match headRec s q with
  | none => s
  | some r =>
    let put (b : List Byte) : State := updHead s q (fun r => { r with
      ranges := r.ranges ++ [⟨off, b.length⟩],
      stage := ((List.range b.length).zip b).foldl (fun m e => mapPut m (off + e.1) e.2) r.stage })
    if covered r.ranges ⟨off, data.length⟩ then s
    else if out then
      match regionAt s p c.region with
      | none => endCmd s q 0x0106
      | some g => (match sourcePoison s g (c.off + off) data.length with
        | some _ => copyPoisoned s q g c ((sourcePoison s g c.off c.len).getD 0)
        | none =>
          let s := put (sourceBytes s g (c.off + off) data)
          (match headRec s q with
          | some r =>
            if covered r.ranges ⟨0, c.len⟩ then
              done (hostWrite s q.fn c.haddr.toNat (staged r c.len)) q (c.len % 2 ^ 32)
            else s
          | none => s))
    else
      let s := put data
      match headRec s q with
      | some r => if covered r.ranges ⟨0, c.len⟩ then copyInCommit s q p c (staged r c.len) else s
      | none => s

/-- One checkpoint entry has been written to the host (R352): the next, or the turn's end (R8). A poisoned line faults. -/
def ckptDone (s : State) (p e : Nat) (k : CkptP) (data : List Byte) : State :=
  match regionAt s p k.region with
  | none => s
  | some g => (match sourcePoison s g k.off k.len with
    | some o => raiseFaults s p [{ mkFault s 0x0309 255 with addr := (k.off + o) / 128 * 128, detail := e }]
    | none =>
      let space := hostSpace p (((partAt s p).camp.map (fun c => c.p.pasid.toNat)).getD 0xFFFFF)
      let s := hostWrite s space k.haddr.toNat (sourceBytes s g k.off data)
      let s := updRun s p (fun r => { r with ckptLeft := r.ckptLeft.filter (fun j => j ≠ e) })
      turnLoop s p)

/-- The checkpoint entry that a transfer ends, where it is open. -/
def ckptAt (s : State) (p e : Nat) : Option CkptP :=
  match turnOf (partAt s p), runOf (partAt s p) with
  | some t, some r => if r.ckptLeft.contains e then t.ckpts[e]? else none
  | _, _ => none

/-- A checkpoint entry that is being read back (R356). -/
def backAt (s : State) (p e : Nat) : Option CkptP :=
  (partAt s p).camp.bind (fun c =>
    if c.phase = .readBack ∧ c.back.contains e then
      (c.lastCkpt.bind (fun k => c.p.turns[k]?)).bind (fun t => t.ckpts[e]?)
    else none)

/-- An entry is back in its region (R356): in a writable region's content, or in the pages of a read-only region's current
publication, whose T1 copies go. After the last entry the turns that follow the checkpoint run again. -/
def backDone (s : State) (p e : Nat) (k : CkptP) (data : List Byte) : State :=
  let s := match regionAt s p k.region with
    | some g => if g.p.ro then releaseEpoch (writePages s (readPages g) k.off data) p k.region (curEpoch g)
      else writeRegion s p k.region k.off data
    | none => s
  let s := updCamp s p (fun c => { c with back := c.back.filter (fun j => j ≠ e) })
  match (partAt s p).camp with
  | some c => if c.back = [] then turnLoop (startSwitch s p (c.lastCkpt.getD 0 + 1)) p else s
  | none => s

/-- The next slot of the replay log that a turn reads (R216, R234), at LT.LOGADDR + 512 × slot: slots are read in order. -/
def logNext (s : State) (p : Nat) : Option Nat :=
  match turnOf (partAt s p), runOf (partAt s p) with
  | some t, some r => if t.kind = .learning ∧ t.lt.replay ∧ r.log.length < t.lt.logslots then some r.log.length else none
  | _, _ => none

/-- HOST_TRANSFER_COMPLETE: a range of a copy command, a checkpoint entry on its way out or back, a slot of a replay log, a slot of a
turn record, or a host copy has been transferred or has failed (R216, R304, R337, R352, R354, R356). A log slot that cannot be read
ends the log before it (DESIGN CHOICE, log entry 34). -/
def execHostTransferComplete (x : XferOf) (off : Nat) (data : List Byte) (e : XferEnd) (t : Word64) (s : State) : Out :=
  ok (if !hubUp s then s
    else match x with
    | .copy q =>
      (match headRec s q with
      | some r =>
        let p := recPart r
        if r.st ≠ .started then s
        else (match r.entry.cmd with
          | .copyIn c => if c.len < off + data.length then s
              else atTime s t (fun s => if e = .failed then endCmd s q 0x0204 else copyRange s q p c false off data)
          | .copyOut c => if c.len < off + data.length then s
              else atTime s t (fun s => if e = .failed then endCmd s q 0x0203 else
                copyRange (copyErrs s p c.region (c.off + off) data.length e) q p c true off data)
          | _ => s)
      | none => s)
    | .ckpt part n =>
      (match ckptAt s part n with
      | some k => if data.length ≠ k.len ∨ !issues s part then s
          else atTime s t (fun s => if e = .failed then endCampaign (turnRecord s part 0x0203) part 0x0203 none
            else ckptDone (copyErrs s part k.region k.off k.len e) part n k data)
      | none =>
        match backAt s part n with
        | some k => if data.length ≠ k.len ∨ !issues s part then s
            else atTime s t (fun s => if e = .failed then endCampaign s part 0x0204 none
              else schedule (backDone s part n k data))
        | none => s)
    | .log part =>
      if logNext s part ≠ some off ∨ (e ≠ .failed ∧ data.length ≠ 512) ∨ !issues s part then s
      else atTime s t (fun s =>
        let s := updRun s part (fun r => { r with log := mapPut r.log off (if e = .failed then [] else data) })
        schedule (turnLoop (settleTry s part) part))
    | .record part => atTime s t (fun s => recordLands s part (decide (e ≠ .failed)))
    | .hostCopy part pair piece =>
      if !issues s part then s
      else atTime s t (fun s => hostCopyLands s part pair piece off data (decide (e ≠ .failed))))

end Sys2Proof.Machine
end

