-- ==== Sys2Proof/Machine/Programs.lean ====
section
/-! DEFINITION. Loading a program (R14 to R16, R34, R37, R38, R114, R129, R202, R309, R316, R349, R360, R424) and
unloading it (R336). -/

namespace Sys2Proof.Machine

open Sys2Proof

/-! ### Header, shape, sections (R14, R15, R38) -/

/-- Every section lies inside the image. -/
def sectionsOk (b : List Byte) : Bool :=
  decide (224 ≤ b.length) && (List.range 10).all (fun n => decide ((sectionOf b n).1 + (sectionOf b n).2 ≤ b.length))

/-- The 32-bit count at the start of a section that begins with one; 0 for an empty section. -/
def countAt (b : List Byte) (off : Nat) : Nat := numAt b off 4

def headerOk (s : State) (p : Nat) (h : ProgHdr) : Bool :=
  decide (h.format = 1) && decide (h.level = s.boot.level) && decide (1 ≤ h.groups) && decide (h.groups ≤ 24) &&
    decide (h.groups = (partAt s p).groups.length) && decide (h.lanes = 64) && decide (1 ≤ h.nseg) &&
    decide (h.waitlimit ≤ 4000000) && decide (h.resv = 0)

def shapeOk (h : ProgHdr) (n : NShape) : Bool :=
  decide (n.level = h.level) && decide (n.kgroup = 64) && decide (1 ≤ n.run) && decide (n.run ≤ 256) && decide (n.rm ≤ 4)

/-! ### The segment graph (R31, R15, R34) -/

/-- Segments that can be reached from those of a list, by at most `fuel` edges. -/
def reachFrom (segs : List SegD) : Nat → List Nat → List Nat
  | 0, l => l
  | f + 1, l =>
    let l' := (l ++ ((segs.filter (fun d => l.contains d.id)).map (fun d => d.succ)).flatten).dedup
    if l'.length = l.dedup.length then l' else reachFrom segs f l'

/-- Segments after a segment. -/
def after (segs : List SegD) (d : SegD) : List Nat := reachFrom segs segs.length d.succ

def graphOk (b : List Byte) (segs : List SegD) (groups : Nat) : Bool :=
  decide (32 * segs.length ≤ b.length) &&
    ((List.range segs.length).zip segs).all (fun e =>
      decide (e.2.id = e.1) && decide (e.2.gears ≠ 0) && decide (e.2.groups < 2 ^ groups) && !segResv b e.1 &&
        decide (4 * fld (numAt b (32 * e.1) 32) 160 32 + 2 * e.2.succ.length ≤ b.length) &&
        e.2.succ.all (fun k => decide (k < segs.length)) &&
        decide (e.2.npred = (segs.map (fun y => y.succ.count e.1)).sum) && !(after segs e.2).contains e.1)

/-- Two segments are unordered (R34). -/
def unordered (segs : List SegD) (x y : SegD) : Bool :=
  decide (x.id ≠ y.id) && !(after segs x).contains y.id && !(after segs y).contains x.id

/-! ### Command lists (R15, R37) -/

/-- SEGEND words of a list: position, queue, segment. -/
def segends (l : List Word64) : List (Nat × Nat × Nat) :=
  ((List.range l.length).zip l).filterMap (fun e => match decodeWord e.2 with
    | .segend w => some (e.1, w.q.toNat, w.arg.toNat % 65536)
    | _ => none)

def listOk (l : TList) : Bool :=
  let es := segends l.words
  decide (es.length = 4) && es.all (fun e => decide (e.2.2 = l.seg)) &&
    [0, 1, 2, 3].all (fun q => decide ((es.filter (fun e => decide (e.2.1 = q))).length = 1)) &&
    es.any (fun e => decide (e.2.1 = 0) && decide (e.1 + 1 = l.words.length))

/-- Exactly one list for each segment and each tile of its groups, and no other. -/
def listsOk (segs : List SegD) (groups : Nat) (ls : List TList) : Bool :=
  ls.all (fun l => listOk l && (segs.any (fun d => decide (d.id = l.seg) && segHasTile d l.tile && decide (l.tile < 8 * groups)))) &&
    segs.all (fun d => (List.range (8 * groups)).all (fun t =>
      decide ((ls.filter (fun l => decide (l.seg = d.id) && decide (l.tile = t))).length = b2n (segHasTile d t))))

/-! ### Queue depths, windows, extents (R26, R27, R34) -/

def depthsOk (groups : Nat) (l : List QDepth) : Bool :=
  noDup (l.map (fun d => d.tile)) && l.all (fun d => decide (d.tile < 8 * groups) && decide (d.d1 ≤ 1016) &&
    decide (d.d2 ≤ 1016) && decide (d.d3 ≤ 1016) && decide (d.spill + 32 * (d.d1 + d.d2 + d.d3) + 7680 ≤ t0Size))

def windowsOk (segs : List SegD) (ws : List Win) : Bool :=
  ws.all (fun w => segs.any (fun d => decide (d.id = w.seg) && segHasTile d w.tile) && decide (1 ≤ w.size) &&
    decide (w.base + w.size ≤ 2048) &&
    decide ((ws.filter (fun v => decide (v.seg = w.seg) && decide (v.tile = w.tile))).length ≤ 8))

def extentsOk (s : State) (p : Nat) (segs : List SegD) (es : List Ext) : Bool :=
  es.all (fun e => segs.any (fun d => decide (d.id = e.seg)) && (match regionAt s p e.region with
    | some g => decide (e.off + e.len ≤ regionSpan g)
    | none => false))

/-- No two unordered segments have conflicting windows or extents (R34). -/
def safeOrder (pr : Program) : Bool :=
  pr.segs.all (fun x => pr.segs.all (fun y => !(unordered pr.segs x y && conflict { pr with colls := [] } 1 x.id y.id)))

/-- In-place (R349): a write extent overlaps a read extent in a writable region. -/
def inPlace (s : State) (p : Nat) (es : List Ext) : Bool :=
  es.any (fun a => a.write && es.any (fun b => !b.write && decide (a.region = b.region) && overlap a.off a.len b.off b.len) &&
    ((regionAt s p a.region).map (fun g => !g.p.ro)).getD false)

/-! ### Calendar (R202) -/

def calOk (s : State) (p nseg : Nat) (cal : List CalE) : Bool :=
  cal.all (fun c => decide (c.trig ≤ 2) && decide (c.hold ≤ 2) && decide (c.die ≤ 2) && decide (1 ≤ c.count) &&
    (decide (c.trig = 2) || decide (c.seg < nseg)) && (decide (c.hold ≠ 1) || decide (c.until_ < nseg)) &&
    (match regionAt s p c.region with
      | some g => g.p.ro && !g.p.never && decide (c.page + c.count ≤ g.p.pages)
      | none => false)) &&
    (let n := ((cal.filter (fun c => decide (c.hold = 2))).map (fun c => c.count)).sum
     decide (n = 0) || decide (n + pinnedPages (partAt s p) + 2 ≤ (partAt s p).quota.t1pages))

/-! ### Layout pairs (R309) -/

/-- Bytes of a region that a piece's elements and scale plane reach. -/
def pieceEnd (f : Fmt) (scl : Bool) (blk : Nat) (x : Piece) : Nat :=
  if x.nrows = 0 ∨ x.ncols = 0 then 0
  else
    let tops := if x.panel then
        [(x.nrows - 1, x.ncols - 1), (x.nrows - 1, x.ncols / 64 * 64 - 1)] else [(x.nrows - 1, x.ncols - 1)]
    let e := tops.foldl (fun m c => max m (x.off + (pieceBit x f c.1 c.2 + f.bits + 7) / 8)) 0
    if scl then max e (x.spoff + (tops.foldl (fun m c => max m (pieceIx x c.1 c.2)) 0) / blk + 1) else e

/-- Common part of two pieces of one tensor: rows and columns. -/
def meet (a b : Piece) : Option (Nat × Nat × Nat × Nat) :=
  let r0 := max a.row0 b.row0
  let r1 := min (a.row0 + a.nrows) (b.row0 + b.nrows)
  let c0 := max a.col0 b.col0
  let c1 := min (a.col0 + a.ncols) (b.col0 + b.ncols)
  if a.tensor = b.tensor ∧ r0 < r1 ∧ c0 < c1 then some (r0, r1, c0, c1) else none

/-- No two pieces of a list that satisfy a relation meet. -/
def apart (c : Piece → Piece → Bool) : List Piece → Bool
  | [] => true
  | x :: l => l.all (fun y => !(c x y && (meet x y).isSome)) && apart c l

/-- Positions that receive a destination piece. -/
def receivers (x : Piece) : List Nat := x.pos :: x.chain

/-- Does no scale block of a destination piece straddle two source pieces? -/
def blocksWhole (blk : Nat) (d : Piece) (srcs : List Piece) : Bool :=
  let cb := if d.panel then min blk 64 else blk
  let rb := if d.panel then max 1 (blk / 64) else 1
  (if d.panel then decide (d.nrows * 64 % blk = 0) else decide (d.ncols % blk = 0)) &&
    srcs.all (fun y => match meet d y with
      | none => true
      | some m =>
        let edge (x n b : Nat) : Bool := decide (x % b = 0) || decide (x = n)
        edge (m.1 - d.row0) d.nrows rb && edge (m.2.1 - d.row0) d.nrows rb &&
          edge (m.2.2.1 - d.col0) d.ncols cb && edge (m.2.2.2 - d.col0) d.ncols cb)

/-- Layout pair k of section 7 at its place: its reserved bits are zero and its codes are used. -/
def pairCodes (b : List Byte) (k : Nat) (pr : PairD) : Bool :=
  let v := numAt b (32 + 64 * k) 64
  let h := pr.hd
  decide (fld v 61 3 = 0) && decide (fld v 112 16 = 0) && decide (fld v 162 30 = 0) && decide (fld v 256 256 = 0) &&
    (Fmt.ofCode h.sfmt).isSome && (Fmt.ofCode h.dfmt).isSome && (!h.sscl || (fmtOf h.sfmt).scalable) &&
    (!h.dscl || (fmtOf h.dfmt).scalable) && decide (h.rm ≤ 4) && decide (h.cls ≠ 0) &&
    decide (64 * fld v 128 32 + 64 * fld v 16 16 ≤ b.length) && (List.range (fld v 16 16)).all (fun j =>
      let x := numAt b (64 * fld v 128 32 + 64 * j) 64
      decide (fld x 18 14 = 0) && decide (fld x 48 4 ≤ 8) && decide (fld x 52 12 = 0) && decide (fld x 488 24 = 0))

def pairOk (s : State) (p : Nat) (b : List Byte) (k : Nat) (pr : PairD) : Bool :=
  let h := pr.hd
  let srcs := pr.pieces.filter (fun x => !x.dst)
  let dsts := pr.pieces.filter (fun x => x.dst)
  pairCodes b k pr &&
    (match regionAt s p h.sregion, regionAt s p h.dregion with
      | some g, some d =>
        srcs.all (fun x => decide (pieceEnd (fmtOf h.sfmt) h.sscl (sblkLen h.ssblk) x ≤ regionSpan g)) &&
          dsts.all (fun x => decide (pieceEnd (fmtOf h.dfmt) h.dscl (sblkLen h.dsblk) x ≤ regionSpan d))
      | _, _ => false) &&
    (decide (h.hregion = 0xFFFF) || ((regionAt s p h.hregion).map (fun g => g.p.hostback &&
      dsts.all (fun x => decide (pieceEnd (fmtOf h.dfmt) h.dscl (sblkLen h.dsblk) x ≤ regionSpan g)))).getD false) &&
    apart (fun _ _ => true) srcs &&
    apart (fun x y => (receivers x).any (receivers y).contains) dsts &&
    dsts.all (fun d => noDup (receivers d) &&
      decide ((srcs.map (fun y => match meet d y with
        | some m => (m.2.1 - m.1) * (m.2.2.2 - m.2.2.1)
        | none => 0)).sum = d.nrows * d.ncols) &&
      (!h.dscl || blocksWhole (sblkLen h.dsblk) d srcs))

/-! ### Collectives (R309, R311, R313, R316) -/

/-- Expert placement table (R316): layers times experts entries, each of 1 to 4 positions of the member table. -/
def expertOk (sec8 : List Byte) (d : Coll) : Bool :=
  let layers := numAt sec8 d.xtab 2
  let experts := numAt sec8 (d.xtab + 2) 2
  decide (d.xtab + 16 + 16 * layers * experts ≤ sec8.length) && decide (numAt sec8 (d.xtab + 4) 12 = 0) &&
    (List.range (layers * experts)).all (fun k =>
      let v := numAt sec8 (d.xtab + 16 + 16 * k) 16
      let n := fld v 0 3
      decide (1 ≤ n) && decide (n ≤ 4) && decide (fld v 3 13 = 0) && decide (fld v 80 48 = 0) &&
        (List.range n).all (fun j => d.members.contains (fld v (16 + 16 * j) 16)))

/-- Bytes of an expert placement table. -/
def expertBytes (sec8 : List Byte) (d : Coll) : List Byte :=
  bytesAt sec8 d.xtab (16 + 16 * numAt sec8 d.xtab 2 * numAt sec8 (d.xtab + 2) 2)

/-- Bytes that a SUM's contribution takes in the widest format (R116). -/
def contribBytes (n : NShape) (d : Coll) : Nat :=
  areaOf n d.elems + (if anyScaled n then cdiv d.elems (sblkLen n.block) else 0)

/-- Do a collective's areas lie in a region of so many bytes, its buffers wide enough (R116, R309, R312)? Those of a SUM are taken for one
contribution buffer: LT.GBUFS is the turn's and is not known when a program is loaded (DEDUCED, log entry 25). -/
def collFits (n : NShape) (d : Coll) (span : Nat) : Bool :=
  decide (d.cbuf + d.bytes ≤ span) && decide (d.result + resultSpan d ≤ span) &&
    (decide (d.kind ≠ 0) || (decide (contribBytes n d ≤ d.bytes) && decide (leafBase 1 d + leafArea n 1 d ≤ span)))

def collOk (s : State) (p nseg : Nat) (n : NShape) (sec7 sec8 : List Byte) (np j : Nat) (d : Coll) : Bool :=
  let v := numAt sec7 (32 + 64 * (np + j)) 64
  decide (fld v 448 64 = 0) && decide (d.kind ≤ 4) && decide (d.cls ≠ 0) && decide (d.trigseg < nseg) &&
    (if d.kind = 0 then decide (d.sumseg < nseg) else decide (d.sumseg = 0xFFFF)) && decide (d.nextseg < nseg) &&
    decide (fld v 336 32 + 2 * d.members.length ≤ sec7.length) && noDup d.members &&
    (decide (d.kind ≠ 1) || decide (d.members.length = 2)) &&
    (decide (d.kind ≠ 4) || decide (d.bytes % d.members.length = 0)) &&
    (match regionAt s p d.region with
      | some g => !g.p.ro && collFits n d (regionSpan g) &&
        (decide (d.xtab = 0) || decide (d.kind ≠ 4) ||
          (expertOk sec8 d && decide (d.xoff + (expertBytes sec8 d).length ≤ regionSpan g)))
      | none => false)

/-! ### Tables and selection records (R114, R129, R424) -/

/-- Entries 0 to 9 are the level's tables, which lie whole in section 8: their digests are those that the loaded Utora carries (R129,
R424). -/
def levelTables (s : State) (b : List Byte) : Bool :=
  (List.range 10).all (fun k => decide ((tabOf b k).kind = 1) && decide (fld (numAt b (16 * k) 16) 0 32 + 12 * (tabOf b k).count ≤ b.length) &&
    decide ((s.boot.image.bind (fun i => i.tableDigests[k]?)) = some (sha3 (tabBytes b k))))

/-- A user table's entry: absent, or a table of TX.KIND 2 or 3 that lies whole in section 8 (the other cases reject the load: DESIGN
CHOICE, log entry 25, since R129 lists only the count of a TLI table). -/
def userTable (b : List Byte) (k : Nat) : Bool :=
  let v := numAt b (16 * k) 16
  let n := fld v 32 16
  let kind := fld v 48 8
  decide (kind = 0) || ((decide (kind = 2) || (decide (kind = 3) && [257, 513, 1025, 2049].contains n)) &&
    decide (fld v 0 32 + 4 * n ≤ b.length))

/-- What R129 and R424 ask of section 8. An entry of 10 to 15 that is not absent rejects the load (DESIGN CHOICE, log entry 25: R129's
list of rejections does not name it). -/
def tablesOk (s : State) (b : List Byte) : Bool :=
  decide (512 ≤ b.length) && levelTables s b && (List.range 6).all (fun k => decide ((tabOf b (10 + k)).kind = 0)) &&
    (List.range 16).all (fun k => userTable b (16 + k)) &&
    decide (((List.range 16).map (fun k => if (tabOf b (16 + k)).kind = 0 then 0 else 4 * (tabOf b (16 + k)).count)).sum ≤ 24576)

/-- R114's conditions on a selection record. A reserved bit that is not zero rejects the load too, as in every record of a program
(DESIGN CHOICE, log entry 25: R114 does not list it). -/
def gselOk (n : NShape) (nseg : Nat) (b : List Byte) (k : Nat) : Bool :=
  let g := gselOf b k
  let v := numAt b (32 + 32 * k) 32
  bitOf n.gradfmt g.init && decide (g.sreg ≠ 0) && decide (g.seg < nseg) && decide (fld v 10 6 = 0) && decide (fld v 128 128 = 0)

def gselsOk (n : NShape) (nseg cnt : Nat) (b : List Byte) : Bool :=
  decide (n.gradfmt < 256) && (decide (cnt = 0) || decide (32 + 32 * cnt ≤ b.length)) &&
    (List.range cnt).all (fun k => gselOk n nseg b k)

/-! ### The program of an image -/

def progOfImage (s : State) (p : Nat) (b : List Byte) (sec : ProgSections) : Program :=
  let h := progHdrOf b
  let s1 := sectionBytes b 1
  let s6 := sectionBytes b 6
  let s7 := sectionBytes b 7
  let s8 := sectionBytes b 8
  let s9 := sectionBytes b 9
  let np := numAt s7 0 4
  { level := h.level, groups := h.groups, nseg := h.nseg, hostlat := h.hostlat, waitlimit := h.waitlimit,
    shape := nshapeOf (sectionBytes b 0), segs := (List.range h.nseg).map (segOf s1), sec := sec,
    cal := (List.range (countAt s6 0)).map (calOf s6), pairs := (List.range np).map (pairOf s7),
    colls := (List.range (countAt s7 4)).map (collOf s7 np), tables := (List.range 32).map (tabOf s8),
    gsels := (List.range (countAt s9 0)).map (gselOf s9), consts := s9, meas := sha3 b,
    inplace := inPlace s p sec.extents }

/-- Every condition on which a load is accepted. -/
def progForm (s : State) (p slot : Nat) (b : List Byte) (pr : Program) : Bool :=
  let h := progHdrOf b
  let n := pr.nseg
  let s0 := sectionBytes b 0
  let s1 := sectionBytes b 1
  let s6 := sectionBytes b 6
  let s7 := sectionBytes b 7
  let s8 := sectionBytes b 8
  let np := pr.pairs.length
  sectionsOk b && headerOk s p h && decide (32 ≤ s0.length) && shapeOk h pr.shape && graphOk s1 pr.segs h.groups &&
    listsOk pr.segs h.groups pr.sec.lists && depthsOk h.groups pr.sec.depths && windowsOk pr.segs pr.sec.windows &&
    extentsOk s p pr.segs pr.sec.extents && safeOrder pr &&
    (decide (pr.cal = []) || decide (32 + 32 * pr.cal.length ≤ s6.length)) && calOk s p n pr.cal &&
    (decide (np + pr.colls.length = 0) || decide (32 + 64 * (np + pr.colls.length) ≤ s7.length)) &&
    ((List.range np).zip pr.pairs).all (fun e => pairOk s p s7 e.1 e.2) && noDup (pr.colls.map (fun d => d.id)) &&
    ((List.range pr.colls.length).zip pr.colls).all (fun e => collOk s p n pr.shape s7 s8 np e.1 e.2) &&
    tablesOk s s8 && gselsOk pr.shape n pr.gsels.length pr.consts &&
    (partAt s p).shapes.all (fun e => decide (e.1 ≠ slot) || decide (e.2 = pr.shape))

/-- What a load leaves: the program in its slot, expert tables in their places (R311). -/
def loadProg (s : State) (p slot : Nat) (b : List Byte) (pr : Program) : State :=
  let s := updPart s p (fun x => { x with
    progs := mapPut x.progs slot pr, lastDur := x.lastDur.filter (fun e => decide (e.1 / 65536 ≠ slot)) })
  pr.colls.foldl (fun s d => if d.kind = 4 ∧ d.xtab ≠ 0 then
    writeRegion s p d.region d.xoff (expertBytes (sectionBytes b 8) d) else s) s

/-- PROG_LOAD (R15, R336). -/
def execProgLoad (q : QId) (l : LoadP) (sec : ProgSections) (s : State) : Out :=
  hostCmd s q (.progLoad l) (fun s p =>
    match regionAt s p l.region with
    | none => reject s q 0x0106
    | some g =>
      if 63 < l.slot ∨ regionSpan g < l.off + l.len then reject s q 0x0103
      else if (mapFind (partAt s p).progs l.slot).isSome then reject s q 0x0109
      else if g.p.ro ∧ (g.cur.isNone ∨ g.p.hostback) then reject s q 0x0105
      else if (firstPoison s (readPages g) l.off l.len).isSome then commitCmd s q 0x010A 0x0001FFFF
      else
        let b := readBytes s (readPages g) l.off l.len
        let pr := progOfImage s p b sec
        if !sectionsOk b || !progForm s p l.slot b pr then reject s q 0x010A
        else done (loadProg s p l.slot b pr) q (l.slot + 65536 * b2n pr.inplace))

/-- Does a running campaign name a slot? -/
def slotNamed (x : Part) (slot : Nat) : Bool :=
  (x.camp.map (fun c => c.p.turns.any (fun t => !decide (t.kind = .checkpoint) && decide (t.prog = slot)))).getD false

/-- PROG_UNLOAD (R336). -/
def execProgUnload (q : QId) (slot : Nat) (s : State) : Out :=
  hostCmd s q (.progUnload slot) (fun s p =>
    let x := partAt s p
    if 63 < slot then reject s q 0x0103
    else if (mapFind x.progs slot).isNone then reject s q 0x0106
    else if slotNamed x slot then reject s q 0x0109
    else doneOk (updPart s p (fun x => { x with progs := mapDel x.progs slot })) q)

end Sys2Proof.Machine
end

