-- ==== Sys2Proof/Machine/Serving.lean ====
section
/-! DEFINITION. Serving commands: admissions (R244, R357), cancels and releases (R249, R275), prefix handles (R261, R264),
variants (R268) and the close of admission (R243). -/

namespace Sys2Proof.Machine

open Sys2Proof

/-- Byte offset of the parameter that an admission fails on (R333, R357); 0xFFFF where it is the table that is full. -/
def admitOff (s : State) (p : Nat) (a : AdmitP) (st : Nat) : Nat :=
  let h := if a.prefixH = 0xFFFF then none else mapFind (partAt s p).handles a.prefixH
  if st = 0x0103 then
    firstOff [(decide (a.outoff % 64 ≠ 0), 16), (h.elim false (fun y => decide (a.plen ≤ y.len)), 32), (decide (a.maxgen = 0), 35),
      (!tempOk a.temp, 42), (decide (1024 < a.topk), 46), (decide (4 < a.stops.length), 50)]
  else if st = 0x0106 then 40
  else if st = 0x010F then 38
  else 0xFFFF

/-- REQ_ADMIT (R244, R248, R262, R269, R357): CE.DETAIL names the entry. -/
def execReqAdmit (q : QId) (a : AdmitP) (e : Nat) (drs : List Nat) (s : State) : Out :=
  hostCmd s q (.reqAdmit a) (fun s p =>
    let st := admitStatus s p a
    if st ≠ 0 then rejectAt s q st (admitOff s p a st)
    else if !admitChoice s p e a drs then s
    else done (admitReq s p e a false drs) q e)

/-- REQ_CANCEL (R275): in effect at the next composition or commit that concerns the entry. -/
def execReqCancel (q : QId) (e : Nat) (s : State) : Out :=
  hostCmd s q (.reqCancel e) (fun s p =>
    if 16384 ≤ e then reject s q 0x0103
    else match reqAt s p e with
      | none => reject s q 0x0105
      | some r => if reqOpen r then doneOk (setReq s p e { r with cancel := true }) q else reject s q 0x0105)

/-- REQ_RELEASE (R249). -/
def execReqRelease (q : QId) (e : Nat) (s : State) : Out :=
  hostCmd s q (.reqRelease e) (fun s p =>
    if 16384 ≤ e then reject s q 0x0103
    else match reqAt s p e with
      | none => reject s q 0x0105
      | some r => if reqOpen r then reject s q 0x0105 else doneOk (freeReq s p e) q)

/-- Map entries that a handle of L positions holds (R261). -/
def prefixEntries (r : Req) (len : Nat) : Nat := cdiv len (2 ^ r.dposl) * r.dlanes

/-- Entry states that a handle can be made from (R261). -/
def prefixFrom (r : Req) : Bool :=
  (decide (r.st = .decode) || decide (r.st = .spec) || decide (r.st = .done)) && decide (r.dhead ≠ drawerNone)

/-- PREFIX_CREATE (R252, R261): CE.DETAIL names the handle. -/
def execPrefixCreate (q : QId) (e len h : Nat) (drs : List Nat) (s : State) : Out :=
  hostCmd s q (.prefixCreate e len) (fun s p =>
    let x := partAt s p
    if 16384 ≤ e then reject s q 0x0103
    else if x.handleQ ≤ x.handles.length then reject s q 0x0108
    else match reqAt s p e with
      | none => reject s q 0x0105
      | some r =>
        let n := prefixEntries r len
        if !prefixFrom r then reject s q 0x0105
        else if len = 0 ∨ r.klen < len then reject s q 0x0103
        else if freeCount s p r.dreg < mapNeed n ∨ copyOver s p r.dreg r.dhead n then reject s q 0x0108
        else if 4096 ≤ h ∨ (mapFind x.handles h).isSome ∨ !goodDrawers s p r.dreg (mapNeed n) drs then s
        else
          let m := copyMap s p r.dreg r.dhead n drs
          let k : Handle := { live := true, ven := r.ven, variant := r.variant, version := r.version, len := len,
                              map := m.2, users := 0, dreg := r.dreg, dposl := r.dposl, dlanes := r.dlanes }
          done (updPart m.1 p (fun x => { x with handles := mapPut x.handles h k })) q h)

/-- PREFIX_RELEASE (R264). -/
def execPrefixRelease (q : QId) (h : Nat) (s : State) : Out :=
  hostCmd s q (.prefixRelease h) (fun s p =>
    match mapFind (partAt s p).handles h with
    | none => reject s q 0x0106
    | some k =>
      if !k.live then reject s q 0x0106
      else if k.users = 0 then
        doneOk (updPart (releaseMap s p k.dreg k.map) p (fun x => { x with handles := mapDel x.handles h })) q
      else doneOk (updPart s p (fun x => { x with handles := mapPut x.handles h { k with live := false } })) q)

/-- VARIANT_SET (R268). -/
def execVariantSet (q : QId) (ver : Nat) (v : VSetP) (s : State) : Out :=
  hostCmd s q (.variantSet ver v) (fun s p =>
    let e := ventAt (partAt s p) v.variant
    if 65536 ≤ v.variant ∨ 65536 ≤ ver ∨ 2 ≤ v.fmt then reject s q 0x0103
    else match regionAt s p v.region with
      | none => reject s q 0x0106
      | some g =>
        if !g.p.ro ∨ g.cur.isNone then reject s q 0x0105
        else if (e.cur.map (fun c => c.ver)) = some ver ∨ (e.prv.map (fun c => c.ver)) = some ver ∨
            (e.prv.map (fun c => decide (0 < c.refs))) = some true then reject s q 0x010F
        else doneOk (setVersion s p ver v) q)

/-- VARIANT_CLEAR (R268): with references on the current version and a previous one in place, there is no place for it
(log entry 22). -/
def execVariantClear (q : QId) (v : Nat) (s : State) : Out :=
  hostCmd s q (.variantClear v) (fun s p =>
    let e := ventAt (partAt s p) v
    if 65536 ≤ v then reject s q 0x0103
    else match e.cur with
      | none => reject s q 0x0106
      | some c =>
        if 0 < c.refs ∧ e.prv.isSome then reject s q 0x010F
        else doneOk (setVent s p v (stepDown e)) q)

/-- ADMIT_CLOSE (R243): the turn may end with it (R8). -/
def execAdmitClose (q : QId) (s : State) : Out :=
  hostCmd s q .admitClose (fun s p =>
    let s := updRun (doneOk s q) p (fun r => { r with admOpen := r.admOpen && !decide (r.kind = .rollout) })
    schedule (turnLoop s p))

end Sys2Proof.Machine
end

