-- ==== Sys2Proof/Machine/Images.lean ====
section
/-! DEFINITION. Records that diagnostics and context images hold (R49, R184, R189, R245, R261, R267), and context images
(R359) as PART_SAVE writes them. -/

namespace Sys2Proof.Machine

open Sys2Proof

/-! ### Records -/

/-- Region record (R189). -/
def regionRec (p r : Nat) (g : Region) : List Byte :=
  let ep (x : Option Pub) : Nat := (x.map (fun b => b.epoch)).getD 0
  let ha (x : Option Pub) : Nat := if g.p.hostback then (x.map (fun b => b.haddr.toNat)).getD 0 else 0
  leBytes 64 (packFields [⟨0, 16, r⟩, ⟨16, 5, p⟩, ⟨21, 1, b2n g.p.ro⟩, ⟨22, 1, b2n g.p.hostback⟩, ⟨23, 1, b2n g.p.pin⟩,
    ⟨24, 1, b2n g.p.never⟩, ⟨25, 2, g.p.bias⟩, ⟨27, 2, g.p.cls⟩, ⟨29, 3, regionState g⟩, ⟨32, 32, ep g.cur⟩,
    ⟨64, 32, ep g.next⟩, ⟨96, 32, g.p.pages⟩, ⟨128, 20, g.p.pasid.toNat⟩, ⟨192, 64, ha g.cur⟩, ⟨256, 64, ha g.next⟩])

/-- Request table entry (R245). -/
def reqRec (r : Req) : List Byte :=
  leBytes 256 (packFields ([⟨0, 3, reqCode r.st⟩, ⟨3, 3, r.prio⟩, ⟨6, 1, b2n r.keysrc⟩, ⟨7, 1, b2n r.ven⟩, ⟨8, 1, b2n r.list⟩,
    ⟨12, 4, r.reason⟩, ⟨16, 16, r.variant⟩, ⟨32, 16, r.version⟩, ⟨48, 16, r.prefixH⟩, ⟨64, 64, r.tag.toNat⟩, ⟨128, 24, r.plen⟩,
    ⟨152, 24, r.klen⟩, ⟨176, 24, r.clen⟩, ⟨200, 8, r.tlen⟩, ⟨208, 24, r.clen + r.tlen⟩, ⟨232, 24, r.maxgen⟩,
    ⟨256, 64, r.deadline.toNat⟩, ⟨320, 32, r.dhead⟩, ⟨352, 64, r.outoff⟩, ⟨416, 32, r.temp.toNat⟩, ⟨448, 11, r.topk⟩,
    ⟨464, 16, r.topp⟩, ⟨512, 64, r.seq⟩, ⟨576, 64, r.proff⟩, ⟨720, 3, r.stops.length⟩, ⟨768, 64, r.bg.key0.toNat⟩,
    ⟨832, 64, r.bg.key1.toNat⟩, ⟨896, 128, r.bg.ctr.toNat⟩] ++
    (r.stops.zipIdx.map (fun e => ⟨640 + 20 * e.2, 20, e.1⟩)) ++ (r.draft.zipIdx.map (fun e => ⟨1024 + 20 * e.2, 20, e.1⟩))))

/-- Prefix handle record (R261). -/
def handleRec (h : Handle) : List Byte :=
  leBytes 32 (packFields [⟨0, 1, b2n h.live⟩, ⟨1, 1, b2n h.ven⟩, ⟨16, 16, h.variant⟩, ⟨32, 16, h.version⟩, ⟨48, 24, h.len⟩,
    ⟨96, 32, h.map⟩, ⟨128, 32, h.users⟩])

/-- Variant entry (R267). -/
def variantRec (v : VEnt) : List Byte :=
  let f (x : Option VVer) (g : VVer → Nat) : Nat := (x.map g).getD 0
  leBytes 64 (packFields [⟨0, 16, f v.cur (fun c => c.ver)⟩, ⟨16, 1, b2n v.cur.isSome⟩, ⟨17, 1, b2n v.prv.isSome⟩, ⟨18, 2, v.fmt⟩,
    ⟨24, 16, v.cls⟩, ⟨64, 32, f v.cur (fun c => c.refs)⟩, ⟨96, 32, f v.prv (fun c => c.refs)⟩,
    ⟨128, 16, f v.cur (fun c => c.region)⟩, ⟨144, 48, f v.cur (fun c => c.off)⟩, ⟨192, 16, f v.prv (fun c => c.ver)⟩,
    ⟨208, 16, f v.prv (fun c => c.region)⟩, ⟨224, 48, f v.prv (fun c => c.off)⟩, ⟨272, 32, f v.cur (fun c => c.epoch)⟩,
    ⟨304, 32, f v.prv (fun c => c.epoch)⟩])

/-- Ring status (R184). -/
def ringRec (x : Ring) : List Byte :=
  let n (c : Bobbin → Bool) : Nat := (x.bobs.filter c).length
  leBytes 8 (packFields [⟨0, 2, x.dir⟩, ⟨2, 4, x.head⟩, ⟨6, 5, n (fun b => decide (b.st = .filled) || decide (b.st = .inUse))⟩,
    ⟨11, 5, n (fun b => decide (b.st = .issued) || decide (b.st = .sending))⟩, ⟨16, 5, n (fun b => decide (b.st = .deferred))⟩,
    ⟨21, 5, n (fun b => decide (b.st = .stale))⟩, ⟨26, 1, b2n x.pend.isSome⟩, ⟨32, 32, x.next⟩])

/-- Tile register state record (R49). -/
def tregRec (x : TReg) : List Byte :=
  leBytes 32 (packFields [⟨0, 16, x.nextk⟩, ⟨16, 1, b2n x.run⟩, ⟨17, 1, b2n x.held⟩, ⟨18, 4, x.holdn⟩, ⟨22, 7, x.flags.toNat⟩,
    ⟨29, 1, b2n (x.pois.any (fun e => decide (e.2 ≠ 0)))⟩, ⟨32, 20, x.rowb⟩, ⟨52, 20, x.colb⟩, ⟨72, 8, x.stream⟩,
    ⟨80, 64, x.dmask.foldl (fun a e => if e.2 then a ||| (1 <<< e.1) else a) 0⟩])

/-! ### Context images (R359) -/

/-- What an image of a partition holds, its directory apart: sections 0 to 7 as data, and the tile register records and fault log of
section 8. -/
def imageBody (s : State) (p : Nat) : CtxImage :=
  let x := partAt s p
  { format := 1, dir := [], level := s.boot.level, groups := x.groups.length, seed := x.seed, quota := x.quota, flagmask := x.flagmask,
    entries := x.entries, handleQ := x.handleQ, regions := x.regions,
    progs := x.progs.map (fun e => ⟨e.1, e.2.meas, e.2.shape, e.2.groups⟩), reqs := x.reqs, reqSeq := x.reqSeq,
    variants := x.variants, handles := x.handles, drawers := x.drawers,
    tregs := ((List.range (nTiles s p)).map (fun t => (List.range 16).map (fun r => tregRec (treg (tileAt s p t) r)))).flatten,
    diag := x.flog }

/-- Pad a section to its 4 KiB boundary: what the padding holds is open. -/
def padSection (k : Nat) (b : List Byte) : List Byte :=
  b ++ (List.range (4096 * cdiv b.length 4096 - b.length)).map (fun j => Config.freeByte (2 ^ 64 * k + j))

/-- Drawer counts of a region: 2 bytes for each drawer. -/
def drawerCounts (s : State) (p : Nat) (x : CtxImage) (r : Nat) : List Byte :=
  ((List.range (poolSize s p r)).map (fun d => leBytes 2 (mapGet 0 x.drawers (drawerKey r d)))).flatten

/-- What section 0 holds: format, level, group count, directory. -/
def headVals (x : CtxImage) : List Nat := [x.format, x.level, x.groups] ++ x.dir

/-- What section 1 holds: seed, quota record, flag-fault mask, serving quotas. -/
def partVals (x : CtxImage) : List Nat :=
  [x.seed.toNat, x.quota.t1pages, x.quota.res1, x.quota.res2, x.quota.res3, x.quota.t2, x.quota.t3, x.flagmask.toNat, x.entries,
   x.handleQ]

/-- A numeric shape as numbers (R38). -/
def shapeVals (n : NShape) : List Nat :=
  [n.level, n.kgroup, n.run, n.rm, n.block, n.headroom, b2n n.sr1, b2n n.sr2, b2n n.sr3, b2n n.detmode, n.gradfmt]

/-- What section 3 holds: slot, measurement, shape and group count of each program. -/
def progVals (x : CtxImage) : List Nat :=
  (x.progs.map (fun e => [e.slot, e.meas.toNat] ++ shapeVals e.shape ++ [e.groups])).flatten

/-- Sections 1 to 8 of an image. The partition's and the programs' sections have no byte layout: their bytes are a free function of what
they hold (log entry 2). The records of the others follow each other by number. -/
def imageSections (s : State) (p : Nat) (x : CtxImage) : List (List Byte) :=
  [Config.sectionBytes 1 (partVals x),
   (x.regions.map (fun e => regionRec p e.1 e.2)).flatten,
   Config.sectionBytes 3 (progVals x),
   (x.reqs.map (fun e => reqRec e.2)).flatten,
   (x.variants.map (fun e => variantRec e.2)).flatten,
   (x.handles.map (fun e => handleRec e.2)).flatten,
   ((x.drawers.map (fun e => e.1 / 2 ^ 32)).dedup.map (drawerCounts s p x)).flatten,
   x.tregs.flatten ++ (x.diag.map (fun r => leBytes 64 (faultBits r))).flatten]

/-- The image of a partition, with its directory. -/
def contextImage (s : State) (p : Nat) : CtxImage :=
  let x := imageBody s p
  { x with dir := (imageSections s p x).map (fun b => cdiv b.length 4096) }

/-- An image as bytes (R359): the header's section, whose layout is open too, and the others. -/
def imageBytes (s : State) (p : Nat) (x : CtxImage) : List Byte :=
  ((Config.sectionBytes 0 (headVals x) :: imageSections s p x).zipIdx.map (fun e => padSection (s.free + e.2) e.1)).flatten

/-- Free values that an image takes. -/
def imageDraws : Nat := 9

end Sys2Proof.Machine
end

