-- ==== Sys2Proof/Machine/Campaigns.lean ====
section
/-! DEFINITION. Campaign commands (R217, R242, R271, R300, R352, R353, R355) and context images (R358 to R360). -/

namespace Sys2Proof.Machine

open Sys2Proof

/-! ### What a campaign must satisfy

Each list gives the conditions that fail with the byte offsets of the fields that they concern (R333). -/

/-- R217, with the field ranges and the alignment of R216 (log entry 26 gives them R217's status). -/
def learnOff (pr : Program) (l : LearnP) : List (Bool × Nat) :=
  let reg (r : Nat) : Bool := decide (r = 0) || decide (r = 63) || pr.gsels.any (fun g => decide (g.sreg = r))
  [(decide (l.steps = 0), 0), (decide (l.gbufs + 1 ≤ l.smax), 28), (decide (l.quorum = 0), 29),
   (l.replay && (!pr.shape.detmode || decide (l.logslots < l.steps)), 30), (reg l.sreg || decide (l.sreg = l.creg), 30),
   (decide (l.readyseg ≠ 0xFFFF) && !pr.segs.any (fun d => decide (d.id = l.readyseg)), 32), (reg l.creg, 36),
   (decide (l.readyseg ≠ 0xFFFF) && !pr.colls.any (fun d => decide (d.id = l.coll) && decide (d.kind = 0)), 38),
   (decide (l.recaddr.toNat % 512 ≠ 0), 40), (decide (l.recslots = 0), 56)]

/-- Is a region of a partition writable; none where it does not exist. -/
def writableReg (s : State) (p r : Nat) : Option Bool := (regionAt s p r).map (fun g => !g.p.ro)

/-- Bytes of a region; 0 where it does not exist. -/
def spanOf (s : State) (p r : Nat) : Nat := ((regionAt s p r).map regionSpan).getD 0

/-- R242, with the field ranges of R241. -/
def rollOff (s : State) (p : Nat) (pr : Program) (l : RollP) : List (Bool × Nat) :=
  [(decide (l.tokbudget % 64 ≠ 0) || decide (l.tokbudget < 64) || decide (8192 < l.tokbudget), 0),
   (decide (l.maxdec = 0) || decide (l.tokbudget < l.maxdec), 2), (decide (l.chunk = 0) || decide (128 < l.chunk), 4),
   (decide (15 < l.specmax) || decide (l.vmax = 0) || decide (15 < l.vmax), 5),
   (decide (l.dposl < 4) || decide (10 < l.dposl) || decide (l.dlanes = 0), 6),
   (decide (writableReg s p l.dregion ≠ some true), 8),
   (decide (writableReg s p l.mregion ≠ some true) || decide (spanOf s p l.mregion < (l.mbufs + 1) * (64 + 82 * l.tokbudget)), 10),
   (decide (l.sreg = 0) || decide (l.sreg = 63) || pr.gsels.any (fun g => decide (g.sreg = l.sreg)), 12),
   (decide (writableReg s p l.oregion ≠ some true), 15), (decide (writableReg s p l.pregion ≠ some false), 17),
   (decide (l.maxlen < 64) || decide (1048576 < l.maxlen), 21),
   (decide (spanOf s p l.pregion < l.listoff + 128 * l.nprompt), 24), (decide (l.listoff % 128 ≠ 0), 27),
   (decide (l.vstep = 0), 40), (decide (1 < l.close), 42)]

/-- Layout pairs that a turn's switch runs. -/
def turnPairs (x : Part) (t : TurnP) : List PairD :=
  if t.kind = .checkpoint then []
  else ((mapFind x.progs t.prog).map (fun pr => t.pairs.filterMap (fun i =>
    pr.pairs.find? (fun d => decide (d.hd.id = i))))).getD []

/-- Has the turn's program a layout pair of an id, into a region that holds publications? -/
def turnPairOk (s : State) (p : Nat) (t : TurnP) (i : Nat) : Bool :=
  ((mapFind (partAt s p).progs t.prog).bind (fun pr => pr.pairs.find? (fun d => decide (d.hd.id = i)))).elim false
    (fun d => decide (writableReg s p d.hd.dregion = some false))

/-- R271's conditions on a variant-set entry: the offset is of VS.FMT or VS.REGION. -/
def vsetOff271 (s : State) (p : Nat) (t : TurnP) (v : VSetP) : List (Bool × Nat) :=
  [(decide (2 ≤ v.fmt), 2), (!(match regionAt s p v.region with
    | some g => g.p.ro && (g.cur.isSome || (turnPairs (partAt s p) t).any (fun d => decide (d.hd.dregion = v.region)))
    | none => false), 6)]

/-- Checkpoint entries (R353): a range that is empty or not within its region, a region with no publication. -/
def ckptOff353 (s : State) (p : Nat) (k : CkptP) : List (Bool × Nat) :=
  match regionAt s p k.region with
  | some g => [(g.p.ro && g.cur.isNone, 0), (decide (regionSpan g < k.off + k.len), 4), (decide (k.len = 0), 10)]
  | none => []

/-- Offsets moved by a base. -/
def atOff (base : Nat) (l : List (Bool × Nat)) : List (Bool × Nat) := l.map (fun e => (e.1, base + e.2))

/-- The program of a turn that needs one, and its parameters: R217 and R242 (R353). -/
def progOff (s : State) (p o : Nat) (t : TurnP) : List (Bool × Nat) :=
  if t.kind = .checkpoint then []
  else match mapFind (partAt s p).progs t.prog with
    | none => [(true, o + 2)]
    | some pr =>
      (decide (pr.groups ≠ (partAt s p).groups.length), o + 2) :: atOff (o + 16)
        (if t.kind = .learning then learnOff pr t.lt else if t.kind = .rollout then rollOff s p pr t.rp else [])

/-- What a turn descriptor at an offset of the parameters fails (R352, R353). -/
def turnOff (s : State) (p : Nat) (b : List Byte) (o : Nat) (t : TurnP) : List (Bool × Nat) :=
  [(decide (16 < t.pairs.length), o + 1), (decide (t.kind ≠ .checkpoint) && decide (t.ckpts ≠ []), o + 6)] ++
    progOff s p o t ++
    (if t.kind = .checkpoint then [] else t.pairs.zipIdx.map (fun e => (!turnPairOk s p t e.1, numAt b (o + 8) 8 + 2 * e.2))) ++
    (t.vsets.zipIdx.map (fun e => atOff (vsetOff b o + 32 * e.2) (vsetOff271 s p t e.1))).flatten ++
    (t.ckpts.zipIdx.map (fun e => atOff (ckptOff b o + 32 * e.2) (ckptOff353 s p e.1))).flatten

/-- What a campaign fails: TURN_FORM's conditions (R352, R353), given its parameter bytes. -/
def campOff (s : State) (p : Nat) (c : CampaignP) (b : List Byte) : List (Bool × Nat) :=
  [(decide (c.turns = []), 0), (decide (c.turns.length ≤ c.fromTurn), 6),
   (decide (c.positions = []) || decide (2048 < c.positions.length), 8), (decide (c.recaddr.toNat % 512 ≠ 0), 16),
   (decide (c.recslots = 0), 24), (!c.positions.contains s.fabric.member, numAt b 12 4)] ++
    c.positions.zipIdx.map (fun e => (decide (2047 < e.1) || !s.fabric.members.any (fun m => decide (m.1 = e.1)),
      numAt b 12 4 + 2 * e.2)) ++
    (c.turns.zipIdx.map (fun e => turnOff s p b (numAt b 32 4 + 256 * e.2) e.1)).flatten

def fails (l : List (Bool × Nat)) : Bool := l.any (fun e => e.1)

/-- Checkpoint entries that name no region (R353 NOT_FOUND). -/
def campMissing (s : State) (p : Nat) (c : CampaignP) (b : List Byte) : List (Bool × Nat) :=
  (c.turns.zipIdx.map (fun t => if t.1.kind = .checkpoint then
    t.1.ckpts.zipIdx.map (fun k => ((regionAt s p k.1.region).isNone, ckptOff b (numAt b 32 4 + 256 * t.2) + 32 * k.2))
    else [])).flatten

/-! ### Links (R300) -/

/-- Pairs of positions that a layout pair joins: sources and their replicas with destinations, and each chain's hops. -/
def pairHops (d : PairD) : List (Nat × Nat) :=
  let dsts := d.pieces.filter (fun x => x.dst)
  ((d.pieces.filter (fun x => !x.dst)).map (fun y => ((dsts.filter (fun x => (meet x y).isSome)).map (fun x =>
    d.hd.repl.map (fun o => (((y.pos : Int) + o).toNat, x.pos)))).flatten)).flatten ++
    (dsts.map (fun x => (receivers x).zip x.chain)).flatten

/-- Is there a direct UP link of a class or better between two members (R292, R300)? This module knows its own ports, and of the
others the group's links as its last epoch gave them. -/
def linkBetween (s : State) (a b cls : Nat) : Bool :=
  let good (k : Nat) : Bool := decide (1 ≤ k) && decide (k ≤ cls)
  let own (m : Nat) : Bool := s.fabric.ports.any (fun x => decide (x.st = .up) && decide (x.peer = m) && good x.cls)
  if a = s.fabric.member then own b
  else if b = s.fabric.member then own a
  else s.fabric.links.any (fun l => good l.cls && (decide (l.a = a ∧ l.b = b) || decide (l.a = b ∧ l.b = a)))

/-- R300 for a pair of positions that declares a class. -/
def hopOk (s : State) (c : CampaignP) (cls : Nat) (h : Nat × Nat) : Bool :=
  let a := c.positions.getD h.1 noMember
  let b := c.positions.getD h.2 noMember
  decide (cls = 3) || decide (a = b) || linkBetween s a b cls

def linksOk (s : State) (p : Nat) (c : CampaignP) : Bool :=
  let x := partAt s p
  c.turns.all (fun t => decide (t.kind = .checkpoint) || ((turnPairs x t).all (fun d => (pairHops d).all (hopOk s c d.hd.cls)) &&
    ((mapFind x.progs t.prog).map (fun pr => pr.colls.all (fun d => (collHops d).all (hopOk s c d.cls)))).getD true))

/-! ### Rows -/

/-- A campaign that has just started waits for the other members (R353). -/
def freshCamp (s : State) (q : QId) (c : CampaignP) (b : List Byte) : Camp :=
  { p := c, q := q, phase := .rendezvous, digest := sha3 b, digests := [], rdv0 := s.time.now, turnIx := c.fromTurn,
    rerun := [], beacons := [], recs := 0, due := [], badRec := false, fin := none, back := [], stop := false, stops := [],
    epoch := 0, lastCkpt := none, sw := none, run := none }

/-- CAMPAIGN_START (R353): it exchanges the descriptor's digest; alone, it starts its first turn at once. -/
def execCampaignStart (q : QId) (c : CampaignP) (s : State) : Out :=
  hostCmd s q (.campaignStart c) (fun s p =>
    let b := paramsOf s q
    if (partAt s p).camp.isSome then rejectAt s q 0x0105 0xFFFF
    else if fails (campMissing s p c b) then rejectAt s q 0x0106 (firstOff (campMissing s p c b))
    else if fails (campOff s p c b) then rejectAt s q 0x010B (firstOff (campOff s p c b))
    else if !linksOk s p c then rejectAt s q 0x010C 0xFFFF
    else
      let k := freshCamp s q c b
      let s := updPart (startCmd s q) p (fun x => { x with camp := some k })
      let s := sendCamp s k (.digest c.id k.digest)
      turnLoop (rendezvousMet s p) p)

/-- CAMPAIGN_STOP (R355). -/
def execCampaignStop (q : QId) (s : State) : Out :=
  hostCmd s q .campaignStop (fun s p =>
    if (partAt s p).camp.isNone then doneOk s q else stopGoesOn (turnLoop (campStop (startCmd s q) p) p) p)

/-! ### Context images (R358 to R360) -/

/-- PART_SAVE (R358): the image goes to the host buffer; CE.DETAIL is its length in 4 KiB units. -/
def execPartSave (q : QId) (b : Buf) (s : State) : Out :=
  hostCmd s q (.partSave b) (fun s p =>
    let x := contextImage s p
    let l := imageBytes s p x
    let s' := s.withFree (s.free + imageDraws)
    let sp := hostSpace q.fn b.pasid.toNat
    if (partAt s p).st ≠ .stopped then rejectAt s q 0x0105 0xFFFF
    else if b.len < l.length then reject s' q 0x0103
    else if b.refused then endCmd s' q 0x0203
    else
      let s := hostWrite s' sp b.haddr.toNat l
      done (s.withImages (⟨sp, b.haddr, x⟩ :: s.images.filter (fun e => !(decide (e.space = sp) && decide (e.haddr = b.haddr))))) q
        (l.length / 4096))

/-- T2 pages that a restore takes: writable regions, and staging publications for the saved current ones (R360). -/
def restorePages (g : Region) : Nat :=
  if !g.p.ro then g.p.pages else if g.p.hostback || g.cur.isNone then 0 else g.p.pages

/-- Restore one region (R360): zero-filled, or its saved publication opened for staging. -/
def restoreRegion (s : State) (p r : Nat) (g : Region) (pages : List Nat) : State :=
  let s := setRegion s p r { g with
    wpages := if g.p.ro then [] else pages, cur := none, next := none, old := [] }
  let s := zeroPages s pages
  if g.p.ro ∧ g.cur.isSome ∧ g.p.hostback = false then stagePub s p r (curEpoch g) 0 pages else s

/-- T2 and T3 pages that an image's partition used when it was saved: writable regions, current and staging publications (R204). -/
def imageT2 (i : CtxImage) : Nat :=
  (i.regions.map (fun e => if !e.2.p.ro then e.2.p.pages
    else if e.2.p.hostback then 0 else e.2.p.pages * (b2n e.2.cur.isSome + b2n e.2.next.isSome))).sum

def imageT3 (i : CtxImage) : Nat :=
  (i.regions.map (fun e => if e.2.p.ro && e.2.p.hostback then e.2.p.pages * (b2n e.2.cur.isSome + b2n e.2.next.isSome) else 0)).sum

/-- Are a partition's quotas at least the image's use (R360)? -/
def restoreFits (x : Part) (i : CtxImage) : Bool :=
  decide (imageT2 i ≤ x.quota.t2) && decide (imageT3 i ≤ x.quota.t3) && decide (i.reqs.length ≤ x.entries) &&
    decide (i.handles.length ≤ x.handleQ) &&
    (let n := (i.regions.map (fun e => if e.2.p.pin then e.2.p.pages else 0)).sum
     decide (n = 0) || decide (n + 2 ≤ x.quota.t1pages))

/-- PART_RESTORE (R360): the new entry numbers and pages are the D7's choice. An image of another format is one of a level that this
module does not support (DESIGN CHOICE, log entry 48). -/
def execPartRestore (q : QId) (b : Buf) (i : CtxImage) (ids pages : List Nat) (s : State) : Out :=
  hostCmd s q (.partRestore b) (fun s p =>
    let x := partAt s p
    if x.st ≠ .stopped ∨ x.regions ≠ [] ∨ x.progs ≠ [] ∨ x.reqs ≠ [] then rejectAt s q 0x0105 0xFFFF
    else if b.refused then endCmd s q 0x0204
    else if i.format ≠ 1 ∨ i.level ≠ s.boot.level then reject s q 0x010E
    else if !restoreFits x i then reject s q 0x0107
    else if ids.length ≠ i.reqs.length ∨ !noDup ids ∨ ids.any (fun e => decide (16384 ≤ e) || entryTaken s e) ∨
        !goodPlace s (i.regions.map (fun e => restorePages e.2)).sum pages then s
    else
      let s := (i.regions.foldl (fun (acc : State × List Nat) e =>
        let n := restorePages e.2
        (restoreRegion acc.1 p e.1 e.2 (acc.2.take n), acc.2.drop n)) (s, pages)).1
      let s := updPart s p (fun x => { x with
        seed := i.seed, seedOn := i.seed, flagmask := i.flagmask, shapes := i.progs.map (fun e => (e.slot, e.shape)),
        reqs := (ids.zip i.reqs).foldl (fun m e => mapPut m e.1 { e.2.2 with turn := none }) [],
        reqSeq := i.reqSeq, variants := i.variants, handles := i.handles, drawers := i.drawers })
      doneOk s q)

end Sys2Proof.Machine
end

