-- ==== Sys2Proof/Machine/Links.lean ====
section
/-! DEFINITION. The ports' link layer: lanes (R279, R287, R288), flits (R280 to R285), port states (R289, R417) and what
follows from them: routes (R299), holdover (R383), refetched chunks (R304). -/

namespace Sys2Proof.Machine

open Sys2Proof

/-! ### Ports -/

/-- PS.STATE (R289). -/
def PortSt.code : PortSt → Nat
  | .disabled => 0 | .training => 1 | .hello => 2 | .up => 3 | .draining => 4 | .down => 5 | .quarantine => 6
  | .pendingEnable => 7

/-- Lanes of a list, as a set. -/
def laneSet (l : List Nat) : NSet := (l.filter (fun k => decide (k < 9))).foldl (fun m k => setPut m k true) []

/-- PS.LIGHT (R290). -/
def litOk (x : Port) : Bool := decide (8 ≤ x.lit.length)

/-- Receive buffers of the four classes, in flits (R282). -/
def bufSize : List Nat := [16, 64, 256, 512]

def flitMod (n : Nat) : Nat := n % 1024

/-- A port's correctable event in the error history (R320, R403, R404). -/
def portHist (s : State) (n : Nat) : State := addHist s 0 8 (ctrKey 0 5 n 0) 0 false

/-! ### Hello messages (R291) -/

/-- A free value of 256 bits (log entry 10). -/
def drawWide (s : State) : BitVec 256 × State :=
  (BitVec.ofNat 256 ((List.range 4).foldl (fun acc k => acc * 2 ^ 64 + (Config.free64 (s.free + k)).toNat) 0),
   s.withFree (s.free + 4))

/-- The hello record of a port as 128 bytes: HL.ECHO is the peer's nonce. -/
def helloRecord (s : State) (n : Nat) : List Byte :=
  leBytes 128 (packFields [⟨0, 64, s.fabric.group.toNat⟩, ⟨64, 32, s.fabric.epoch⟩, ⟨96, 11, memberCode s.fabric.member⟩,
    ⟨112, 16, s.boot.level⟩, ⟨128, 32, s.boot.svn⟩, ⟨160, 4, n⟩, ⟨256, 512, s.boot.certId.toNat⟩,
    ⟨768, 256, (portAt s n).pnonce.toNat⟩])

/-- The hello message: the record, its signature, and the certificate chain where it goes with them. After a debug unlock the identity
key is withheld, and what stands in the signature's place is open (R420). -/
def helloBytes (s : State) (n : Nat) (chain : Bool) : List Byte :=
  let r := helloRecord s n
  let sig := (List.range 4627).map (if s.io.tapUnlocked then fun k => Config.freeByte k else Config.sigByte (sha3 r))
  r ++ sig ++ (if chain then s.boot.chain else [])

/-- Does the chain go with the next hello of a port? Not where the identity last seen there has exchanged chains with this module (R291).
A port keeps that identity until it meets another. -/
def firstHello (s : State) (n : Nat) : Bool := !s.fabric.known.contains (portAt s n).pid

/-- A class-0 message to the peer of a port. -/
def sendPeer (s : State) (n : Nat) (b : List Byte) : State := queueTx s n ⟨0, b, false, false, none, none⟩

/-- A hello begins (R291): the nonce, and the record once the peer's nonce is here. -/
def sendHello (s : State) (n : Nat) (nonce : BitVec 256) : State :=
  let s := setPort s n { portAt s n with nonce := nonce, helloAt := s.time.now }
  let s := sendPeer s n (leBytes 32 nonce.toNat)
  if (portAt s n).pnonce = 0 then s else sendPeer s n (helloBytes s n (firstHello s n))

/-- The peer's nonce arrives, and the record that echoes it goes out. -/
def takeNonce (s : State) (n : Nat) (b : List Byte) : State :=
  let s := setPort s n { portAt s n with pnonce := BitVec.ofNat 256 (leNat b) }
  sendPeer s n (helloBytes s n (firstHello s n))

/-! ### Routes (R299) and the time master (R383) -/

/-- Hops and summed round trip of the best path from each member to one. -/
abbrev Costs := List (Nat × Nat × Nat)

def pathCost (d : Costs) (m : Nat) : Option (Nat × Nat) := (d.find? (fun e => decide (e.1 = m))).map (fun e => e.2)

/-- A path to a member is better than what is known: fewer hops, then less summed round trip. -/
def better (a : Nat × Nat) (b : Option (Nat × Nat)) : Bool :=
  match b with
  | none => true
  | some b => decide (a.1 < b.1) || (decide (a.1 = b.1) && decide (a.2 < b.2))

/-- A member's path over one more link. -/
def overLink (d : Costs) (m via rtt : Nat) : Costs :=
  match pathCost d via with
  | none => d
  | some c =>
    let y := (c.1 + 1, c.2 + rtt)
    if better y (pathCost d m) then (m, y) :: d.filter (fun e => e.1 ≠ m) else d

/-- Every link in both directions, once for each round. -/
def costsTo (links : List Link) : Nat → Costs → Costs
  | 0, d => d
  | f + 1, d => costsTo links f (links.foldl (fun d l => overLink (overLink d l.a l.b l.rtt) l.b l.a l.rtt) d)

/-- The port of the message route to a member: fewest hops, then least summed round trip, then the lowest port. -/
def routeTo (s : State) (dst : Nat) : Option Nat :=
  let links := s.fabric.links.filter (fun e => decide (e.a ≠ s.fabric.member) && decide (e.b ≠ s.fabric.member))
  let d := costsTo links s.fabric.members.length [(dst, 0, 0)]
  ((List.range 12).foldl (fun (acc : Option (Nat × Nat × Nat)) n =>
    let x := portAt s n
    match (if x.st = .up then pathCost d x.peer else none) with
    | none => acc
    | some c =>
      let y := (c.1 + 1, c.2 + x.rtt)
      if better y (acc.map (fun e => e.2)) then some (n, y) else acc) none).map (fun e => e.1)

/-- The bulk route set to a member: direct ports, then one port per neighbour with a link to it. -/
def bulkTo (s : State) (dst : Nat) : List (Nat × Nat) :=
  let up := (List.range 12).filter (fun n => decide ((portAt s n).st = .up))
  let direct := up.filter (fun n => decide ((portAt s n).peer = dst))
  let nbrs := ((up.map (fun n => (portAt s n).peer)).dedup).filter (fun m => decide (m ≠ dst) &&
    s.fabric.links.any (fun e => decide (e.a = m ∧ e.b = dst) || decide (e.a = dst ∧ e.b = m)))
  direct.map (fun n => (n, dst)) ++ nbrs.filterMap (fun m => (up.find? (fun n => decide ((portAt s n).peer = m))).map (fun n => (n, m)))

/-- Is a member's TB_SYNC_IN known to be locked? -/
def lockKnown (s : State) (m : Nat) : Bool := if m = s.fabric.member then s.time.inLocked else setHas s.time.locks m

/-- The members known to be locked. -/
def lockedSet (s : State) : NSet :=
  ((s.fabric.members.map (fun e => e.1)).filter (lockKnown s)).foldl (fun l m => setPut l m true) []

/-- The time master (R383): the lowest-numbered member that is known to be locked, otherwise the leader. Timing beacons carry the word
(DEDUCED, log entry 42: R383 does not say how members know). -/
def timeMaster (s : State) : Nat :=
  (((s.fabric.members.map (fun e => e.1)).filter (lockKnown s)).foldl (fun a m => some (match a with
    | some k => min k m
    | none => m)) none).getD s.fabric.leader

/-- HOLDOVER where no route to the time master is left, and its end (R383). -/
def holdoverCheck (s : State) : State :=
  let m := timeMaster s
  let lost := decide (s.fabric.member ≠ noMember) && decide (m ≠ s.fabric.member) && !s.fabric.routes.any (fun e => decide (e.1 = m))
  if lost && !s.time.holdover then
    powerEvent (s.withTime { s.time with holdover := true, holdAt := s.time.now }) 10 false 0 0
  else if !lost && s.time.holdover then
    addCtr (s.withTime { s.time with holdover := false }) (ctrKey 0 8 0 cHold) (sinceNs s s.time.holdAt)
  else s

/-- ROUTE_RECOMPUTE (R299), and HOLDOVER where no route to the time master is left (R383). A chunk that had no route may have one. -/
def reroute (s : State) : State :=
  let ms := (s.fabric.members.map (fun m => m.1)).filter (fun m => m ≠ s.fabric.member)
  let s := s.withFabric { s.fabric with
    routes := ms.filterMap (fun m => (routeTo s m).map (fun n => (m, n))), bulk := ms.map (fun m => (m, bulkTo s m)) }
  holdoverCheck (serveClaims s)

/-! ### Port state changes (R287, R289) -/

/-- A port with a fresh link: sequence numbers, credits and lane map at reset; its counts, its light and the identity last seen stay. -/
def freshPort (x : Port) (st : PortSt) : Port :=
  { Port.reset with st := st, lit := x.lit, litAt := x.litAt, pid := x.pid, fecsym := x.fecsym, replays := x.replays }

/-- The lane that the repair map replaces at a port: 8 × port + lane is its logical number (R393, R394; DESIGN CHOICE, log entry 44). -/
def mappedLane (s : State) (n : Nat) : Option Nat :=
  (s.boot.repair.find? (fun e => decide (rxKind e = 6) && decide (rxLogical e / 8 = n))).map (fun e => rxLogical e % 8)

/-- A port starts training, with the lane map that the repair map leaves it. -/
def startTraining (s : State) (n : Nat) : State :=
  let x := freshPort (portAt s n) .training
  reroute (setPort s n (match mappedLane s n with
    | some k => { x with out := k, lmap := x.lmap.map (fun l => if l = k then 8 else l) }
    | none => x))

/-- A laser unit may be a new one where its three ports are DISABLED or DOWN (R417); the manual leaves that to the cartridge: a free
value (log entry 10). -/
def meetLaser (s : State) (u : Nat) : State :=
  if [0, 1, 2].all (fun k => decide ((portAt s (3 * u + k)).st = .disabled) || decide ((portAt s (3 * u + k)).st = .down)) then
    let d := drawFree s
    if d.1.getLsbD 0 then d.2.withFabric { s.fabric with lasers := listSet s.fabric.lasers u 0 } else d.2
  else s

def isPortCmd (c : HostCmd) (r : JRec) : Bool := decide (r.entry.cmd = c)

/-- PEER_LOST on this module's own partitions of campaigns with other members (R297, R320). -/
def loseCampaigns (s : State) (m : Nat) : State :=
  (List.range 32).foldl (fun s p => match (partAt s p).camp with
    | some c => if (campMembers c).any (fun k => decide (k ≠ s.fabric.member)) then hubFault s p 0x0338 m else s
    | none => s) s

/-- Is a port command of this module under way? -/
def portWaits (s : State) (c : HostCmd) : Bool := s.journal.any (fun r => decide (r.st = .started) && isPortCmd c r)

/-- The last step of GROUP_LEAVE (R295): the ports have drained, and the module leaves its group. -/
def leaveCheck (s : State) : State :=
  if !s.fabric.leaving ∨ s.fabric.ports.any drains then s
  else
    let m := s.fabric.member
    let s := loseCampaigns (sendMsg s (some s.fabric.leader) .leave) m
    let s := s.withFabric { s.fabric with
      leaving := false, member := noMember, members := [], leader := noMember, epoch := 0, prop := none, acks := [], joins := [],
      leaves := [], links := [], routes := [], bulk := [], heard := [], isolated := false, joining := false }
    commitWhere (fabricEvent s 7 0 0 m 0) (isPortCmd .groupLeave) 0 none

/-- A port that has drained, or that is down: DISABLED; its PORT_DISABLE completes. -/
def portDisabled (s : State) (n : Nat) : State :=
  let s := reroute (setPort s n (freshPort (portAt s n) .disabled))
  leaveCheck (commitWhere s (isPortCmd (.portDisable n)) 0 none)

/-- A port that waited for an enable has shut down: the disable completes, the port trains and the enable completes (R341). -/
def portEnabled (s : State) (n : Nat) : State :=
  let s := commitWhere s (isPortCmd (.portDisable n)) 0 none
  leaveCheck (commitWhere (startTraining s n) (isPortCmd (.portEnable n)) 0 none)

/-- A port that has drained: DISABLED, or TRAINING where an enable waits (R289, R341). -/
def portDone (s : State) (n : Nat) : State :=
  match (portAt s n).st with
  | .draining => portDisabled s n
  | .pendingEnable => portEnabled s n
  | _ => s

/-- The chunk of a buffer as this module sends it on: to the member it is for, or to the next position of its chain. -/
def sentOn (s : State) (c : Chunk) : Option Chunk :=
  if c.dmem ≠ s.fabric.member then some c
  else
    let x := partAt s c.part
    (x.camp.bind (fun k => k.sw.map (fun sw => (k, sw)))).bind (fun e =>
      (e.2.pairs.findSome? (fun y => (pairDesc x e.1 e.2 y.pair).bind (fun pr =>
        if pr.hd.dregion = c.region then pieceFor pr c.dpos c.spos c.off c.data.length else none))).bind (fun k =>
        ((fromPos k.2.1 c.dpos).find? (fun q => decide (memberAt e.1 q ≠ s.fabric.member))).map (fun q =>
          { c with dpos := q, dmem := memberAt e.1 q })))

/-- Chunks in flight on a port: begun, and not acknowledged whole. -/
def inFlightOn (s : State) (n : Nat) : List Chunk :=
  let x := portAt s n
  ((x.tx.filter (fun e => e.begun)).filterMap (fun e => e.buf) ++ x.replay.filterMap (fun f => f.buf)).filterMap (fun b =>
    ((mapFind s.fabric.bufs b).bind (fun y => chunkOf y.bytes)).bind (sentOn s))

/-- Chunks that a port has not begun to send and for which no route is left. -/
def unrouted (s : State) (n : Nat) : List Chunk :=
  ((portAt s n).tx.filter (fun e => !e.begun && e.buf.isSome)).filterMap (fun e => (chunkOf e.bytes).bind (fun y =>
    if (chunkRoute s y.dmem y.index).isNone then some y else none))

/-- The member for which a layout pair's chunk was is told that it has been lost, and fetches it from its next source (R304). The
manual does not say how it learns of the loss (DEDUCED, log entry 23). -/
def tellChunk (s : State) (c : Chunk) : State :=
  if c.kind < 2 then sendTo s c.dmem (.lost ⟨c.part, c.region, c.dpos, c.spos, c.off, c.data.length⟩) else s

/-- What a port that drains has not begun goes another way (R289, R318). -/
def moveAway (s : State) (n : Nat) : State := moveTx ((unrouted s n).foldl tellChunk s) n

/-- A port that goes down: what it had begun is lost, and the destinations are told (R287, R304). -/
def clearPort (s : State) (n : Nat) : State :=
  dropTraffic ((inFlightOn s n ++ unrouted s n).foldl tellChunk s) n

/-- A port is marked DOWN (R287, R288): what it had begun and what it was receiving is lost, routes change, and the chunks in flight
on it are fetched again. -/
def markDown (s : State) (n : Nat) : State :=
  let x := portAt s n
  let s := portHist (fabricEvent s 2 n x.cls x.peer 0) n
  let s := setPort s n { x with
    st := .down, cls := 0, litAt := s.time.now, bref := [], bout := 0, sent := [], bsent := 0, rtts := [],
    subst := false, nak := false, skip := false, fixes := [] }
  leaveCheck (clearPort (reroute s) n)

/-- PORT_DOWN (R287, R289): a port that waits for an enable has drained with it, and trains again. A port whose disable waits is
DOWN, and PORT_DRAINED makes it DISABLED. -/
def portDown (s : State) (n : Nat) : State :=
  let x := portAt s n
  if x.st = .disabled ∨ x.st = .down then s
  else if x.st = .pendingEnable then portDone (clearPort s n) n
  else markDown s n

/-! ### Flits (R280 to R284) -/

/-- CRC-32C over bytes (R280); reflected, preset and inverted as that code's name implies (log entry 24). -/
def crcStep (c : BitVec 32) (b : Byte) : BitVec 32 :=
  (List.range 8).foldl (fun c _ => if c.getLsbD 0 then (c >>> 1) ^^^ 0x82F63B78#32 else c >>> 1) (c ^^^ b.setWidth 32)

def crc32c (l : List Byte) : BitVec 32 := ~~~(l.foldl crcStep 0xFFFFFFFF#32)

/-- The 256 bytes of a flit (R280). -/
def flitBytes (hdr : Word64) (payload : List Byte) : List Byte :=
  let b := leBytes 8 hdr.toNat ++ (payload.take 232) ++ List.replicate (232 - payload.length) 0
  let d := b ++ leBytes 4 (crc32c b).toNat
  d ++ (List.range 12).map (Config.fecByte d)

/-- The link fields of the next flit: acknowledgment, NAK, credits of the lowest class owed, beacon ids. -/
def linkBits (x : Port) (bid : Nat) : Nat :=
  let c := ((List.range 4).find? (fun k => decide (0 < x.owed.getD k 0))).getD 0
  packFields [⟨12, 10, x.rxSeq⟩, ⟨22, 1, b2n x.nak⟩, ⟨23, 2, c⟩, ⟨25, 8, min 255 (x.owed.getD c 0)⟩, ⟨33, 4, bid⟩,
    ⟨37, 4, x.bout⟩]

/-- After a flit has gone: what it carried is no longer owed. -/
def flitGone (x : Port) (bid : Nat) (t : Word64) (wire : List (List Byte)) : Port :=
  let c := ((List.range 4).find? (fun k => decide (0 < x.owed.getD k 0))).getD 0
  { x with nak := false, owed := listSet x.owed c (x.owed.getD c 0 - min 255 (x.owed.getD c 0)), bout := 0, wire := wire,
           bsent := if bid = 0 then x.bsent else x.bsent + 1,
           sent := if bid = 0 then x.sent else (x.sent.filter (fun e => e.1 ≠ bid)) ++ [(bid, t)] }

/-- Bits of a header that stay the same when a flit is sent again: type, sequence, class, FIRST, LAST, LEN. -/
def keptBits (h : Word64) : Nat :=
  packFields [⟨0, 12, fld h.toNat 0 12⟩, ⟨41, 12, fld h.toNat 41 12⟩]

/-- The bytes of a flit on the nine physical lanes: byte b on logical lane b / 32, which the lane map places (R279). A lane outside
the map carries nothing. -/
def onLanes (lmap : List Nat) (b : List Byte) : List (List Byte) :=
  (List.range 9).map (fun l => if lmap.contains l then bytesAt b (32 * lmap.idxOf l) 32 else [])

/-- May a port send the next flit of an item (R283, R289): a credit, a flit's worth of bytes or the last of them, and a state that
carries the class; while it drains, only what it has begun. -/
def txOk (x : Port) (i : TxItem) : Bool :=
  decide (0 < x.credit.getD i.cls 0) && (decide (232 ≤ i.bytes.length) || (!i.more && decide (i.bytes ≠ []))) &&
    (decide (i.cls = 0) || !(decide (x.st = .hello) || decide (x.st = .quarantine))) && (!drains x || i.begun)

/-- The oldest item of a class, where its next flit may go. -/
def txHead (x : Port) (c : Nat) : Option TxItem :=
  (x.tx.find? (fun i => decide (i.cls = c))).bind (fun i => if txOk x i then some i else none)

/-- The item whose flit goes now: class 0 first, then classes 1 to 3 in rotation (R282). -/
def pickTx (x : Port) : Option TxItem := ([0, x.rot, x.rot % 3 + 1, (x.rot % 3 + 1) % 3 + 1]).findSome? (txHead x)

/-- Replace the oldest item of a class, or take it away. -/
def setTx (l : List TxItem) (c : Nat) (y : Option TxItem) : List TxItem :=
  match l with
  | [] => []
  | i :: r => if i.cls = c then y.toList ++ r else i :: setTx r c y

/-- The port after it has taken a new flit of an item: its header without the link fields, and its payload. -/
def newFlit (x : Port) (i : TxItem) : Port × Nat × List Byte :=
  let c := i.cls
  let b := i.bytes.take 232
  let rest := i.bytes.drop 232
  let last := decide (rest = []) && !i.more
  let kept := packFields [⟨0, 2, if c = 0 then 2 else 1⟩, ⟨2, 10, x.txSeq⟩, ⟨41, 2, c⟩, ⟨43, 1, b2n (!i.begun)⟩,
    ⟨44, 1, b2n last⟩, ⟨45, 8, b.length - 1⟩]
  ({ x with
      txSeq := flitMod (x.txSeq + 1), txNext := flitMod (x.txSeq + 1), rot := if c = 0 then x.rot else c % 3 + 1,
      replay := x.replay ++ [⟨x.txSeq, BitVec.ofNat 64 kept, b, if last then i.buf else none⟩],
      credit := listSet x.credit c (x.credit.getD c 0 - 1),
      tx := setTx x.tx c (if last then none else some { i with begun := true, bytes := rest }) }, kept, b)

/-- What a port sends now (R282, R284): a flit again, a waiting one, or, with nothing waiting or 512 unacknowledged, an idle one. -/
def nextFlit (x : Port) : Port × Nat × List Byte :=
  match x.replay.find? (fun f => decide (x.txNext ≠ x.txSeq) && decide (f.seq = x.txNext)) with
  | some f => ({ x with txNext := flitMod (x.txNext + 1) }, keptBits f.hdr, f.payload)
  | none => match (if 512 ≤ x.replay.length then none else pickTx x) with
    | none => (x, 0, [])
    | some i => newFlit x i

/-- The beacon number in a flit, FH.BID: 0 where it carries no beacon (R281, R285). -/
def sentBeacon (beacon : Bool) (bid : Nat) : Nat := if beacon then bid else 0

/-- FLIT_TRANSMIT (R279 to R284). -/
def execFlitTransmit (port : Fin 12) (beacon : Bool) (bid : Nat) (t : Word64) (s : State) : Out :=
  ok (let x := portAt s port
    if !carries x ∨ x.subst ∨ 16 ≤ bid then s
    else atTime s t (fun s =>
      let y := nextFlit x
      let b := flitBytes (BitVec.ofNat 64 (y.2.1 ||| linkBits x (sentBeacon beacon bid))) y.2.2
      let s := if fld y.2.1 0 2 = 0 then s else addCtr s (ctrKey 0 5 port (cTx (fld y.2.1 41 2))) 1
      setPort s port (flitGone y.1 (sentBeacon beacon bid) s.time.now (onLanes x.lmap b))))

/-- An acknowledgment frees replay entries up to its number (R284). -/
def takeAck (x : Port) (a : Nat) : Port :=
  if x.replay.any (fun f => decide (f.seq = a)) then
    let gone := x.replay.takeWhile (fun f => decide (f.seq ≠ a))
    { x with replay := x.replay.drop (gone.length + 1), fails := 0,
             txNext := if (gone.any (fun f => decide (f.seq = x.txNext))) ∨ x.txNext = a then flitMod (a + 1) else x.txNext }
  else x

/-- A NAK starts a replay (R284, R287). -/
def takeNak (x : Port) (a : Nat) : Port :=
  match x.replay with
  | [] => x
  | _ :: _ => { x with txNext := flitMod (a + 1), fails := x.fails + 1, replays := min (x.replays + 1) 0xFFFFFFFF }

/-- Credits return, up to the peer's buffer (R283). -/
def takeCredit (x : Port) (c n : Nat) : Port :=
  { x with credit := listSet x.credit c (min (bufSize.getD c 0) (x.credit.getD c 0 + n)) }

/-- Round trip of a beacon in ns, resolved to 1.28 ns (R285). -/
def roundTrip (sent got : Word64) : Nat := (100 * (got.toNat - sent.toNat) - 4096) / 128 * 128 / 100

/-- A beacon of ours comes back, and one of the peer's is to be reflected (R285). -/
def takeBeacon (x : Port) (bid bref : Nat) (t : Word64) : Port :=
  let x := match x.sent.find? (fun e => decide (e.1 = bref) && decide (bref ≠ 0)) with
    | some e => { x with sent := x.sent.filter (fun y => y.1 ≠ bref), rtts := (x.rtts ++ [roundTrip e.2 t]) }
    | none => x
  if bid = 0 then x else { x with bref := x.bref ++ [(bid, t)] }

/-- The 256 bytes of a flit from the nine lanes, by the lane map (R279). -/
def fromLanes (lmap : List Nat) (lanes : List (List Byte)) : List Byte :=
  (lmap.map (fun l => bytesAt (lanes.getD l []) 0 32)).flatten

/-- Bytes in which what arrived differs from what the error correction made of it. -/
def fixedAt (raw fixed : List Byte) : List Nat := (List.range 256).filter (fun k => decide (raw.getD k 0 ≠ fixed.getD k 0))

/-- Has the error correction done its work (R280): 256 bytes whose parity fits, at most six of them corrected? -/
def fecOk (raw fixed : List Byte) : Bool :=
  decide (fixed.length = 256) && decide (fixed.drop 244 = (List.range 12).map (Config.fecByte (fixed.take 244))) &&
    decide ((fixedAt raw fixed).length ≤ 6)

/-- Does a flit's CRC fit (R280)? -/
def crcOk (b : List Byte) : Bool := decide (bytesAt b 240 4 = leBytes 4 (crc32c (b.take 240)).toNat)

/-- Corrected bytes are counted, for the port and by physical lane over 100 ms (R287). -/
def countFixes (x : Port) (raw fixed : List Byte) (t : Word64) : Port :=
  let l := fixedAt raw fixed
  let per := (x.lmap.zipIdx.map (fun e => (⟨e.1, (l.filter (fun k => decide (k / 32 = e.2))).length, t⟩ : LaneFix))).filter
    (fun f => decide (f.count ≠ 0))
  { x with fecsym := min (x.fecsym + l.length) 0xFFFFFFFF,
           fixes := x.fixes.filter (fun f => decide (t.toNat < f.time.toNat + 100000000)) ++ per }

/-- Is a numbered flit the next in order (R284)? -/
def inOrder (x : Port) (h : Nat) : Bool := decide (flitMod (fld h 2 10 + 1024 - x.rxSeq) = 1)

/-- The sequence number of a numbered flit (R284): the next in order is taken, a repeated one dropped, a gap answered by a NAK. -/
def takeSeq (x : Port) (h : Nat) : Port :=
  let d := flitMod (fld h 2 10 + 1024 - x.rxSeq)
  if d = 1 then { x with rxSeq := fld h 2 10, skip := false }
  else if d = 0 ∨ 512 < d ∨ x.skip then x
  else { x with nak := true, skip := true }

/-- Where a message's next flit is forwarded (R298): the port that sends it on. -/
def relaying (s : State) (n c : Nat) : Option Nat :=
  (List.range 12).find? (fun k => (portAt s k).tx.any (fun i => decide (i.src = some n) && decide (i.cls = c) && i.more))

/-- A message's bytes at its receiver, up to its last flit; what it says comes by the message's own row. -/
def keepFlit (s : State) (n c : Nat) (first last : Bool) (b : List Byte) : State :=
  let x := portAt s n
  let old := if first then [] else ((x.rx.find? (fun e => decide (e.1 = c))).map (fun e => e.2)).getD []
  let rest := x.rx.filter (fun e => e.1 ≠ c)
  setPort s n { x with rx := if last then rest else rest ++ [(c, old ++ b)] }

/-- A flit of a message (R291, R298): a nonce, the start of a message for another member, more of one, or for this module. Its buffer
entry is free at once. -/
def messageFlit (s : State) (n c : Nat) (first last : Bool) (b : List Byte) : State :=
  let x := portAt s n
  let s := setPort s n { x with owed := listSet x.owed c (x.owed.getD c 0 + 1) }
  let shaking := decide (x.st = .hello) || decide (x.st = .quarantine)
  if shaking && decide (c = 0) && first && last && decide (b.length = 32) then takeNonce s n b
  else if first then
    let dst := Config.msgDest b
    match (if shaking ∨ dst = s.fabric.member then none else mapFind s.fabric.routes dst) with
    | some k => queueTx s k ⟨c, b, false, !last, some n, none⟩
    | none => keepFlit s n c true last b
  else match relaying s n c with
    | some k =>
      let y := portAt s k
      setPort s k { y with tx := y.tx.map (fun i =>
        if decide (i.src = some n) && decide (i.cls = c) && i.more then { i with bytes := i.bytes ++ b, more := !last } else i) }
    | none => keepFlit s n c false last b

/-- What a flit in order brings (R282, R298, R301). -/
def deliverFlit (s : State) (n : Nat) (b : List Byte) : State :=
  let h := leNat (b.take 8)
  let p := bytesAt b 8 (min 232 (fld h 45 8 + 1))
  if fld h 41 2 < 2 then messageFlit s n (fld h 41 2) (bitOf h 43) (bitOf h 44) p
  else bufferFlit s n ⟨fld h 41 2, bitOf h 43, bitOf h 44, p⟩

/-- The link fields of a flit (R283 to R285, R287 item 2). -/
def takeLink (x : Port) (h : Nat) (t : Word64) : Port :=
  let x := takeCredit (takeAck x (fld h 12 10)) (fld h 23 2) (fld h 25 8)
  let x := if bitOf h 22 then takeNak x (fld h 12 10) else x
  takeBeacon x (fld h 33 4) (fld h 37 4) t

/-- Chunk buffers whose last flit an acknowledgment covers. -/
def ackedBufs (old new : Port) : List Nat :=
  (old.replay.filter (fun f => !new.replay.any (fun g => decide (g.seq = f.seq)))).filterMap (fun f => f.buf)

/-- After a flit: buffers that have been forwarded are free, claims are served, ready beacons whose shards have landed go. -/
def afterFlit (s : State) (n : Nat) (done : List Nat) : State :=
  let s := serveClaims (done.foldl (fun s b => bufSent s b n) s)
  (List.range 32).foldl beaconsDue s

/-- An intact flit. -/
def takeFlit (s : State) (n : Nat) (b : List Byte) : State :=
  let h := leNat (b.take 8)
  if fld h 0 2 = 3 then s
  else
    let x := portAt s n
    let y := takeLink x h s.time.now
    let s := if y.replays = x.replays then s else portHist s n
    let s := setPort s n (if fld h 0 2 = 0 then y else takeSeq y h)
    let s := if decide (fld h 0 2 ≠ 0) && inOrder y h then
        deliverFlit (addCtr s (ctrKey 0 5 n (cRx (fld h 41 2))) 1) n b else s
    let s := afterFlit s n (ackedBufs x y)
    if 9 ≤ y.fails then portDown s n else s

/-- FLIT_RECEIVE (R279 to R285, R287 items 1, 2 and 4, R301, R318). -/
def execFlitReceive (port : Fin 12) (f : Flit) (t : Word64) (s : State) : Out :=
  ok (if !carries (portAt s port) then s
    else atTime s t (fun s =>
      let x := portAt s port
      let raw := fromLanes x.lmap f.lanes
      if !fecOk raw f.fixed then setPort s port { x with nak := true, skip := true }
      else
        let s := setPort s port (countFixes x raw f.fixed s.time.now)
        let s := if raw = f.fixed then s else portHist s port
        if !crcOk f.fixed then setPort s port { portAt s port with nak := true, skip := true }
        else takeFlit s port f.fixed))

/-- BEACON_REFLECT (R285): the flit that starts 40.96 ns after a beacon's flit ended carries its id. -/
def execBeaconReflect (port : Fin 12) (t : Word64) (s : State) : Out :=
  ok (match (portAt s port).bref.find? (fun b => decide (b.2 + 40 = t ∨ b.2 + 41 = t)) with
    | none => s
    | some b => atTime s t (fun s => setPort s port { portAt s port with bref := (portAt s port).bref.erase b, bout := b.1 }))

/-! ### Lanes and lasers (R287, R288, R416) -/

/-- Must a lane be replaced (R287 item 3): more than 2^20 corrected bytes in 100 ms, or no light? -/
def laneBad (x : Port) (lane : Nat) (t : Word64) : Bool :=
  !setHas x.lit lane || decide (2 ^ 20 < ((x.fixes.filter (fun f =>
    decide (f.lane = lane) && decide (t.toNat < f.time.toNat + 100000000))).map (fun f => f.count)).sum)

/-- LANE_SUBSTITUTION (R287): the port sends nothing until the spare has taken the lane's place; DOWN with the spare in use or
unhealthy. The spare is no lane to be replaced while it carries nothing. -/
def execLaneSubstitution (port : Fin 12) (lane : Fin 9) (t : Word64) (s : State) : Out :=
  ok (let x := portAt s port
    if !carries x ∨ lane.val = x.out ∨ !laneBad x lane t ∨ (lane.val = 8 ∧ x.out = 15) then s
    else atTime s t (fun s =>
      if x.out ≠ 15 ∨ laneBad x 8 t then portDown s port
      else setPort s port { portAt s port with subst := true, out := lane }))

/-- LANE_SUBSTITUTION_COMPLETE (R287, R318): flits are sent again from the first that is not acknowledged. -/
def execLaneSubstitutionComplete (port : Fin 12) (t : Word64) (s : State) : Out :=
  ok (if !(portAt s port).subst then s
    else atTime s t (fun s =>
      let x := portAt s port
      let s := setPort s port { x with
        subst := false, lmap := x.lmap.map (fun l => if l = x.out then 8 else l),
        txNext := ((x.replay.head?).map (fun f => f.seq)).getD x.txNext }
      portHist (fabricEvent s 3 port x.cls x.peer x.out) port))

/-- Lanes of a port that lose light, and lanes that have it again. Light on eight lanes counts from when it came (R289, R290). -/
def seeLight (x : Port) (l : LightOf) (t : Word64) : Port :=
  let lit := l.dark.foldl (fun m k => setPut m k false) ((l.lit.filter (fun k => decide (k < 9))).foldl (fun m k => setPut m k true) x.lit)
  let y := { x with lit := lit }
  if litOk x = litOk y then y else { y with litAt := t }

/-- LIGHT_LOSS (R287, R289, R290, R416, R417). The row also tells of light that is there again, since PS.LIGHT shows it and the table has
no other row for it (DESIGN CHOICE, log entry 23). A port that is DISABLED stays so. -/
def execLightLoss (port : Fin 12) (l : LightOf) (t : Word64) (s : State) : Out :=
  ok (if l.dark = [] ∧ l.lit = [] then s
    else atTime s t (fun s =>
      let x := seeLight (portAt s port) l s.time.now
      let s := setPort s port x
      if litOk x ∨ l.dark = [] then s else portDown s port))

/-- LASER_FAILURE (R288). -/
def execLaserFailure (unit : Fin 4) (t : Word64) (s : State) : Out :=
  ok (atTime s t (fun s =>
    let n := s.fabric.lasers.getD unit 0
    let s := s.withFabric { s.fabric with lasers := listSet s.fabric.lasers unit (n + 1) }
    let s := portHist s (3 * unit.val)
    if n = 0 then fabricEvent s 4 (3 * unit.val) 0 (memberCode noMember) unit.val
    else [0, 1, 2].foldl (fun s k =>
      let st := (portAt s (3 * unit.val + k)).st
      if st = .disabled ∨ st = .down then s else markDown s (3 * unit.val + k)) s))

/-! ### Training (R289) -/

/-- PORT_RETRAIN (R289): light for 1 s on eight or more lanes, those of `lit`. A port that is to be disabled does not retrain; an
enable that waited for the port completes. -/
def execPortRetrain (port : Fin 12) (e : LitAt) (s : State) : Out :=
  ok (let x := portAt s port
    if x.st ≠ .down ∨ e.t.toNat < x.litAt.toNat + 1000000000 ∨ (laneSet e.lit).length < 8 ∨
        portWaits s (.portDisable port) && !portWaits s (.portEnable port) then s
    else atTime s e.t (fun s => portEnabled (setPort s port { portAt s port with lit := laneSet e.lit }) port))

/-- TRAINING_COMPLETE: to HELLO with a nonce and a hello record, or DOWN. -/
def execTrainingComplete (port : Fin 12) (e : Trained) (nonce : BitVec 256) (t : Word64) (s : State) : Out :=
  ok (if (portAt s port).st ≠ .training then s
    else atTime s t (fun s =>
      let s := setPort s port { portAt s port with lit := laneSet e.lit }
      if e.good then sendHello (reroute (setPort s port { portAt s port with st := .hello })) port nonce
      else portDown s port))

/-! ### Port commands (R289, R341, R417) -/

/-- PORT_ENABLE. -/
def execPortEnable (q : QId) (p : Nat) (s : State) : Out :=
  hostCmd s q (.portEnable p) (fun s _ =>
    if 12 ≤ p then reject s q 0x0103
    else match (portAt s p).st with
      | .disabled => doneOk (startTraining (meetLaser s (p / 3)) p) q
      | .draining => reroute (setPort (startCmd s q) p { portAt s p with st := .pendingEnable })
      | .pendingEnable => startCmd s q
      | .down => let s := meetLaser s (p / 3)
        if portWaits s (.portDisable p) then portEnabled (startCmd s q) p else doneOk s q
      | _ => doneOk s q)

/-- PORT_DISABLE: what the port has not begun to send takes other routes (R289, R318). -/
def execPortDisable (q : QId) (p : Nat) (s : State) : Out :=
  hostCmd s q (.portDisable p) (fun s _ =>
    if 12 ≤ p then reject s q 0x0103
    else match (portAt s p).st with
      | .up => moveAway (reroute (setPort (startCmd s q) p { portAt s p with st := .draining })) p
      | .draining => startCmd s q
      | .pendingEnable =>
        startCmd (commitWhere (setPort s p { portAt s p with st := .draining }) (isPortCmd (.portEnable p)) 0x0201 none) q
      | .down => doneOk (portDisabled s p) q
      | .quarantine => doneOk (portDisabled s p) q
      | .disabled => doneOk s q
      | .training => reject s q 0x0105
      | .hello => reject s q 0x0105)

/-- PORT_HELLO. -/
def execPortHello (q : QId) (p : Nat) (nonce : BitVec 256) (s : State) : Out :=
  hostCmd s q (.portHello p) (fun s _ =>
    if 12 ≤ p then reject s q 0x0103
    else if (portAt s p).st ≠ .quarantine then reject s q 0x0105
    else doneOk (sendHello s p nonce) q)

end Sys2Proof.Machine
end

