-- ==== Sys2Proof/Machine/Groups.lean ====
section
/-! DEFINITION. Discovery and membership: hello (R291, R292), joining (R293), epochs (R294, R295, R297), leaders and isolation,
messages sent again (R298), and the group commands. -/

namespace Sys2Proof.Machine

open Sys2Proof

/-! ### Members -/

def isMember (s : State) (m : Nat) : Bool := s.fabric.members.any (fun e => decide (e.1 = m))

/-- Is this module a member of a group? -/
def grouped (s : State) : Bool := decide (s.fabric.member ≠ noMember)

/-- Have more than half of the epoch's members acknowledged (R294)? -/
def majority (s : State) (n : Nat) : Bool := decide (s.fabric.members.length < 2 * n)

/-- A number for a joining identity: its former one where it is free, else the lowest free one (R293). -/
def joinNumber (s : State) (used : List Nat) (id : BitVec 512) : Option Nat :=
  match s.fabric.former.find? (fun e => decide (e.2 = id) && !used.contains e.1) with
  | some e => some e.1
  | none => (List.range 2048).find? (fun n => !used.contains n)

/-- Members of the next epoch: without those that leave, with those that join. -/
def nextMembers (s : State) : List (Nat × BitVec 512) :=
  let kept := s.fabric.members.filter (fun e => !setHas s.fabric.leaves e.1)
  s.fabric.joins.foldl (fun acc id =>
    if acc.any (fun e => decide (e.2 = id)) then acc
    else match joinNumber s (acc.map (fun e => e.1)) id with
      | some n => mapPut acc n id
      | none => acc) kept

/-! ### Installing an epoch (R294 to R297) -/

/-- R297 for one partition: a bound member has gone. In a settle domain, R238 acts at the next close. -/
def memberGone (s : State) (p m : Nat) : State :=
  let x := partAt s p
  match x.camp with
  | none => s
  | some c =>
    if !(campMembers c).contains m then s
    else match c.phase with
      | .rendezvous => s
      | .closing => s
      | .switching =>
        let pairs := (c.sw.map (fun sw => sw.pairs.filterMap (fun y => pairDesc x c sw y.pair))).getD []
        if pairs.any (fun pr => pr.pieces.any (fun k => k.dst && (posList k).any (fun q => decide (memberAt c q = m)))) then abandonSwitch (hubFault s p 0x0338 m) p
        else if pairs.any (fun pr => pr.pieces.any (fun k => !k.dst && pr.hd.repl.any (fun o => decide (memberAt c (srcPos k o) = m)))) then
          refetchFrom s p m
        else hubFault s p 0x0338 m
      | _ =>
        let ranks := match turnOf x, progOf x with
          | some t, some pr => ((domainColl t pr).map (fun d =>
            (List.range d.members.length).filter (fun j => decide (rankMember c d j = m)))).getD []
          | _, _ => []
        if ranks = [] then hubFault s p 0x0338 m
        else updRun s p (fun r => { r with left := ranks.foldl (fun l j => setPut l j true) r.left })

def membersGone (s : State) (ms : List Nat) : State :=
  ms.foldl (fun s m => (List.range 32).foldl (fun s p => memberGone s p m) s) s

/-- The lowest member that this module reaches: itself, or one with a route (R294). -/
def lowestReached (s : State) : Nat :=
  ((s.fabric.members.map (fun e => e.1)).filter (fun m => decide (m = s.fabric.member) ||
    s.fabric.routes.any (fun r => decide (r.1 = m)))).foldl min noMember

/-- Take a member as leader, with an event where it changes (R294, R296). A new leader counts each member's silence from now (R295). -/
def setLeader (s : State) (m : Nat) : State :=
  if m = s.fabric.leader then s
  else fabricEvent (s.withFabric { s.fabric with
    leader := m, leaderHeard := s.time.now,
    heard := if m = s.fabric.member then s.fabric.members.foldl (fun l e => mapPut l e.1 s.time.now) [] else s.fabric.heard }) 10 0 0 m 0

/-- Is a port in use by a link? -/
def linked (x : Port) : Bool := decide (x.st = .up) || drains x

/-- Install an epoch: members, number, routes, leader, events, and what the members that have gone leave behind. Messages of and to a
number that another module has now are over (R293, R298). -/
def installEpoch (s : State) (epoch : Nat) (members : List (Nat × BitVec 512)) (links : List Link) : State :=
  let old := s.fabric.members
  let joined := members.filter (fun e => !old.contains e)
  let gone := (old.filter (fun e => !members.contains e)).map (fun e => e.1)
  let me := ((members.find? (fun e => decide (e.2 = s.boot.certId))).map (fun e => e.1)).getD noMember
  let s := s.withFabric { s.fabric with
    epoch := epoch, members := members, member := me, isolated := false, joining := false, prop := none, acks := [], links := links,
    joins := s.fabric.joins.filter (fun i => !members.any (fun e => decide (e.2 = i))),
    leaves := s.fabric.leaves.filter (fun e => members.any (fun m => decide (m.1 = e.1))),
    former := members.foldl (fun acc e => if acc.contains e then acc else acc ++ [e]) s.fabric.former,
    ports := s.fabric.ports.map (fun x => match (if linked x then members.find? (fun e => decide (e.2 = x.pid)) else none) with
      | some e => { x with peer := e.1 }
      | none => x),
    heard := members.foldl (fun acc e => mapPut acc e.1
      (if joined.contains e then s.time.now else (mapFind s.fabric.heard e.1).getD s.time.now)) [],
    seen := s.fabric.seen.filter (fun e => !joined.any (fun m => decide (m.1 = e.1))),
    out := s.fabric.out.filter (fun y => !joined.any (fun m => decide (m.1 = y.dest))),
    leaderHeard := s.time.now }
  let s := s.withTime { s.time with
    stepped := false, locks := s.time.locks.filter (fun e => members.any (fun m => decide (m.1 = e.1))) }
  let s := reroute s
  let s := joined.foldl (fun s e => fabricEvent s 6 0 0 e.1 0) s
  let s := gone.foldl (fun s m => fabricEvent s 7 0 0 m 0) s
  let s := fabricEvent s 8 0 0 me 0
  membersGone (setLeader s (lowestReached s)) gone

/-- The UP links of this module's ports with members. -/
def ownLinks (s : State) : List Link :=
  (s.fabric.ports.zipIdx.filter (fun e => decide (e.1.st = .up) && isMember s e.1.peer)).map (fun e =>
    ⟨s.fabric.member, e.2, e.1.peer, e.1.pport, e.1.cls, e.1.rtt⟩)

/-- The links of the group as this module knows them: its own ports' as they are, the others' as their members have told (DEDUCED, log
entry 23: the manual names no message that reports a link; a heartbeat does). -/
def groupLinks (s : State) : List Link :=
  s.fabric.links.filter (fun l => decide (l.a ≠ s.fabric.member) && isMember s l.a && isMember s l.b) ++ ownLinks s

/-- The leader's commit, once a majority has acknowledged its proposal (R294): it goes to the members that leave over the routes of
before, and to every member of the new epoch, those that join among them, over the new ones. -/
def tryInstall (s : State) : State :=
  match s.fabric.prop with
  | some (e, l) =>
    if e = s.fabric.epoch + 1 ∧ majority s s.fabric.acks.length ∧ s.fabric.acks ≠ [] then
      let msg := FMsg.epochCommit e l (groupLinks s)
      let goes := (s.fabric.members.map (fun m => m.1)).filter (fun m => !l.any (fun k => decide (k.1 = m)))
      sendMsg (installEpoch (goes.foldl (fun s m => sendTo s m msg) s) e l (groupLinks s)) none msg
    else s
  | none => s

/-- Propose the next epoch where members join or leave and no proposal is open. -/
def propose (s : State) : State :=
  let l := nextMembers s
  if !grouped s ∨ s.fabric.isolated ∨ s.fabric.leader ≠ s.fabric.member ∨ s.fabric.prop.isSome ∨ l = s.fabric.members then s
  else
    let e := s.fabric.epoch + 1
    tryInstall (sendMsg (s.withFabric { s.fabric with prop := some (e, l), acks := setPut [] s.fabric.member true })
      none (.proposal e l))

/-- Members that leave at the next epoch. -/
def removeNext (s : State) (m : Nat) : State := propose (s.withFabric { s.fabric with leaves := setPut s.fabric.leaves m true })

/-! ### Hello (R291, R292) -/

/-- Link class of a round trip. -/
def linkClass (rtt : Nat) : Nat := if rtt < 300 then 1 else if rtt < 2000 then 2 else 3

/-- Does a hello pass? -/
def helloOk (s : State) (x : Port) (h : HelloP) : Bool :=
  h.sigOk && (h.chainOk || s.fabric.known.contains h.idhash) && decide (h.echo = x.nonce) && decide (h.group = s.fabric.group) &&
    decide (s.fabric.group ≠ 0) && decide (((activeCfg s).map (fun c => c.minsvn)).getD 0 ≤ h.svn)

/-- A join request goes to the leader (R293). -/
def passJoin (s : State) (id : BitVec 512) : State :=
  if s.fabric.members.any (fun e => decide (e.2 = id)) then s
  else if s.fabric.leader = s.fabric.member then
    propose (s.withFabric { s.fabric with joins := if s.fabric.joins.contains id then s.fabric.joins else s.fabric.joins ++ [id] })
  else sendMsg s (some s.fabric.leader) (.join id)

/-- The peer's member number: by its identity, or as its hello record names it, where 0x7FF is none (R290, R291). -/
def peerNumber (s : State) (h : HelloP) : Nat :=
  match s.fabric.members.find? (fun e => decide (e.2 = h.idhash)) with
  | some e => e.1
  | none => if h.member = 0x7FF then noMember else h.member

/-- A hello passes: the port is UP. A member passes the peer's join request on; a module that is in no epoch, or isolated, may join
once it has such a link to a member (R293, R294). -/
def helloPassed (s : State) (n : Nat) (h : HelloP) : State :=
  let x := portAt s n
  let rtt := min (x.rtts.foldl max 0) (2 ^ 20 - 1)
  let m := peerNumber s h
  let s := setPort s n { x with
    st := .up, cls := linkClass rtt, rtt := rtt, rtts := [], bsent := 0, peer := m, pid := h.idhash, pport := h.port }
  let s := reroute (fabricEvent s 1 n (linkClass rtt) (memberCode m) 0)
  if grouped s && !s.fabric.isolated then passJoin s h.idhash
  else s.withFabric { s.fabric with joining := s.fabric.joining || decide (h.member ≠ 0x7FF) }

/-- A hello names its sender: one whose identity is new to this module has not had its chain, where the hello of this side went without
it for another identity's sake (R291). -/
def meetPeer (s : State) (n : Nat) (h : HelloP) : State :=
  let late := !firstHello s n && !s.fabric.known.contains h.idhash
  let s := setPort s n { portAt s n with pid := h.idhash }
  if late then sendPeer s n (helloBytes s n true) else s

/-- HELLO_RECEIVE (R291, R292): a hello passes once the round trips of 64 beacons have been measured. -/
def execHelloReceive (port : Fin 12) (h : HelloP) (t : Word64) (s : State) : Out :=
  ok (let x := portAt s port
    let pass := helloOk s x h
    if (x.st ≠ .hello ∧ x.st ≠ .quarantine) ∨ (pass ∧ x.rtts.length < 64) then s
    else atTime s t (fun s =>
      let s := meetPeer s port h
      let s := if h.chainOk && !s.fabric.known.contains h.idhash then
        s.withFabric { s.fabric with known := s.fabric.known ++ [h.idhash] } else s
      if pass then helloPassed s port h
      else
        let d := drawFree s
        let s := setPort d.2 port { portAt d.2 port with st := .quarantine, helloAt := s.time.now }
        reroute (fabricEvent (portHist s port) 5 port 0 (memberCode (peerNumber s h)) (d.1.toNat % 2 ^ 32))))

/-- QUARANTINE_REHELLO (R289): every 10 s. -/
def execQuarantineRehello (port : Fin 12) (nonce : BitVec 256) (t : Word64) (s : State) : Out :=
  ok (let x := portAt s port
    if x.st ≠ .quarantine ∨ t.toNat < x.helloAt.toNat + 10000000000 then s
    else atTime s t (fun s => sendHello s port nonce))

/-- Has a port drained (R289): everything it has sent is acknowledged, and the messages and chunks begun in either direction have
ended? -/
def drained (s : State) (n : Nat) : Bool :=
  let x := portAt s n
  decide (x.replay = []) && !x.tx.any (fun i => i.begun) && decide (x.rx = []) && decide (x.rxq = []) &&
    !s.fabric.bufs.any (fun e => decide ((e.2.frm.map (fun f => f.1)) = some n))

/-- PORT_DRAINED (R289): a port that went down while it drained has nothing left to drain. -/
def execPortDrained (port : Fin 12) (t : Word64) (s : State) : Out :=
  ok (let x := portAt s port
    if drains x ∧ drained s port then atTime s t (fun s => portDone s port)
    else if x.st = .down ∧ portWaits s (.portDisable port) then atTime s t (fun s => portDisabled s port)
    else s)

/-! ### Group commands (R293, R295) -/

/-- GROUP_ID. -/
def execGroupId (q : QId) (g : Word64) (s : State) : Out :=
  hostCmd s q (.groupId g) (fun s _ => doneOk (s.withFabric { s.fabric with group := g }) q)

/-- GROUP_FOUND. -/
def execGroupFound (q : QId) (s : State) : Out :=
  hostCmd s q .groupFound (fun s _ =>
    if grouped s ∨ s.fabric.group = 0 then reject s q 0x0105
    else doneOk (installEpoch s 1 [(0, s.boot.certId)] []) q)

/-- GROUP_LEAVE: the ports drain, then the module leaves. -/
def execGroupLeave (q : QId) (s : State) : Out :=
  hostCmd s q .groupLeave (fun s _ =>
    if !grouped s then reject s q 0x0105
    else
      let s := startCmd s q
      let s := (List.range 12).foldl (fun s n =>
        let x := portAt s n
        match x.st with
        | .up => setPort s n { x with st := .draining }
        | .pendingEnable => commitWhere (setPort s n { x with st := .draining }) (isPortCmd (.portEnable n)) 0x0201 none
        | _ => s) s
      let s := reroute (s.withFabric { s.fabric with leaving := true })
      leaveCheck ((List.range 12).foldl (fun s n => if drains (portAt s n) then moveAway s n else s) s))

/-! ### Membership events -/

/-- JOIN_REQUEST (R293). -/
def execJoinRequest (j : JoinMsg) (t : Word64) (s : State) : Out :=
  ok (if !grouped s then s else atTime s t (fun s => fromMember s j.msg (fun s => passJoin s j.id)))

/-- EPOCH_PROPOSAL_RECEIVE (R294, R318): one proposal of an epoch is acknowledged, the other dropped. -/
def execEpochProposalReceive (m : MsgAt) (epoch : Nat) (members : List (Nat × BitVec 512)) (t : Word64) (s : State) : Out :=
  ok (if !grouped s ∨ s.fabric.isolated ∨ epoch ≠ s.fabric.epoch + 1 ∨ !isMember s m.frm then s
    else atTime s t (fun s => fromMember s m (fun s =>
      match s.fabric.prop with
      | none => sendMsg (s.withFabric { s.fabric with prop := some (epoch, members) }) (some m.frm) (.ack epoch)
      | some p => if p = (epoch, members) ∧ s.fabric.acks = [] then sendMsg s (some m.frm) (.ack epoch) else s)))

/-- EPOCH_ACK_RECEIVE (R294). -/
def execEpochAckReceive (m : MsgAt) (epoch : Nat) (t : Word64) (s : State) : Out :=
  ok (if s.fabric.acks = [] ∨ (s.fabric.prop.map (fun p => p.1)) ≠ some epoch ∨ !isMember s m.frm then s
    else atTime s t (fun s => fromMember s m (fun s =>
      propose (tryInstall (s.withFabric { s.fabric with acks := setPut s.fabric.acks m.frm true })))))

/-- EPOCH_COMMIT_RECEIVE (R293, R294): the next epoch; for a module that joins, any later one that lists it. An isolated module
installs none before it joins again. -/
def execEpochCommitReceive (w : MsgNum) (members : List (Nat × BitVec 512)) (links : List Link) (t : Word64)
    (s : State) : Out :=
  ok (let mine := members.any (fun e => decide (e.2 = s.boot.certId))
    let due := if grouped s && !s.fabric.isolated then decide (w.num = s.fabric.epoch + 1)
      else s.fabric.joining && mine && decide (s.fabric.epoch < w.num)
    if !due then s else atTime s t (fun s => fromMember s w.msg (fun s => propose (installEpoch s w.num members links))))

/-- HEARTBEAT_SEND (R294, R295): each 1 ms, to the leader; the leader's own goes to every member. It tells of the sender's links, the
leader's of the group's (DEDUCED, log entry 23), from which routes are computed (R299) and campaigns checked (R300). -/
def execHeartbeatSend (t : Word64) (s : State) : Out :=
  ok (if !grouped s ∨ s.fabric.isolated ∨ t.toNat < s.fabric.hbAt.toNat + 1000000 then s
    else atTime s t (fun s =>
      let s := s.withFabric { s.fabric with hbAt := s.time.now }
      if s.fabric.leader = s.fabric.member then sendMsg s none (.heartbeat (groupLinks s))
      else sendMsg s (some s.fabric.leader) (.heartbeat (ownLinks s))))

/-- The links that a heartbeat leaves: the leader's in place of all, another member's in place of its own before. -/
def takeLinks (s : State) (m : Nat) (l : List Link) : List Link :=
  if m = s.fabric.leader then l
  else s.fabric.links.filter (fun k => decide (k.a ≠ m)) ++ l.filter (fun k => decide (k.a = m))

/-- HEARTBEAT_RECEIVE (R295, R299): links that have changed change the routes. -/
def execHeartbeatReceive (m : BeatAt) (t : Word64) (s : State) : Out :=
  ok (if !isMember s m.msg.frm then s
    else atTime s t (fun s => fromMember s m.msg (fun s =>
      let l := takeLinks s m.msg.frm m.links
      let old := s.fabric.links
      let s := s.withFabric { s.fabric with
        heard := mapPut s.fabric.heard m.msg.frm s.time.now, links := l,
        leaderHeard := if m.msg.frm = s.fabric.leader then s.time.now else s.fabric.leaderHeard }
      if l = old then s else reroute s)))

/-- MEMBER_SILENT (R295): the leader removes a member that has been silent for 10 ms, to which no route remains, or whose leave it
has received. -/
def execMemberSilent (g : Gone) (t : Word64) (s : State) : Out :=
  ok (let quiet := decide ((mapGet 0 s.fabric.heard g.member).toNat + 10000000 ≤ t.toNat)
    let cut := !s.fabric.routes.any (fun r => decide (r.1 = g.member))
    if !grouped s ∨ s.fabric.isolated ∨ s.fabric.leader ≠ s.fabric.member ∨ g.member = s.fabric.member ∨ !isMember s g.member ∨ !(quiet || cut || g.leave)
    then s
    else atTime s t (fun s => removeNext s g.member))

/-- Members that a list names, with this module. -/
def reached (s : State) (reach : List Nat) : List Nat :=
  (s.fabric.member :: reach.filter (isMember s)).dedup

/-- The new leader proposes (R294): what it has acknowledged, since each member acknowledges one proposal of an epoch (R318), and
otherwise the epoch without the leader that was lost (DEDUCED, log entry 23). -/
def takeOver (s : State) (old : Nat) : State :=
  let s := s.withFabric { s.fabric with leaves := setPut s.fabric.leaves old true }
  match s.fabric.prop with
  | none => propose s
  | some p => propose (tryInstall (sendMsg (s.withFabric { s.fabric with acks := setPut [] s.fabric.member true }) none (.proposal p.1 p.2)))

/-- LEADER_LOSS (R294): 10 ms without the leader's heartbeat; the next-lowest reachable member leads, and proposes. A proposal that this
member has acknowledged stays the one that it acknowledges (R318). -/
def execLeaderLoss (reach : List Nat) (t : Word64) (s : State) : Out :=
  ok (if !grouped s ∨ s.fabric.isolated ∨ s.fabric.leader = s.fabric.member ∨
        t.toNat < s.fabric.leaderHeard.toNat + 10000000 then s
    else atTime s t (fun s =>
      let old := s.fabric.leader
      let nxt := ((reached s reach).filter (fun m => m ≠ old)).foldl min noMember
      let s := setLeader s nxt
      if nxt = s.fabric.member then takeOver s old else s))

/-- ISOLATION (R294, R297): a majority of the epoch's members has been out of reach since `lost`, 20 ms ago or more, and none of
those that cannot be reached has been heard since. -/
def execIsolation (reach : List Nat) (e : CutAt) (s : State) : Out :=
  ok (let far := (s.fabric.members.map (fun y => y.1)).filter (fun m => !(reached s reach).contains m)
    if !grouped s ∨ s.fabric.isolated ∨ majority s (reached s reach).length ∨ e.t.toNat < e.lost.toNat + 20000000 ∨
        far.any (fun m => decide (e.lost.toNat < (mapGet 0 s.fabric.heard m).toNat)) then s
    else atTime s e.t (fun s =>
      let m := s.fabric.member
      let s := s.withFabric { s.fabric with isolated := true, joining := false, prop := none, acks := [] }
      loseCampaigns (fabricEvent s 9 0 0 m 0) m))

/-- MESSAGE_RESEND (R298): a message that its receiver has acknowledged is over; one that it has not is sent again after 1 ms, over the
route of then. -/
def execMessageResend (x : Resend) (t : Word64) (s : State) : Out :=
  ok (match s.fabric.out.find? (fun m => decide (m.dest = x.dest) && decide (m.num = x.num)) with
    | none => s
    | some m =>
      if x.acked then atTime s t (fun s => s.withFabric { s.fabric with out := s.fabric.out.erase m })
      else if t.toNat < m.at_.toNat + 1000000 then s
      else atTime s t (fun s =>
        let s := s.withFabric { s.fabric with
          out := s.fabric.out.map (fun y => if y = m then { y with at_ := s.time.now } else y) }
        routeMsg s x.dest x.num m.msg))

end Sys2Proof.Machine
end

