-- ==== Sys2Proof/Machine/Power.lean ====
section
/-! DEFINITION. Power levels (R365, R366), budgets and gear limits (R367, R368), the power brake (R373, R374), Distaff's sensors and limits
(R375, R376), the timebase (R382 to R384). -/

namespace Sys2Proof.Machine

open Sys2Proof

/-! ### What Distaff shows (R375, R380) -/

def sensorAt (s : State) (n : Nat) : Sensor := s.power.sensors.getD n Sensor.reset

/-- Junction pairs: those on the dies of the package (the tile groups, the store dies, the hub). -/
def junctions : List Nat := List.range 36

/-- Input power that a current of the input pair means, in units of 1/8,000 W. -/
def inputPower (s : State) (i : Rat) : Rat := i * s.power.mv

/-- The hottest junction pair. -/
def hotPair (s : State) : Nat :=
  junctions.foldl (fun m n => if (sensorAt s m).fast < (sensorAt s n).fast then n else m) 0

/-- Groups capped below G7, as a mask. -/
def capMask (w : PowerU) : Nat := (List.range 24).foldl (fun a g => if groupCap w g < 7 then a + 2 ^ g else a) 0

/-- The shadow block (R380). -/
def shadowBlock (s : State) : List Byte :=
  let w := s.power
  let mW : Nat := ((sensorAt s 63).fast * w.mv / 8).floor.toNat
  let temp (n : Nat) : Nat := patOf 16 (sensorAt s n).fast.floor
  let hot := (junctions.map (fun n => (sensorAt s n).fast.floor)).foldl max (sensorAt s 0).fast.floor
  let cls (c : Nat) : Nat := (s.boot.hist.filter (fun h => decide (h.cls = c))).length
  let put (a : Nat) (b : List Byte) (l : List Byte) : List Byte := l.take a ++ b ++ l.drop (a + b.length)
  let z : List Byte := List.replicate 256 0
  put 0x00 (leBytes 8 Config.partCode.toNat) <| put 0x08 (leBytes 1 (packFields [⟨0, 3, w.level⟩, ⟨3, 1, b2n (braked w)⟩,
    ⟨4, 1, b2n w.trip⟩, ⟨5, 3, lowestCap w⟩])) <| put 0x09 (leBytes 3 (capMask w)) <|
  put 0x0C (leBytes 4 (packFields [⟨0, 16, w.mv⟩, ⟨16, 16, mW / 1000⟩])) <| put 0x10 (leBytes 8 (w.energy / 1000)) <|
  put 0x18 (leBytes 6 (packFields [⟨0, 16, patOf 16 hot⟩, ⟨16, 16, temp 46⟩, ⟨32, 16, temp 47⟩])) <|
  put 0x20 (leBytes 2 s.io.alerts.toNat) <| put 0x22 (leBytes 2 s.io.alertMask.toNat) <|
  put 0x28 (leBytes 8 s.time.now.toNat) <|
  put 0x40 ((List.range 48).map (fun n => leBytes 2 (temp n))).flatten <|
  put 0xA0 ((List.range 16).map (fun n => leBytes 2 ((sensorAt s (48 + n)).slow.floor.toNat))).flatten <|
  put 0xC0 ((List.range 4).map (fun c => leBytes 4 (cls c))).flatten z

/-- The shadow registers are built anew (R376, R380). -/
def shadowNow (s : State) : State := s.withIo { s.io with shadow := shadowBlock s }

/-! ### Brakes (R373) -/

/-- A brake source is asserted: gears follow (R373), with an event, a count and the alert flag. `whr` and `value` are the sensor pair that
asked for it and its filtered value, 0 where no sensor did (R378; log entry 41). -/
def brakeOn (s : State) (internal : Bool) (whr : Nat) (value : Int) (w : PowerU) : State :=
  let s := regear (s.withPower w)
  shadowNow (raiseAlert (powerEvent (addCtr s (ctrKey 0 7 0 cBrake) 1) 1 internal whr value) 0)

/-- A brake source ends: the brake holds until the last one has. -/
def brakeOff (s : State) (internal : Bool) (whr : Nat) (value : Int) (w : PowerU) : State :=
  let was := braked s.power
  let s := regear (s.withPower w)
  shadowNow (if was && !braked w then powerEvent s 2 internal whr value else s)

/-- Does Distaff run (R412)? -/
def distaffUp (s : State) : Bool := decide (s.boot.phase ≠ .dark)

/-- PWRBRK_ASSERT (R373, R419, R422): a pulse shorter than 10 ns is filtered; during PERST# there is nothing to brake. -/
def execPwrbrkAssert (ns : Nat) (t : Word64) (s : State) : Out :=
  ok (if ns < 10 ∨ !distaffUp s ∨ s.io.perst ∨ s.power.brakePin then s
    else atTime s t (fun s => brakeOn s false 0 0 { s.power with brakePin := true }))

/-- PWRBRK_RELEASE (R373). -/
def execPwrbrkRelease (t : Word64) (s : State) : Out :=
  ok (if !s.power.brakePin then s else atTime s t (fun s => brakeOff s false 0 0 { s.power with brakePin := false }))

def isBrakeTest : HostCmd → Bool
  | .brakeTest _ => true
  | _ => false

/-- BRAKE_TEST (R374): the command completes when its brake ends. -/
def execBrakeTest (q : QId) (us : Nat) (s : State) : Out :=
  hostCmd s q (.brakeTest us) (fun s _ =>
    if us = 0 ∨ 1000 < us then rejectAt s q 0x0103 0
    else
      let fin := s.time.now + BitVec.ofNat 64 (1000 * us)
      let fin := match s.power.brakeTest with
        | some x => if fin.ult x then x else fin
        | none => fin
      brakeOn (startCmd s q) true 0 0 { s.power with brakeTest := some fin })

/-- BRAKE_TEST_END (R374): the measured response is a free value of the module (log entry 10). -/
def execBrakeTestEnd (t : Word64) (s : State) : Out :=
  ok (match s.power.brakeTest with
    | none => s
    | some x =>
      if t.ult x then s
      else atTime s t (fun s =>
        let n := s.power.tests
        let d := (Config.brakeNs n).toNat + 256 * (Config.brake100 n).toNat
        let s := brakeOff s true 0 0 { s.power with brakeTest := none, tests := n + 1 }
        commitWhere s (fun r => isBrakeTest r.entry.cmd) 0 (some d)))

/-! ### Limits and budgets (R367, R368) -/

/-- GEAR_LIMIT (R368). -/
def execGearLimit (q : QId) (part : Fin 32) (g : Nat) (s : State) : Out :=
  hostCmd s q (.gearLimit part g) (fun s _ =>
    let x := partAt s part
    if 7 < g then rejectAt s q 0x0103 0
    else if x.st = .unused then rejectAt s q 0x0105 0
    else done (updPart s part (fun y => { y with gearMax := g })) q x.gearMax)

/-- ENERGY_BUDGET (R367, R390): the balance is clamped to the new budget at once. -/
def execEnergyBudget (q : QId) (part : Fin 32) (w : Nat) (s : State) : Out :=
  hostCmd s q (.energyBudget part w) (fun s _ =>
    let x := partAt s part
    if 65535 < w then rejectAt s q 0x0103 2
    else if x.st = .unused then rejectAt s q 0x0105 0
    else if 1300 < ((List.range 32).map (fun k => if k = part.val then w else (partAt s k).watts)).sum then rejectAt s q 0x0107 2
    else
      let y := { x with watts := w }
      done (setPart s part { y with bal := min x.bal (budgetOf y) }) q x.watts)

/-! ### Power levels (R365, R366) -/

/-- Conditions of PL1. -/
def quiet1 (s : State) : Bool :=
  s.parts.all (fun x => x.camp.isNone && !(decide (x.st = .starting) || decide (x.st = .stopping) || decide (x.st = .pendingEnable)))

/-- Conditions of PL2: as PL1, and no command of groups 2, 3, 5 and 6 runs. -/
def quiet2 (s : State) : Bool :=
  quiet1 s && !s.journal.any (fun r => decide (r.st = .started) && [2, 3, 5, 6].contains (opcOf r.entry.cmd / 256))

/-- Conditions of PL3. -/
def quiet3 (s : State) : Bool :=
  quiet2 s && s.parts.all (fun x => decide (x.st = .stopped) || decide (x.st = .unused)) &&
    s.fabric.ports.all (fun x => decide (x.st = .disabled))

/-- What a tile loses in PL1: registers, predicates, semaphores, queues; T0 stays. -/
def gateTile (t : Tile) : Tile := { scrubTile t with t0 := t.t0, pois := t.pois, whorlBad := t.whorlBad }

/-- What entering a level loses (R365). -/
def enterLevel (s : State) (l : Nat) : State :=
  let s := if l = 0 then s
    else if l = 1 then s.withTiles (s.tiles.map (fun e => (e.1, gateTile e.2)))
    else s.withTiles (s.tiles.map (fun e => (e.1, scrubTile e.2)))
  let s := if 3 ≤ l then sweepAll (s.withT1 { s.t1 with frames := [], fills := [], pins := [] }) else s
  setLevel s l

/-- Everything but Distaff and the flash is off, and what it held is lost (R365 PL4, R411, R412). -/
def hubLost (s : State) : State :=
  let r := State.reset
  let s := { s with
    fns := r.fns, journal := [], parts := r.parts, groups := r.groups, tiles := [], t2 := r.t2, t1 := r.t1,
    fabric := { r.fabric with
      lasers := s.fabric.lasers,
      ports := s.fabric.ports.map (fun (x : Port) => { Port.reset with lit := x.lit, litAt := x.litAt }) }
    samp := [], ctrs := [] }
  let s := s.withBoot { BootU.reset with
    phase := s.boot.phase, cfgA := s.boot.cfgA, cfgB := s.boot.cfgB, useB := s.boot.useB, chain := s.boot.chain,
    hist := s.boot.hist, histSeq := s.boot.histSeq, boots := s.boot.boots, certId := s.boot.certId, certSerial := s.boot.certSerial,
    rows := s.boot.rows }
  let s := s.withPower { s.power with
    brakePin := false, brakeTest := none, brakeHeat := false, brakeCur := false, hotAt := none,
    kgrp := r.power.kgrp, levelAt := s.time.now, capAt := s.time.now }
  let s := s.withTime { s.time with
    inGood := 0, inBad := 0, inLocked := false, slew := 0, holdover := false, stepped := false, holdAt := s.time.now, locks := [] }
  s.withIo { s.io with linkUp := false, linkLost := false, wakePin := false, rsp := [] }

/-- Post completions of a queue until none is left or it is full. -/
def postAll (s : State) (f n : Nat) : Nat → State
  | 0 => s
  | k + 1 => postAll (postNext s f n) f n k

/-- Is the command that committed last of queue q posted? -/
def allPosted (s : State) (q : QId) : Bool :=
  s.journal.all (fun r => !(decide (r.q = q) && decide (r.st = .committed)))

/-- May POWER_LEVEL enter a level now? -/
def levelOk (s : State) (l : Nat) : Bool :=
  if l = 0 then true else if l = 1 then quiet1 s else if l = 2 then quiet2 s else quiet3 s

/-- POWER_LEVEL (R366): its completion entry is written before the level is entered; it waits while that has no room. PL0 wakes a
module that a command accepted before it has taken to another level. -/
def execPowerLevel (q : QId) (l : Nat) (s : State) : Out :=
  hostCmd s q (.powerLevel l) (fun s _ =>
    if 4 < l then reject s q 0x0103
    else if !levelOk s l then reject s q 0x0105
    else
      let cq := ((headRec s q).map (fun r => r.cq)).getD 0
      let s1 := done s q s.power.level
      let s1 := postAll s1 q.fn cq s1.journal.length
      if l = 0 then wake s1
      else if !allPosted s1 q then s
      else
        let s1 := powerEvent s1 6 false 0 l
        let s1 := enterLevel s1 l
        if l = 4 then hubLost (s1.withBoot { s1.boot with phase := .distaff }) else s1)

/-! ### Sensors (R375, R376) -/

/-- Median of the last three samples; the larger of two, the one there is. -/
def median3 : List Int → Int
  | [a, b, c] => max (min a b) (min (max a b) c)
  | l => l.foldl max (l.headD 0)

/-- Add a sample, keep three; a member that has failed has none. -/
def pushSample (l : List Int) : Option Int → List Int
  | some x => (l ++ [x]).drop ((l ++ [x]).length - 3)
  | none => []

/-- Is a pair thermal? Pairs 0 to 47 are, 48 to 63 are current pairs. -/
def isThermal (n : Nat) : Bool := decide (n < 48)

/-- What a pair reads as whose members both fail: 125 °C, or the rail's rated current. -/
def failedValue (n : Nat) : Int := if isThermal n then 2000 else ((Config.ratedCurrent (n - 48) : Nat) : Int)

/-- Do two members differ by more than 4 °C, or 5% of the larger current? -/
def membersApart (n : Nat) (x y : Int) : Bool :=
  if isThermal n then decide (64 < (x - y).natAbs) else decide (max x y < 20 * (x - y).natAbs)

/-- One 10 µs sample of a pair: medians, reconciliation, filters; 100 samples apart in a row make it degraded. -/
def stepSensor (n : Nat) (c : Sensor) (p : PairSample) : Sensor :=
  let a := pushSample c.a p.a
  let b := pushSample c.b p.b
  let v : Int := match a, b with
    | [], [] => failedValue n
    | [], _ => median3 b
    | _, [] => median3 a
    | _, _ => max (median3 a) (median3 b)
  let far := decide (a ≠ []) && decide (b ≠ []) && membersApart n (median3 a) (median3 b)
  let apart := if far then c.apart + 1 else 0
  let fast := c.fast + ((v : Rat) - c.fast) / 4
  { a := a, b := b, fast := fast, slow := c.slow + ((v : Rat) - c.slow) / 256, apart := apart,
    degraded := c.degraded || decide (100 ≤ apart), hot := if 1840 < fast then c.hot + 1 else 0 }

/-- Watts in those units. -/
def wattUnits (w : Nat) : Rat := ((w * 8000 : Nat) : Rat)

/-- After a cap has changed: gears follow (R364), and the governor runs (R372). -/
def capsChanged (s : State) : State := schedule (regear (lowerLive s))

/-- SENSOR_DEGRADED (R375). -/
def degradeEvents (old : List Sensor) (s : State) : State :=
  (List.range 64).foldl (fun s n =>
    if (sensorAt s n).degraded && !(old.getD n Sensor.reset).degraded then
      raiseAlert (addHist (powerEvent s 7 false n (sensorAt s n).fast.floor) 0 9 (ctrKey 0 7 0 0) (BitVec.ofNat 64 n) false) 3
    else s) s

/-- INTERNAL_BRAKE and the limits of R376 on the filtered values. A brake's event names the first junction pair above 115 °C for three
samples, or the input's pair; its end the hottest junction, or the input's pair (DEDUCED, log entry 41). -/
def actLimits (s : State) : State :=
  let w := s.power
  let hot3 := junctions.find? (fun n => decide (3 ≤ (sensorAt s n).hot))
  let hot1 := junctions.any (fun n => decide (1840 < (sensorAt s n).fast))
  let inp := sensorAt s 63
  let s := if w.brakeHeat && !hot1 then
      brakeOff s true (hotPair s) (sensorAt s (hotPair s)).fast.floor { w with brakeHeat := false, hotAt := none }
    else match hot3 with
      | some n => if w.brakeHeat then s
        else brakeOn s true n (sensorAt s n).fast.floor { w with brakeHeat := true, hotAt := some s.time.now }
      | none => s
  let s := if !s.power.brakeCur && decide (wattUnits 1850 < inputPower s inp.fast) then
      brakeOn s true 63 inp.fast.floor { s.power with brakeCur := true }
    else if s.power.brakeCur && decide (inputPower s inp.slow < wattUnits 1600) then
      brakeOff s true 63 inp.slow.floor { s.power with brakeCur := false }
    else s
  let lim := if wattUnits 1700 < inputPower s inp.slow then true
    else if inputPower s inp.slow < wattUnits 1650 then false else s.power.limCur
  let heat := (List.range 24).foldl (fun m g =>
    let f := (sensorAt s g).fast
    if 1600 < f then setPut m g true else if f < 1552 then setPut m g false else m) s.power.limHeat
  let cool := (sensorAt s 46).slow
  let capCool := if 640 < cool then true else if cool < 608 then false else s.power.capCool
  let was := s.power.capCool
  let w := { s.power with limCur := lim, limHeat := heat, capCool := capCool }
  let s := if capCool = was then s.withPower w else setCaps s w
  if capCool && !was then raiseAlert (powerEvent (capsChanged s) 3 false allGroups cool.floor) 1
  else if was && !capCool then powerEvent (capsChanged s) 4 false allGroups cool.floor
  else s

/-- Energy delivered in one 10 µs sample, in µJ. -/
def sampleEnergy (s : State) : Nat := (inputPower s (sensorAt s 63).fast / 800).floor.toNat

/-- SENSOR_SAMPLE (R375, R376, R380). -/
def execSensorSample (xs : List PairSample) (mv : Nat) (t : Word64) (s : State) : Out :=
  ok (if !distaffUp s ∨ xs.length ≠ 64 then s
    else atTime s t (fun s =>
      let old := s.power.sensors
      let s := s.withPower { s.power with
        mv := mv, sensors := (List.range 64).map (fun n => stepSensor n (old.getD n Sensor.reset) (xs.getD n ⟨none, none⟩)) }
      let s := s.withPower { s.power with energy := s.power.energy + sampleEnergy s }
      shadowNow (actLimits (degradeEvents old s))))

/-! ### Gear caps (R376) -/

/-- One group's cap moves, with its event. -/
def groupStep (s : State) (g : Nat) (down : Bool) : State :=
  let c := s.power.caps.getD g 7
  let n := if down then c - 1 else min 7 (c + 1)
  if n = c then s
  else
    let s := setCaps s { s.power with caps := listSet s.power.caps g n }
    let s := powerEvent s (if down then 3 else 4) false (2 ^ g) (sensorAt s g).fast.floor
    shadowNow (if down then raiseAlert s 1 else s)

/-- The cap of the input current moves, with its event. -/
def currentStep (s : State) (down : Bool) : State :=
  let c := s.power.capCur
  let n := if down then max 1 (c - 1) else min 7 (c + 1)
  if n = c then s
  else
    let s := setCaps s { s.power with capCur := n }
    let s := powerEvent s (if down then 3 else 4) false allGroups (sensorAt s 63).slow.floor
    shadowNow (if down then raiseAlert s 1 else s)

/-- GEAR_CAP_STEP (R376): down each 100 µs while a limit holds, up each 1 ms when it does not. -/
def execGearCapStep (t : Word64) (s : State) : Out :=
  ok (if !distaffUp s then s
    else
      let dn := decide (s.power.capStep.toNat + 100000 ≤ t.toNat)
      let up := decide (s.power.capRise.toNat + 1000000 ≤ t.toNat)
      if !dn ∧ !up then s
      else atTime s t (fun s =>
        let w := s.power
        let s := if dn then
            (List.range 24).foldl (fun s g => if setHas w.limHeat g then groupStep s g true else s)
              (if w.limCur then currentStep s true else s)
          else s
        let s := if up then
            (List.range 24).foldl (fun s g => if setHas w.limHeat g then s else groupStep s g false)
              (if w.limCur then s else currentStep s false)
          else s
        capsChanged (s.withPower { s.power with
          capStep := if dn then s.time.now else w.capStep, capRise := if up then s.time.now else w.capRise })))

/-! ### Timebase (R382 to R384, R419) -/

/-- TB_SYNC_IN has been silent up to pulse k: the pulses missing since the last are counted, and 4 in a row unlock it (R419). -/
def missPulses (s : State) (k : Nat) : State :=
  let x := s.time
  let n := k - x.inMs
  if x.inMs = 0 ∨ n = 0 then s
  else addCtr (s.withTime { x with
    inMs := k, inGood := 0, inBad := x.inBad + n, inLocked := x.inLocked && decide (x.inBad + n < 4) }) (ctrKey 0 8 0 cPulse) n

/-- TB_SYNC_OUT_PULSE: the timebase passes a multiple of 1,000,000 ns. A pulse on TB_SYNC_IN for the multiple before can no longer
come (R419, R422). -/
def execTbSyncOutPulse (t : Word64) (s : State) : Out :=
  ok (if t.toNat % 1000000 = 0 ∧ s.time.outMs < t.toNat / 1000000 then
      atTime s t (fun s => missPulses (s.withTime { s.time with outMs := t.toNat / 1000000 }) (t.toNat / 1000000 - 1))
    else s)

/-- Distance of a pulse from the nearest multiple of 1,000,000 ns. -/
def pulseError (t : Nat) : Int := if t % 1000000 < 500000 then ((t % 1000000 : Nat) : Int) else ((t % 1000000 : Nat) : Int) - 1000000

/-- TB_SYNC_IN_PULSE (R384, R419, R422): locked after 8 good pulses in a row, unlocked after 4 missing or bad ones; a locked
module slews to it; while another member is the group's master the pulse is counted and otherwise ignored. -/
def execTbSyncInPulse (t : Word64) (s : State) : Out :=
  ok (atTime s t (fun s =>
    let x := s.time
    let e := pulseError t.toNat
    let k := ((t.toNat : Int) - e).toNat / 1000000
    let missed := if x.inMs = 0 then 0 else k - x.inMs - 1
    let good := decide (e.natAbs ≤ 1000)
    let bad := if good then 0 else x.inBad + missed + 1
    let run := if !good then 0 else if 0 < missed then 1 else x.inGood + 1
    let locked := if 4 ≤ bad ∨ 4 ≤ x.inBad + missed then decide (8 ≤ run) else x.inLocked || decide (8 ≤ run)
    let s := s.withTime { x with inGood := run, inBad := bad, inMs := k, inLocked := locked }
    let other := grouped s && decide (timeMaster s ≠ s.fabric.member)
    let s := addCtr s (ctrKey 0 8 0 cPulse) (missed + b2n (!good || other))
    if !good ∨ !locked ∨ other then s
    else
      let s := s.withTime { s.time with slew := -e }
      s.withCtrs (mapSet 0 s.ctrs (ctrKey 0 8 0 cPhase) (BitVec.ofNat 64 (patOf 64 e)))))

/-- Is a port the one toward the time master (R383)? -/
def parentPort (s : State) (n : Nat) : Bool :=
  s.fabric.routes.any (fun e => decide (e.1 = timeMaster s) && decide (e.2 = n))

/-- A member takes the neighbour's word on whose TB_SYNC_IN is locked (R383; log entry 42). -/
def takeLocks (s : State) (l : List Nat) : State :=
  holdoverCheck (s.withTime { s.time with
    locks := (l.filter (fun m => m ≠ s.fabric.member)).foldl (fun a m => setPut a m true) [] })

/-- TIMING_BEACON_EXCHANGE (R383): a member slews to its parent; a module that is about to join steps once. -/
def execTimingBeaconExchange (port : Fin 12) (t1 t2 t3 t4 : Word64) (x : TimingAt) (s : State) : Out :=
  ok (if (portAt s port).st ≠ .up then s
    else atTime s x.t (fun s =>
      let off : Int := (((t2.toNat : Int) - t1.toNat) - ((t4.toNat : Int) - t3.toNat)) / 2
      let s := sendMsg s (some (portAt s port).peer) (.timing s.time.now (lockedSet s))
      if grouped s then
        let s := takeLocks s x.locked
        if parentPort s port && decide (timeMaster s ≠ s.fabric.member) then
          let s := s.withTime { s.time with slew := off }
          s.withCtrs (mapSet 0 s.ctrs (ctrKey 0 8 0 0) (BitVec.ofNat 64 (patOf 64 off)))
        else s
      else if s.time.stepped ∨ s.fabric.group = 0 then s
      else powerEvent (s.withTime { s.time with
          now := BitVec.ofNat 64 (patOf 64 ((s.time.now.toNat : Int) + off)), stepped := true }) 9 false 0 off))

end Sys2Proof.Machine
end

