-- ==== Sys2Proof/Machine/Faults.lean ====
section
/-! DEFINITION. Module-fatal faults (R403), warm boot (R399) with journal replay (R349, R356), and the rows that raise device faults or
engage spares. -/

namespace Sys2Proof.Machine

open Sys2Proof

/-! ### Module fatal (R403) -/

/-- The hub is held in reset, the link is down, only Distaff runs. -/
def moduleFatal (s : State) (kind unit : Nat) : State :=
  let s := raiseAlert (addHist s 3 kind unit 0 false) 6
  hubLost (s.withBoot { s.boot with phase := .fatal })

/-- THERMAL_TRIP (R376, R407): a junction still above 115 °C 1 ms after the brake. -/
def execThermalTrip (t : Word64) (s : State) : Out :=
  ok (match s.power.hotAt with
    | none => s
    | some h =>
      if t.toNat < h.toNat + 1000000 ∨ s.boot.phase = .fatal ∨
          !junctions.any (fun n => decide (1840 < (sensorAt s n).fast)) then s
      else atTime s t (fun s =>
        let s := s.withPower { s.power with trip := true }
        moduleFatal (shadowNow (raiseAlert (powerEvent s 5 false (hotPair s) (sensorAt s (hotPair s)).fast.floor) 2)) 10 (ctrKey 0 7 0 0)))

/-! ### Journal replay (R349, R356) -/

/-- A rollout turn resumes (R349): the step in flight is dropped, every entry stands at its last commit. -/
def resumeRollout (s : State) (p : Nat) : State :=
  let s := updRun s p (fun r =>
    let first := (r.steps.map (fun y => y.step)).foldl min r.nextStep
    { r with live := [], steps := [], nextStep := first, done := r.done.filter (fun d => decide (d.step < first)),
             collLand := [], trig := [], owed := [], phases := [] })
  updPart s p (fun x => { x with reqs := x.reqs.map (fun e =>
    if e.2.turn = some x.turnSeq ∧ reqActive e.2 then (e.1, { e.2 with tlen := 0 }) else e) })

/-- Turns a to b - 1 run once more (R354 TR.RUN). -/
def countRuns (m : Map Nat) (a b : Nat) : Map Nat :=
  (List.range (b - a)).foldl (fun m j => mapPut m (a + j) (mapGet 0 m (a + j) + 1)) m

/-- The turns after checkpoint turn k run again: its entries are read back first, and the turn-end beacons of those turns are awaited
anew (R356). -/
def runAgain (s : State) (p : Nat) (c : Camp) (k : Nat) : State :=
  let n := ((c.p.turns[k]?).map (fun t => t.ckpts.length)).getD 0
  let s := updCamp s p (fun c => { c with
    phase := .readBack, back := List.range n, run := none, rerun := countRuns c.rerun (k + 1) (c.turnIx + 1),
    beacons := c.beacons.filter (fun e => decide (e.1 < beaconKey (k + 1) 0)) })
  if n = 0 then startSwitch s p (k + 1) else s

/-- A turn that cannot be re-run (R240, R356): its record says so, and the campaign goes back to the last checkpoint, or ends
INTERRUPTED. -/
def interruptTurn (s : State) (p : Nat) (c : Camp) (learning : Bool) : State :=
  let s := if learning then sendCamp s c (.peerFault c.p.id s.fabric.member none) else s
  let s := turnRecord s p 0x0401
  match (if c.p.autoresume then c.lastCkpt else none) with
  | some k => runAgain s p c k
  | none => endCampaign s p 0x0401 (some c.turnIx)

/-- A turn that can be re-run starts anew (R349). -/
def rerunTurn (s : State) (p : Nat) : State :=
  turnStart (updCamp s p (fun c => { c with rerun := countRuns c.rerun c.turnIx (c.turnIx + 1) })) p

/-- Replay of one partition's campaign (R349). A read-back is executed from its start; every learning program is in-place. -/
def replayCamp (s : State) (p : Nat) : State :=
  match (partAt s p).camp with
  | none => s
  | some c =>
    match c.phase with
    | .rendezvous => sendCamp s c (.digest c.p.id c.digest)
    | .switching => askAgain (startSwitch s p ((c.sw.map (fun w => w.into)).getD c.turnIx)) p
    | .turnEnd => s
    | .closing => s
    | .readBack =>
      let n := ((c.lastCkpt.bind (fun k => c.p.turns[k]?)).map (fun t => t.ckpts.length)).getD 0
      updCamp s p (fun c => { c with back := List.range n })
    | .turn =>
      match turnOf (partAt s p) with
      | none => s
      | some t => match t.kind with
        | .rollout => resumeRollout s p
        | .checkpoint => rerunTurn s p
        | .learning => interruptTurn s p c true
        | .reward =>
          if ((progOf (partAt s p)).map (fun pr => pr.inplace)).getD false then interruptTurn s p c false else rerunTurn s p

/-- A command that a stop or a destroy under way still completes (R361). -/
def endsLater (s : State) (r : JRec) : Bool :=
  let st := (partAt s (recPart r)).st
  let c := r.entry.cmd
  (decide (st = .stopping) || decide (st = .pendingEnable) || decide (st = .destroying)) && (isStop c || isDestroy c || isStart c)

/-- A running campaign ends with a status, its turn's record first (R240, R354); its command completes once its records are in host
memory. -/
def cutCampaign (s : State) (p status : Nat) : State :=
  match (partAt s p).camp with
  | none => s
  | some c =>
    let s := if c.phase = .turn then turnRecord s p status else s
    endCampaign (updCamp s p (fun c => { c with fin := none })) p status none

/-- Does a campaign still wait for its turn records? -/
def closes (s : State) (r : JRec) : Bool :=
  ((partAt s (recPart r)).camp.map (fun c => decide (c.q = r.q) && decide (c.due ≠ []))).getD false

/-- Every command that ran completes with a status, and nothing of it goes on, but for a stop or a destroy under way. -/
def endRunning (s : State) (status : Nat) : State :=
  let s := commitWhere s (fun r => !endsLater s r && !closes s r) status none
  let s := s.parts.foldl (fun s x => x.wait.foldl (fun s g =>
    setGroup s g (if (groupAt s g).st = .assigned then ⟨.free, 0⟩ else ⟨.draining, (groupAt s g).part⟩)) s) s
  s.withParts (s.parts.map (fun x =>
    { x with camp := if (x.camp.map (fun c => decide (c.due ≠ []))).getD false then x.camp else none, wait := [], reqs := x.reqs.map (fun e => (e.1, detachReq e.2)) }))

/-- Posted completion entries are written again, bit for bit (R349, R350). -/
def rewritePosted (s : State) : State :=
  s.journal.foldl (fun s r => match r.st, cqAt s r.q.fn r.cq with
    | .posted, some c => hostWrite s r.q.fn (c.d.base.toNat + 32 * (r.slot % qsize c.d)) (cplBytes r r.slot (qsize c.d))
    | _, _ => s) s

/-- The journal is lost (R399): every partition becomes STOPPED, and what the queues held is discarded without completion. -/
def loseJournal (s : State) : State :=
  (List.range 32).foldl (fun s p =>
    if (partAt s p).st = .unused then s
    else setPState (updPart s p (fun x => { x with fault := none, whorl := none })) p .stopped)
    (endRunning ((s.withJournal []).withParts (s.parts.map (fun x => { x with camp := none }))) 0)

/-- Journal replay (R349, R399). Where a record of each copy may be uncorrectable, whether one record is so in both is a free
choice. -/
def journalReplay (s : State) (how : Replay) : State :=
  let risk := s.boot.jrnA && s.boot.jrnB
  let d := drawFree s
  let s := if risk then d.2 else s
  let s := s.withBoot { s.boot with jrnA := false, jrnB := false }
  if risk && d.1.getLsbD 0 then loseJournal s
  else
    let s := match how with
      | .plain => (List.range 32).foldl replayCamp s
      | .hostLost => endRunning ((List.range 32).foldl (fun s p => cutCampaign s p 0x0402) s) 0x0402
      | .memoryLost => endRunning ((List.range 32).foldl (fun s p => cutCampaign s p 0x0403) s) 0x0403
    rewritePosted s

/-! ### Warm boot (R399) -/

/-- Steps 5 and 6: Utora has restarted, the effective map is applied and logged (R394), whorl tables are expanded, the journal is
replayed. ID.FW is 4 during the replay. -/
def restart (s : State) (how : Replay) : State :=
  let s := bootLog (logMap (applyMap s s.boot.repair) 5) 5 0 0
  let s := s.withParts (s.parts.map (fun x => if runs x then { x with whorl := some (expandSeed x.seedOn) } else x))
  let s := journalReplay (repin (s.withBoot { s.boot with fw := 4 })) how
  schedule (s.withBoot { s.boot with fw := 2 })

/-- A function's page after a device reset (R5, R325): its RW fields at their reset values. The queues live on, with the entries that
had been fetched and not accepted to be fetched again; the translation cache is empty (log entry 43). -/
def pageReset (x : Fn) : Fn :=
  { x with
    aqs := QDesc.zero, aqc := QDesc.zero, aqen := false, evbase := 0, evlsize := 0, even := false, evIx := 0, evHead := 0,
    evSeq := 0, evLost := 0, w2base := 0, w2we := false, atc := [], invals := [],
    sqs := x.sqs.map (fun q => q.map (fun y => { y with buf := [] })) }

/-- A tile after a device reset: as after a scrub, with T0 kept. -/
def resetTile (t : Tile) : Tile := { scrubTile t with t0 := t.t0, pois := t.pois }

/-- What the hub ROM resets (R399 step 3): tiles, engines, hub queues, the functions' pages, T1's frames, the mailbox. -/
def hubReset (s : State) : State :=
  let s := s.withTiles (s.tiles.map (fun e => (e.1, resetTile e.2)))
  let s := (s.withSamp []).withT1 { s.t1 with frames := [], fills := [], pins := [] }
  let s := dropBuffers (s.withFns (s.fns.map pageReset))
  s.withBoot { s.boot with
    mbState := 0, mbErr := 0, mbAddr := 0, mbLen := 0, held := none, fw := 0, beat := List.replicate 3 s.time.now }

/-- What a replay does to the commands that ran, where two faults have asked for one: memory loss before host loss (log entry 44). -/
def joinReplay : Replay → Option Replay → Replay
  | .memoryLost, _ => .memoryLost
  | _, some .memoryLost => .memoryLost
  | .hostLost, _ => .hostLost
  | _, some .hostLost => .hostLost
  | _, _ => .plain

/-- WARM_BOOT: the hub is reset, spares are engaged, Utora restarts and replays; an image whose digest differs must be loaded anew
first (step 4), and no firmware, level or version stands until then. A fault before Utora has first started leaves nothing to replay. -/
def warmBoot (s : State) (prep : State → State) (how : Replay) (intact : Bool) : State :=
  let was := s.boot.phase
  let how := joinReplay how s.boot.resume
  let s := prep (hubReset s)
  if intact then restart (s.withBoot { s.boot with resume := none }) how
  else s.withBoot { s.boot with
    phase := .rom, fw := 0, level := 0, svn := 0, image := none,
    resume := if was = .utora ∨ s.boot.resume.isSome then some how else none }

/-- DEVICE_FAULT's common part (R403): one record, the count, and a warm boot, or module fatal at the fourth in 60 s. -/
def deviceReset (s : State) (kind unit : Nat) (detail : Word64) (repair : Bool) (prep : State → State) (how : Replay)
    (intact : Bool := true) : State :=
  let recent := s.boot.faults60.filter (fun t => decide (s.time.now.toNat < t.toNat + 60000000000))
  let s := addHist s 2 kind unit detail repair
  let s := s.withBoot { s.boot with devfaults := (s.boot.devfaults + 1) % 2 ^ 32, faults60 := recent ++ [s.time.now] }
  if 3 ≤ recent.length then moduleFatal s kind unit else warmBoot s prep how intact

/-- Local areas 0 to 11 carry journal copy A, 12 to 23 copy B (R347): damage to them is noted for the next replay. -/
def noteJournal (s : State) (ks : List Nat) : State :=
  s.withBoot { s.boot with
    jrnA := s.boot.jrnA || ks.any (fun k => decide (k < 12)), jrnB := s.boot.jrnB || ks.any (fun k => decide (12 ≤ k)) }

/-- Local areas that hold sectors (R207). -/
def journalAreas (found : List Nat) : List Nat :=
  (found.filter (fun k => decide (1636382539776 ≤ 32 * k))).map (fun k => (32 * k - 1636382539776) / 536870912)

/-- A package fails without warning (R349, R401): its channels move to the spare, whose lines read as poisoned. -/
def losePackage (s : State) (pkg : Nat) : State :=
  let ks := (List.range 24).filter (fun k => decide (s.t2.map.getD k 0 = pkg))
  let spare := !s.t2.spareUsed && decide (pkg ≠ 24)
  let s := noteJournal (if spare then ks.foldl (fun s k => engage s (repairEntry 5 k 24)) s else s) ks
  s.withT2 { s.t2 with
    map := if spare then s.t2.map.map (fun x => if x = pkg then 24 else x) else s.t2.map,
    spareUsed := s.t2.spareUsed || (spare && decide (ks ≠ [])),
    lost := (s.t2.lost ++ ks).dedup, pois := s.t2.pois.filter (fun e => !ks.contains (chanGroup (32 * e.1))),
    migr := if s.t2.migr = some pkg then none else s.t2.migr }

/-- DEVICE_FAULT, also while a warm boot waits for an image, or the ROM for the first one (R407). -/
def execDeviceFault (c : DevCause) (t : Word64) (s : State) : Out :=
  ok (if s.boot.phase ≠ .utora ∧ s.boot.phase ≠ .rom then s
    else
      let up := decide (s.boot.phase = .utora)
      match c with
      | .hubState => atTime s t (fun s => deviceReset s 4 (ctrKey 0 6 0 0) 0 false id .plain up)
      | .tileControl n => atTime s t (fun s => deviceReset s 5 (ctrKey 0 1 n 0) 0 false (fun s => engageFree s 1 n) .plain up)
      | .pll d => atTime s t (fun s => deviceReset s 7 (ctrKey 0 6 0 0) 0 false (fun s => engageFree s 9 d) .plain up)
      | .bondLane l => atTime s t (fun s => deviceReset s 14 (ctrKey 0 4 0 0) 0 false (fun s => engageFree s 4 l) .plain up)
      | .package p img => atTime s t (fun s =>
          deviceReset s 2 (ctrKey 0 3 (4 * p.val) 0) 0 false (fun s => losePackage s p) .memoryLost (up && !img))
      | .reservedPoison img => atTime s t (fun s => deviceReset s 2 (ctrKey 0 3 0 0) 0 false id .plain (up && !img))
      | .watchdog => s
      | .linkLoss => s)

/-! ### Command cores (R377) -/

/-- The two active cores: the first of those that work. -/
def activeCores (s : State) : List Nat := s.boot.core.take 2

/-- HEARTBEAT_WRITE. -/
def execHeartbeatWrite (core : Fin 3) (t : Word64) (s : State) : Out :=
  ok (if s.boot.phase ≠ .utora ∨ 3 ≤ s.power.level ∨ !(activeCores s).contains core.val then s
    else atTime s t (fun s => s.withBoot { s.boot with beat := listSet s.boot.beat core s.time.now }))

/-- WATCHDOG_EXPIRY (R377, R401): the core is held in reset and the spare takes its place; with none left, module fatal. -/
def execWatchdogExpiry (core : Fin 3) (t : Word64) (s : State) : Out :=
  ok (if s.boot.phase ≠ .utora ∨ 3 ≤ s.power.level ∨ !(activeCores s).contains core.val ∨
        t.toNat < (s.boot.beat.getD core 0).toNat + 5000000 then s
    else atTime s t (fun s =>
      let s := raiseAlert (powerEvent s 8 false core.val 0) 4
      let left := s.boot.core.filter (fun c => c ≠ core.val)
      let s := s.withBoot { s.boot with core := left }
      let rx := repairEntry 8 core.val (left.getD 1 0xFFFFFF)
      if left.length < 2 then moduleFatal s 6 (ctrKey 0 6 0 0)
      else deviceReset s 6 (ctrKey 0 6 0 0) rx true (fun s => s.withBoot { s.boot with repair := effMap (s.boot.repair ++ [rx]) })
        .plain))

/-! ### Link loss (R323) -/

/-- PCIE_LINK_DOWN without PERST#: every partition stops issuing; no fault record is written. In L2 the link has not gone down, and
nothing stops (DESIGN CHOICE, log entry 39: R419 names L2 for WAKE# only). -/
def execPcieLinkDown (d : LinkDrop) (s : State) : Out :=
  ok (if !s.io.linkUp ∨ s.io.perst then s
    else atTime s d.t (fun s =>
      let wake := s.journal.any (fun r => decide (r.st = .committed))
      if d.l2 then s.withIo { s.io with linkUp := false, wakePin := wake }
      else
      let s := (s.withTiles (s.tiles.map (fun e => (e.1, haltTile e.2)))).withSamp []
      s.withIo { s.io with
        linkUp := false, linkLost := s.io.linkLost || decide (s.boot.phase = .utora) || s.boot.resume.isSome,
        wakePin := wake }))

/-- PCIE_LINK_UP: after a loss, a device reset with replay that ends what ran with HOST_LOST. -/
def execPcieLinkUp (t : Word64) (s : State) : Out :=
  ok (if s.io.linkUp ∨ s.io.perst ∨ !(decide (s.boot.phase = .rom) || decide (s.boot.phase = .utora)) then s
    else atTime s t (fun s =>
      let lost := s.io.linkLost
      let s := s.withIo { s.io with linkUp := true, linkLost := false, wakePin := false }
      if lost then deviceReset s 8 (ctrKey 0 6 0 0) 0 false id .hostLost (decide (s.boot.phase = .utora)) else s))

/-! ### Predictions and spares (R208, R209, R401, R402) -/

/-- Uncorrectable T0 and register errors of a tile within 24 h (R402). -/
def recentErrs (l : List Word64) (t : Word64) : List Word64 := l.filter (fun x => decide (t.toNat < x.toNat + 86400000000000))

/-- An uncorrectable T0 or register error of a tile: the second within 24 h marks it for replacement when its group next drains
(R402). -/
def tileErr (s : State) (n : Nat) (t : Tile) : State :=
  let l := recentErrs t.errs s.time.now ++ [s.time.now]
  if l.length < 2 then setTileRaw s n { t with errs := l }
  else addHist (setTileRaw s n { t with errs := l, replace := true }) 0 1 (ctrKey 0 1 n 0) 0 false

/-- A corrected error of a physical tile is counted under its counters, by the partition that the tile serves (R402). -/
def tileFixed (s : State) (n : Nat) : State :=
  match tileRel s n with
  | some x => addCtr s (ctrKey x.1 1 x.2 cFixed) 1
  | none => s

/-- A corrected SRAM error of a unit has its history record, and is noted for its row, which takes a spare at the next cold boot where that
happens again (R401; the row's number is RX.LOGICAL of kind 2). -/
def rowFixed (s : State) (unit row : Nat) : State :=
  addHist (s.withBoot { s.boot with rows := mapSet 0 s.boot.rows row (mapGet 0 s.boot.rows row + 1) }) 0 1 unit
    (BitVec.ofNat 64 row) false

/-- A word of a queue fails its parity check (R30): the word carries the poison, whose origin is the queue, numbered as QCNT numbers it
(R19; DESIGN CHOICE, log entry 10). A signal, a semaphore and a marker carry none. -/
def taintQueue (t : Tile) (q pos : Nat) : Tile :=
  let g := tagAtAddr q
  if q = 1 ∨ q = 2 ∨ q = 3 then
    setQueue t q ((queueAt t q).zipIdx.map (fun e => if e.2 = pos then { e.1 with bad := tagOr e.1.bad g } else e.1))
  else if q = 5 then { t with ftq := t.ftq.zipIdx.map (fun e => if e.2 = pos then taintFtq g e.1 else e.1) }
  else t

/-- TILE_FAILURE_PREDICTION (R30, R150, R402): an SRAM of a tile meets an error, or one of the hub or of a store die a corrected
one (R402; the table has no other row for it). An uncorrectable one poisons the word; poison that
enters at no address has a free one (log entry 10). Four bytes of T0 are a word (DESIGN CHOICE, log entry 50). -/
def execTileFailurePrediction (tile : Fin 192) (e : SramAt) (s : State) : Out :=
  ok (if s.boot.phase ≠ .utora then s
    else atTime s e.t (fun s =>
      let x := tileRaw s tile
      let d := drawFree s
      let g := tagAtAddr d.1.toNat
      match e.err with
      | .t0 a => if t0Size ≤ a then s
        else tileErr s tile { x with pois := tagRange x.pois (a / 4 * 4) 4 (tagAtAddr (a / 4 * 4)) }
      | .treg r n => if 16 ≤ r ∨ 4096 ≤ n then s
        else tileErr d.2 tile { x with tregs := mapPut x.tregs r { treg x r with pois := tagPut (treg x r).pois n g } }
      | .queue q pos => setTileRaw s tile (taintQueue x q pos)
      | .whorl k => if 8192 ≤ k then s else setTileRaw d.2 tile { x with whorlBad := tagPut x.whorlBad k g }
      | .corrected row => if 2 ^ 24 ≤ row then s else rowFixed (tileFixed s tile) (ctrKey 0 1 tile 0) row
      | .hubFixed row => if 2 ^ 24 ≤ row then s else rowFixed (addCtr s (ctrKey 0 6 0 cSram) 1) (ctrKey 0 6 0 0) row
      | .storeFixed die row =>
        if 2 ^ 24 ≤ row then s else rowFixed (addCtr s (ctrKey 0 4 die cSram) 1) (ctrKey 0 4 die 0) row))

/-- Uncorrectable reads of a bank within 1 h (R401). -/
def bankErrs (s : State) (b : Nat) (t : Word64) : Nat :=
  (s.t1.bad.filter (fun e => decide (e.1 = b) && decide (t.toNat < e.2.toNat + 3600000000000))).length

/-- STORE_BANK_SPARE (R401): after 16 uncorrectable reads within 1 h a bank's frames are released and served by a spare bank, or leave
service. -/
def execStoreBankSpare (die : Fin 2) (bank : Nat) (t : Word64) (s : State) : Out :=
  ok (if s.boot.phase ≠ .utora ∨ 40 ≤ bank ∨ bankErrs s (40 * die.val + bank) t < 16 then s
    else atTime s t (fun s =>
      engageFree (s.withT1 { s.t1 with bad := s.t1.bad.filter (fun e => e.1 ≠ 40 * die.val + bank) }) 11 (40 * die.val + bank)))

/-- The conditions of R209 for a package: 256 corrected sectors within an hour, corrected sectors in 16 rows, an uncorrectable error
after retry. A channel that fails retraining is known by the event alone. -/
def predicted (s : State) (pkg rule : Nat) : Bool :=
  let l := s.t2.fixed.filter (fun f => decide (f.pkg = pkg))
  let hour (a : Nat) : Nat := (l.filter (fun f => decide (a ≤ f.time.toNat) && decide (f.time.toNat < a + 3600000000000))).length
  match rule with
  | 1 => l.any (fun f => decide (256 ≤ hour f.time.toNat))
  | 2 => decide (16 ≤ (l.map (fun f => f.row)).dedup.length)
  | 3 => s.t2.broken.contains pkg
  | 4 => true
  | _ => false

/-- PACKAGE_PREDICTION (R209, R329): logged and signalled; with the spare unused, its migration starts. -/
def execPackagePrediction (pkg : Fin 25) (rule : Nat) (t : Word64) (s : State) : Out :=
  ok (if s.boot.phase ≠ .utora ∨ !predicted s pkg rule then s
    else atTime s t (fun s =>
      let s := raiseAlert (addHist s 0 3 (ctrKey 0 3 (4 * pkg.val) 0) (BitVec.ofNat 64 rule) false) 5
      let s := postEventTo s 0 4 0 (packFields [⟨0, 5, pkg⟩, ⟨8, 4, rule⟩])
      if s.t2.spareUsed ∨ s.t2.migr.isSome ∨ !s.t2.map.contains pkg.val then s
      else s.withT2 { s.t2 with migr := some pkg }))

/-- MIGRATION_COPY_DONE (R209 steps 3 to 5): the channels switch to the spare; a poisoned line was copied poisoned. -/
def execMigrationCopyDone (t : Word64) (s : State) : Out :=
  ok (match s.t2.migr with
    | none => s
    | some m =>
      if s.boot.phase ≠ .utora then s
      else atTime s t (fun s =>
        let ks := (List.range 24).filter (fun k => decide (s.t2.map.getD k 0 = m))
        let s := s.withT2 { s.t2 with map := s.t2.map.map (fun x => if x = m then 24 else x), spareUsed := true, migr := none }
        ks.foldl (fun s k => engage s (repairEntry 5 k 24)) s))

/-- SCRUB_PASS (R208, R209, R403): sectors found uncorrectable are poisoned, others corrected and written back; one uncorrectable in
Utora's data outside the journal is a device fault. -/
def execScrubPass (x : Scrubbed) (t : Word64) (s : State) : Out :=
  ok (if s.boot.phase ≠ .utora ∨ !s.boot.restT2 ∨ t.toNat < s.t2.scrubAt.toNat + 86400000000000 then s
    else atTime s t (fun s =>
      let s := x.onDie.foldl (eccFixed cDieEcc) (x.link.foldl (eccFixed cLinkEcc) (s.withT2 { s.t2 with scrubAt := s.time.now }))
      let s := x.found.foldl sectorBroken (x.fixed.foldl sectorFixed s)
      let s := noteJournal s (journalAreas x.found)
      let used := usedPages s
      let s := x.found.foldl (fun s k =>
        if used.contains (32 * k / pageSize) then
          addHist s 0 2 (ctrKey 0 3 (chanOf (32 * k)) 0) (BitVec.ofNat 64 (32 * k)) false
        else s) s
      if x.found.any (fun k => decide (reservedBase ≤ 32 * k) && decide (32 * k < 1636382539776)) then
        deviceReset s 2 (ctrKey 0 3 0 0) 0 false id .plain (!x.image)
      else s))

end Sys2Proof.Machine
end

