-- ==== Sys2Proof/Machine/Boot.lean ====
section
/-! DEFINITION. Power input, presence and reset (R410 to R412, R422), cold boot (R396), the mailbox (R327, R397, R398). -/

namespace Sys2Proof.Machine

open Sys2Proof

/-! ### Power input and reset -/

/-- Is the input off: it has not crossed the turn-on threshold since it was last lost (R410, R411)? -/
def inputOff (s : State) : Bool := decide (s.boot.phase = .dark) || !s.io.inputOn

/-- Distaff starts afresh (R411, R412). -/
def distaffFresh (s : State) : State :=
  (s.withPower PowerU.reset).withIo { IoU.reset with perst := s.io.perst, prsnt0 := s.io.prsnt0, prsnt1 := s.io.prsnt1 }

/-- POWER_INPUT_RISE (R412): the input crosses 47.0 V with both presence contacts mated; the straps are sampled. -/
def execPowerInputRise (mv : Nat) (straps : Nat) (t : Word64) (s : State) : Out :=
  ok (if !inputOff s ∨ mv < 47000 ∨ 3 < straps then s
    else atTime s t (fun s =>
      let s := if s.boot.phase = .dark then distaffFresh s else s
      let s := s.withPower { s.power with mv := mv }
      let s := s.withIo { s.io with straps := straps, prsnt0 := true, prsnt1 := true, inputOn := true, shadow := [] }
      s.withBoot { s.boot with phase := .held }))

/-- Every rail but Distaff's is off (R411); Distaff answers again once the input is back (R412 step 2), and its shadow registers read 0
until the next sample (R380). -/
def powerLost (s : State) (mv : Nat) : State :=
  let s := hubLost (s.withBoot { s.boot with phase := .distaff })
  (s.withPower { s.power with mv := mv, level := 0 }).withIo { s.io with inputOn := false, shadow := [] }

/-- POWER_LOSS (R410, R411): the input stays below 45.0 V for 20 µs. -/
def execPowerLoss (d : Dip) (t : Word64) (s : State) : Out :=
  ok (if inputOff s ∨ 45000 ≤ d.mv ∨ d.ns < 20000 then s else atTime s t (fun s => powerLost s d.mv))

/-- DISTAFF_RAIL_LOSS (R411). -/
def execDistaffRailLoss (mv : Nat) (t : Word64) (s : State) : Out :=
  ok (if !distaffUp s ∨ 40000 ≤ mv then s
    else atTime s t (fun s =>
      let s := distaffFresh (powerLost s mv)
      s.withBoot { s.boot with phase := .dark }))

/-- PRESENCE_OPEN (R422): the hot-swap switch opens, and a power loss follows. -/
def execPresenceOpen (second : Bool) (t : Word64) (s : State) : Out :=
  ok (if !distaffUp s then s
    else atTime s t (fun s =>
      let s := s.withIo (if second then { s.io with prsnt1 := false } else { s.io with prsnt0 := false })
      if inputOff s then s else powerLost s 0))

/-- PERST_ASSERT (R412, R407, R422): shorter than 1 µs, nothing; otherwise all but Distaff and the flash is reset. A
module-fatal state needs a power cycle (R403). -/
def execPerstAssert (ns : Nat) (t : Word64) (s : State) : Out :=
  ok (if ns < 1000 ∨ s.io.perst then s
    else atTime s t (fun s =>
      let s := s.withIo { s.io with perst := true }
      if s.boot.phase = .fatal ∨ inputOff s then s
      else
        setLevel (regear (hubLost (s.withBoot { s.boot with phase := .held }))) 0))

/-! ### Cold boot (R395, R396) -/

/-- The seed of the identity key pair, derived from the security block's secret (R395). -/
def idSeed (s : State) : List Byte := shake256 (0x49 :: leBytes 32 s.boot.secret.toNat) 32

/-- Does the derived public key stand in the identity certificate (R395)? -/
def idMatches (s : State) : Bool := decide (Config.keyDigest (idSeed s) = s.boot.certId)

/-- Is a copy of the record one that step 3 may take: known format, this module's serial number (R392, R396)? -/
def cfgFits (s : State) (c : ConfigP) : Bool := decide (c.format = 1) && decide (c.serial = s.boot.certSerial)

/-- The copy that step 3 takes: of those that verify and fit, the one with the higher CF.SEQ, A where both have one. Some true: copy B. -/
def bootCopy (s : State) (p : RomP) : Option Bool :=
  match (if p.aOk then s.boot.cfgA.filter (cfgFits s) else none), (if p.bOk then s.boot.cfgB.filter (cfgFits s) else none) with
  | none, none => none
  | some _, none => some false
  | none, some _ => some true
  | some a, some b => some (decide (a.seq < b.seq))

/-- PERST_RELEASE: COLD_BOOT steps 1 to 6. -/
def execPerstRelease (p : RomP) (t : Word64) (s : State) : Out :=
  ok (if s.boot.phase ≠ .held then s.withIo { s.io with perst := false }
    else atTime s t (fun s =>
      let s := s.withIo { s.io with perst := false, tapUnlocked := false }
      let s := s.withPower { s.power with level := 0, energy := 0, trip := false, levelAt := s.time.now }
      let s := s.withBoot { s.boot with boots := s.boot.boots + 1 }
      let good := (List.range 3).filter (fun k => p.cores.getD k false)
      let fatal (s : State) (err : Nat) : State :=
        let s := moduleFatal s 12 (ctrKey 0 6 0 0)
        s.withBoot { s.boot with mbState := 3, mbErr := err }
      if good = [] then moduleFatal s 6 (ctrKey 0 6 0 0)
      else match bootCopy s p with
        | none => fatal s 8
        | some b =>
          let s := s.withBoot { s.boot with useB := b, core := good }
          let s := s.withBoot { s.boot with secret := Config.pufSecret (((activeCfg s).map ConfigP.helper).getD []) }
          if !idMatches s then fatal s 9
          else
            let hist := s.boot.hist
            let valid := hist.filter (fun h => !p.badMacs.contains h.seq)
            let l := allRepairs (s.withBoot { s.boot with hist := valid })
            let s := applyMap (countSpares s l) (effMap l)
            let s := bootLog ([1, 2, 3, 4, 5].foldl (fun s n => bootLog s n 0 0) s) 6 0 (hist.length - valid.length)
            let s := s.withIo { s.io with linkUp := true, linkLost := false, wakePin := false }
            if s.boot.core = [] then moduleFatal s 6 (ctrKey 0 6 0 0) else s.withBoot { s.boot with phase := .rom }))

/-! ### The mailbox (R327, R397, R398) -/

/-- MB.ERR of an image, and ID.FW after it; none where the ROM accepts it. -/
def imageError (s : State) (i : ImageP) : Option (Nat × Nat) :=
  if 268435456 < s.boot.mbLen then some (4, 3)
  else if !i.readOk then some (5, 0)
  else if i.format ≠ 1 then some (7, 3)
  else if 268435456 < i.len ∨ i.len + 4627 ≠ s.boot.mbLen then some (4, 3)
  else if !i.certOk ∨ i.len < 256 + i.certLen then some (2, 3)
  else if !i.sigOk then some (1, 3)
  else if i.svn < ((activeCfg s).map (fun c => c.minsvn)).getD 0 then some (3, 3)
  else none

/-- Rows of SRAM that were corrected more than once since the last cold boot take a spare row (R401; twice: DESIGN CHOICE, log entry
44). -/
def repairRows (s : State) : State :=
  let l := (s.boot.rows.filter (fun e => decide (2 ≤ e.2))).map (fun e => e.1)
  l.foldl (fun s n => engageFree s 2 n) (s.withBoot { s.boot with rows := s.boot.rows.filter (fun e => !decide (2 ≤ e.2)) })

/-- UTORA_START (R396 step 10, R400): the effective map, self-test with its repairs, the boot log, ID.FW = 2; ports begin
training, or the journal replay that waited for the image goes on (R399). -/
def utoraStart (s : State) (i : ImageP) : State :=
  let s := s.withBoot { s.boot with
    phase := .utora, fw := 2, svn := i.svn, level := i.level, image := some i, meas := i.meas, mbState := 2, mbErr := 0,
    held := none, beat := List.replicate 3 s.time.now }
  let s := if s.boot.resume.isSome then s else applyMap ((List.range 4).foldl meetLaser s) s.boot.repair
  let s := logMap s 10
  let s := i.bist.foldl (fun s e => if bistOk s e then bootLog (engage s e) 10 1 e.toNat else s) s
  match s.boot.resume with
  | some how => restart ((bootLog s 10 0 0).withBoot { s.boot with resume := none }) how
  | none => (List.range 12).foldl (fun s n => startTraining s n) (bootLog (repairRows s) 10 0 0)

/-- Steps 9 and 10 of R396 for an image. -/
def loadNow (s : State) (i : ImageP) : State :=
  match imageError s i with
  | some e => s.withBoot { s.boot with mbState := 3, mbErr := e.1, fw := e.2, held := none }
  | none => utoraStart (bootLog s 9 0 0) i

/-- LOAD_IMAGE (R396, R398): a read that succeeds brings MB.LEN bytes. -/
def execLoadImage (img : ImageP) (t : Word64) (s : State) : Out :=
  ok (if !bar0Up s ∨ s.boot.mbState = 1 ∨ (img.readOk ∧ img.bytes.length ≠ s.boot.mbLen) then s
    else atTime s t (fun s =>
      if s.boot.fw = 1 ∨ s.boot.fw = 2 ∨ s.boot.fw = 4 then s.withBoot { s.boot with mbState := 3, mbErr := 6 }
      else if !s.boot.resvT2 then s.withBoot { s.boot with mbState := 1, held := some img }
      else loadNow s img))

/-- RESERVED_T2_INITIALISED (R396 step 7): a LOAD_IMAGE that was held busy goes on. A failure is module fatal (R403). -/
def execReservedT2Initialised (e : InitAt) (s : State) : Out :=
  ok (if s.boot.phase ≠ .rom ∨ s.boot.resvT2 then s
    else atTime s e.t (fun s =>
      if !e.good then moduleFatal s 12 (ctrKey 0 6 0 0) else
      let s := bootLog (s.withBoot { s.boot with resvT2 := true }) 7 0 0
      match s.boot.held with
      | some i => loadNow s i
      | none => s))

/-- T2_INIT_COMPLETE (R396 step 11, after step 7). A failure is module fatal (R403). -/
def execT2InitComplete (e : InitAt) (s : State) : Out :=
  ok (if !(decide (s.boot.phase = .rom) || decide (s.boot.phase = .utora)) ∨ !s.boot.resvT2 ∨ s.boot.restT2 then s
    else atTime s e.t (fun s =>
      if e.good then bootLog (s.withBoot { s.boot with restT2 := true }) 11 0 0 else moduleFatal s 12 (ctrKey 0 6 0 0)))

/-- The boot log as bytes (R398). -/
def bootLogBytes (s : State) : List Byte :=
  (s.boot.log.map (fun e => leBytes 32 (packFields [⟨0, 16, e.step⟩, ⟨16, 16, e.result⟩, ⟨32, 64, e.time.toNat⟩,
    ⟨96, 160, e.detail⟩]))).flatten

/-- READ_BOOTLOG (R398): MB.LEN bounds it; while ID.FW is 1, 2 or 4 the write of MB.OP is an error. -/
def execReadBootlog (s : State) : Out :=
  ok (if !bar0Up s ∨ s.boot.mbState = 1 then s
    else if s.boot.fw = 1 ∨ s.boot.fw = 2 ∨ s.boot.fw = 4 then s.withBoot { s.boot with mbState := 3, mbErr := 6 }
    else
      let s := hostWrite s 0 s.boot.mbAddr.toNat ((bootLogBytes s).take s.boot.mbLen)
      s.withBoot { s.boot with mbState := 2, mbErr := 0 })

end Sys2Proof.Machine
end

