-- ==== Sys2Proof/Machine/Sequencer.lean ====
section
/-! DEFINITION. Sequencer words (R19, R20, R28) and reserved opcode words (R17, R44). -/

namespace Sys2Proof.Machine

open Sys2Proof

/-- A scalar word: the destination takes a value computed from the tile, then the sequencer moves on (R19). -/
def scalarWord (s : State) (a : TileAt) (w : TWord) (dst : Nat) (v : Tile → Word64) : State :=
  match atHead s a 0 w with
  | none => s
  | some _ =>
    let t := tileAt s a.part a.tile
    finishWord s a 0 (setSreg t dst (v t))

/-- The immediate sign-extended to 64 bits (R19). -/
def immOf (w : SqW) : Word64 := w.imm.signExtend 64

def srcA (w : SqW) (t : Tile) : Word64 := sreg t w.a.toNat
def srcB (w : SqW) (t : Tile) : Word64 := sreg t w.b.toNat

/-- Shift amount: (b + IMM) & 63 (R19). -/
def shiftOf (w : SqW) (t : Tile) : Nat := (srcB w t + immOf w).toNat % 64

/-- QCNT: entries present in the queue that IMM[3:0] names, 0 for a reserved number (R28, R29). -/
def queueCount (t : Tile) (n : Nat) : Nat :=
  if n = 1 ∨ n = 2 ∨ n = 3 then (queueAt t n).length
  else if n = 4 then t.sigin.length
  else if n = 5 then t.ftq.length
  else 0

def execLi (a : TileAt) (w : SqW) (s : State) : Out := ok (scalarWord s a (.li w) w.dst.toNat (fun _ => immOf w))
def execLih (a : TileAt) (w : SqW) (s : State) : Out :=
  ok (scalarWord s a (.lih w) w.dst.toNat (fun t =>
    (sreg t w.dst.toNat &&& 0xFFFFFFFF#64) ||| (w.imm.setWidth 64 <<< 32)))
def execAdd (a : TileAt) (w : SqW) (s : State) : Out :=
  ok (scalarWord s a (.add w) w.dst.toNat (fun t => srcA w t + srcB w t + immOf w))
def execSub (a : TileAt) (w : SqW) (s : State) : Out :=
  ok (scalarWord s a (.sub w) w.dst.toNat (fun t => srcA w t - srcB w t))
def execMul (a : TileAt) (w : SqW) (s : State) : Out :=
  ok (scalarWord s a (.mul w) w.dst.toNat (fun t => srcA w t * srcB w t))
def execAnd (a : TileAt) (w : SqW) (s : State) : Out :=
  ok (scalarWord s a (.and w) w.dst.toNat (fun t => srcA w t &&& srcB w t))
def execOr (a : TileAt) (w : SqW) (s : State) : Out :=
  ok (scalarWord s a (.or w) w.dst.toNat (fun t => srcA w t ||| srcB w t))
def execXor (a : TileAt) (w : SqW) (s : State) : Out :=
  ok (scalarWord s a (.xor w) w.dst.toNat (fun t => srcA w t ^^^ srcB w t))
def execShl (a : TileAt) (w : SqW) (s : State) : Out :=
  ok (scalarWord s a (.shl w) w.dst.toNat (fun t => srcA w t <<< shiftOf w t))
def execShr (a : TileAt) (w : SqW) (s : State) : Out :=
  ok (scalarWord s a (.shr w) w.dst.toNat (fun t => srcA w t >>> shiftOf w t))
def execQcnt (a : TileAt) (w : SqW) (s : State) : Out :=
  ok (scalarWord s a (.qcnt w) w.dst.toNat (fun t => BitVec.ofNat 64 (queueCount t (w.imm.toNat % 16))))
/-- TBASE reads the module's timebase; the 2 ns between local copies (R382) are left out (log entry 8). -/
def execTbase (a : TileAt) (w : SqW) (s : State) : Out :=
  ok (scalarWord s a (.tbase w) w.dst.toNat (fun _ => s.time.now))
def execTileid (a : TileAt) (w : SqW) (s : State) : Out :=
  ok (scalarWord s a (.tileid w) w.dst.toNat (fun _ => BitVec.ofNat 64 a.tile.val))

/-- Does a LOOP with this body length break R20? -/
def loopBad (t : Tile) (len : Nat) : Bool :=
  decide (4 ≤ t.loops.length) || decide (len = 0) || decide (t.words.length < t.pc + 1 + len) ||
    (match t.loops with
     | f :: _ => decide (f.start + f.len < t.pc + 1 + len)
     | [] => false)

/-- LOOP (R19, R20). -/
def execLoop (a : TileAt) (w : SqW) (s : State) : Out :=
  ok (match atHead s a 0 (.loop w) with
    | none => s
    | some h =>
      let t := tileAt s a.part a.tile
      let len := w.imm.toNat % 65536
      let n := (srcA w t).toNat % 2 ^ 32
      if loopBad t len then tileFault s a 0 h.ix 0x0308 0 0
      else if n = 0 then seqPass (setTile s a.part a.tile (stepPc t (t.pc + 1 + len))) a
      else seqPass (setTile s a.part a.tile
        { t with pc := t.pc + 1, loops := ⟨t.pc + 1, len, n⟩ :: t.loops }) a)

/-- A reserved or undefined opcode, or a reserved value, at the head of any queue (R17, R44). -/
def execReservedOpcodeWord (a : TileAt) (raw : Word64) (s : State) : Out :=
  ok (match atHead s a (queueOf raw) .illegal with
    | some h => if h.raw = raw then tileFault s a (queueOf raw) h.ix 0x0308 0 0 else s
    | none => s)

end Sys2Proof.Machine
end

