-- ==== Sys2Proof/Machine/Diag.lean ====
section
/-! DEFINITION. Diagnostic commands: counters and snapshots (R385 to R388), records (R423), the fault log (R45), the error history
(R404), attestation and configuration (R405, R406), undefined opcodes (R336). -/

namespace Sys2Proof.Machine

open Sys2Proof

/-! ### Counters and snapshots -/

/-- A counter of time: what has been counted, and what stands since a time (R385). -/
def spanCtr (s : State) (cls num : Nat) (on : Bool) (t : Word64) : Nat × Word64 :=
  let v := ctrVal s 0 cls 0 num
  (v.1, if on then v.2 + BitVec.ofNat 64 (sinceNs s t) else v.2)

/-- Counters that the model keeps, by class (log entry 7). -/
def classCounters (s : State) (p cls : Nat) : List (Nat × Word64) :=
  match cls with
  | 1 => ((List.range (nTiles s p)).map (fun t => tileCounters.map (tileCtr s p t))).flatten
  | 2 => partCounters s p
  | 3 => ((List.range 96).map (fun c => [cSectors, cLinkEcc, cDieEcc].map (fun k => ctrVal s 0 3 c k))).flatten
  | 4 => ([0, 1].map (fun d => [cHits, cMisses, cPromo, cPromoDrop, cUntracked, cCalDrop, cSram].map (fun k => ctrVal s 0 4 d k))).flatten
  | 5 => ((List.range 12).map (fun n =>
      ((List.range 4).map (fun c => [ctrVal s 0 5 n (cTx c), ctrVal s 0 5 n (cRx c)])).flatten ++ [((ctrVal s 0 5 n 0).1, BitVec.ofNat 64 (portAt s n).fecsym), ((ctrVal s 0 5 n 1).1, BitVec.ofNat 64 (portAt s n).replays)])).flatten
  | 6 => [cDbIgnored, cB2Poison, cB2Drop, cFabDrop, cSram].map (fun k => ctrVal s 0 6 0 k)
  | 7 => [ctrVal s 0 7 0 cBrake, ((ctrVal s 0 7 0 1).1, BitVec.ofNat 64 s.power.energy)] ++
      (List.range 7).map (fun g => spanCtr s 7 (cCap g) (decide (lowestCap s.power = g)) s.power.capAt) ++
      (List.range 5).map (fun l => spanCtr s 7 (cLevel l) (decide (s.power.level = l)) s.power.levelAt)
  | 8 => [0, cPhase, cPulse].map (fun k => ctrVal s 0 8 0 k) ++ [spanCtr s 8 cHold s.time.holdover s.time.holdAt]
  | _ => []

/-- The classes of a 16-bit mask that a function may read; no mask means all (R346, R386). -/
def readMask (f : Nat) (m : BitVec 16) : BitVec 16 :=
  let all : BitVec 16 := if f = 0 then 0x01FE else 0x0006
  if m = 0 then all else m &&& all

/-- Does a mask take a partition's own classes, or the module's? -/
def ownClasses (m : BitVec 16) : Bool := decide (m &&& 0x0006 ≠ 0)
def hubClasses (m : BitVec 16) : Bool := decide (m &&& 0xFFF8 ≠ 0)

/-- Room for a snapshot: 8 per partition, and 8 of the PF for classes 0x03 to 0x08 (R386). -/
def snapRoom (s : State) (p : Nat) (m : BitVec 16) : Bool :=
  (!ownClasses m || decide (((partAt s p).snaps.filter (fun e => ownClasses e.2.mask)).length < 8)) &&
    (!hubClasses m || decide (((s.parts.map (fun x => (x.snaps.filter (fun e => hubClasses e.2.mask)).length)).sum) < 8))

def addSnap (s : State) (p id : Nat) (x : Snap) : State := updPart s p (fun y => { y with snaps := mapPut y.snaps id x })

/-- SNAPSHOT_AT (R386). Which free id the snapshot takes is the D7's choice. -/
def execSnapshotAt (q : QId) (t : Word64) (mask : BitVec 16) (id : Nat) (s : State) : Out :=
  if s.parts.any (fun x => (mapFind x.snaps id).isSome) then ok s
  else hostCmd s q (.snapshotAt t mask) (fun s p =>
    let m := readMask q.fn mask
    if t.toNat < s.time.now.toNat + 100000 ∨ s.time.now.toNat + 10000000000 < t.toNat then reject s q 0x0103
    else if !snapRoom s p m then reject s q 0x0108
    else done (addSnap s p id ⟨false, t, m, [0], [], 0, 0⟩) q id)

/-- SNAPSHOT_MARK (R387): every queue of the partition's tiles is to latch. -/
def execSnapshotMark (q : QId) (n : BitVec 32) (mask : BitVec 16) (id : Nat) (s : State) : Out :=
  if s.parts.any (fun x => (mapFind x.snaps id).isSome) then ok s
  else hostCmd s q (.snapshotMark n mask) (fun s p =>
    let m := readMask q.fn mask
    if !snapRoom s p m then reject s q 0x0108
    else
      let need := ((List.range (nTiles s p)).map (fun t => [4 * t, 4 * t + 1, 4 * t + 2, 4 * t + 3])).flatten
      done (addSnap s p id ⟨true, BitVec.ofNat 64 n.toNat, m, need, [], 0, 0⟩) q id)

/-- SNAPSHOT_LATCH (R386): the timebase reaches T, and every unit latches what it has counted by then. -/
def execSnapshotLatch (part : Fin 32) (id : Nat) (t : Word64) (s : State) : Out :=
  ok (match mapFind (partAt s part).snaps id with
    | none => s
    | some x =>
      if x.mark ∨ x.need = [] ∨ t ≠ x.point then s
      else atTime s t (fun s =>
        let vs := ((List.range 9).map (fun c => if maskHas x.mask c then classCounters s part c else [])).flatten
        addSnap s part id { latchVals s x vs with need := [] }))

/-- Write to a command's host buffer, at most its length: in the address space of the function and the buffer's PASID. -/
def putBuf (s : State) (fn : Nat) (b : Buf) (l : List Byte) : State :=
  hostWrite s (hostSpace fn b.pasid.toNat) b.haddr.toNat (l.take b.len)

/-- A read into a command's host buffer completes, with HOST_WRITE where the host refuses the write (R337). -/
def readDone (s : State) (q : QId) (b : Buf) (l : List Byte) (d : Nat) : State :=
  if b.refused then reject s q 0x0203 else done (putBuf s q.fn b l) q d

/-- A counter entry of 16 bytes (R388). -/
def ctrEntry (e : Nat × Word64) : List Byte := leBytes 16 (packFields [⟨0, 32, e.1⟩, ⟨64, 64, e.2.toNat⟩])

/-- A snapshot as COUNTER_READ writes it (R388). -/
def snapBytes (id : Nat) (x : Snap) : List Byte :=
  leBytes 64 (packFields [⟨0, 16, id⟩, ⟨16, 1, b2n x.mark⟩, ⟨17, 1, 1⟩, ⟨32, 32, x.vals.length⟩, ⟨64, 64, x.point.toNat⟩,
    ⟨128, 64, x.first.toNat⟩, ⟨192, 64, x.last.toNat⟩]) ++ (x.vals.map ctrEntry).flatten

/-- The partition whose counter an id names: for class 0x02 its instance, else the command's. -/
def ctrPart (p id : Nat) : Nat := if id / 2 ^ 24 = 2 then fld id 8 16 else p

/-- The value of one counter id; of a counter that the model does not keep, a free value (log entry 7). -/
def liveCounter (s : State) (p : Nat) (acc : List (Nat × Word64) × Nat) (id : Nat) : List (Nat × Word64) × Nat :=
  match (classCounters s (ctrPart p id) (id / 2 ^ 24)).find? (fun e => decide (e.1 = id)) with
  | some e => (acc.1 ++ [e], acc.2)
  | none => (acc.1 ++ [(id, Config.free64 acc.2)], acc.2 + 1)

/-- May a function read a counter (R346, R385)? -/
def ctrAllowed (f p id : Nat) : Bool :=
  decide (f = 0) || decide (id / 2 ^ 24 = 1) || (decide (id / 2 ^ 24 = 2) && decide (fld id 8 16 = p))

/-- COUNTER_READ (R385, R387, R388). -/
def execCounterRead (q : QId) (sel : CtrSel) (b : Buf) (s : State) : Out :=
  hostCmd s q (.counterRead sel b) (fun s p =>
    match sel with
    | .live ids =>
      if ids.any (fun i => !ctrAllowed q.fn p i) then reject s q 0x0104
      else
        let l := ids.foldl (liveCounter s p) ([], s.free)
        let e := (l.1.map ctrEntry).flatten
        readDone (s.withFree l.2) q b e (min b.len e.length)
    | .snap id release =>
      let drop (s : State) : State := if release then updPart s p (fun y => { y with snaps := mapDel y.snaps id }) else s
      match mapFind (partAt s p).snaps id with
      | none => reject s q 0x0106
      | some x =>
        if x.need ≠ [] then reject (if x.mark then drop s else s) q 0x0105
        else
          readDone (drop s) q b (snapBytes id x) (min b.len (snapBytes id x).length))

/-! ### Records (R423) -/

/-- Queue count register (R29). -/
def countRec (n : Nat) : List Byte := leBytes 4 (packFields [⟨0, 16, n⟩])

/-- Sampling requests that wait on a compute die (R26). -/
def sampCount (s : State) (die : Nat) : Nat := (s.samp.filter (fun r => decide (dieOf s r.part r.rtile = die))).length

/-- A record of one of n units of the module, which only the PF reads. -/
def unitRec (f n i : Nat) (r : List Byte) : List Byte ⊕ Nat := if f ≠ 0 then .inr 0x0104 else if n ≤ i then .inr 0x0103 else .inl r

/-- A record of one of 16 units of a tile of the partition. -/
def tileRec (s : State) (p : Nat) (r : RecSel) (g : Tile → Nat → List Byte) : List Byte ⊕ Nat :=
  if 16 ≤ r.index ∨ nTiles s p ≤ r.tile then .inr 0x0103 else .inl (g (tileAt s p r.tile) r.index)

/-- Port status (R290). -/
def portRec (x : Port) : List Byte :=
  leBytes 16 (packFields [⟨0, 3, x.st.code⟩, ⟨3, 2, x.cls⟩, ⟨5, 1, b2n (decide (x.out ≠ 15) && !x.subst)⟩, ⟨6, 4, x.out⟩,
    ⟨10, 20, x.rtt⟩, ⟨30, 11, memberCode x.peer⟩, ⟨41, 4, x.pport⟩, ⟨45, 1, b2n (litOk x)⟩, ⟨64, 32, x.fecsym⟩, ⟨96, 32, x.replays⟩])

/-- What RECORD_READ answers: the record, or a status. -/
def diagRecord (s : State) (f p : Nat) (r : RecSel) : List Byte ⊕ Nat :=
  let x := partAt s p
  match r.kind with
  | .region => match regionAt s p r.index with
    | some g => .inl (regionRec p r.index g)
    | none => .inr 0x0106
  | .request => if 16384 ≤ r.index then .inr 0x0103
    else .inl (((mapFind x.reqs r.index).map reqRec).getD (List.replicate 256 0))
  | .handle => if 4096 ≤ r.index then .inr 0x0103
    else .inl (((mapFind x.handles r.index).map handleRec).getD (List.replicate 32 0))
  | .variant => if 65536 ≤ r.index then .inr 0x0103 else .inl (variantRec (ventAt x r.index))
  | .ring => tileRec s p r (fun t n => ringRec (ringAt t n))
  | .treg => tileRec s p r (fun t n => tregRec (treg t n))
  | .port => unitRec f 12 r.index (portRec (portAt s r.index))
  | .queue => tileRec s p r (fun t n => countRec (queueCount t n))
  | .bobbins => tileRec s p r (fun t n => countRec ((ringAt t n).bobs.filter (fun b => decide (b.st ≠ .free))).length)
  | .sampling => unitRec f 2 r.index (countRec (sampCount s r.index))
  | .fetch => match sqAt s p r.index with
    | some x => .inl (countRec x.buf.length)
    | none => .inr 0x0106
  | .replay => unitRec f 12 r.index (countRec (portAt s r.index).replay.length)
  | .channel => unitRec f 96 r.index (countRec (chanCount s r.index))

/-- RECORD_READ (R423). -/
def execRecordRead (q : QId) (sel : RecSel) (b : Buf) (s : State) : Out :=
  hostCmd s q (.recordRead sel b) (fun s p =>
    match diagRecord s q.fn p sel with
    | .inr st => reject s q st
    | .inl l => readDone s q b l (min b.len l.length))

/-- FAULT_LOG_READ (R45): whole records. -/
def execFaultLogRead (q : QId) (first count : Nat) (b : Buf) (s : State) : Out :=
  hostCmd s q (.faultLogRead first count b) (fun s p =>
    let l := (((partAt s p).flog.drop first).take count).take (b.len / 64)
    readDone s q b (l.map (fun r => leBytes 64 (faultBits r))).flatten l.length)

/-- HISTORY_READ (R404). -/
def execHistoryRead (q : QId) (b : Buf) (s : State) : Out :=
  hostCmd s q (.historyRead b) (fun s _ =>
    let l := (s.boot.hist.map (histBytes s)).flatten
    readDone s q b l (min b.len l.length))

/-! ### Attestation and configuration (R405, R406, R420) -/

/-- Header and entries of a report (R405). -/
def reportBytes (s : State) (nonce : BitVec 512) (p : Nat) : List Byte :=
  let c : Option ConfigP := activeCfg s
  let progs := (partAt s p).progs
  leBytes 296 (packFields [⟨0, 16, 1⟩, ⟨16, 5, p⟩, ⟨32, 32, progs.length⟩, ⟨64, 64, ((c.map ConfigP.serial).getD 0).toNat⟩,
    ⟨128, 32, s.boot.svn⟩, ⟨160, 32, (c.map ConfigP.minsvn).getD 0⟩, ⟨192, 16, s.boot.level⟩, ⟨256, 64, s.time.now.toNat⟩,
    ⟨320, 512, nonce.toNat⟩, ⟨832, 512, s.boot.meas.toNat⟩, ⟨1344, 512, ((c.map ConfigP.meas).getD 0).toNat⟩,
    ⟨1856, 512, s.boot.certId.toNat⟩]) ++
    (progs.map (fun e => leBytes 8 e.1 ++ leBytes 64 e.2.meas.toNat)).flatten

/-- A function's own partition, or any for the PF. -/
def ownPart (f p : Nat) : Bool := decide (f = 0) || decide (p = f)

/-- ATTEST: after a debug unlock the identity key is withheld (R420). -/
def execAttest (q : QId) (nonce : BitVec 512) (part : Fin 32) (b : Buf) (s : State) : Out :=
  hostCmd s q (.attest nonce part b) (fun s _ =>
    if !ownPart q.fn part then reject s q 0x0104
    else if s.io.tapUnlocked then reject s q 0x010E
    else
      let l := reportBytes s nonce part
      let l := l ++ (List.range 4627).map (Config.sigByte (sha3 l))
      if b.len < l.length then reject s q 0x0103 else readDone s q b l l.length)

/-- MEASURE_READ: the report without a signature; its nonce field, for which the command gives none, is a free value. -/
def execMeasureRead (q : QId) (part : Fin 32) (b : Buf) (s : State) : Out :=
  hostCmd s q (.measureRead part b) (fun s _ =>
    if !ownPart q.fn part then reject s q 0x0104
    else
      let x := drawWide s
      let y := drawWide x.2
      let s := y.2
      let l := reportBytes s (x.1 ++ y.1) part
      if b.len < l.length then reject s q 0x0103 else readDone s q b l l.length)

/-- CERT_READ. -/
def execCertRead (q : QId) (b : Buf) (s : State) : Out :=
  hostCmd s q (.certRead b) (fun s _ =>
    readDone s q b s.boot.chain (min b.len s.boot.chain.length))

/-- CONFIG_UPDATE: an accepted record goes to the copy not in use, for the next cold boot. -/
def execConfigUpdate (q : QId) (c : ConfigP) (s : State) : Out :=
  hostCmd s q (.configUpdate c) (fun s _ =>
    match activeCfg s with
    | none => reject s q 0x010E
    | some a =>
      if !c.sigOk ∨ c.serial ≠ s.boot.certSerial ∨ c.seq ≤ a.seq ∨ c.minsvn < a.minsvn then reject s q 0x010E
      else doneOk (s.withBoot (if s.boot.useB then { s.boot with cfgA := some c } else { s.boot with cfgB := some c })) q)

/-- UNDEFINED_COMMAND (R336): BAD_OPCODE. -/
def execUndefinedCommand (q : QId) (opc : Nat) (s : State) : Out :=
  ok (match canStart s q (.undefined opc) with
    | none => s
    | some _ => if opcDefined opc then s else reject s q 0x0101)

end Sys2Proof.Machine
end

