-- ==== Sys2Proof/Machine/Sideband.lean ====
section
/-! DEFINITION. Distaff's I3C target (R379 to R381) and the test port (R420). -/

namespace Sys2Proof.Machine

open Sys2Proof

/-! ### I3C -/

/-- The target answers from step 2 of R412 until the input is lost (R412, R422). -/
def i3c (s : State) (f : IoU → IoU) : Out :=
  ok (if distaffUp s && s.io.inputOn then s.withIo (f s.io) else s)

/-- Static address (R419). -/
def staticAddr (s : State) : Nat := 0x38 + s.io.straps

/-- An in-band interrupt is requested while an unmasked alert stands and ENEC has enabled it (R379, R380). -/
def ibiRequested (s : State) : Bool := s.io.alertPin && s.io.i3cIbi

/-- I3C_INDEX_WRITE. -/
def execI3cIndexWrite (b : Byte) (s : State) : Out := i3c s (fun x => { x with i3cIndex := b.toNat })

/-- A shadow byte as a read returns it: the alert flags and their mask as they stand, the rest as last updated (R380). -/
def shadowByte (x : IoU) (k : Nat) : Byte :=
  if k = 0x20 ∨ k = 0x21 then (leBytes 2 x.alerts.toNat).getD (k - 0x20) 0
  else if k = 0x22 ∨ k = 0x23 then (leBytes 2 x.alertMask.toNat).getD (k - 0x22) 0
  else x.shadow.getD k 0

/-- I3C_READ: bytes from the index upward, from one latched copy (R379, R381). -/
def execI3cRead (n : Nat) (s : State) : Out :=
  i3c s (fun x => { x with
    rsp := (List.range n).map (fun k => shadowByte x ((x.i3cIndex + k) % 256)), i3cIndex := (x.i3cIndex + n) % 256 })

/-- ALERT_FLAG_CLEAR (R380, W1C). -/
def execAlertFlagClear (v : BitVec 16) (s : State) : Out :=
  i3c s (fun x => { x with alerts := x.alerts &&& ~~~v, alertPin := decide ((x.alerts &&& ~~~v) &&& ~~~x.alertMask ≠ 0) })

/-- I3C_ENTDAA: a target without a dynamic address takes the one assigned. -/
def execI3cEntdaa (addr : BitVec 7) (s : State) : Out :=
  i3c s (fun x => if x.i3cAddr.isSome then x else { x with i3cAddr := some addr.toNat })

/-- I3C_SETDASA: the same, addressed by its static address. -/
def execI3cSetdasa (addr : BitVec 7) (s : State) : Out :=
  i3c s (fun x => if x.i3cAddr.isSome then x else { x with i3cAddr := some addr.toNat })

/-- I3C_RSTDAA. -/
def execI3cRstdaa (s : State) : Out := i3c s (fun x => { x with i3cAddr := none })

def execI3cGetpid (s : State) : Out := i3c s (fun x => { x with rsp := leBytes 6 Config.i3cPid.toNat })
def execI3cGetbcr (s : State) : Out := i3c s (fun x => { x with rsp := [Config.i3cBcr] })
def execI3cGetdcr (s : State) : Out := i3c s (fun x => { x with rsp := [Config.i3cDcr] })
def execI3cGetstatus (s : State) : Out := i3c s (fun x => { x with rsp := leBytes 2 Config.i3cStatus.toNat })
def execI3cGetmwl (s : State) : Out := i3c s (fun x => { x with rsp := leBytes 2 Config.i3cMwl.toNat })
def execI3cGetmrl (s : State) : Out := i3c s (fun x => { x with rsp := leBytes 2 Config.i3cMrl.toNat })

/-- I3C_ENEC and I3C_DISEC: in-band interrupts. -/
def execI3cEnec (s : State) : Out := i3c s (fun x => { x with i3cIbi := true })
def execI3cDisec (s : State) : Out := i3c s (fun x => { x with i3cIbi := false })

/-! ### Test port (R420) -/

/-- TAP_IDCODE: 0x0D70_0A4B shifts out, low bit first. -/
def execTapIdcode (s : State) : Out :=
  ok (s.withIo { s.io with tapDr := (List.range 32).map (fun k => Nat.testBit 0x0D700A4B k) })

/-- The bypass register delays TDI by one bit. -/
def bypassBits (l : List Bool) : List Bool := (false :: l).take l.length

/-- TAP_BYPASS. -/
def execTapBypass (bits : List Bool) (s : State) : Out := ok (s.withIo { s.io with tapDr := bypassBits bits })

/-- The contacts' levels in boundary order: the manual gives no order, so they are free values. -/
def sampleBits (s : State) (n : Nat) : List Bool := (List.range n).map (fun k => (Config.free64 (s.free + k)).getLsbD 0)

/-- TAP_SAMPLE_PRELOAD: the contacts are sampled, the boundary register is loaded. -/
def execTapSamplePreload (bits : List Bool) (s : State) : Out :=
  ok ((s.withIo { s.io with tapDr := sampleBits s bits.length, contacts := bits }).withFree (s.free + bits.length))

/-- TAP_EXTEST: drives the contacts while PERST# is asserted; otherwise it acts as BYPASS. -/
def execTapExtest (bits : List Bool) (s : State) : Out :=
  ok (if s.io.perst then
      (s.withIo { s.io with tapDr := sampleBits s bits.length, contacts := bits }).withFree (s.free + bits.length)
    else s.withIo { s.io with tapDr := bypassBits bits })

/-- TAP_DEBUG_UNLOCK: a token that verifies enables the private instructions and withholds the identity key. -/
def execTapDebugUnlock (good : Bool) (t : Word64) (s : State) : Out :=
  ok (if !good ∨ !(decide (s.boot.phase = .rom) || decide (s.boot.phase = .utora)) then s
    else atTime s t (fun s => addHist (s.withIo { s.io with tapUnlocked := true }) 0 12 (ctrKey 0 6 0 0) 0 false))

/-- TAP_PRIVATE_DEBUG: before an unlock it does not act; after one, the manual does not say what it does. -/
def execTapPrivateDebug (_code : Nat) (s : State) : Out :=
  if s.io.tapUnlocked then .refused .privateDebug else ok s

end Sys2Proof.Machine
end

