-- ==== Sys2Proof/Machine/Dispatch.lean ====
section
/-! DEFINITION. One arm for each command and event: a direct call of its meaning. -/

namespace Sys2Proof.Machine

open Sys2Proof

def exec (i : Instr) (s : State) : Host.Outcome State Fault Refusal :=
  match i with
  | .partCreate q p => Sys2Proof.Machine.execPartCreate q p s
  | .partDestroy q => Sys2Proof.Machine.execPartDestroy q s
  | .partStart q => Sys2Proof.Machine.execPartStart q s
  | .partStop q => Sys2Proof.Machine.execPartStop q s
  | .partQuota q p => Sys2Proof.Machine.execPartQuota q p s
  | .partSeed q seed => Sys2Proof.Machine.execPartSeed q seed s
  | .partFlagmask q m => Sys2Proof.Machine.execPartFlagmask q m s
  | .partServe q entries handles => Sys2Proof.Machine.execPartServe q entries handles s
  | .groupAdd q gs => Sys2Proof.Machine.execGroupAdd q gs s
  | .groupRemove q gs => Sys2Proof.Machine.execGroupRemove q gs s
  | .partRecover q => Sys2Proof.Machine.execPartRecover q s
  | .partSave q b => Sys2Proof.Machine.execPartSave q b s
  | .partRestore q b img ids pages => Sys2Proof.Machine.execPartRestore q b img ids pages s
  | .queueCreate q d => Sys2Proof.Machine.execQueueCreate q d s
  | .queueDelete q num isCQ => Sys2Proof.Machine.execQueueDelete q num isCQ s
  | .regionCreate q p id pages => Sys2Proof.Machine.execRegionCreate q p id pages s
  | .regionFree q r => Sys2Proof.Machine.execRegionFree q r s
  | .regionStage q r epoch haddr pages => Sys2Proof.Machine.execRegionStage q r epoch haddr pages s
  | .regionPublish q rs => Sys2Proof.Machine.execRegionPublish q rs s
  | .regionAbandon q r => Sys2Proof.Machine.execRegionAbandon q r s
  | .copyIn q p => Sys2Proof.Machine.execCopyIn q p s
  | .copyOut q p => Sys2Proof.Machine.execCopyOut q p s
  | .regionFill q p => Sys2Proof.Machine.execRegionFill q p s
  | .progLoad q p sec => Sys2Proof.Machine.execProgLoad q p sec s
  | .progUnload q slot => Sys2Proof.Machine.execProgUnload q slot s
  | .campaignStart q c => Sys2Proof.Machine.execCampaignStart q c s
  | .campaignStop q => Sys2Proof.Machine.execCampaignStop q s
  | .reqAdmit q p e drs => Sys2Proof.Machine.execReqAdmit q p e drs s
  | .reqCancel q e => Sys2Proof.Machine.execReqCancel q e s
  | .reqRelease q e => Sys2Proof.Machine.execReqRelease q e s
  | .prefixCreate q e len h drs => Sys2Proof.Machine.execPrefixCreate q e len h drs s
  | .prefixRelease q h => Sys2Proof.Machine.execPrefixRelease q h s
  | .variantSet q ver p => Sys2Proof.Machine.execVariantSet q ver p s
  | .variantClear q v => Sys2Proof.Machine.execVariantClear q v s
  | .admitClose q => Sys2Proof.Machine.execAdmitClose q s
  | .groupId q g => Sys2Proof.Machine.execGroupId q g s
  | .groupFound q => Sys2Proof.Machine.execGroupFound q s
  | .groupLeave q => Sys2Proof.Machine.execGroupLeave q s
  | .portEnable q p => Sys2Proof.Machine.execPortEnable q p s
  | .portDisable q p => Sys2Proof.Machine.execPortDisable q p s
  | .portHello q p nonce => Sys2Proof.Machine.execPortHello q p nonce s
  | .powerLevel q l => Sys2Proof.Machine.execPowerLevel q l s
  | .gearLimit q part g => Sys2Proof.Machine.execGearLimit q part g s
  | .energyBudget q part w => Sys2Proof.Machine.execEnergyBudget q part w s
  | .brakeTest q us => Sys2Proof.Machine.execBrakeTest q us s
  | .snapshotAt q t mask id => Sys2Proof.Machine.execSnapshotAt q t mask id s
  | .snapshotMark q n mask id => Sys2Proof.Machine.execSnapshotMark q n mask id s
  | .counterRead q sel b => Sys2Proof.Machine.execCounterRead q sel b s
  | .recordRead q sel b => Sys2Proof.Machine.execRecordRead q sel b s
  | .faultLogRead q first count b => Sys2Proof.Machine.execFaultLogRead q first count b s
  | .historyRead q b => Sys2Proof.Machine.execHistoryRead q b s
  | .attest q nonce part b => Sys2Proof.Machine.execAttest q nonce part b s
  | .measureRead q part b => Sys2Proof.Machine.execMeasureRead q part b s
  | .certRead q b => Sys2Proof.Machine.execCertRead q b s
  | .configUpdate q c => Sys2Proof.Machine.execConfigUpdate q c s
  | .undefinedCommand q opc => Sys2Proof.Machine.execUndefinedCommand q opc s
  | .sqTailDoorbell fn n ix w32 => Sys2Proof.Machine.execSqTailDoorbell fn n ix w32 s
  | .submissionFetch q e t => Sys2Proof.Machine.execSubmissionFetch q e t s
  | .cqHeadDoorbell fn n ix w32 => Sys2Proof.Machine.execCqHeadDoorbell fn n ix w32 s
  | .eventHeadDoorbell fn ix w32 => Sys2Proof.Machine.execEventHeadDoorbell fn ix w32 s
  | .completionPost fn n t => Sys2Proof.Machine.execCompletionPost fn n t s
  | .adminQueueEnable fn v => Sys2Proof.Machine.execAdminQueueEnable fn v s
  | .loadImage img t => Sys2Proof.Machine.execLoadImage img t s
  | .readBootlog => Sys2Proof.Machine.execReadBootlog s
  | .bar2Read x n => Sys2Proof.Machine.execBar2Read x n s
  | .bar2Write x data => Sys2Proof.Machine.execBar2Write x data s
  | .registerWrite fn f => Sys2Proof.Machine.execRegisterWrite fn f s
  | .functionLevelReset fn t => Sys2Proof.Machine.execFunctionLevelReset fn t s
  | .atsInvalidation fn pasid page => Sys2Proof.Machine.execAtsInvalidation fn pasid page s
  | .i3cIndexWrite b => Sys2Proof.Machine.execI3cIndexWrite b s
  | .i3cRead n => Sys2Proof.Machine.execI3cRead n s
  | .alertFlagClear v => Sys2Proof.Machine.execAlertFlagClear v s
  | .i3cEntdaa addr => Sys2Proof.Machine.execI3cEntdaa addr s
  | .i3cSetdasa addr => Sys2Proof.Machine.execI3cSetdasa addr s
  | .i3cRstdaa => Sys2Proof.Machine.execI3cRstdaa s
  | .i3cGetpid => Sys2Proof.Machine.execI3cGetpid s
  | .i3cGetbcr => Sys2Proof.Machine.execI3cGetbcr s
  | .i3cGetdcr => Sys2Proof.Machine.execI3cGetdcr s
  | .i3cGetstatus => Sys2Proof.Machine.execI3cGetstatus s
  | .i3cGetmwl => Sys2Proof.Machine.execI3cGetmwl s
  | .i3cGetmrl => Sys2Proof.Machine.execI3cGetmrl s
  | .i3cEnec => Sys2Proof.Machine.execI3cEnec s
  | .i3cDisec => Sys2Proof.Machine.execI3cDisec s
  | .tapIdcode => Sys2Proof.Machine.execTapIdcode s
  | .tapBypass bits => Sys2Proof.Machine.execTapBypass bits s
  | .tapSamplePreload bits => Sys2Proof.Machine.execTapSamplePreload bits s
  | .tapExtest bits => Sys2Proof.Machine.execTapExtest bits s
  | .tapDebugUnlock ok t => Sys2Proof.Machine.execTapDebugUnlock ok t s
  | .tapPrivateDebug code => Sys2Proof.Machine.execTapPrivateDebug code s
  | .heartbeatWrite core t => Sys2Proof.Machine.execHeartbeatWrite core t s
  | .powerInputRise mv straps t => Sys2Proof.Machine.execPowerInputRise mv straps t s
  | .powerLoss d t => Sys2Proof.Machine.execPowerLoss d t s
  | .distaffRailLoss mv t => Sys2Proof.Machine.execDistaffRailLoss mv t s
  | .presenceOpen second t => Sys2Proof.Machine.execPresenceOpen second t s
  | .perstAssert ns t => Sys2Proof.Machine.execPerstAssert ns t s
  | .perstRelease p t => Sys2Proof.Machine.execPerstRelease p t s
  | .t2InitComplete e => Sys2Proof.Machine.execT2InitComplete e s
  | .pcieLinkDown d => Sys2Proof.Machine.execPcieLinkDown d s
  | .pcieLinkUp t => Sys2Proof.Machine.execPcieLinkUp t s
  | .pwrbrkAssert ns t => Sys2Proof.Machine.execPwrbrkAssert ns t s
  | .pwrbrkRelease t => Sys2Proof.Machine.execPwrbrkRelease t s
  | .brakeTestEnd t => Sys2Proof.Machine.execBrakeTestEnd t s
  | .tbSyncInPulse t => Sys2Proof.Machine.execTbSyncInPulse t s
  | .tbSyncOutPulse t => Sys2Proof.Machine.execTbSyncOutPulse t s
  | .timingBeaconExchange port t1 t2 t3 t4 x => Sys2Proof.Machine.execTimingBeaconExchange port t1 t2 t3 t4 x s
  | .sensorSample xs mv t => Sys2Proof.Machine.execSensorSample xs mv t s
  | .gearCapStep t => Sys2Proof.Machine.execGearCapStep t s
  | .thermalTrip t => Sys2Proof.Machine.execThermalTrip t s
  | .watchdogExpiry core t => Sys2Proof.Machine.execWatchdogExpiry core t s
  | .deviceFault c t => Sys2Proof.Machine.execDeviceFault c t s
  | .tileFailurePrediction tile e => Sys2Proof.Machine.execTileFailurePrediction tile e s
  | .storeBankSpare die bank t => Sys2Proof.Machine.execStoreBankSpare die bank t s
  | .packagePrediction pkg rule t => Sys2Proof.Machine.execPackagePrediction pkg rule t s
  | .migrationCopyDone t => Sys2Proof.Machine.execMigrationCopyDone t s
  | .scrubPass x t => Sys2Proof.Machine.execScrubPass x t s
  | .li a w => Sys2Proof.Machine.execLi a w s
  | .lih a w => Sys2Proof.Machine.execLih a w s
  | .add a w => Sys2Proof.Machine.execAdd a w s
  | .sub a w => Sys2Proof.Machine.execSub a w s
  | .mul a w => Sys2Proof.Machine.execMul a w s
  | .and a w => Sys2Proof.Machine.execAnd a w s
  | .or a w => Sys2Proof.Machine.execOr a w s
  | .xor a w => Sys2Proof.Machine.execXor a w s
  | .shl a w => Sys2Proof.Machine.execShl a w s
  | .shr a w => Sys2Proof.Machine.execShr a w s
  | .loop a w => Sys2Proof.Machine.execLoop a w s
  | .qcnt a w => Sys2Proof.Machine.execQcnt a w s
  | .tbase a w => Sys2Proof.Machine.execTbase a w s
  | .tileid a w => Sys2Proof.Machine.execTileid a w s
  | .reservedOpcodeWord a raw => Sys2Proof.Machine.execReservedOpcodeWord a raw s
  | .signal a w => Sys2Proof.Machine.execSignal a w s
  | .signalArrival a n => Sys2Proof.Machine.execSignalArrival a n s
  | .wait a w => Sys2Proof.Machine.execWait a w s
  | .waitSatisfied a q => Sys2Proof.Machine.execWaitSatisfied a q s
  | .waitTimeout a q => Sys2Proof.Machine.execWaitTimeout a q s
  | .take a w => Sys2Proof.Machine.execTake a w s
  | .mark a w => Sys2Proof.Machine.execMark a w s
  | .segend a w => Sys2Proof.Machine.execSegend a w s
  | .segmentCommit part seg step t => Sys2Proof.Machine.execSegmentCommit part seg step t s
  | .energyWindowStart t => Sys2Proof.Machine.execEnergyWindowStart t s
  | .mxseta a w => Sys2Proof.Machine.execMxseta a w s
  | .mxsetb a w => Sys2Proof.Machine.execMxsetb a w s
  | .mxsetd a w => Sys2Proof.Machine.execMxsetd a w s
  | .mxsets a w => Sys2Proof.Machine.execMxsets a w s
  | .mxorg a w => Sys2Proof.Machine.execMxorg a w s
  | .mxmul a w => Sys2Proof.Machine.execMxmul a w s
  | .mxdelta a w => Sys2Proof.Machine.execMxdelta a w s
  | .mxfin a w => Sys2Proof.Machine.execMxfin a w s
  | .ewhead a w => Sys2Proof.Machine.execEwhead a w s
  | .eworg a w => Sys2Proof.Machine.execEworg a w s
  | .ewsrc a w => Sys2Proof.Machine.execEwsrc a w s
  | .ewop a w => Sys2Proof.Machine.execEwop a w s
  | .ewdst a w => Sys2Proof.Machine.execEwdst a w s
  | .chainStart a => Sys2Proof.Machine.execChainStart a s
  | .chainComplete a => Sys2Proof.Machine.execChainComplete a s
  | .ewflag a w => Sys2Proof.Machine.execEwflag a w s
  | .ewsamp a w => Sys2Proof.Machine.execEwsamp a w s
  | .samplePartAccept a => Sys2Proof.Machine.execSamplePartAccept a s
  | .sampleDraw die n => Sys2Proof.Machine.execSampleDraw die n s
  | .rarm a w => Sys2Proof.Machine.execRarm a w s
  | .rearm a w => Sys2Proof.Machine.execRearm a w s
  | .rsend a w => Sys2Proof.Machine.execRsend a w s
  | .rclose a w => Sys2Proof.Machine.execRclose a w s
  | .fanStart r => Sys2Proof.Machine.execFanStart r s
  | .fetchIssue r => Sys2Proof.Machine.execFetchIssue r s
  | .fetchLand r slot how data => Sys2Proof.Machine.execFetchLand r slot how data s
  | .sendVisible r slot => Sys2Proof.Machine.execSendVisible r slot s
  | .t1FillLand x => Sys2Proof.Machine.execT1FillLand x s
  | .frameRelease frame => Sys2Proof.Machine.execFrameRelease frame s
  | .heatDecay t => Sys2Proof.Machine.execHeatDecay t s
  | .faultRecordComplete part t => Sys2Proof.Machine.execFaultRecordComplete part t s
  | .peerFaultReceive part m t => Sys2Proof.Machine.execPeerFaultReceive part m t s
  | .startingComplete part t => Sys2Proof.Machine.execStartingComplete part t s
  | .stopComplete part t => Sys2Proof.Machine.execStopComplete part t s
  | .groupDrainComplete g t => Sys2Proof.Machine.execGroupDrainComplete g t s
  | .turnEndTime part t => Sys2Proof.Machine.execTurnEndTime part t s
  | .turnEndBeaconArrival part m turn t => Sys2Proof.Machine.execTurnEndBeaconArrival part m turn t s
  | .chunkReceive x t => Sys2Proof.Machine.execChunkReceive x t s
  | .switchPublish part e => Sys2Proof.Machine.execSwitchPublish part e s
  | .campaignDigestReceive part m d t => Sys2Proof.Machine.execCampaignDigestReceive part m d t s
  | .rendezvousTimeout part t => Sys2Proof.Machine.execRendezvousTimeout part t s
  | .campaignStopReceive part e => Sys2Proof.Machine.execCampaignStopReceive part e s
  | .stepBeaconArrival part m coll leaf tokens t => Sys2Proof.Machine.execStepBeaconArrival part m coll leaf tokens t s
  | .settleDeadline part t => Sys2Proof.Machine.execSettleDeadline part t s
  | .settleTimeout part e => Sys2Proof.Machine.execSettleTimeout part e s
  | .closeListReceive part c t => Sys2Proof.Machine.execCloseListReceive part c t s
  | .collectiveChunkReceive buf t => Sys2Proof.Machine.execCollectiveChunkReceive buf t s
  | .fabricTimeout part id pair t => Sys2Proof.Machine.execFabricTimeout part id pair t s
  | .listAdmission part p e drs t => Sys2Proof.Machine.execListAdmission part p e drs t s
  | .stepCompose part e toks bad t => Sys2Proof.Machine.execStepCompose part e toks bad t s
  | .manifestReceive part w slot e evicts t => Sys2Proof.Machine.execManifestReceive part w slot e evicts t s
  | .rolloutCommit part step t => Sys2Proof.Machine.execRolloutCommit part step t s
  | .commitRecordReceive part w draws drafts evicts t => Sys2Proof.Machine.execCommitRecordReceive part w draws drafts evicts t s
  | .flitTransmit port beacon bid t => Sys2Proof.Machine.execFlitTransmit port beacon bid t s
  | .flitReceive port f t => Sys2Proof.Machine.execFlitReceive port f t s
  | .beaconReflect port t => Sys2Proof.Machine.execBeaconReflect port t s
  | .laneSubstitution port lane t => Sys2Proof.Machine.execLaneSubstitution port lane t s
  | .lightLoss port l t => Sys2Proof.Machine.execLightLoss port l t s
  | .laserFailure unit t => Sys2Proof.Machine.execLaserFailure unit t s
  | .portRetrain port e => Sys2Proof.Machine.execPortRetrain port e s
  | .trainingComplete port e nonce t => Sys2Proof.Machine.execTrainingComplete port e nonce t s
  | .helloReceive port h t => Sys2Proof.Machine.execHelloReceive port h t s
  | .quarantineRehello port nonce t => Sys2Proof.Machine.execQuarantineRehello port nonce t s
  | .portDrained port t => Sys2Proof.Machine.execPortDrained port t s
  | .joinRequest j t => Sys2Proof.Machine.execJoinRequest j t s
  | .epochProposalReceive m epoch members t => Sys2Proof.Machine.execEpochProposalReceive m epoch members t s
  | .epochAckReceive m epoch t => Sys2Proof.Machine.execEpochAckReceive m epoch t s
  | .epochCommitReceive w members links t => Sys2Proof.Machine.execEpochCommitReceive w members links t s
  | .heartbeatSend t => Sys2Proof.Machine.execHeartbeatSend t s
  | .heartbeatReceive m t => Sys2Proof.Machine.execHeartbeatReceive m t s
  | .memberSilent g t => Sys2Proof.Machine.execMemberSilent g t s
  | .leaderLoss reach t => Sys2Proof.Machine.execLeaderLoss reach t s
  | .isolation reach e => Sys2Proof.Machine.execIsolation reach e s
  | .messageResend x t => Sys2Proof.Machine.execMessageResend x t s
  | .snapshotLatch part id t => Sys2Proof.Machine.execSnapshotLatch part id t s
  | .multiplyWordComplete a => Sys2Proof.Machine.execMultiplyWordComplete a s
  | .hostTransferComplete x off data e t => Sys2Proof.Machine.execHostTransferComplete x off data e t s
  | .interruptIntervalExpiry fn n t => Sys2Proof.Machine.execInterruptIntervalExpiry fn n t s
  | .laneSubstitutionComplete port t => Sys2Proof.Machine.execLaneSubstitutionComplete port t s
  | .regionsScrubbed part t => Sys2Proof.Machine.execRegionsScrubbed part t s
  | .reservedT2Initialised e => Sys2Proof.Machine.execReservedT2Initialised e s

end Sys2Proof.Machine
end

