-- ==== Sys2Proof/Safety.lean ====
section
/-! DEFINITION. The terms that claims are stated in: the invariant of the state, when a host command may start, and what
the completion of a command leaves in the journal. -/

namespace Sys2Proof.Machine

open Sys2Proof

/-- The sizes that the manual fixes: 32 functions with 8 queues of each kind and 64 vectors, 32 partitions, 24 tile
groups, 12 ports. -/
abbrev Sized (s : State) : Prop :=
  s.fns.length = 32 ∧ s.parts.length = 32 ∧ s.groups.length = 24 ∧ s.fabric.ports.length = 12 ∧
    ∀ x ∈ s.fns, x.sqs.length = 8 ∧ x.cqs.length = 8 ∧ x.msix.length = 64

/-- Module memory and its poison, host memory and the counters are in canonical form: addresses rise, and nothing is listed
that reads as an unlisted entry does. -/
abbrev Canonical (s : State) : Prop :=
  Memory.wf s.t2.mem = true ∧ Memory.wf s.host = true ∧ mapWf false s.t2.pois = true ∧ mapWf 0 s.ctrs = true

/-- A tile's tables are in canonical form, and scalar register 0 is not among the stored ones (R19): scalar registers, semaphores, T0 and its poison, tile registers, predicates, rings. -/
abbrev TileOk (x : Tile) : Prop :=
  (mapWf 0 x.sregs = true ∧ ∀ e ∈ x.sregs, e.1 ≠ 0) ∧ mapWf 0 x.sems = true ∧ Memory.wf x.t0 = true ∧ mapWf 0 x.pois = true ∧
    mapWf TReg.reset x.tregs = true ∧ mapWf [] x.preds = true ∧ mapWf Ring.closed x.rings = true

/-- Every tile's tables are in canonical form. -/
abbrev TilesOk (s : State) : Prop := ∀ e ∈ s.tiles, TileOk e.2

/-- The invariant that every step keeps. -/
abbrev Inv (s : State) : Prop := Sized s ∧ Canonical s

/-- Command c stands at the head of queue q, may start, and is for partition p, whose state admits it (R335, R336, R340). -/
def hostReady (s : State) (q : QId) (c : HostCmd) (p : Nat) : Bool :=
  match canStart s q c with
  | some r => decide (recPart r = p) && permitted q.fn p c && decide (gateOf (partAt s p) c = .go) && !entryBad r.entry
  | none => false

/-- The host command that a row runs and the queue it came on: every row of R336's table but an undefined opcode, which no partition's
state or permission decides. -/
def hostInstr (i : Instr) : Option (QId × HostCmd) :=
  match i with
  | .partCreate q p => some (q, (.partCreate p))
  | .partDestroy q => some (q, .partDestroy)
  | .partStart q => some (q, .partStart)
  | .partStop q => some (q, .partStop)
  | .partQuota q p => some (q, (.partQuota p))
  | .partSeed q v => some (q, (.partSeed v))
  | .partFlagmask q m => some (q, (.partFlagmask m))
  | .partServe q n h => some (q, (.partServe n h))
  | .groupAdd q g => some (q, (.groupAdd g))
  | .groupRemove q g => some (q, (.groupRemove g))
  | .partRecover q => some (q, .partRecover)
  | .partSave q b => some (q, (.partSave b))
  | .partRestore q b _ _ _ => some (q, (.partRestore b))
  | .queueCreate q d => some (q, (.queueCreate d))
  | .queueDelete q n c => some (q, (.queueDelete n c))
  | .regionCreate q p _ _ => some (q, (.regionCreate p))
  | .regionFree q r => some (q, (.regionFree r))
  | .regionStage q r e h _ => some (q, (.regionStage r e h))
  | .regionPublish q r => some (q, (.regionPublish r))
  | .regionAbandon q r => some (q, (.regionAbandon r))
  | .copyIn q p => some (q, (.copyIn p))
  | .copyOut q p => some (q, (.copyOut p))
  | .regionFill q p => some (q, (.regionFill p))
  | .progLoad q p _ => some (q, (.progLoad p))
  | .progUnload q n => some (q, (.progUnload n))
  | .campaignStart q p => some (q, (.campaignStart p))
  | .campaignStop q => some (q, .campaignStop)
  | .reqAdmit q p _ _ => some (q, (.reqAdmit p))
  | .reqCancel q e => some (q, (.reqCancel e))
  | .reqRelease q e => some (q, (.reqRelease e))
  | .prefixCreate q e n _ _ => some (q, (.prefixCreate e n))
  | .prefixRelease q h => some (q, (.prefixRelease h))
  | .variantSet q v p => some (q, (.variantSet v p))
  | .variantClear q v => some (q, (.variantClear v))
  | .admitClose q => some (q, .admitClose)
  | .groupId q g => some (q, (.groupId g))
  | .groupFound q => some (q, .groupFound)
  | .groupLeave q => some (q, .groupLeave)
  | .portEnable q p => some (q, (.portEnable p))
  | .portDisable q p => some (q, (.portDisable p))
  | .portHello q p _ => some (q, (.portHello p))
  | .gearLimit q p g => some (q, (.gearLimit p g))
  | .energyBudget q p w => some (q, (.energyBudget p w))
  | .powerLevel q l => some (q, (.powerLevel l))
  | .brakeTest q u => some (q, (.brakeTest u))
  | .snapshotAt q t m _ => some (q, (.snapshotAt t m))
  | .snapshotMark q n m _ => some (q, (.snapshotMark n m))
  | .counterRead q x b => some (q, (.counterRead x b))
  | .recordRead q x b => some (q, (.recordRead x b))
  | .faultLogRead q f n b => some (q, (.faultLogRead f n b))
  | .historyRead q b => some (q, (.historyRead b))
  | .attest q n p b => some (q, (.attest n p b))
  | .measureRead q p b => some (q, (.measureRead p b))
  | .certRead q b => some (q, (.certRead b))
  | .configUpdate q p => some (q, (.configUpdate p))
  | _ => none

/-- The snapshot id that a row takes is free, so that the row can arm the snapshot (R386, R387; log entry 11). -/
def snapIdFree (s : State) (i : Instr) : Prop :=
  match i with
  | .snapshotAt _ _ _ id => s.parts.all (fun x => (mapFind x.snaps id).isNone)
  | .snapshotMark _ _ _ id => s.parts.all (fun x => (mapFind x.snaps id).isNone)
  | _ => True

/-- The journal of s after the head command of queue q has completed with a status and a detail, now (R347). -/
def completedWith (s : State) (q : QId) (status detail : Nat) : List JRec :=
  updFirst s.journal (isHead q) (fun r => { r with
    st := .committed, status := status, detail := detail, tdone := s.time.now })

/-- The journal of s after the head command of queue q has started. -/
def startedOn (s : State) (q : QId) : List JRec :=
  updFirst s.journal (isHead q) (fun r => { r with st := .started })

/-- The command of queue q completes with a status: t's journal is that of s with the completion committed. -/
def Completes (s t : State) (q : QId) (status : Nat) : Prop := ∃ d, t.journal = completedWith s q status d

/-- The command of journal record r has committed in s with a status, at time t. -/
def CommittedIn (s : State) (r : JRec) (status : Nat) (t : Word64) : Prop :=
  ∃ r' ∈ s.journal, r'.q = r.q ∧ r'.seq = r.seq ∧ r'.entry = r.entry ∧ r'.st = .committed ∧ r'.status = status ∧ r'.tdone = t

/-- Everything but the partitions, the journal and the count of free values is as before. -/
def onlyParts (s t : State) : Prop := ((t.withParts s.parts).withJournal s.journal).withFree s.free = s

end Sys2Proof.Machine
end

