-- ==== Sys2Proof/Certificates/Slice0/Obligations.lean ====
section
/-! DEFINITION. The statements that the provers are asked for. -/

open Sys2Proof Sys2Proof.Machine

/-! ### Partition commands -/

/-- PART_SEED, PART_FLAGMASK, PART_SERVE and PART_QUOTA complete with success and change the one setting that they
name, of the one partition that they name (R138, R147, R206, R244). PART_QUOTA may also release T1 frames. -/
def Obligations.PartSettingsComplete : Prop :=
  ∀ (s : State) (q : QId) (p : Nat), Inv s →
    (∀ seed, hostReady s q (.partSeed seed) p → ∃ t, exec (.partSeed q seed) s = .next t ∧ Completes s t q 0 ∧
      t.parts = s.parts.set p { partAt s p with
        seed := seed, seedOn := if (partAt s p).st = .stopped then seed else (partAt s p).seedOn } ∧ onlyParts s t) ∧
    (∀ m, hostReady s q (.partFlagmask m) p → ∃ t, exec (.partFlagmask q m) s = .next t ∧ Completes s t q 0 ∧
      t.parts = s.parts.set p { partAt s p with flagmask := m } ∧ onlyParts s t) ∧
    (∀ n h, hostReady s q (.partServe n h) p → n ≤ 16384 → h ≤ 4096 → entrySums s p n →
      ∃ t, exec (.partServe q n h) s = .next t ∧ Completes s t q 0 ∧
      t.parts = s.parts.set p { partAt s p with entries := n, handleQ := h } ∧ onlyParts s t) ∧
    (∀ c, hostReady s q (.partQuota c) p → quotaRange c → quotaSums s p c → t2Used s p ≤ c.t2 →
      t3Used (partAt s p) ≤ c.t3 → heldFit s p c →
      ∃ t, exec (.partQuota q c) s = .next t ∧ Completes s t q 0 ∧
      t.parts = s.parts.set p { partAt s p with quota := c } ∧ onlyParts s (t.withT1 s.t1))

/-- PART_CREATE makes an UNUSED partition STOPPED with the fields that the command gives, and assigns its groups
(R339, R340). -/
def Obligations.PartCreateCompletes : Prop :=
  ∀ (s : State) (q : QId) (c : PartCreateP), Inv s → s.boot.restT2 → hostReady s q (.partCreate c) c.part →
    (partAt s c.part).st = .unused → c.groups.length ≤ 24 → c.entries ≤ 16384 → c.handles ≤ 4096 →
    quotaRange c.quota → noDup c.groups → (∀ g ∈ c.groups, (groupAt s g).st = .free) → quotaSums s c.part c.quota →
    entrySums s c.part c.entries →
    ∃ t, exec (.partCreate q c) s = .next t ∧ Completes s t q 0 ∧
      partAt t c.part = { Part.unused with
        st := .stopped, groups := c.groups, quota := c.quota, seed := c.seed, seedOn := c.seed, flagmask := c.flagmask,
        entries := c.entries, handleQ := c.handles, watts := 1300 * c.groups.length / 24 } ∧
      (∀ g ∈ c.groups, groupAt t g = ⟨.assigned, c.part⟩) ∧ (∀ g, g ∉ c.groups → groupAt t g = groupAt s g) ∧
      (∀ k, k ≠ c.part.val → partAt t k = partAt s k) ∧ t.tiles = s.tiles ∧ t.t1 = s.t1 ∧ t.t2 = s.t2 ∧
      t.fabric = s.fabric ∧ t.power = s.power ∧ t.boot = s.boot

/-- PART_START and PART_STOP from every state in which they start (R340, R341, R343): a start of a STOPPED partition makes it STARTING with
its seed, of a RUNNING one completes at once, of a STOPPING one makes it PENDING_ENABLE, of a STARTING or PENDING_ENABLE one waits; a stop
of a STOPPED partition completes at once, of a RUNNING one without a campaign makes it STOPPING, of a STARTING or STOPPING one waits, and
of a PENDING_ENABLE one cancels the start, which completes with STOPPED, and makes it STOPPING. That a start of a RUNNING or STOPPING
partition waits instead while a PART_DESTROY waits for the stop is the model's choice (log entry 27). -/
def PartStartStopFromEachState : Prop :=
  ∀ (s : State) (q : QId) (p : Nat), Inv s →
    let x := partAt s p
    let waits (i : Instr) (y : Part) : Prop := ∃ t, exec i s = .next t ∧ t.journal = startedOn s q ∧ t.parts = s.parts.set p y ∧
      t.tiles = s.tiles ∧ t.groups = s.groups ∧ t.t2 = s.t2 ∧ t.t1 = s.t1
    (hostReady s q .partStart p →
      (x.st = .stopped → waits (.partStart q) { x with st := .starting, seedOn := x.seed }) ∧
      (x.st = .running → runsCmd s p isDestroy = false →
        ∃ t, exec (.partStart q) s = .next t ∧ Completes s t q 0 ∧ onlyParts s t ∧ t.parts = s.parts) ∧
      (x.st = .stopping → runsCmd s p isDestroy = false → waits (.partStart q) { x with st := .pendingEnable }) ∧
      (x.st = .running ∨ x.st = .stopping → runsCmd s p isDestroy → exec (.partStart q) s = .next s) ∧
      (x.st = .starting ∨ x.st = .pendingEnable → waits (.partStart q) x)) ∧
    (hostReady s q .partStop p →
      (x.st = .stopped → ∃ t, exec (.partStop q) s = .next t ∧ Completes s t q 0 ∧ onlyParts s t ∧ t.parts = s.parts) ∧
      (x.st = .running → x.camp = none → waits (.partStop q) { x with st := .stopping }) ∧
      (x.st = .starting ∨ x.st = .stopping → waits (.partStop q) x) ∧
      (x.st = .pendingEnable → ∃ t, exec (.partStop q) s = .next t ∧ t.parts = s.parts.set p { x with st := .stopping } ∧
        (∀ r ∈ s.journal, r.st = .started → cmdOf p isStart r → CommittedIn t r 0x0201 s.time.now) ∧
        (headRec t q).map (fun r => (r.st, r.entry.cmd)) = some (.started, .partStop) ∧
        t.tiles = s.tiles ∧ t.groups = s.groups ∧ t.t2 = s.t2 ∧ t.t1 = s.t1))

/-- PART_DESTROY from every state in which it starts, and PART_RECOVER from FAULTED (R340, R341, R344): a STOPPED partition becomes
DESTROYING and its groups drain; a RUNNING one without a campaign and a FAULTED one become STOPPING; a PENDING_ENABLE one becomes STOPPING
and its pending start completes with STOPPED; in STARTING and STOPPING the command waits. PART_RECOVER makes a FAULTED partition STOPPING.
That groups which a GROUP_ADD waits for drain too, and that PART_RECOVER completes at once, is the model's choice (log entry 27). -/
def PartDestroyFromEachState : Prop :=
  ∀ (s : State) (q : QId) (p : Nat), Inv s →
    let x := partAt s p
    let goesOn (t : State) (y : Part) : Prop := t.parts = s.parts.set p y ∧ t.tiles = s.tiles ∧ t.t2 = s.t2 ∧ t.t1 = s.t1
    (hostReady s q .partDestroy p →
      (x.st = .stopped → ∃ t, exec (.partDestroy q) s = .next t ∧ goesOn t { x with st := .destroying, groups := [], wait := [] } ∧
        (∀ g ∈ x.groups ++ x.wait, g < 24 → groupAt t g = ⟨.draining, p⟩) ∧
        (∀ g, g ∉ x.groups ++ x.wait → groupAt t g = groupAt s g) ∧
        ((∀ r ∈ s.journal, r.st = .started → recPart r = p → ∀ gs, r.entry.cmd ≠ .groupAdd gs) → t.journal = startedOn s q)) ∧
      (x.st = .running → x.camp = none → ∃ t, exec (.partDestroy q) s = .next t ∧ t.journal = startedOn s q ∧
        goesOn t { x with st := .stopping } ∧ t.groups = s.groups) ∧
      (x.st = .faulted → ∃ t, exec (.partDestroy q) s = .next t ∧ t.journal = startedOn s q ∧
        goesOn t { x with st := .stopping, fault := none } ∧ t.groups = s.groups) ∧
      (x.st = .pendingEnable → ∃ t, exec (.partDestroy q) s = .next t ∧ goesOn t { x with st := .stopping } ∧
        (∀ r ∈ s.journal, r.st = .started → cmdOf p isStart r → CommittedIn t r 0x0201 s.time.now) ∧
        (headRec t q).map (fun r => (r.st, r.entry.cmd)) = some (.started, .partDestroy) ∧ t.groups = s.groups) ∧
      (x.st = .starting ∨ x.st = .stopping → ∃ t, exec (.partDestroy q) s = .next t ∧ t.journal = startedOn s q ∧
        goesOn t x ∧ t.groups = s.groups)) ∧
    (hostReady s q .partRecover p → x.st = .faulted →
      ∃ t, exec (.partRecover q) s = .next t ∧ Completes s t q 0 ∧ goesOn t { x with st := .stopping, fault := none } ∧
      t.groups = s.groups)

/-- GROUP_ADD of free groups completes with them assigned and the new count in CE.DETAIL; GROUP_REMOVE drains the groups
it names, which leave the partition at once (R342). -/
def Obligations.GroupCommandsComplete : Prop :=
  ∀ (s : State) (q : QId) (p : Nat) (gs : List Nat), Inv s → groupsOpen (partAt s p) → noDup gs →
    (∀ r ∈ s.journal, r.st = .started → recPart r ≠ p) →
    (hostReady s q (.groupAdd gs) p → (∀ g ∈ gs, (groupAt s g).st = .free) →
      ∃ t, exec (.groupAdd q gs) s = .next t ∧
      t.journal = updFirst (startedOn s q) (isHead q) (fun r => { r with
        st := .committed, status := 0, detail := (partAt s p).groups.length + gs.length, tdone := s.time.now }) ∧
      (partAt t p).groups = (partAt s p).groups ++ gs ∧ (∀ g ∈ gs, groupAt t g = ⟨.assigned, p⟩) ∧
      (∀ g, g ∉ gs → groupAt t g = groupAt s g) ∧ t.tiles = s.tiles ∧ t.t2 = s.t2 ∧ t.host = s.host) ∧
    (hostReady s q (.groupRemove gs) p → (∀ g ∈ gs, g ∈ (partAt s p).groups) → (∀ g ∈ gs, g < 24) →
      ∃ t, exec (.groupRemove q gs) s = .next t ∧
      t.journal = completedWith s q 0 ((partAt s p).groups.filter (fun g => !gs.contains g)).length ∧
      (partAt t p).groups = (partAt s p).groups.filter (fun g => !gs.contains g) ∧
      (∀ g ∈ gs, groupAt t g = ⟨.draining, p⟩) ∧ (∀ g, g ∉ gs → groupAt t g = groupAt s g) ∧ t.tiles = s.tiles ∧
      t.t2 = s.t2 ∧ t.host = s.host)

/-- PART_SAVE writes the partition's context image to the buffer, in the address space of its function and PASID, and reports its
length in units of 4 KiB; it changes no partition (R358, R359). PART_RESTORE creates each region of the image with its flags and size,
its pages zero-filled, and opens each saved current publication in T2 as a staging one at its saved epoch; it takes the image's requests
into the new entry numbers, and its variants, handles and drawer counts (R360). That it also takes the seed and the flag mask, and that
entries belong to no turn until the next, is the model's choice (log entry 48). -/
def Obligations.ContextImagesComplete : Prop :=
  ∀ (s : State) (q : QId) (p : Nat) (b : Buf), Inv s → b.refused = false →
    (hostReady s q (.partSave b) p → (partAt s p).st = .stopped → (imageBytes s p (contextImage s p)).length ≤ b.len →
      ∃ t, exec (.partSave q b) s = .next t ∧
      t.journal = completedWith s q 0 ((imageBytes s p (contextImage s p)).length / 4096) ∧
      t.host = memWrite s.host (hostAt (hostSpace q.fn b.pasid.toNat) b.haddr.toNat) (imageBytes s p (contextImage s p)) ∧
      (⟨hostSpace q.fn b.pasid.toNat, b.haddr, contextImage s p⟩ : SavedImg) ∈ t.images ∧
      onlyParts s ((t.withImages s.images).withHost s.host) ∧ t.parts = s.parts) ∧
    (∀ i ids pages, hostReady s q (.partRestore b) p → (partAt s p).st = .stopped → (partAt s p).regions = [] →
      (partAt s p).progs = [] → (partAt s p).reqs = [] → i.format = 1 → i.level = s.boot.level → restoreFits (partAt s p) i →
      noDup (i.regions.map (fun e => e.1)) → ids.length = i.reqs.length → noDup ids →
      (∀ e ∈ ids, e < 16384 ∧ entryTaken s e = false) → goodPlace s (i.regions.map (fun e => restorePages e.2)).sum pages →
      ∃ t, exec (.partRestore q b i ids pages) s = .next t ∧ Completes s t q 0 ∧
      (∀ (k e : Nat) (r : Req), ids[k]? = some e → (i.reqs[k]?).map Prod.snd = some r →
        mapFind (partAt t p).reqs e = some { r with turn := none }) ∧
      (∀ e, e ∉ ids → mapFind (partAt t p).reqs e = none) ∧
      (∀ e ∈ i.regions, ∃ g, regionAt t p e.1 = some g ∧ g.p = e.2.p ∧ g.cur = none ∧ g.old = [] ∧
        (e.2.p.ro = false → g.next = none ∧ g.wpages.length = e.2.p.pages) ∧
        (e.2.p.ro → e.2.p.hostback = true ∨ e.2.cur = none → g.next = none) ∧
        (e.2.p.ro → e.2.p.hostback = false → e.2.cur.isSome → ∃ n, g.next = some n ∧ n.epoch = curEpoch e.2 ∧
          n.pages.length = e.2.p.pages)) ∧
      (∀ r, r ∉ i.regions.map (fun e => e.1) → regionAt t p r = none) ∧
      (∀ a, a / pageSize ∈ pages → memGet t.t2.mem a = 0) ∧
      (∀ a, a / pageSize ∉ pages → memGet t.t2.mem a = memGet s.t2.mem a) ∧ (partAt t p).seed = i.seed ∧
      (partAt t p).seedOn = i.seed ∧ (partAt t p).flagmask = i.flagmask ∧ (partAt t p).reqSeq = i.reqSeq ∧
      (partAt t p).variants = i.variants ∧ (partAt t p).handles = i.handles ∧ (partAt t p).drawers = i.drawers ∧
      (partAt t p).st = .stopped ∧ (∀ k, k ≠ p → partAt t k = partAt s k) ∧ t.tiles = s.tiles ∧ t.host = s.host)

/-- QUEUE_CREATE gives its function the queue that the descriptor describes, empty; QUEUE_DELETE takes one away. No other
queue, no other function and nothing else of the module changes (R330). -/
def QueueCommandsComplete : Prop :=
  ∀ (s : State) (q : QId) (p : Nat), Inv s →
    let x := fnAt s q.fn
    let becomes (i : Instr) (y : Fn) : Prop := ∃ t, exec i s = .next t ∧ Completes s t q 0 ∧ t.fns = s.fns.set q.fn y ∧
      onlyParts s (t.withFns s.fns) ∧ t.parts = s.parts ∧ (∀ f, f ≠ q.fn.val → fnAt t f = fnAt s f)
    (∀ d, hostReady s q (.queueCreate d) p → queueRange d → d.isCQ = true → cqAt s q.fn d.num = none →
      becomes (.queueCreate q d) { x with cqs := x.cqs.set d.num (some ⟨d, 0, 0, none, false⟩) }) ∧
    (∀ d, hostReady s q (.queueCreate d) p → queueRange d → d.isCQ = false → (cqAt s q.fn d.cq).isSome →
      sqAt s q.fn d.num = none →
      becomes (.queueCreate q d) { x with sqs := x.sqs.set d.num (some ⟨d, 0, 0, d.seq0, []⟩) }) ∧
    (∀ n, hostReady s q (.queueDelete n false) p → 1 ≤ n → n ≤ 7 → (∃ y, sqAt s q.fn n = some y ∧ y.buf = []) →
      openOn s q.fn n = false → becomes (.queueDelete q n false) { x with sqs := x.sqs.set n none }) ∧
    (∀ n, hostReady s q (.queueDelete n true) p → 1 ≤ n → n ≤ 7 → (cqAt s q.fn n).isSome →
      (∀ y ∈ x.sqs, ∀ z, y = some z → z.d.cq ≠ n) →
      becomes (.queueDelete q n true) { x with cqs := x.cqs.set n none })

/-! ### Regions, copies, programs -/

/-- Every byte of a list of pages reads 0 in t, and every other byte of module memory as it does in s. -/
def PagesZeroed (s t : State) (pages : List Nat) : Prop :=
  (∀ a, a / pageSize ∈ pages → memGet t.t2.mem a = 0) ∧ (∀ a, a / pageSize ∉ pages → memGet t.t2.mem a = memGet s.t2.mem a)

/-- REGION_CREATE opens a region with its flags, zero-filled pages and no publication, under the number that CE.DETAIL
names; REGION_STAGE opens a staging publication; REGION_ABANDON drops it; the region's current publication stays
(R189, R190, R191, R192). -/
def RegionOpensAndStages : Prop :=
  ∀ (s : State) (q : QId) (p : Nat), Inv s →
    (∀ g id pages, s.boot.restT2 → hostReady s q (.regionCreate g) p → regionFlags s p g →
      (g.ro = false → t2Used s p + g.pages ≤ (partAt s p).quota.t2) →
      (g.pin → pinnedPages (partAt s p) + g.pages + 2 ≤ (partAt s p).quota.t1pages) →
      id ≤ 65534 → regionAt s p id = none → goodPlace s (if g.ro then 0 else g.pages) pages →
      ∃ t, exec (.regionCreate q g id pages) s = .next t ∧ t.journal = completedWith s q 0 id ∧
      regionAt t p id = some ⟨g, pages, none, none, []⟩ ∧ (∀ r, r ≠ id → regionAt t p r = regionAt s p r) ∧
      PagesZeroed s t pages ∧ (∀ k, k ≠ p → partAt t k = partAt s k) ∧ onlyParts s (t.withT2 s.t2)) ∧
    (∀ r g epoch haddr pages, hostReady s q (.regionStage r epoch haddr) p → regionAt s p r = some g → g.p.ro →
      g.next = none → curEpoch g < epoch → epoch < 0xFFFFFFFF →
      (g.p.hostback = false → t2Used s p + g.p.pages ≤ (partAt s p).quota.t2) →
      (g.p.hostback → t3Used (partAt s p) + g.p.pages ≤ (partAt s p).quota.t3) →
      goodPlace s (if g.p.hostback then 0 else g.p.pages) pages →
      ∃ t, exec (.regionStage q r epoch haddr pages) s = .next t ∧ Completes s t q 0 ∧
      (∃ n, regionAt t p r = some { g with next := some ⟨epoch, pages, if g.p.hostback then haddr else 0, [], n⟩ } ∧
        n ≤ g.p.pages) ∧ PagesZeroed s t pages ∧
      (∀ k, k ≠ r → regionAt t p k = regionAt s p k) ∧ onlyParts s ((t.withCtrs s.ctrs).withT2 s.t2)) ∧
    (∀ r g, hostReady s q (.regionAbandon r) p → regionAt s p r = some g → g.next.isSome →
      inSwitch (partAt s p) r = false →
      ∃ t, exec (.regionAbandon q r) s = .next t ∧ Completes s t q 0 ∧ regionAt t p r = some { g with next := none } ∧
      (∀ k, k ≠ r → regionAt t p k = regionAt s p k) ∧ onlyParts s (t.withT2 s.t2))

/-- REGION_PUBLISH makes the staging publication of every listed region its current one, with no staging publication left,
and touches no other region's record (R194). -/
def RegionPublishCompletes : Prop :=
  ∀ (s : State) (q : QId) (p : Nat) (rs : List Nat), Inv s → hostReady s q (.regionPublish rs) p → rs ≠ [] →
    rs.length ≤ 8 → noDup rs → (∀ r ∈ rs, ((regionAt s p r).bind (fun g => g.next)).isSome) →
    (∀ r ∈ rs, inSwitch (partAt s p) r = false) →
    (∀ r ∈ rs, versionsOf (partAt s p) r (((regionAt s p r).map curEpoch).getD 0) = []) →
    ∃ t, exec (.regionPublish q rs) s = .next t ∧ Completes s t q 0 ∧
      (∀ r ∈ rs, ((regionAt t p r).bind (fun g => g.next)) = none ∧
        ((regionAt t p r).bind (fun g => g.cur)).map (fun b => (b.epoch, b.pages, b.haddr)) =
          ((regionAt s p r).bind (fun g => g.next)).map (fun b => (b.epoch, b.pages, b.haddr))) ∧
      (∀ r, r ∉ rs → regionAt t p r = regionAt s p r) ∧ (∀ k, k ≠ p → partAt t k = partAt s k) ∧ t.tiles = s.tiles ∧
      t.host = s.host ∧ t.fabric = s.fabric

/-- REGION_FREE takes a region that nothing names away, with every byte of its pages zeroed and every other byte of module
memory as before (R187, R213). -/
def RegionFreeCompletes : Prop :=
  ∀ (s : State) (q : QId) (p r : Nat) (g : Region), Inv s → hostReady s q (.regionFree r) p → regionAt s p r = some g →
    (∀ e ∈ (partAt s p).progs, progNames e.2 r = false) → ckptNames (partAt s p) r = false →
    ∃ t, exec (.regionFree q r) s = .next t ∧ Completes s t q 0 ∧ regionAt t p r = none ∧
      (∀ k, k ≠ r → regionAt t p k = regionAt s p k) ∧
      PagesZeroed s t (regionPages g ++ (g.old.map (fun b => b.pages)).flatten) ∧
      (∀ k, k ≠ p → partAt t k = partAt s k) ∧ t.tiles = s.tiles ∧ t.host = s.host

/-- REGION_FILL writes byte o mod 8 of the pattern to every byte o of the range, and to no other address of module
memory (R336). -/
def RegionFillWrites : Prop :=
  ∀ (s : State) (q : QId) (p : Nat) (c : FillP) (g : Region), Inv s → hostReady s q (.regionFill c) p →
    regionAt s p c.region = some g → g.p.ro = false → g.wpages.length = g.p.pages → g.wpages.Nodup →
    c.off + c.len ≤ regionSpan g →
    ∃ t, exec (.regionFill q c) s = .next t ∧ Completes s t q 0 ∧
      (∀ k, k < c.len → readByte t g.wpages (c.off + k) =
        BitVec.ofNat 8 (c.pattern.toNat >>> (8 * ((c.off + k) % 8)))) ∧
      (∀ a, (∀ k, k < c.len → pageAddr g.wpages (c.off + k) ≠ some a) → memGet t.t2.mem a = memGet s.t2.mem a) ∧
      t.parts = s.parts ∧ t.host = s.host ∧ t.t1 = s.t1

/-- COPY_IN and COPY_OUT of a range that exists start, and their bytes move later; one of no bytes completes at once
(R335, R336). -/
def CopiesStart : Prop :=
  ∀ (s : State) (q : QId) (p : Nat) (c : CopyP) (g : Region), Inv s → regionAt s p c.region = some g →
    c.off + c.len ≤ regionSpan g →
    (hostReady s q (.copyIn c) p → (copyTarget g c).isSome → c.len ≠ 0 →
      ∃ t, exec (.copyIn q c) s = .next t ∧ t.journal = startedOn s q ∧ t.withJournal s.journal = s) ∧
    (hostReady s q (.copyOut c) p → c.staging = false → copySource g c → c.len ≠ 0 →
      ∃ t, exec (.copyOut q c) s = .next t ∧ t.journal = startedOn s q ∧ t.withJournal s.journal = s) ∧
    (hostReady s q (.copyIn c) p → (copyTarget g c).isSome → c.len = 0 →
      ∃ t, exec (.copyIn q c) s = .next t ∧ t.journal = completedWith s q 0 0 ∧ onlyParts s t ∧ t.parts = s.parts)

/-- HOST_TRANSFER_COMPLETE of the whole of a COPY_IN puts the host's bytes into the region, there and nowhere else, and
completes the command with the length; of the whole of a COPY_OUT it puts the region's bytes into the host buffer
(R335, R336). -/
def CopiesMoveTheirBytes : Prop :=
  ∀ (s : State) (q : QId) (r : JRec) (c : CopyP) (g : Region) (data : List Byte) (t : Word64), Inv s → hubUp s →
    headRec s q = some r → r.st = .started → r.ranges = [] → regionAt s (recPart r) c.region = some g →
    data.length = c.len → 0 < c.len → c.len < 2 ^ 32 → s.time.now.ule t →
    (∀ pages, r.entry.cmd = .copyIn c → copyTarget g c = some pages → c.off + c.len ≤ regionSpan g →
      pages.length = g.p.pages → pages.Nodup →
      ∃ s', exec (.hostTransferComplete (.copy q) 0 data .ok t) s = .next s' ∧
      (∀ k, k < c.len → readByte s' pages (c.off + k) = data.getD k 0) ∧
      (∀ a, (∀ k, k < c.len → pageAddr pages (c.off + k) ≠ some a) → memGet s'.t2.mem a = memGet s.t2.mem a) ∧
      (∃ r', r' ∈ s'.journal ∧ r'.q = q ∧ r'.seq = r.seq ∧ r'.st = .committed ∧ r'.status = 0 ∧ r'.detail = c.len ∧
        r'.tdone = t) ∧ s'.parts = s.parts ∧ s'.host = s.host) ∧
    (r.entry.cmd = .copyOut c → sourcePoison s g c.off c.len = none →
      ∃ s', exec (.hostTransferComplete (.copy q) 0 data .ok t) s = .next s' ∧
      s'.host = memWrite s.host (hostAt q.fn c.haddr.toNat)
        (if g.p.hostback then data else readBytes s (readPages g) c.off c.len) ∧
      (∃ r', r' ∈ s'.journal ∧ r'.q = q ∧ r'.seq = r.seq ∧ r'.st = .committed ∧ r'.status = 0 ∧ r'.detail = c.len ∧
        r'.tdone = t) ∧ s'.parts = s.parts ∧ s'.t2 = s.t2)

/-- PROG_LOAD of an image that meets every condition puts its program into the slot, measured, and says in CE.DETAIL
whether it is in-place; PROG_UNLOAD takes it out (R15, R16, R336, R349). -/
def Obligations.ProgramsLoadAndUnload : Prop :=
  ∀ (s : State) (q : QId) (p : Nat), Inv s →
    (∀ l sec g b, hostReady s q (.progLoad l) p → regionAt s p l.region = some g → l.slot ≤ 63 →
      l.off + l.len ≤ regionSpan g → mapFind (partAt s p).progs l.slot = none →
      (g.p.ro → g.cur.isSome ∧ g.p.hostback = false) → firstPoison s (readPages g) l.off l.len = none →
      b = readBytes s (readPages g) l.off l.len → sectionsOk b → progForm s p l.slot b (progOfImage s p b sec) →
      ∃ t, exec (.progLoad q l sec) s = .next t ∧
      t.journal = completedWith s q 0 (l.slot + 65536 * b2n (inPlace s p sec.extents)) ∧
      mapFind (partAt t p).progs l.slot = some (progOfImage s p b sec) ∧ (progOfImage s p b sec).meas = sha3 b ∧
      (∀ k, k ≠ l.slot → mapFind (partAt t p).progs k = mapFind (partAt s p).progs k) ∧
      (∀ k, k ≠ p → partAt t k = partAt s k) ∧ t.host = s.host ∧ t.fabric = s.fabric ∧
      ((∀ d ∈ (progOfImage s p b sec).colls, d.kind ≠ 4) → onlyParts s t)) ∧
    (∀ slot, hostReady s q (.progUnload slot) p → slot ≤ 63 → (mapFind (partAt s p).progs slot).isSome →
      slotNamed (partAt s p) slot = false →
      ∃ t, exec (.progUnload q slot) s = .next t ∧ Completes s t q 0 ∧ mapFind (partAt t p).progs slot = none ∧
      (∀ k, k ≠ slot → mapFind (partAt t p).progs k = mapFind (partAt s p).progs k) ∧
      (partAt t p).regions = (partAt s p).regions ∧ (∀ k, k ≠ p → partAt t k = partAt s k) ∧ t.t2 = s.t2 ∧
      t.tiles = s.tiles ∧ t.host = s.host)

/-! ### Serving and campaigns -/

/-- REQ_ADMIT puts an accepted request into the entry that CE.DETAIL names, ADMITTED with the fields that the command
carries; REQ_CANCEL marks an open entry; REQ_RELEASE frees one that is DONE or EVICTED (R248, R249, R275, R357). -/
def Obligations.RequestCommandsComplete : Prop :=
  ∀ (s : State) (q : QId) (p : Nat), Inv s →
    (∀ a e drs, hostReady s q (.reqAdmit a) p → admitStatus s p a = 0 → admitChoice s p e a drs →
      ∃ t r, exec (.reqAdmit q a e drs) s = .next t ∧ t.journal = completedWith s q 0 e ∧ reqAt t p e = some r ∧
      r.st = .admitted ∧ r.list = false ∧ r.tag = a.tag ∧ r.plen = a.plen ∧ r.maxgen = a.maxgen ∧ r.clen = 0 ∧
      r.tlen = 0 ∧ r.prio = a.prio ∧ r.deadline = a.deadline ∧ r.outoff = a.outoff ∧ r.proff = a.proff ∧
      r.temp = a.temp ∧ r.topk = a.topk ∧ r.topp = a.topp ∧ r.stops = a.stops ∧ r.seq = (partAt s p).reqSeq ∧
      (partAt t p).reqSeq = (partAt s p).reqSeq + 1 ∧ (∀ k, k ≠ e → reqAt t p k = reqAt s p k) ∧
      (∀ k, k ≠ p → partAt t k = partAt s k) ∧ t.host = s.host ∧ t.fabric = s.fabric) ∧
    (∀ e r, hostReady s q (.reqCancel e) p → e < 16384 → reqAt s p e = some r → reqOpen r →
      ∃ t, exec (.reqCancel q e) s = .next t ∧ Completes s t q 0 ∧ reqAt t p e = some { r with cancel := true } ∧
      (∀ k, k ≠ e → reqAt t p k = reqAt s p k) ∧ onlyParts s t) ∧
    (∀ e r, hostReady s q (.reqRelease e) p → e < 16384 → reqAt s p e = some r → reqOpen r = false →
      ∃ t, exec (.reqRelease q e) s = .next t ∧ Completes s t q 0 ∧ reqAt t p e = none ∧
      (∀ k, k ≠ e → reqAt t p k = reqAt s p k) ∧ (∀ k, k ≠ p → partAt t k = partAt s k) ∧ t.t2 = s.t2 ∧
      t.host = s.host)

/-- PREFIX_CREATE makes a live handle without users over the first positions of an entry, under the number that CE.DETAIL
names; PREFIX_RELEASE of a handle in use only clears PX.LIVE, and of an unused one takes it away (R261, R264). -/
def PrefixCommandsComplete : Prop :=
  ∀ (s : State) (q : QId) (p : Nat), Inv s →
    (∀ e len h drs r, hostReady s q (.prefixCreate e len) p → e < 16384 →
      (partAt s p).handles.length < (partAt s p).handleQ → reqAt s p e = some r → prefixFrom r → len ≠ 0 →
      len ≤ r.klen → mapNeed (prefixEntries r len) ≤ freeCount s p r.dreg →
      copyOver s p r.dreg r.dhead (prefixEntries r len) = false → h < 4096 → mapFind (partAt s p).handles h = none →
      goodDrawers s p r.dreg (mapNeed (prefixEntries r len)) drs →
      ∃ t k, exec (.prefixCreate q e len h drs) s = .next t ∧ t.journal = completedWith s q 0 h ∧
      mapFind (partAt t p).handles h = some k ∧ k.live = true ∧ k.users = 0 ∧ k.len = len ∧ k.ven = r.ven ∧
      k.variant = r.variant ∧ k.version = r.version ∧
      (∀ j, j ≠ h → mapFind (partAt t p).handles j = mapFind (partAt s p).handles j) ∧
      (partAt t p).reqs = (partAt s p).reqs ∧ (∀ j, j ≠ p → partAt t j = partAt s j) ∧ t.host = s.host) ∧
    (∀ h k, hostReady s q (.prefixRelease h) p → mapFind (partAt s p).handles h = some k → k.live →
      (0 < k.users → ∃ t, exec (.prefixRelease q h) s = .next t ∧ Completes s t q 0 ∧
        mapFind (partAt t p).handles h = some { k with live := false } ∧
        (partAt t p).drawers = (partAt s p).drawers ∧ onlyParts s t) ∧
      (k.users = 0 → ∃ t, exec (.prefixRelease q h) s = .next t ∧ Completes s t q 0 ∧
        mapFind (partAt t p).handles h = none ∧
        (∀ j, j ≠ h → mapFind (partAt t p).handles j = mapFind (partAt s p).handles j) ∧ onlyParts s t))

/-- VARIANT_SET gives a variant a new current version at its region's current epoch, without references; the version it had
becomes the previous one while it has references. VARIANT_CLEAR leaves no current version (R267, R268). -/
def VariantCommandsComplete : Prop :=
  ∀ (s : State) (q : QId) (p : Nat), Inv s →
    (∀ ver v g, hostReady s q (.variantSet ver v) p → v.variant < 65536 → ver < 65536 → v.fmt < 2 →
      regionAt s p v.region = some g → g.p.ro → g.cur.isSome →
      ((ventAt (partAt s p) v.variant).cur.map (fun c => c.ver)) ≠ some ver →
      ((ventAt (partAt s p) v.variant).prv.map (fun c => c.ver)) ≠ some ver →
      (∀ c, (ventAt (partAt s p) v.variant).prv = some c → c.refs = 0) →
      ∃ t, exec (.variantSet q ver v) s = .next t ∧ Completes s t q 0 ∧
      (ventAt (partAt t p) v.variant).cur = some ⟨ver, v.region, v.off, curEpoch g, 0⟩ ∧
      (ventAt (partAt t p) v.variant).fmt = v.fmt ∧ (ventAt (partAt t p) v.variant).cls = v.cls ∧
      (∀ c, (ventAt (partAt s p) v.variant).cur = some c → 0 < c.refs →
        (ventAt (partAt t p) v.variant).prv = some c) ∧
      (∀ k, k ≠ v.variant → ventAt (partAt t p) k = ventAt (partAt s p) k) ∧ onlyParts s t) ∧
    (∀ v c, hostReady s q (.variantClear v) p → v < 65536 → (ventAt (partAt s p) v).cur = some c →
      (0 < c.refs → (ventAt (partAt s p) v).prv = none) →
      ∃ t, exec (.variantClear q v) s = .next t ∧ Completes s t q 0 ∧ (ventAt (partAt t p) v).cur = none ∧
      (0 < c.refs → (ventAt (partAt t p) v).prv = some c) ∧
      (∀ k, k ≠ v → ventAt (partAt t p) k = ventAt (partAt s p) k) ∧ onlyParts s t)

/-- CAMPAIGN_START of a campaign with other members starts and waits at the rendezvous, with the SHA3-512 digest of its
descriptor sent to them (R353). CAMPAIGN_STOP without a campaign succeeds at once; with one it starts, and completes with
the campaign: at once where that waits at its rendezvous; in a reward turn in which segments run it only starts, and in one in which none
runs the turn ends at once, its record is due, and the campaign closes with STOPPED and the turn's index (R355). That the words which
members exchange are the running turn's index with 0 in a reward turn is the model's choice (log entry 26). -/
def CampaignCommandsComplete : Prop :=
  ∀ (s : State) (q : QId) (p : Nat), Inv s →
    (∀ c, hostReady s q (.campaignStart c) p → (partAt s p).camp = none →
      fails (campMissing s p c (paramsOf s q)) = false → fails (campOff s p c (paramsOf s q)) = false →
      linksOk s p c → (∃ m ∈ c.positions, m ≠ s.fabric.member) →
      ∃ t k, exec (.campaignStart q c) s = .next t ∧ t.journal = startedOn s q ∧ (partAt t p).camp = some k ∧
      k.p = c ∧ k.q = q ∧ k.phase = .rendezvous ∧ k.digest = sha3 (paramsOf s q) ∧
      k.turnIx = c.fromTurn ∧ k.rdv0 = s.time.now ∧ k.run = none ∧
      (∀ m ∈ c.positions, m ≠ s.fabric.member → ∃ x ∈ t.fabric.out, x.dest = m ∧ x.msg = .digest c.id k.digest) ∧
      (∀ j, j ≠ p → partAt t j = partAt s j) ∧ t.t2 = s.t2 ∧ t.host = s.host ∧ t.tiles = s.tiles) ∧
    (hostReady s q .campaignStop p → (partAt s p).camp = none →
      ∃ t, exec (.campaignStop q) s = .next t ∧ Completes s t q 0 ∧ t.parts = s.parts ∧ t.tiles = s.tiles ∧
      t.host = s.host) ∧
    (∀ c r, hostReady s q .campaignStop p → (partAt s p).camp = some c → c.phase = .rendezvous → c.stop = false →
      c.fin = none → c.due = [] → c.badRec = false → headRec s c.q = some r → r.st = .started →
      ∃ t x y, exec (.campaignStop q) s = .next t ∧ (partAt t p).camp = none ∧ x ∈ t.journal ∧ x.q = c.q ∧ x.seq = r.seq ∧
      x.st = .committed ∧ x.status = 0x0201 ∧ x.detail = c.p.fromTurn ∧ y ∈ t.journal ∧ y.q = q ∧ y.st = .committed ∧
      y.entry.cmd = .campaignStop ∧ y.status = 0 ∧ (∀ j, j ≠ p → partAt t j = partAt s j) ∧ t.tiles = s.tiles ∧
      t.t2 = s.t2) ∧
    (∀ c w r, hostReady s q .campaignStop p → (partAt s p).camp = some c → c.phase = .turn → c.stop = false →
      turnOf (partAt s p) = some w → w.kind = .reward → c.run = some r → r.kind = .reward → r.live ≠ [] →
      turnMet (partAt s p) r w = false →
      ∃ t, exec (.campaignStop q) s = .next t ∧ t.journal = startedOn s q ∧
      (partAt t p).camp = some { c with stop := true, stops := mapPut c.stops s.fabric.member 0 } ∧
      (∀ m ∈ c.p.positions, m ≠ s.fabric.member → boundWith s c m → ∃ x ∈ t.fabric.out, x.dest = m ∧ x.msg = .stop c.p.id c.turnIx 0) ∧
      (∀ j, j ≠ p → partAt t j = partAt s j) ∧ t.tiles = s.tiles ∧ t.t2 = s.t2 ∧ t.host = s.host) ∧
    (∀ c w r, hostReady s q .campaignStop p → (partAt s p).camp = some c → c.phase = .turn → c.stop = false → c.fin = none →
      turnOf (partAt s p) = some w → w.kind = .reward → c.run = some r → r.kind = .reward → r.ended2 = false → r.live = [] →
      turnMet (partAt s p) r w = false → issues s p →
      ∃ t k, exec (.campaignStop q) s = .next t ∧ t.journal = startedOn s q ∧ (partAt t p).camp = some k ∧ k.phase = .closing ∧
      k.fin = some (0x0201, some c.turnIx) ∧ k.due ≠ [] ∧ k.run = none ∧ k.q = c.q ∧
      (∀ j, j ≠ p → partAt t j = partAt s j) ∧ t.tiles = s.tiles ∧ t.t2 = s.t2 ∧ t.host = s.host)

/-- A stop received from a member with which the digest has been exchanged ends a campaign at its rendezvous with STOPPED: the
CAMPAIGN_START completes with 0x0201 and the turn it would have started at, and every member with which the digest has been
exchanged is told (R303, R355). -/
def CampaignStopsAtRendezvous : Prop :=
  ∀ (s : State) (part : Fin 32) (c : Camp) (r : JRec) (m : MsgAt) (turn last : Nat) (t : Word64),
    Inv s → (partAt s part).camp = some c → c.stop = false → c.phase = .rendezvous → c.fin = none → c.due = [] →
    c.badRec = false → (m.frm, m.seq) ∉ s.fabric.seen → boundWith s c m.frm → headRec s c.q = some r → r.st = .started →
    s.time.now.ule t →
    ∃ s' r', exec (.campaignStopReceive part ⟨m, turn, last, t⟩) s = .next s' ∧ (partAt s' part).camp = none ∧ r' ∈ s'.journal ∧
      r'.q = c.q ∧ r'.seq = r.seq ∧ r'.st = .committed ∧ r'.status = 0x0201 ∧ r'.detail = c.p.fromTurn ∧
      (∀ k ∈ c.p.positions, k ≠ s.fabric.member → boundWith s c k →
        ∃ x ∈ s'.fabric.out, x.dest = k ∧ x.msg = .stop c.p.id c.turnIx (stopWord (partAt s part) c)) ∧
      (∀ k, k ≠ part.val → partAt s' k = partAt s k) ∧ s'.tiles = s.tiles ∧ s'.t2 = s.t2


/-- A campaign that has ended closes once its last turn record is in host memory: its CAMPAIGN_START completes with the status and the
detail that its end gave, and the CAMPAIGN_STOP commands that waited for it with success (R352, R354, R355). -/
def CampaignClosesWithItsRecord : Prop :=
  ∀ (s : State) (part : Fin 32) (c : Camp) (x : RecDue) (st d : Nat) (r : JRec) (t : Word64), Inv s → hubUp s →
    (partAt s part).camp = some c → c.due = [x] → c.fin = some (st, some d) → c.badRec = false → headRec s c.q = some r →
    r.st = .started → isCampStop r.entry.cmd = false → s.time.now.ule t →
    ∃ s' y, exec (.hostTransferComplete (.record part) 0 [] .ok t) s = .next s' ∧ (partAt s' part).camp = none ∧
      ((fnAt s 0).even = false → (fnAt s part).even = false →
        s'.host = memWrite s.host (hostAt (hostSpace part c.p.pasid.toNat) x.addr) x.bytes) ∧ y ∈ s'.journal ∧ y.q = c.q ∧
      y.seq = r.seq ∧ y.st = .committed ∧ y.status = st ∧ y.detail = d ∧ y.tdone = t ∧
      (∀ z ∈ s.journal, z.st = .started → cmdOf part isCampStop z → CommittedIn s' z 0 t) ∧
      (∀ k, k ≠ part.val → partAt s' k = partAt s k) ∧ s'.tiles = s.tiles ∧ s'.t2 = s.t2
/-! ### Ports, flits, lanes -/

/-- Everything but the fabric, the journal and the count of free values is as before. -/
def onlyFabric (s t : State) : Prop := ((t.withFabric s.fabric).withJournal s.journal).withFree s.free = s

/-- A port without its traffic: what waits to be sent, what its receive buffers hold, and the credits it owes. -/
def linkOf (x : Port) : Port := { x with tx := [], rxq := [], rx := [], owed := [] }

/-- Every port but one is as before, but for chunks and messages that may now go or come on it (R299, R302). -/
def otherLinks (s t : State) (n : Nat) : Prop := ∀ j, j ≠ n → linkOf (portAt t j) = linkOf (portAt s j)

/-- Every port is as before, but for its traffic. -/
def sameLinks (s t : State) : Prop := ∀ j, linkOf (portAt t j) = linkOf (portAt s j)

/-- PORT_ENABLE of a DISABLED port starts training on a fresh link, PORT_DISABLE of an UP port drains it and of a DOWN or
QUARANTINE port disables it, PORT_HELLO sends the nonce on a port in QUARANTINE, and the hello record where the peer's nonce is
here; the other ports keep their links (R289, R291, R341). That the nonce goes as a message of its own and the record follows the peer's,
and that training begins with a fresh link, is the model's choice (log entries 38, 39). -/
def PortCommandsComplete : Prop :=
  ∀ (s : State) (q : QId) (k n : Nat), Inv s → n < 12 →
    (hostReady s q (.portEnable n) k → (portAt s n).st = .disabled →
      ∃ t, exec (.portEnable q n) s = .next t ∧ Completes s t q 0 ∧ (portAt t n).st = .training ∧
      (portAt t n).credit = [16, 64, 256, 512] ∧ (portAt t n).txSeq = 0 ∧ (portAt t n).rxSeq = 1023 ∧
      otherLinks s t n ∧ t.parts = s.parts ∧ t.tiles = s.tiles ∧ t.t2 = s.t2) ∧
    (hostReady s q (.portDisable n) k → (portAt s n).st = .up →
      ∃ t, exec (.portDisable q n) s = .next t ∧ t.journal = startedOn s q ∧
      linkOf (portAt t n) = linkOf { portAt s n with st := .draining } ∧ otherLinks s t n ∧ t.parts = s.parts ∧
      t.tiles = s.tiles ∧ t.t2 = s.t2) ∧
    (hostReady s q (.portDisable n) k → (portAt s n).st = .down ∨ (portAt s n).st = .quarantine →
      s.fabric.leaving = false → (∀ r ∈ s.journal, r.st ≠ .started) →
      ∃ t, exec (.portDisable q n) s = .next t ∧ Completes s t q 0 ∧ (portAt t n).st = .disabled ∧
      otherLinks s t n ∧ t.parts = s.parts ∧ t.tiles = s.tiles ∧ t.t2 = s.t2) ∧
    (∀ nonce, hostReady s q (.portHello n) k → (portAt s n).st = .quarantine →
      ∃ t, exec (.portHello q n nonce) s = .next t ∧ Completes s t q 0 ∧
      portAt t n = { portAt s n with
        nonce := nonce, helloAt := s.time.now,
        tx := (portAt s n).tx ++ [⟨0, leBytes 32 nonce.toNat, false, false, none, none⟩] ++
          (if (portAt s n).pnonce = 0 then []
            else [⟨0, helloBytes s n (!s.fabric.known.contains (portAt s n).pid), false, false, none, none⟩]) } ∧
      (∀ j, j ≠ n → portAt t j = portAt s j) ∧ onlyFabric s t)

/-- A flit that carries what waits takes one credit of its class, the next sequence number, and a place in the replay buffer;
its 256 bytes leave the port on the lanes of its lane map (R279, R280, R282, R283, R284). The form of its CRC-32C is log entry 24's, and
which class's credits it returns log entry 38's. -/
def FlitTransmitSends : Prop :=
  ∀ (s : State) (port : Fin 12) (beacon : Bool) (bid : Nat) (t : Word64) (i : TxItem), Inv s →
    carries (portAt s port) → (portAt s port).subst = false → bid < 16 → s.time.now.ule t →
    (portAt s port).txNext = (portAt s port).txSeq → (portAt s port).replay.length < 512 →
    pickTx (portAt s port) = some i →
    ∃ s' hdr b, exec (.flitTransmit port beacon bid t) s = .next s' ∧
      (portAt s' port).txSeq = ((portAt s port).txSeq + 1) % 1024 ∧
      (portAt s' port).txNext = ((portAt s port).txSeq + 1) % 1024 ∧
      (portAt s' port).replay = (portAt s port).replay ++ [⟨(portAt s port).txSeq, hdr, i.bytes.take 232,
        if i.bytes.length ≤ 232 ∧ i.more = false then i.buf else none⟩] ∧
      (portAt s' port).credit = (portAt s port).credit.set i.cls ((portAt s port).credit.getD i.cls 0 - 1) ∧
      0 < (portAt s port).credit.getD i.cls 0 ∧ (portAt s' port).wire = onLanes (portAt s port).lmap b ∧ b.length = 256 ∧
      bytesAt b 8 (min 232 i.bytes.length) = i.bytes.take 232 ∧ crcOk b ∧ (portAt s' port).nak = false ∧
      (portAt s' port).st = (portAt s port).st ∧ (∀ j, j ≠ port.val → portAt s' j = portAt s j) ∧
      ((s'.withCtrs s.ctrs).withFabric s.fabric).withTime s.time = s

/-- A flit received whole and in order is taken: its number is the last received, a message's credit is owed back, and the
corrected bytes are counted. One that the error correction or the CRC does not accept is answered with a NAK, and nothing of it
is taken (R280, R283, R284, R287). The form of the CRC-32C is log entry 24's; that a message's credit is owed back at once is log entry
38's. -/
def FlitReceiveTakesInOrder : Prop :=
  ∀ (s : State) (port : Fin 12) (f : Flit) (t : Word64) (raw : List Byte) (h : Nat), Inv s → carries (portAt s port) →
    s.time.now.ule t → raw = fromLanes (portAt s port).lmap f.lanes → h = leNat (f.fixed.take 8) →
    (fecOk raw f.fixed → crcOk f.fixed → (fld h 0 2 = 1 ∨ fld h 0 2 = 2) →
      fld h 2 10 = ((portAt s port).rxSeq + 1) % 1024 → (portAt s port).rxSeq < 1024 →
      bitOf h 22 = false → (portAt s port).fails < 9 → (portAt s port).owed.length = 4 →
      ∃ s', exec (.flitReceive port f t) s = .next s' ∧ (portAt s' port).rxSeq = fld h 2 10 ∧
      (portAt s' port).skip = false ∧
      (portAt s' port).fecsym = min ((portAt s port).fecsym + (fixedAt raw f.fixed).length) 0xFFFFFFFF ∧
      (fld h 41 2 < 2 →
        (portAt s' port).owed.getD (fld h 41 2) 0 = (portAt s port).owed.getD (fld h 41 2) 0 + 1) ∧
      (portAt s' port).st = (portAt s port).st ∧ otherLinks s s' port ∧ s'.tiles = s.tiles ∧ s'.t2 = s.t2) ∧
    (fecOk raw f.fixed = false →
      ∃ s', exec (.flitReceive port f t) s = .next s' ∧ portAt s' port = { portAt s port with nak := true, skip := true } ∧
      (∀ j, j ≠ port.val → portAt s' j = portAt s j) ∧ (s'.withFabric s.fabric).withTime s.time = s) ∧
    (fecOk raw f.fixed → crcOk f.fixed = false →
      ∃ s', exec (.flitReceive port f t) s = .next s' ∧
      portAt s' port = { countFixes (portAt s port) raw f.fixed t with nak := true, skip := true } ∧
      (∀ j, j ≠ port.val → portAt s' j = portAt s j) ∧
      ((s'.withFabric s.fabric).withBoot s.boot).withTime s.time = s)

/-- BEACON_REFLECT puts the id of a received beacon into the flit that starts 40.96 ns later; LANE_SUBSTITUTION takes a lane
without light, or with more than 2^20 corrected bytes in 100 ms, out of a port that has its spare, and its completion gives the
lane's place to the spare, after which flits go again from the first that is not acknowledged (R285, R287, R318). That 40.96 ns are 40 or
41 ns of the timebase, and that each beacon is reflected in its turn, is log entry 38's. -/
def BeaconsAndSpareLanes : Prop :=
  ∀ (s : State) (port : Fin 12) (t : Word64), Inv s → s.time.now.ule t →
    (∀ b, (portAt s port).bref.find? (fun b => decide (b.2 + 40 = t ∨ b.2 + 41 = t)) = some b →
      ∃ s', exec (.beaconReflect port t) s = .next s' ∧
      portAt s' port = { portAt s port with bref := (portAt s port).bref.erase b, bout := b.1 } ∧
      (∀ j, j ≠ port.val → portAt s' j = portAt s j) ∧ (s'.withFabric s.fabric).withTime s.time = s) ∧
    (∀ lane : Fin 9, carries (portAt s port) → (portAt s port).out = 15 → laneBad (portAt s port) lane t →
      laneBad (portAt s port) 8 t = false → lane.val ≠ 8 →
      ∃ s', exec (.laneSubstitution port lane t) s = .next s' ∧
      portAt s' port = { portAt s port with subst := true, out := lane } ∧
      (∀ j, j ≠ port.val → portAt s' j = portAt s j) ∧ (s'.withFabric s.fabric).withTime s.time = s) ∧
    ((portAt s port).subst →
      ∃ s', exec (.laneSubstitutionComplete port t) s = .next s' ∧ portAt s' port = { portAt s port with
        subst := false, lmap := (portAt s port).lmap.map (fun l => if l = (portAt s port).out then 8 else l),
        txNext := (((portAt s port).replay.head?).map (fun f => f.seq)).getD (portAt s port).txNext } ∧
      (∀ j, j ≠ port.val → portAt s' j = portAt s j) ∧ s'.parts = s.parts ∧ s'.tiles = s.tiles ∧ s'.t2 = s.t2)

/-- The lanes of a port that have light, after those that a row names have it again and those that it names have lost it. -/
def lightAfter (x : Port) (l : LightOf) : NSet :=
  l.dark.foldl (fun m k => setPut m k false) ((l.lit.filter (fun k => decide (k < 9))).foldl (fun m k => setPut m k true) x.lit)

/-- A port that keeps light on eight lanes stays in its state, whatever that is; an UP port that does not goes DOWN. The first failure of
a laser unit is only counted; the second takes its three UP ports DOWN (R287, R288, R289, R290). That the row also tells of lanes that
have light again is the model's choice (log entry 23). -/
def LightAndLasers : Prop :=
  ∀ (s : State) (t : Word64), Inv s → s.time.now.ule t →
    (∀ (port : Fin 12) (l : LightOf), l.dark ≠ [] ∨ l.lit ≠ [] →
      l.dark = [] ∨ litOk { portAt s port with lit := lightAfter (portAt s port) l } →
      ∃ s', exec (.lightLoss port l t) s = .next s' ∧ portAt s' port = { portAt s port with
        lit := lightAfter (portAt s port) l,
        litAt := if decide (8 ≤ (portAt s port).lit.length) = decide (8 ≤ (lightAfter (portAt s port) l).length) then
          (portAt s port).litAt else t } ∧
      (∀ j, j ≠ port.val → portAt s' j = portAt s j) ∧ (s'.withFabric s.fabric).withTime s.time = s) ∧
    (∀ (port : Fin 12) (l : LightOf), (portAt s port).st = .up → l.dark ≠ [] →
      litOk { portAt s port with lit := lightAfter (portAt s port) l } = false →
      ∃ s', exec (.lightLoss port l t) s = .next s' ∧ (portAt s' port).st = .down ∧ (portAt s' port).cls = 0 ∧
      (portAt s' port).replay = [] ∧ (∀ j, j ≠ port.val → (portAt s' j).st = (portAt s j).st)) ∧
    (∀ unit : Fin 4, s.fabric.lasers.length = 4 → s.fabric.lasers.getD unit 0 = 0 →
      ∃ s', exec (.laserFailure unit t) s = .next s' ∧ s'.fabric.lasers = s.fabric.lasers.set unit 1 ∧
      s'.fabric.ports = s.fabric.ports ∧ s'.parts = s.parts ∧ s'.tiles = s.tiles) ∧
    (∀ unit : Fin 4, 0 < s.fabric.lasers.getD unit 0 →
      (∀ j, j < 3 → (portAt s (3 * unit.val + j)).st = .up) →
      ∃ s', exec (.laserFailure unit t) s = .next s' ∧ (∀ j, j < 3 → (portAt s' (3 * unit.val + j)).st = .down) ∧
      (∀ n, n / 3 ≠ unit.val → (portAt s' n).st = (portAt s n).st))

/-- A DOWN port with light for 1 s trains; training that succeeds leads to HELLO with a nonce sent, and training that fails to
DOWN; a QUARANTINE port sends its hello again after 10 s; a port that has drained becomes DISABLED (R289, R291). -/
def PortStatesMove : Prop :=
  ∀ (s : State) (port : Fin 12) (t : Word64), Inv s → s.time.now.ule t →
    (∀ lit, (portAt s port).st = .down → (portAt s port).litAt.toNat + 1000000000 ≤ t.toNat → 8 ≤ (laneSet lit).length →
      s.fabric.leaving = false → portWaits s (.portDisable port) = false →
      ∃ s', exec (.portRetrain port ⟨lit, t⟩) s = .next s' ∧ (portAt s' port).st = .training ∧
      (portAt s' port).lit = laneSet lit ∧ otherLinks s s' port ∧ s'.parts = s.parts) ∧
    (∀ lit nonce, (portAt s port).st = .training →
      ∃ s', exec (.trainingComplete port ⟨true, lit⟩ nonce t) s = .next s' ∧ (portAt s' port).st = .hello ∧
      (portAt s' port).nonce = nonce ∧ (portAt s' port).lit = laneSet lit ∧
      (∃ x ∈ (portAt s' port).tx, x.cls = 0 ∧ x.bytes = leBytes 32 nonce.toNat) ∧ otherLinks s s' port) ∧
    (∀ lit nonce, (portAt s port).st = .training →
      ∃ s', exec (.trainingComplete port ⟨false, lit⟩ nonce t) s = .next s' ∧ (portAt s' port).st = .down) ∧
    (∀ nonce, (portAt s port).st = .quarantine → (portAt s port).helloAt.toNat + 10000000000 ≤ t.toNat →
      ∃ s', exec (.quarantineRehello port nonce t) s = .next s' ∧ (portAt s' port).st = .quarantine ∧
      (portAt s' port).nonce = nonce ∧ (portAt s' port).helloAt = t ∧
      (∃ x ∈ (portAt s' port).tx, x.cls = 0 ∧ x.bytes = leBytes 32 nonce.toNat) ∧
      (∀ j, j ≠ port.val → portAt s' j = portAt s j)) ∧
    ((portAt s port).st = .draining → drained s port →
      ∃ s', exec (.portDrained port t) s = .next s' ∧ (portAt s' port).st = .disabled ∧ otherLinks s s' port)

/-- A hello that passes, with the round trips of 64 beacons measured, brings the port UP with the class of the largest and the
peer's number; one that does not pass quarantines it (R289, R291, R292). -/
def HelloDecidesThePort : Prop :=
  ∀ (s : State) (port : Fin 12) (h : HelloP) (t : Word64), Inv s → s.time.now.ule t →
    (portAt s port).st = .hello ∨ (portAt s port).st = .quarantine →
    (helloOk s (portAt s port) h → 64 ≤ (portAt s port).rtts.length →
      ∃ s', exec (.helloReceive port h t) s = .next s' ∧ (portAt s' port).st = .up ∧
      (portAt s' port).pid = h.idhash ∧ (portAt s' port).cls = linkClass (portAt s' port).rtt ∧
      (portAt s' port).rtt = min ((portAt s port).rtts.foldl max 0) (2 ^ 20 - 1) ∧
      (grouped s = false → (portAt s' port).peer = peerNumber s h ∧ otherLinks s s' port)) ∧
    (helloOk s (portAt s port) h = false →
      ∃ s', exec (.helloReceive port h t) s = .next s' ∧ (portAt s' port).st = .quarantine ∧ (portAt s' port).helloAt = t ∧
      otherLinks s s' port)

/-! ### Membership -/

/-- GROUP_ID stores the group id; GROUP_FOUND makes an ungrouped module member 0 and leader of epoch 1; GROUP_LEAVE drains
every UP port (R293, R294, R295). -/
def GroupMembershipCommands : Prop :=
  ∀ (s : State) (q : QId) (k : Nat), Inv s →
    (∀ g, hostReady s q (.groupId g) k →
      ∃ t, exec (.groupId q g) s = .next t ∧ Completes s t q 0 ∧ t.fabric = { s.fabric with group := g } ∧ onlyFabric s t) ∧
    (hostReady s q .groupFound k → grouped s = false → s.fabric.group ≠ 0 →
      ∃ t, exec (.groupFound q) s = .next t ∧ Completes s t q 0 ∧ t.fabric.epoch = 1 ∧ t.fabric.member = 0 ∧
      t.fabric.members = [(0, s.boot.certId)] ∧ t.fabric.leader = 0 ∧ t.fabric.isolated = false ∧
      t.fabric.group = s.fabric.group) ∧
    (hostReady s q .groupLeave k → grouped s → (∃ n, n < 12 ∧ (portAt s n).st = .up) →
      (∀ n, (portAt s n).st ≠ .pendingEnable) →
      ∃ t, exec (.groupLeave q) s = .next t ∧ t.journal = startedOn s q ∧ t.fabric.leaving = true ∧
      (∀ n, (portAt s n).st = .up → linkOf (portAt t n) = linkOf { portAt s n with st := .draining }) ∧
      (∀ n, (portAt s n).st ≠ .up → linkOf (portAt t n) = linkOf (portAt s n)) ∧ t.fabric.epoch = s.fabric.epoch ∧
      t.fabric.members = s.fabric.members ∧ t.parts = s.parts)

/-- A join request reaches the leader: a member passes it on, and the leader keeps it for the next epoch (R293). A proposal
of the next epoch is acknowledged once; the leader's proposal takes effect with a majority of acknowledgments, and its commit goes to every
member that leaves and to every member of the new epoch, those that join among them (R293, R294). That the commit tells of the links that
its sender knows is the model's choice (log entry 23). -/
def EpochsFormByMajority : Prop :=
  ∀ (s : State) (m : MsgAt) (t : Word64), Inv s → s.time.now.ule t → grouped s → s.fabric.isolated = false →
    (m.frm, m.seq) ∉ s.fabric.seen →
    (∀ id, (∀ e ∈ s.fabric.members, e.2 ≠ id) → s.fabric.leader ≠ s.fabric.member →
      ∃ s', exec (.joinRequest ⟨m, id⟩ t) s = .next s' ∧
      s'.fabric.out = s.fabric.out ++ [⟨s.fabric.leader, mapGet 0 s.fabric.seqs s.fabric.leader, t, .join id⟩] ∧
      s'.fabric.members = s.fabric.members ∧ sameLinks s s' ∧ s'.parts = s.parts) ∧
    (∀ id, (∀ e ∈ s.fabric.members, e.2 ≠ id) → s.fabric.leader = s.fabric.member → s.fabric.prop.isSome →
      ∃ s', exec (.joinRequest ⟨m, id⟩ t) s = .next s' ∧ id ∈ s'.fabric.joins ∧ s'.fabric.members = s.fabric.members ∧
      s'.parts = s.parts) ∧
    (∀ l, s.fabric.prop = none → isMember s m.frm →
      ∃ s', exec (.epochProposalReceive m (s.fabric.epoch + 1) l t) s = .next s' ∧
      s'.fabric.prop = some (s.fabric.epoch + 1, l) ∧
      s'.fabric.out = s.fabric.out ++ [⟨m.frm, mapGet 0 s.fabric.seqs m.frm, t, .ack (s.fabric.epoch + 1)⟩] ∧
      s'.fabric.epoch = s.fabric.epoch ∧ s'.fabric.members = s.fabric.members ∧ s'.parts = s.parts) ∧
    (∀ l, s.fabric.prop = some (s.fabric.epoch + 1, l) → s.fabric.acks ≠ [] → isMember s m.frm →
      (majority s (setPut s.fabric.acks m.frm true).length → (∀ i ∈ s.fabric.joins, ∃ e ∈ l, e.2 = i) →
        (∀ x ∈ s.fabric.leaves, ∀ e ∈ l, e.1 ≠ x.1) →
        l.find? (fun e => decide (e.2 = s.boot.certId)) = some (s.fabric.member, s.boot.certId) →
        ∃ s', exec (.epochAckReceive m (s.fabric.epoch + 1) t) s = .next s' ∧ s'.fabric.epoch = s.fabric.epoch + 1 ∧
        s'.fabric.members = l ∧ (∀ k, isMember s k ∨ (∃ e ∈ l, e.1 = k) → k ≠ s.fabric.member → ∃ x ∈ s'.fabric.out, x.dest = k ∧
          x.msg = .epochCommit (s.fabric.epoch + 1) l (groupLinks s))) ∧
      (majority s (setPut s.fabric.acks m.frm true).length = false →
        ∃ s', exec (.epochAckReceive m (s.fabric.epoch + 1) t) s = .next s' ∧
        s'.fabric.acks = setPut s.fabric.acks m.frm true ∧ s'.fabric.epoch = s.fabric.epoch ∧
        s'.fabric.members = s.fabric.members ∧ (s'.withFabric s.fabric).withTime s.time = s)) ∧
    (∀ l links, (∀ i ∈ s.fabric.joins, ∃ e ∈ l, e.2 = i) → (∀ x ∈ s.fabric.leaves, ∀ e ∈ l, e.1 ≠ x.1) →
      ∃ s', exec (.epochCommitReceive ⟨m, s.fabric.epoch + 1⟩ l links t) s = .next s' ∧
      s'.fabric.epoch = s.fabric.epoch + 1 ∧ s'.fabric.members = l ∧ s'.fabric.links = links ∧ s'.fabric.prop = none)

/-- Every member sends the leader a heartbeat each 1 ms, and the leader notes when it came. The leader removes a member at the next
epoch after 10 ms without its heartbeat, at once when no route to it remains, or on its leave, and otherwise not; where a proposal is
open, in the one after it. GROUP_LEAVE asks for that leave once no port of the module drains any more (R295). -/
def Obligations.MembershipKeepsWatch : Prop :=
  ∀ (s : State) (t : Word64), Inv s → s.time.now.ule t → grouped s → s.fabric.isolated = false →
    (s.fabric.hbAt.toNat + 1000000 ≤ t.toNat → s.fabric.leader ≠ s.fabric.member →
      ∃ s' links, exec (.heartbeatSend t) s = .next s' ∧ s'.fabric.hbAt = t ∧ s'.fabric.out = s.fabric.out ++
        [⟨s.fabric.leader, mapGet 0 s.fabric.seqs s.fabric.leader, t, .heartbeat links⟩] ∧ sameLinks s s' ∧
        (s'.withFabric s.fabric).withTime s.time = s) ∧
    (∀ (m : MsgAt) links, isMember s m.frm → (m.frm, m.seq) ∉ s.fabric.seen →
      ∃ s', exec (.heartbeatReceive ⟨m, links⟩ t) s = .next s' ∧ mapGet 0 s'.fabric.heard m.frm = t ∧
      (∀ j, j ≠ m.frm → mapGet 0 s'.fabric.heard j = mapGet 0 s.fabric.heard j) ∧ s'.parts = s.parts ∧ s'.tiles = s.tiles ∧
      s'.t2 = s.t2) ∧
    (∀ m leave, s.fabric.leader = s.fabric.member → m ≠ s.fabric.member → isMember s m →
      let due := (mapGet 0 s.fabric.heard m).toNat + 10000000 ≤ t.toNat ∨ (∀ r ∈ s.fabric.routes, r.1 ≠ m) ∨ leave = true
      (due → s.fabric.prop = none → s.fabric.joins = [] → 2 ≤ s.fabric.members.length →
        ∃ s' l, exec (.memberSilent ⟨m, leave⟩ t) s = .next s' ∧ s'.fabric.prop = some (s.fabric.epoch + 1, l) ∧
        (∀ e ∈ l, e.1 ≠ m) ∧ (∃ x ∈ s'.fabric.out, x.msg = .proposal (s.fabric.epoch + 1) l) ∧
        s'.fabric.members = s.fabric.members ∧ s'.parts = s.parts) ∧
      (due → s.fabric.prop.isSome →
        ∃ s', exec (.memberSilent ⟨m, leave⟩ t) s = .next s' ∧ setHas s'.fabric.leaves m ∧ s'.fabric.prop = s.fabric.prop ∧
        (s'.withFabric s.fabric).withTime s.time = s) ∧
      (¬ due → exec (.memberSilent ⟨m, leave⟩ t) s = .next s)) ∧
    (∀ n : Fin 12, s.fabric.leaving → s.fabric.leader ≠ s.fabric.member → (portAt s n).st = .draining → drained s n →
      ((∀ k, k < 12 → k ≠ n.val → drains (portAt s k) = false) →
        ∃ s', exec (.portDrained n t) s = .next s' ∧ (portAt s' n).st = .disabled ∧ s'.fabric.leaving = false ∧
        s'.fabric.member = noMember ∧ ∃ x ∈ s'.fabric.out, x.dest = s.fabric.leader ∧ x.msg = .leave) ∧
      ((∃ k, k < 12 ∧ k ≠ n.val ∧ drains (portAt s k)) →
        ∃ s', exec (.portDrained n t) s = .next s' ∧ s'.fabric.leaving ∧ s'.fabric.member = s.fabric.member ∧
        s'.fabric.out = s.fabric.out))

/-- The leader's heartbeat goes to every member. A heartbeat tells of links: the leader's of the group's, another member's of its own, from
which routes follow; that is the model's choice (log entry 23). The next-lowest member that is reached leads after the leader's silence,
and keeps the proposal that it has acknowledged (R318), as log entry 23 has it; a minority is isolated after 20 ms; a message that its
receiver has acknowledged is over, and one that it has not is sent again after 1 ms (R294, R298). -/
def LeadersAndMessages : Prop :=
  ∀ (s : State) (t : Word64), Inv s → s.time.now.ule t → grouped s → s.fabric.isolated = false →
    (s.fabric.hbAt.toNat + 1000000 ≤ t.toNat →
      ∃ s', exec (.heartbeatSend t) s = .next s' ∧
      (s.fabric.leader ≠ s.fabric.member → s'.fabric.out = s.fabric.out ++
        [⟨s.fabric.leader, mapGet 0 s.fabric.seqs s.fabric.leader, t, .heartbeat (ownLinks s)⟩]) ∧
      (s.fabric.leader = s.fabric.member → ∀ k, isMember s k → k ≠ s.fabric.member →
        ∃ x ∈ s'.fabric.out, x.dest = k ∧ x.at_ = t ∧ x.msg = .heartbeat (groupLinks s))) ∧
    (∀ (m : MsgAt) links, isMember s m.frm → (m.frm, m.seq) ∉ s.fabric.seen →
      ∃ s', exec (.heartbeatReceive ⟨m, links⟩ t) s = .next s' ∧
      s'.fabric.links = (if m.frm = s.fabric.leader then links
        else s.fabric.links.filter (fun k => decide (k.a ≠ m.frm)) ++ links.filter (fun k => decide (k.a = m.frm))) ∧
      (s'.fabric.links = s.fabric.links → (s'.withFabric s.fabric).withTime s.time = s)) ∧
    (∀ reach, s.fabric.leader ≠ s.fabric.member → s.fabric.leaderHeard.toNat + 10000000 ≤ t.toNat →
      (∀ m ∈ reach, m ≠ s.fabric.leader → isMember s m → s.fabric.member < m) → s.fabric.member < noMember →
      2 ≤ s.fabric.members.length → ∃ s', exec (.leaderLoss reach t) s = .next s' ∧ s'.fabric.leader = s.fabric.member ∧
        (s.fabric.prop.isSome → s'.fabric.prop = s.fabric.prop)) ∧
    (∀ reach lost, majority s (reached s reach).length = false → lost.toNat + 20000000 ≤ t.toNat →
      (∀ m, isMember s m → m ∉ reached s reach → (mapGet 0 s.fabric.heard m).toNat ≤ lost.toNat) →
      ∃ s', exec (.isolation reach ⟨lost, t⟩) s = .next s' ∧ s'.fabric.isolated = true ∧ s'.fabric.epoch = s.fabric.epoch ∧
      s'.fabric.members = s.fabric.members) ∧
    (∀ x, s.fabric.out.find? (fun m => decide (m.dest = x.dest) && decide (m.num = x.num)) = some x →
      (∃ s', exec (.messageResend ⟨x.dest, x.num, true⟩ t) s = .next s' ∧ s'.fabric.out = s.fabric.out.erase x ∧
        (s'.withFabric s.fabric).withTime s.time = s) ∧
      (x.at_.toNat + 1000000 ≤ t.toNat →
        ∃ s', exec (.messageResend ⟨x.dest, x.num, false⟩ t) s = .next s' ∧
        s'.fabric.out = s.fabric.out.map (fun y => if y = x then { y with at_ := t } else y) ∧ sameLinks s s' ∧
        (s'.withFabric s.fabric).withTime s.time = s))

/-! ### Power, brakes, sensors, time -/

/-- GEAR_LIMIT and ENERGY_BUDGET set the limit and the budget of the partition that they name and report the old value;
the balance is clamped to the new budget (R367, R368, R390). -/
def LimitsAndBudgets : Prop :=
  ∀ (s : State) (q : QId) (k : Nat) (part : Fin 32), Inv s → (partAt s part).st ≠ .unused →
    (∀ g, hostReady s q (.gearLimit part g) k → g ≤ 7 →
      ∃ t, exec (.gearLimit q part g) s = .next t ∧ t.journal = completedWith s q 0 (partAt s part).gearMax ∧
      t.parts = s.parts.set part { partAt s part with gearMax := g } ∧ onlyParts s t) ∧
    (∀ w, hostReady s q (.energyBudget part w) k → w ≤ 65535 →
      ((List.range 32).map (fun j => if j = part.val then w else (partAt s j).watts)).sum ≤ 1300 →
      ∃ t, exec (.energyBudget q part w) s = .next t ∧ t.journal = completedWith s q 0 (partAt s part).watts ∧
      t.parts = s.parts.set part { partAt s part with watts := w, bal := min (partAt s part).bal (w * 1024000 : Nat) } ∧
      onlyParts s t)

/-- POWER_LEVEL writes its completion entry with the old level and then enters the level; PL1 to PL3 reset every tile, PL1
keeps its T0, PL2 and PL3 do not, and PL3 empties T1 (R365, R366). -/
def PowerLevelEnters : Prop :=
  ∀ (s : State) (q : QId) (k l : Nat) (r : JRec), Inv s → hostReady s q (.powerLevel l) k → headRec s q = some r →
    l ≤ 3 → levelOk s l →
    (l ≠ 0 → allPosted (postAll (done s q s.power.level) q.fn r.cq (done s q s.power.level).journal.length) q) →
    ∃ t r', exec (.powerLevel q l) s = .next t ∧ t.power.level = l ∧ r' ∈ t.journal ∧ r'.q = q ∧ r'.seq = r.seq ∧
      r'.status = 0 ∧ r'.detail = s.power.level ∧ (l ≠ 0 → r'.st = .posted) ∧ t.parts = s.parts ∧ t.t2 = s.t2 ∧
      (l = 0 → t.tiles = s.tiles) ∧ (1 ≤ l → ∀ n, (tileRaw t n).sregs = [] ∧ (tileRaw t n).tregs = [] ∧
        (tileRaw t n).sems = []) ∧
      (l = 1 → ∀ n, (tileRaw t n).t0 = (tileRaw s n).t0) ∧ (2 ≤ l → ∀ n, (tileRaw t n).t0 = []) ∧
      (l = 3 → t.t1.frames = []) ∧ (l ≤ 2 → s.power.level = 0 → t.t1 = s.t1)

/-- A power brake, from the pin or from BRAKE_TEST, takes every tile that runs a segment to G1 while its segment keeps the gear that it
holds, adds one to the brake counter of class 7, and raises alert flag 0. When the last source ends, each tile returns to the gear that its
segment held, and a tile without one is at G0; a test lasts the time that it names (R364, R373, R374, R385). The gear held falls with the
lowest cap of the segment's groups and does not rise with it, and the counter's number, are log entries 33 and 7. -/
def Obligations.BrakesHold : Prop :=
  ∀ (s : State), Inv s →
    let brakes (s' : State) : Prop := braked s'.power ∧
      mapGet 0 s'.ctrs (ctrKey 0 7 0 cBrake) = mapGet 0 s.ctrs (ctrKey 0 7 0 cBrake) + 1 ∧
      (∀ n r, (tileRaw s n).seg = some r → (tileRaw s' n).gear = 1 ∧
        (tileRaw s' n).seg.map (fun x => (x.seg, x.step, x.gear)) = some (r.seg, r.step, min r.gear (tileCap s n r.seg))) ∧
      (∀ n, (tileRaw s n).seg = none → (tileRaw s' n).seg = none ∧ (tileRaw s' n).gear = 0) ∧ s'.io.alerts.getLsbD 0 ∧
      s'.parts = s.parts ∧ s'.t2 = s.t2
    let frees (s' : State) : Prop :=
      (∀ n r, (tileRaw s n).seg = some r →
        (tileRaw s' n).gear = (if braked s'.power then 1 else min r.gear (tileCap s n r.seg))) ∧
      (∀ n, (tileRaw s n).seg = none → (tileRaw s' n).gear = 0) ∧
      mapGet 0 s'.ctrs (ctrKey 0 7 0 cBrake) = mapGet 0 s.ctrs (ctrKey 0 7 0 cBrake) ∧ s'.parts = s.parts ∧ s'.t2 = s.t2
    (∀ ns t, 10 ≤ ns → distaffUp s → s.io.perst = false → s.power.brakePin = false → s.time.now.ule t →
      ∃ s', exec (.pwrbrkAssert ns t) s = .next s' ∧ s'.power = { s.power with brakePin := true } ∧ brakes s') ∧
    (∀ t, s.power.brakePin → s.time.now.ule t →
      ∃ s', exec (.pwrbrkRelease t) s = .next s' ∧ s'.power = { s.power with brakePin := false } ∧ frees s') ∧
    (∀ q k us, hostReady s q (.brakeTest us) k → 1 ≤ us → us ≤ 1000 →
      ∃ s' x, exec (.brakeTest q us) s = .next s' ∧ s'.journal = startedOn s q ∧
      s'.power = { s.power with brakeTest := some x } ∧ brakes s' ∧ (s.time.now + BitVec.ofNat 64 (1000 * us)).ule x ∧
      (s.power.brakeTest = none → x = s.time.now + BitVec.ofNat 64 (1000 * us))) ∧
    (∀ q k us, hostReady s q (.brakeTest us) k → us = 0 ∨ 1000 < us →
      ∃ s', exec (.brakeTest q us) s = .next s' ∧ Completes s s' q 0x0103 ∧ s'.power = s.power ∧ s'.tiles = s.tiles ∧
      s'.ctrs = s.ctrs) ∧
    (∀ t x, s.power.brakeTest = some x → x.ule t → s.time.now.ule t →
      ∃ s' d, exec (.brakeTestEnd t) s = .next s' ∧ s'.power.brakeTest = none ∧
      s'.power.brakePin = s.power.brakePin ∧ d < 2 ^ 24 ∧ frees s' ∧
      s'.journal = s.journal.map (fun r => if r.st = .started ∧ isBrakeTest r.entry.cmd then
        { r with st := .committed, status := 0, detail := d, tdone := t } else r))

/-- SENSOR_SAMPLE takes the median of the last three samples of each member of a pair and the higher one of the two, filters it fast and
slow (R375), adds the energy that the input pair's fast current delivers in 10 µs at the sampled voltage, in µJ, and builds a new shadow
block (R380). That the filters are exact is log entry 41. -/
def SensorsAreSampled : Prop :=
  ∀ (s : State) (xs : List PairSample) (mv : Nat) (t : Word64), Inv s → distaffUp s → xs.length = 64 → s.time.now.ule t →
    ∃ s', exec (.sensorSample xs mv t) s = .next s' ∧ s'.power.mv = mv ∧ s'.power.sensors.length = 64 ∧
      (∀ n, n < 64 → ∃ (x : PairSample) (v : Int), xs[n]? = some x ∧
        v = (match pushSample (sensorAt s n).a x.a, pushSample (sensorAt s n).b x.b with
          | [], [] => failedValue n
          | [], b => median3 b
          | a, [] => median3 a
          | a, b => max (median3 a) (median3 b)) ∧
        (sensorAt s' n).fast = (sensorAt s n).fast + ((v : Rat) - (sensorAt s n).fast) / 4 ∧
        (sensorAt s' n).slow = (sensorAt s n).slow + ((v : Rat) - (sensorAt s n).slow) / 256 ∧
        (sensorAt s' n).degraded = ((sensorAt s n).degraded || decide (100 ≤ (sensorAt s' n).apart))) ∧
      s'.power.energy = s.power.energy + ((sensorAt s' 63).fast * mv / 800).floor.toNat ∧ s'.io.shadow = shadowBlock s'

/-- GEAR_CAP_STEP lowers the cap of every group over its heat limit by one each 100 µs, and raises one that is not by one each
1 ms, up to G7 (R376). -/
def GearCapsStep : Prop :=
  ∀ (s : State) (t : Word64), Inv s → distaffUp s → s.time.now.ule t → s.power.caps.length = 24 →
    (∀ c ∈ s.power.caps, c ≤ 7) →
    (s.power.capStep.toNat + 100000 ≤ t.toNat → s.power.capRise.toNat + 1000000 ≤ t.toNat →
      ∃ s', exec (.gearCapStep t) s = .next s' ∧ s'.power.capStep = t ∧ s'.power.capRise = t ∧
      ∀ g, g < 24 → s'.power.caps.getD g 7 = (if setHas s.power.limHeat g then s.power.caps.getD g 7 - 1
        else min 7 (s.power.caps.getD g 7 + 1))) ∧
    (s.power.capStep.toNat + 100000 ≤ t.toNat → t.toNat < s.power.capRise.toNat + 1000000 →
      ∃ s', exec (.gearCapStep t) s = .next s' ∧ s'.power.capStep = t ∧ s'.power.capRise = s.power.capRise ∧
      ∀ g, g < 24 → s'.power.caps.getD g 7 = (if setHas s.power.limHeat g then s.power.caps.getD g 7 - 1
        else s.power.caps.getD g 7))

/-- TB_SYNC_OUT pulses once at each multiple of 1,000,000 ns, and the pulses that TB_SYNC_IN has missed by then are counted, four of them
unlocking it. A pulse on TB_SYNC_IN that misses a multiple by more than 1 µs is counted and ignored; a locked module that is alone or its
group's time master slews to a good one and reports the phase (R383, R384, R419). When missing pulses are counted, and the counters'
numbers, are log entries 42 and 7. -/
def Obligations.TimebasePulses : Prop :=
  ∀ (s : State) (t : Word64), Inv s → s.time.now.ule t →
    (t.toNat % 1000000 = 0 → s.time.outMs < t.toNat / 1000000 →
      ∃ s', exec (.tbSyncOutPulse t) s = .next s' ∧ s'.time.outMs = t.toNat / 1000000 ∧ s'.time.now = t ∧
      (s'.withTime s.time).withCtrs s.ctrs = s ∧
      (s.time.inMs = 0 ∨ t.toNat / 1000000 - 1 ≤ s.time.inMs → s'.ctrs = s.ctrs ∧ s'.time.inLocked = s.time.inLocked) ∧
      (s.time.inMs ≠ 0 → s.time.inMs < t.toNat / 1000000 - 1 →
        mapGet 0 s'.ctrs (ctrKey 0 8 0 cPulse) =
          mapGet 0 s.ctrs (ctrKey 0 8 0 cPulse) + BitVec.ofNat 64 (t.toNat / 1000000 - 1 - s.time.inMs) ∧
        s'.time.inGood = 0 ∧ (s.time.inMs + 4 ≤ t.toNat / 1000000 - 1 → s'.time.inLocked = false))) ∧
    (1000 < (pulseError t.toNat).natAbs →
      ∃ s', exec (.tbSyncInPulse t) s = .next s' ∧ s'.time.slew = s.time.slew ∧
      mapGet 0 s'.ctrs (ctrKey 0 8 0 cPhase) = mapGet 0 s.ctrs (ctrKey 0 8 0 cPhase) ∧
      s'.time.inGood = 0 ∧ s'.time.now = t ∧ (s'.withTime s.time).withCtrs s.ctrs = s ∧
      ((s.time.inMs = 0 ∨ (t.toNat : Int) - pulseError t.toNat = 1000000 * (s.time.inMs + 1)) →
        mapGet 0 s'.ctrs (ctrKey 0 8 0 cPulse) = mapGet 0 s.ctrs (ctrKey 0 8 0 cPulse) + 1)) ∧
    ((pulseError t.toNat).natAbs ≤ 1000 → s.time.inLocked → s.time.inBad = 0 →
      (s.time.inMs = 0 ∨ (t.toNat : Int) - pulseError t.toNat = 1000000 * (s.time.inMs + 1)) →
      (grouped s = false ∨ timeMaster s = s.fabric.member) →
      ∃ s', exec (.tbSyncInPulse t) s = .next s' ∧
      s'.time.slew = -pulseError t.toNat ∧ s'.time.inLocked = true ∧ s'.time.inGood = s.time.inGood + 1 ∧
      mapGet 0 s'.ctrs (ctrKey 0 8 0 cPhase) = BitVec.ofNat 64 (patOf 64 (pulseError t.toNat)) ∧
      (s'.withTime s.time).withCtrs s.ctrs = s)

/-- The state once a neighbour's word has come on the members whose TB_SYNC_IN is locked (log entry 42). -/
def knowing (s : State) (locked : List Nat) : State :=
  s.withTime { s.time with locks := (locked.filter (fun m => m ≠ s.fabric.member)).foldl (fun a m => setPut a m true) [] }

/-- A timing exchange on the port toward the time master gives a member its offset, half the difference of the two one-way
times; a module that is about to join steps its timebase by it once (R383). How members know the master, and what becomes of a slew, is log
entry 42. -/
def Obligations.TimingExchanges : Prop :=
  ∀ (s : State) (port : Fin 12) (t1 t2 t3 t4 t : Word64) (locked : List Nat) (off : Int), Inv s → s.time.now.ule t →
    (portAt s port).st = .up → off = (((t2.toNat : Int) - t1.toNat) - ((t4.toNat : Int) - t3.toNat)) / 2 →
    (grouped s → parentPort (knowing s locked) port → timeMaster (knowing s locked) ≠ s.fabric.member →
      ∃ s', exec (.timingBeaconExchange port t1 t2 t3 t4 ⟨locked, t⟩) s = .next s' ∧ s'.time.slew = off ∧
      mapGet 0 s'.ctrs (ctrKey 0 8 0 0) = BitVec.ofNat 64 (patOf 64 off) ∧ s'.time.locks = (knowing s locked).time.locks ∧
      s'.time.holdover = false ∧ s'.time.now = t ∧ ((s'.withTime s.time).withCtrs s.ctrs).withFabric s.fabric = s) ∧
    (grouped s = false → s.time.stepped = false → s.fabric.group ≠ 0 →
      ∃ s', exec (.timingBeaconExchange port t1 t2 t3 t4 ⟨locked, t⟩) s = .next s' ∧ s'.time.stepped = true ∧
      s'.time.now = BitVec.ofInt 64 ((t.toNat : Int) + off) ∧ s'.parts = s.parts ∧ s'.tiles = s.tiles)

/-! ### Device faults, spares, boot -/

/-- The tiles of t are those of s after a device reset: as after a scrub, with T0 and its poison kept (R399 step 3). -/
def TilesReset (s t : State) : Prop :=
  ∀ n, tileRaw t n = { Tile.reset with
    t0 := (tileRaw s n).t0, pois := (tileRaw s n).pois, replace := (tileRaw s n).replace, errs := (tileRaw s n).errs }

/-- Device faults of the last 60 s. -/
def faultsNow (s : State) (t : Word64) : List Word64 :=
  s.boot.faults60.filter (fun u => decide (t.toNat < u.toNat + 60000000000))

/-- A device fault is counted and resets every tile but for T0 in a warm boot, after which Utora runs again; with no campaign to go on,
the tiles then stand reset. One that damages the image leaves ID.FW = 0, without a level or version, and the journal waits for an image to
be loaded; one that comes while it waits is counted and the warm boot begins anew; a fourth within 60 s, or a thermal trip, is
module fatal, which holds the hub in reset with alert flag 6 set (R376, R399, R403, R407). That T0 is kept, and which replay follows where
two faults ask for one, is log entries 43 and 44. -/
def DeviceFaultsResetOrEnd : Prop :=
  ∀ (s : State) (t : Word64), Inv s → s.time.now.ule t →
    (∀ c, s.boot.phase = .utora → c ≠ .watchdog → c ≠ .linkLoss → c ≠ .reservedPoison true → (∀ p, c ≠ .package p true) →
      (faultsNow s t).length < 3 →
      ∃ s', exec (.deviceFault c t) s = .next s' ∧ s'.boot.devfaults = (s.boot.devfaults + 1) % 2 ^ 32 ∧
      s'.boot.phase = .utora ∧ s'.boot.fw = 2 ∧ s'.boot.mbState = 0 ∧ s'.boot.faults60 = faultsNow s t ++ [t] ∧
      ((∀ p, (partAt s p).camp = none) → TilesReset s s')) ∧
    (s.boot.phase = .utora → s.boot.resume = none → (faultsNow s t).length < 3 →
      ∃ s', exec (.deviceFault (.reservedPoison true) t) s = .next s' ∧ s'.boot.phase = .rom ∧ s'.boot.fw = 0 ∧
      s'.boot.level = 0 ∧ s'.boot.svn = 0 ∧ s'.boot.image = none ∧ s'.boot.resume = some .plain ∧
      s'.boot.devfaults = (s.boot.devfaults + 1) % 2 ^ 32 ∧ s'.journal = s.journal ∧ TilesReset s s' ∧
      s'.parts = s.parts ∧ s'.t2 = s.t2) ∧
    (∀ c how, s.boot.phase = .rom → s.boot.resume = some how → c ≠ .watchdog → c ≠ .linkLoss → (faultsNow s t).length < 3 →
      ∃ s', exec (.deviceFault c t) s = .next s' ∧ s'.boot.phase = .rom ∧ s'.boot.fw = 0 ∧
      s'.boot.resume = some (match c with
        | .package _ _ => .memoryLost
        | _ => how) ∧
      s'.boot.devfaults = (s.boot.devfaults + 1) % 2 ^ 32 ∧ s'.boot.faults60 = faultsNow s t ++ [t] ∧ s'.journal = s.journal ∧
      TilesReset s s') ∧
    (∀ c, s.boot.phase = .utora → c ≠ .watchdog → c ≠ .linkLoss → 3 ≤ (faultsNow s t).length →
      ∃ s', exec (.deviceFault c t) s = .next s' ∧ s'.boot.phase = .fatal ∧ s'.io.alerts.getLsbD 6 ∧ s'.io.linkUp = false ∧
      s'.tiles = [] ∧ s'.journal = []) ∧
    (∀ h, s.power.hotAt = some h → h.toNat + 1000000 ≤ t.toNat → s.boot.phase ≠ .fatal →
      (∃ n ∈ junctions, 1840 < (sensorAt s n).fast) →
      ∃ s', exec (.thermalTrip t) s = .next s' ∧ s'.boot.phase = .fatal ∧ s'.power.trip = true ∧
      s'.io.alerts.getLsbD 2 ∧ s'.io.alerts.getLsbD 6 ∧ s'.tiles = [])

/-- An active core's heartbeat is noted; a core that misses 5 ms is held in reset and the next one takes its place, or the
module ends (R377, R401). -/
def CoresAreWatched : Prop :=
  ∀ (s : State) (core : Fin 3) (t : Word64), Inv s → s.time.now.ule t → s.boot.phase = .utora → s.power.level < 3 →
    (activeCores s).contains core.val →
    (s.boot.beat.length = 3 → ∃ s', exec (.heartbeatWrite core t) s = .next s' ∧
      s'.boot = { s.boot with beat := s.boot.beat.set core t } ∧ (s'.withBoot s.boot).withTime s.time = s) ∧
    ((s.boot.beat.getD core 0).toNat + 5000000 ≤ t.toNat →
      2 ≤ (s.boot.core.filter (fun c => c ≠ core.val)).length →
      (faultsNow s t).length < 3 → (∀ e ∈ s.boot.repair, rxKind e = 8 → rxLogical e ∉ s.boot.core) →
      ∃ s', exec (.watchdogExpiry core t) s = .next s' ∧ s'.boot.core = s.boot.core.filter (fun c => c ≠ core.val) ∧
      s'.boot.devfaults = (s.boot.devfaults + 1) % 2 ^ 32 ∧ s'.io.alerts.getLsbD 4 ∧ s'.boot.phase = .utora) ∧
    ((s.boot.beat.getD core 0).toNat + 5000000 ≤ t.toNat →
      (s.boot.core.filter (fun c => c ≠ core.val)).length < 2 →
      ∃ s', exec (.watchdogExpiry core t) s = .next s' ∧ s'.boot.phase = .fatal)

/-- Loss of the PCIe link without PERST# stops every tile and writes no fault record; the link's return is a device fault that ends what
ran with HOST_LOST: each command that ran completes with 0x0402, and a campaign with it once its turn records are written (R240, R323).
That the link in L2 stops nothing, and that a stop, start or destroy under way is completed by the stop itself, is log entries 39 and 27. -/
def LinkLossStops : Prop :=
  ∀ (s : State) (t : Word64), Inv s → s.time.now.ule t → s.io.perst = false →
    (s.io.linkUp → s.boot.phase = .utora →
      ∃ s', exec (.pcieLinkDown ⟨false, t⟩) s = .next s' ∧ s'.io.linkUp = false ∧ s'.io.linkLost = true ∧
      (∀ p, issues s' p = false) ∧ s'.parts = s.parts ∧ s'.samp = [] ∧ s'.t2 = s.t2 ∧ s'.host = s.host ∧
      s'.journal = s.journal ∧ s'.boot = s.boot) ∧
    (s.io.linkUp →
      ∃ s', exec (.pcieLinkDown ⟨true, t⟩) s = .next s' ∧ s'.io.linkUp = false ∧ s'.io.linkLost = s.io.linkLost ∧
      (s'.withIo s.io).withTime s.time = s) ∧
    (s.io.linkUp = false → s.boot.phase = .rom ∨ s.boot.phase = .utora → s.io.linkLost = false →
      ∃ s', exec (.pcieLinkUp t) s = .next s' ∧ s'.io = { s.io with linkUp := true, linkLost := false, wakePin := false } ∧
      (s'.withIo s.io).withTime s.time = s) ∧
    (s.io.linkUp = false → s.boot.phase = .utora → s.io.linkLost → (faultsNow s t).length < 3 →
      ∃ s', exec (.pcieLinkUp t) s = .next s' ∧ s'.io.linkUp = true ∧ s'.io.linkLost = false ∧
      s'.boot.devfaults = (s.boot.devfaults + 1) % 2 ^ 32 ∧ s'.boot.fw = 2 ∧
      (∀ p k, (partAt s' p).camp = some k → k.phase = .closing ∧ k.fin = some (0x0402, none) ∧ k.run = none ∧ k.due ≠ []) ∧
      ((s.boot.jrnA && s.boot.jrnB) = false → ∀ r ∈ s.journal, r.st = .started → (partAt s (recPart r)).camp = none →
        (partAt s (recPart r)).st ≠ .stopping → (partAt s (recPart r)).st ≠ .pendingEnable →
        (partAt s (recPart r)).st ≠ .destroying → CommittedIn s' r 0x0402 t))

/-- An uncorrectable error of a tile's T0 poisons the word, and the second within 24 h marks the tile for replacement; one in its
whorl table poisons the entry. A store bank with 16 uncorrectable reads within 1 h: its frames go, and a spare serves the bank while there is one; a
predicted package starts to migrate, and its channels switch to the spare when the copy is done (R30, R150, R209, R401, R402). That four
bytes of T0 are a word, and where poison of the whorl table enters, is log entries 50 and 10; how spares are numbered is log entry 44. -/
def SparesEngage : Prop :=
  ∀ (s : State) (t : Word64), Inv s → s.time.now.ule t → s.boot.phase = .utora →
    (∀ (tile : Fin 192) a, a < t0Size → ∃ s', exec (.tileFailurePrediction tile ⟨.t0 a, t⟩) s = .next s' ∧
      tileRaw s' tile = { tileRaw s tile with
        pois := tagRange (tileRaw s tile).pois (a / 4 * 4) 4 (tagAtAddr (a / 4 * 4)),
        errs := recentErrs (tileRaw s tile).errs t ++ [t],
        replace := (tileRaw s tile).replace || decide (recentErrs (tileRaw s tile).errs t ≠ []) } ∧
      (∀ n, n ≠ tile.val → tileRaw s' n = tileRaw s n) ∧ s'.groups = s.groups ∧ s'.parts = s.parts ∧ s'.t2 = s.t2) ∧
    (∀ (tile : Fin 192) k, k < 8192 → ∃ s', exec (.tileFailurePrediction tile ⟨.whorl k, t⟩) s = .next s' ∧
      tileRaw s' tile = { tileRaw s tile with
        whorlBad := tagPut (tileRaw s tile).whorlBad k (tagAtAddr (Config.free64 s.free).toNat) } ∧
      (∀ n, n ≠ tile.val → tileRaw s' n = tileRaw s n) ∧ s'.groups = s.groups ∧ s'.parts = s.parts ∧ s'.t2 = s.t2) ∧
    (∀ (die : Fin 2) bank, bank < 40 → 16 ≤ bankErrs s (40 * die.val + bank) t →
      (∀ e ∈ s.t1.frames, 20480 * die.val + 512 * bank ≤ e.1 → e.1 < 20480 * die.val + 512 * bank + 512 →
        e.2.pin = false ∧ e.2.nxt = none) → s.t1.spareLeft.length = 2 → 0 < s.t1.spareLeft.getD die 0 →
      unusedSpares s 11 die ≠ [] →
      ∃ s', exec (.storeBankSpare die bank t) s = .next s' ∧
      s'.t1.spareLeft = s.t1.spareLeft.set die (s.t1.spareLeft.getD die 0 - 1) ∧ s'.t1.dead = s.t1.dead ∧
      (∀ e ∈ s'.t1.frames, e.1 < 20480 * die.val + 512 * bank ∨ 20480 * die.val + 512 * bank + 512 ≤ e.1) ∧
      (∀ e ∈ s.t1.frames, e.1 < 20480 * die.val + 512 * bank ∨ 20480 * die.val + 512 * bank + 512 ≤ e.1 →
        e ∈ s'.t1.frames)) ∧
    (∀ (pkg : Fin 25) rule, predicted s pkg rule → s.t2.spareUsed = false → s.t2.migr = none → s.t2.map.contains pkg.val →
      ∃ s', exec (.packagePrediction pkg rule t) s = .next s' ∧ s'.t2 = { s.t2 with migr := some pkg.val } ∧
      s'.io.alerts.getLsbD 5 ∧ s'.parts = s.parts ∧ s'.tiles = s.tiles) ∧
    (∀ m, s.t2.migr = some m →
      ∃ s', exec (.migrationCopyDone t) s = .next s' ∧
      s'.t2 = { s.t2 with map := s.t2.map.map (fun x => if x = m then 24 else x), spareUsed := true, migr := none } ∧
      s'.parts = s.parts ∧ s'.tiles = s.tiles)

/-- A scrub pass, once in 24 h, poisons the sectors that it finds uncorrectable and no other, and notes those that it corrects (R208,
R209). -/
def ScrubPoisons : Prop :=
  ∀ (s : State) (found fixed link onDie : List Nat) (image : Bool) (t : Word64), Inv s → s.time.now.ule t → s.boot.phase = .utora →
    s.boot.restT2 →
    s.t2.scrubAt.toNat + 86400000000000 ≤ t.toNat → (∀ k ∈ found, 32 * k < reservedBase) →
    ∃ s', exec (.scrubPass ⟨found, fixed, link, onDie, image⟩ t) s = .next s' ∧
      s'.t2.fixed.length = s.t2.fixed.length + fixed.length ∧ s'.t2.scrubAt = t ∧ (∀ k ∈ found, secPois s'.t2 k = true) ∧
      (∀ k, k ∉ found → secPois s'.t2 k = secPois s.t2 k) ∧ s'.t2.mem = s.t2.mem ∧ s'.parts = s.parts

/-- Input power above 47 V holds the module in reset with Distaff running; its loss for 20 µs, an open presence contact, or PERST# takes
the hub down, and after the first two the input is off until it rises above 47 V again; Distaff's own rail takes everything (R410, R411,
R412, R422). That a rise needs both contacts and PERST# acts from 1 µs on is log entry 41. -/
def PowerSequencing : Prop :=
  ∀ (s : State) (t : Word64), Inv s → s.time.now.ule t →
    (∀ mv straps, inputOff s → 47000 ≤ mv → straps ≤ 3 →
      ∃ s', exec (.powerInputRise mv straps t) s = .next s' ∧ s'.boot.phase = .held ∧ s'.power.mv = mv ∧
      s'.io.straps = straps ∧ s'.io.prsnt0 = true ∧ s'.io.prsnt1 = true ∧ inputOff s' = false ∧ s'.io.shadow = [] ∧
      s'.boot.hist = s.boot.hist) ∧
    (∀ mv ns, inputOff s = false → mv < 45000 → 20000 ≤ ns →
      ∃ s', exec (.powerLoss ⟨mv, ns⟩ t) s = .next s' ∧ s'.boot.phase = .distaff ∧ inputOff s' ∧ s'.power.mv = mv ∧ s'.io.linkUp = false ∧ s'.io.shadow = [] ∧
      s'.tiles = [] ∧ s'.journal = [] ∧ s'.t2.mem = [] ∧ s'.boot.hist = s.boot.hist ∧ s'.boot.cfgA = s.boot.cfgA) ∧
    (∀ mv, distaffUp s → mv < 40000 →
      ∃ s', exec (.distaffRailLoss mv t) s = .next s' ∧ s'.boot.phase = .dark ∧ s'.tiles = [] ∧
      s'.boot.hist = s.boot.hist) ∧
    (∀ second, distaffUp s → inputOff s = false →
      ∃ s', exec (.presenceOpen second t) s = .next s' ∧ s'.boot.phase = .distaff ∧ inputOff s' ∧ s'.tiles = [] ∧
      s'.journal = []) ∧
    (∀ ns, 1000 ≤ ns → s.io.perst = false → s.boot.phase ≠ .fatal → inputOff s = false →
      ∃ s', exec (.perstAssert ns t) s = .next s' ∧ s'.io.perst = true ∧ s'.boot.phase = .held ∧ s'.io.linkUp = false ∧
      s'.power.level = 0 ∧ s'.journal = [] ∧ s'.boot.hist = s.boot.hist)

/-- The repair entries in effect at a cold boot that takes copy b of the record and finds the history records without those numbers
(R394). -/
def bootMap (s : State) (b : Bool) (badMacs : List Nat) : List (BitVec 64) :=
  effMap (allRepairs (s.withBoot { s.boot with useB := b, hist := s.boot.hist.filter (fun h => !badMacs.contains h.seq) }))

/-- Releasing PERST# of a held module whose cores, records and identity are good leads to the ROM with the link up and the effective map
applied; steps 7 and 11 initialise module memory or end the module; LOAD_IMAGE of an image that passes every check starts Utora, or lets it
go on after a warm boot that waited for it (R394 to R399, R403). The outcomes of self-tests and signatures are operands (log entry 43). -/
def ColdBootStartsUtora : Prop :=
  ∀ (s : State) (t : Word64), Inv s → s.time.now.ule t →
    (∀ p b, s.boot.phase = .held → bootCopy s p = some b →
      (∃ k, k < 3 ∧ p.cores.getD k false ∧ ∀ e ∈ bootMap s b p.badMacs, rxKind e = 8 → rxLogical e ≠ k) →
      Config.keyDigest (shake256 (0x49 :: leBytes 32 (Config.pufSecret
        (((if b then s.boot.cfgB else s.boot.cfgA).map ConfigP.helper).getD [])).toNat) 32) = s.boot.certId →
      ∃ s', exec (.perstRelease p t) s = .next s' ∧ s'.boot.phase = .rom ∧ s'.io.perst = false ∧ s'.io.linkUp = true ∧
      s'.boot.useB = b ∧ s'.boot.repair = bootMap s b p.badMacs ∧
      s'.boot.core = (List.range 3).filter (fun k => p.cores.getD k false &&
        (bootMap s b p.badMacs).all (fun e => !(decide (rxKind e = 8) && decide (rxLogical e = k)))) ∧
      s'.boot.boots = s.boot.boots + 1) ∧
    (∀ p, s.boot.phase = .held → (∃ k, k < 3 ∧ p.cores.getD k false) → bootCopy s p = none →
      ∃ s', exec (.perstRelease p t) s = .next s' ∧ s'.boot.phase = .fatal ∧ s'.boot.mbErr = 8) ∧
    (s.boot.phase = .rom → s.boot.resvT2 = false → s.boot.held = none →
      ∃ s', exec (.reservedT2Initialised ⟨true, t⟩) s = .next s' ∧ s'.boot.resvT2 = true ∧
      s'.boot.log = s.boot.log ++ [⟨7, 0, t, 0⟩] ∧ (s'.withBoot s.boot).withTime s.time = s) ∧
    (s.boot.phase = .rom ∨ s.boot.phase = .utora → s.boot.resvT2 → s.boot.restT2 = false →
      ∃ s', exec (.t2InitComplete ⟨true, t⟩) s = .next s' ∧ s'.boot.restT2 = true ∧
      s'.boot.log = s.boot.log ++ [⟨11, 0, t, 0⟩] ∧ (s'.withBoot s.boot).withTime s.time = s) ∧
    (s.boot.phase = .rom → s.boot.resvT2 = false →
      ∃ s', exec (.reservedT2Initialised ⟨false, t⟩) s = .next s' ∧ s'.boot.phase = .fatal) ∧
    (s.boot.phase = .rom ∨ s.boot.phase = .utora → s.boot.resvT2 → s.boot.restT2 = false →
      ∃ s', exec (.t2InitComplete ⟨false, t⟩) s = .next s' ∧ s'.boot.phase = .fatal) ∧
    (∀ i, bar0Up s → s.boot.mbState ≠ 1 → s.boot.fw = 0 ∨ s.boot.fw = 3 → s.boot.resvT2 → i.bytes.length = s.boot.mbLen →
      imageError s i = none →
      (s.boot.resume = none → ∃ s', exec (.loadImage i t) s = .next s' ∧ s'.boot.phase = .utora ∧ s'.boot.fw = 2 ∧
        s'.boot.svn = i.svn ∧ s'.boot.level = i.level ∧ s'.boot.image = some i ∧ s'.boot.meas = sha3 (i.bytes.take i.len) ∧
        s'.boot.mbState = 2 ∧ (∀ n, n < 12 → (portAt s' n).st = .training)) ∧
      (∀ how, s.boot.resume = some how → ∃ s', exec (.loadImage i t) s = .next s' ∧ s'.boot.phase = .utora ∧ s'.boot.fw = 2 ∧
        s'.boot.svn = i.svn ∧ s'.boot.level = i.level ∧ s'.boot.image = some i ∧ s'.boot.mbState = 2 ∧ s'.boot.resume = none)) ∧
    (bar0Up s → s.boot.mbState ≠ 1 → s.boot.fw = 0 ∨ s.boot.fw = 3 →
      ∃ s', exec .readBootlog s = .next s' ∧
      s'.host = memWrite s.host (hostAt 0 s.boot.mbAddr.toNat) ((bootLogBytes s).take s.boot.mbLen) ∧ s'.boot.mbState = 2 ∧
      s'.boot.log = s.boot.log ∧ (s'.withHost s.host).withBoot s.boot = s)

/-- The checks of R397 with their codes of R398: a length that is too great or does not fit gives MB.ERR 4, a read that fails 5 with ID.FW
back at 0, an unknown format 7, a certificate that does not chain or does not fit into the image 2, a signature that does not verify 1, a
security version below the record's 3, each but the failed read with ID.FW = 3, and an image offered while ID.FW is 1, 2 or 4 gives 6 and
leaves ID.FW. Nothing but the mailbox and ID.FW changes. The order of the checks is the model's (log entry 43). -/
def BadImagesAreRefused : Prop :=
  ∀ (s : State) (i : ImageP) (t : Word64), Inv s → s.time.now.ule t → bar0Up s → s.boot.mbState ≠ 1 →
    (i.readOk → i.bytes.length = s.boot.mbLen) →
    let refuses (e f : Nat) : Prop := ∃ s', exec (.loadImage i t) s = .next s' ∧ s'.boot.mbState = 3 ∧ s'.boot.mbErr = e ∧
      s'.boot.fw = f ∧ s'.boot.phase = s.boot.phase ∧ s'.boot.level = s.boot.level ∧ s'.boot.svn = s.boot.svn ∧
      s'.boot.image = s.boot.image ∧ s'.boot.log = s.boot.log ∧ (s'.withBoot s.boot).withTime s.time = s
    (s.boot.fw = 1 ∨ s.boot.fw = 2 ∨ s.boot.fw = 4 → refuses 6 s.boot.fw) ∧
    (s.boot.fw = 0 ∨ s.boot.fw = 3 → s.boot.resvT2 →
      (268435456 < s.boot.mbLen → refuses 4 3) ∧
      (s.boot.mbLen ≤ 268435456 →
        (i.readOk = false → refuses 5 0) ∧
        (i.readOk →
          (i.format ≠ 1 → refuses 7 3) ∧
          (i.format = 1 →
            (268435456 < i.len ∨ i.len + 4627 ≠ s.boot.mbLen → refuses 4 3) ∧
            (i.len ≤ 268435456 → i.len + 4627 = s.boot.mbLen →
              (i.certOk = false ∨ i.len < 256 + i.certLen → refuses 2 3) ∧
              (i.certOk → 256 + i.certLen ≤ i.len →
                (i.sigOk = false → refuses 1 3) ∧
                (i.sigOk → ∀ c, activeCfg s = some c → i.svn < c.minsvn → refuses 3 3)))))))


/-! ### Diagnostics -/

/-- Everything but host memory and the journal is as before. -/
def onlyReport (s t : State) : Prop := (t.withHost s.host).withJournal s.journal = s

/-- Where a command's host buffer stands: in the address space of its function and its PASID (R330, R346). -/
def bufAt (q : QId) (b : Buf) : Nat := hostAt (hostSpace q.fn b.pasid.toNat) b.haddr.toNat

/-- SNAPSHOT_AT and SNAPSHOT_MARK complete with the id of the snapshot that they arm: one at a time waits for it, one at a MARK
waits for the four queues of every tile of the partition. SNAPSHOT_LATCH at the time latches the counters of its classes as
they stand then and leaves nothing to wait for (R386, R387); which counters the model keeps is log entry 7. -/
def SnapshotsAreArmed : Prop :=
  ∀ (s : State) (q : QId) (p : Nat), Inv s →
    (∀ t mask id, hostReady s q (.snapshotAt t mask) p → s.parts.all (fun x => (mapFind x.snaps id).isNone) →
      s.time.now.toNat + 100000 ≤ t.toNat → t.toNat ≤ s.time.now.toNat + 10000000000 →
      snapRoom s p (readMask q.fn mask) →
      ∃ s', exec (.snapshotAt q t mask id) s = .next s' ∧ s'.journal = completedWith s q 0 id ∧
      mapFind (partAt s' p).snaps id = some ⟨false, t, readMask q.fn mask, [0], [], 0, 0⟩ ∧
      (∀ k, k ≠ id → mapFind (partAt s' p).snaps k = mapFind (partAt s p).snaps k) ∧
      (∀ k, k ≠ p → partAt s' k = partAt s k) ∧ onlyParts s s') ∧
    (∀ n mask id, hostReady s q (.snapshotMark n mask) p → s.parts.all (fun x => (mapFind x.snaps id).isNone) →
      snapRoom s p (readMask q.fn mask) →
      ∃ s' x, exec (.snapshotMark q n mask id) s = .next s' ∧ s'.journal = completedWith s q 0 id ∧
      mapFind (partAt s' p).snaps id = some x ∧ x.mark = true ∧ x.point.toNat = n.toNat ∧
      x.mask = readMask q.fn mask ∧ x.vals = [] ∧
      (∀ k, k ∈ x.need ↔ k / 4 < nTiles s p) ∧ (∀ k, k ≠ p → partAt s' k = partAt s k) ∧
      onlyParts s s') ∧
    (∀ (part : Fin 32) id x t, mapFind (partAt s part).snaps id = some x → x.mark = false → x.need ≠ [] →
      x.vals = [] → t = x.point → s.time.now.ule t →
      ∃ s' y, exec (.snapshotLatch part id t) s = .next s' ∧ mapFind (partAt s' part).snaps id = some y ∧ y.need = [] ∧
      y.point = x.point ∧ y.mask = x.mask ∧ y.first = t ∧ y.last = t ∧
      (∀ c, c < 9 → x.mask.getLsbD c → ∀ e ∈ classCounters (tick s t) part c, e ∈ y.vals) ∧
      (∀ k, k ≠ id → mapFind (partAt s' part).snaps k = mapFind (partAt s part).snaps k) ∧
      (s'.withParts s.parts).withTime s.time = s)

/-- The diagnostic reads put their record into the host buffer, cut at its length, complete with the bytes or records written,
and change nothing else but the journal (R45, R385, R388, R404, R405, R423). That these reads are
cut at the buffer's length is log entry 19; the layout of live counters and of a queue's count, and what an entry that is free
reads as, are log entry 45; the counters' numbers are log entry 7. -/
def DiagnosticReadsComplete : Prop :=
  ∀ (s : State) (q : QId) (p : Nat) (b : Buf), Inv s → b.refused = false →
    (∀ ids (l : List (Nat × Word64)), hostReady s q (.counterRead (.live ids) b) p → (∀ i ∈ ids, ctrAllowed q.fn p i) →
      ids.map (fun i => (classCounters s (ctrPart p i) (i / 2 ^ 24)).find? (fun e => decide (e.1 = i))) = l.map some →
      ∃ t, exec (.counterRead q (.live ids) b) s = .next t ∧
      t.host = memWrite s.host (bufAt q b) ((l.map ctrEntry).flatten.take b.len) ∧
      t.journal = completedWith s q 0 (min b.len (16 * ids.length)) ∧ onlyReport s t) ∧
    (∀ id x, hostReady s q (.counterRead (.snap id false) b) p → mapFind (partAt s p).snaps id = some x → x.need = [] →
      ∃ t, exec (.counterRead q (.snap id false) b) s = .next t ∧
      t.host = memWrite s.host (bufAt q b) ((snapBytes id x).take b.len) ∧
      t.journal = completedWith s q 0 (min b.len (snapBytes id x).length) ∧ onlyReport s t) ∧
    (∀ id x, hostReady s q (.counterRead (.snap id true) b) p → mapFind (partAt s p).snaps id = some x → x.need = [] →
      ∃ t, exec (.counterRead q (.snap id true) b) s = .next t ∧
      t.host = memWrite s.host (bufAt q b) ((snapBytes id x).take b.len) ∧
      t.journal = completedWith s q 0 (min b.len (snapBytes id x).length) ∧ mapFind (partAt t p).snaps id = none ∧
      (∀ k, k ≠ id → mapFind (partAt t p).snaps k = mapFind (partAt s p).snaps k) ∧
      onlyReport s (t.withParts s.parts)) ∧
    (∀ sel (l : List Byte), hostReady s q (.recordRead sel b) p → diagRecord s q.fn p sel = .inl l →
      ∃ t, exec (.recordRead q sel b) s = .next t ∧ t.host = memWrite s.host (bufAt q b) (l.take b.len) ∧
      t.journal = completedWith s q 0 (min b.len l.length) ∧ onlyReport s t) ∧
    (∀ first count, hostReady s q (.faultLogRead first count b) p →
      ∃ t, exec (.faultLogRead q first count b) s = .next t ∧
      t.host = memWrite s.host (bufAt q b)
        (((((partAt s p).flog.drop first).take (min count (b.len / 64))).map (fun r => leBytes 64 (faultBits r))).flatten) ∧
      t.journal = completedWith s q 0 (min (min count (b.len / 64)) ((partAt s p).flog.length - first)) ∧ onlyReport s t) ∧
    (hostReady s q (.historyRead b) p →
      ∃ t, exec (.historyRead q b) s = .next t ∧
      t.host = memWrite s.host (bufAt q b) ((s.boot.hist.map (histBytes s)).flatten.take b.len) ∧
      (∃ n, t.journal = completedWith s q 0 n ∧ n ≤ b.len) ∧ onlyReport s t) ∧
    (hostReady s q (.certRead b) p →
      ∃ t, exec (.certRead q b) s = .next t ∧ t.host = memWrite s.host (bufAt q b) (s.boot.chain.take b.len) ∧
      t.journal = completedWith s q 0 (min b.len s.boot.chain.length) ∧ onlyReport s t)

/-- Where the host refuses the write of a read's buffer, the command completes with HOST_WRITE and changes nothing but the
journal and the draw of its detail (R337). -/
def RefusedReadsComplete : Prop :=
  ∀ (s : State) (q : QId) (p : Nat) (b : Buf), Inv s → b.refused →
    let ends (i : Instr) : Prop := ∃ t, exec i s = .next t ∧ Completes s t q 0x0203 ∧
      (t.withJournal s.journal).withFree s.free = s
    (∀ ids, hostReady s q (.counterRead (.live ids) b) p → (∀ i ∈ ids, ctrAllowed q.fn p i) →
      ends (.counterRead q (.live ids) b)) ∧
    (∀ sel (l : List Byte), hostReady s q (.recordRead sel b) p → diagRecord s q.fn p sel = .inl l →
      ends (.recordRead q sel b)) ∧
    (∀ first count, hostReady s q (.faultLogRead first count b) p → ends (.faultLogRead q first count b)) ∧
    (hostReady s q (.historyRead b) p → ends (.historyRead q b)) ∧ (hostReady s q (.certRead b) p → ends (.certRead q b))

/-- ATTEST writes the report and its signature, MEASURE_READ the report alone; CONFIG_UPDATE puts an accepted record into the
copy that is not in use; UNDEFINED_COMMAND is refused with BAD_OPCODE (R336, R405, R406). -/
def AttestAndConfigure : Prop :=
  ∀ (s : State) (q : QId) (p : Nat), Inv s →
    (∀ nonce (part : Fin 32) b, hostReady s q (.attest nonce part b) p → b.refused = false → q.fn.val = 0 ∨ q.fn = part →
      s.io.tapUnlocked = false → (reportBytes s nonce part).length + 4627 ≤ b.len →
      ∃ t, exec (.attest q nonce part b) s = .next t ∧
      t.host = memWrite s.host (bufAt q b) (reportBytes s nonce part ++
        (List.range 4627).map (Config.sigByte (sha3 (reportBytes s nonce part)))) ∧
      t.journal = completedWith s q 0 ((reportBytes s nonce part).length + 4627) ∧ onlyReport s t) ∧
    (∀ (part : Fin 32) b, hostReady s q (.measureRead part b) p → b.refused = false → q.fn.val = 0 ∨ q.fn = part →
      296 + 72 * (partAt s part).progs.length ≤ b.len →
      ∃ t nonce, exec (.measureRead q part b) s = .next t ∧
      t.host = memWrite s.host (bufAt q b) (reportBytes s nonce part) ∧
      t.journal = completedWith s q 0 (296 + 72 * (partAt s part).progs.length) ∧ onlyReport s (t.withFree s.free)) ∧
    (∀ c a, hostReady s q (.configUpdate c) p → activeCfg s = some a → c.sigOk → c.serial = s.boot.certSerial → a.seq < c.seq →
      a.minsvn ≤ c.minsvn →
      ∃ t, exec (.configUpdate q c) s = .next t ∧ Completes s t q 0 ∧ activeCfg t = some a ∧
      (if s.boot.useB then t.boot.cfgA else t.boot.cfgB) = some c ∧
      ((t.withBoot s.boot).withJournal s.journal).withFree s.free = s) ∧
    (∀ opc, (canStart s q (.undefined opc)).isSome → opcDefined opc = false →
      ∃ t, exec (.undefinedCommand q opc) s = .next t ∧ Completes s t q 0x0101 ∧
      (t.withJournal s.journal).withFree s.free = s)

/-! ### The host's door -/

/-- A doorbell is ignored and counted in DB_IGNORED, and nothing else happens. -/
def doorbellIgnored (s t : State) : Prop :=
  mapGet 0 t.ctrs (ctrKey 0 6 0 cDbIgnored) = mapGet 0 s.ctrs (ctrKey 0 6 0 cDbIgnored) + 1 ∧ t.withCtrs s.ctrs = s

/-- A 32-bit write at offset 0 of a doorbell page moves the tail or the head of its queue to the index given; a doorbell
for a queue that does not exist, with an index of 2^QD.LSIZE or more, of another width, or with an SQ tail that would pass
entries not yet freed, is ignored and counted (R326); completions that a CQ head has passed leave the journal (R347). That tails
and heads are counted without wrapping, and that a head does not move past the last posted entry, are the model's choices (log
entry 6). -/
def Obligations.DoorbellsMoveTheirQueues : Prop :=
  ∀ (s : State) (fn : Fin 32) (n : Fin 8) (ix : Nat), Inv s → s.io.linkUp → s.io.perst = false → s.power.level = 0 →
    (∀ x, sqAt s fn n = some x → ix < 2 ^ x.d.lsize →
      (∀ k, x.tail ≤ k → k < x.tail + 2 ^ x.d.lsize → k % 2 ^ x.d.lsize = ix → k - x.head ≤ 2 ^ x.d.lsize →
        ∃ t, exec (.sqTailDoorbell fn n ix true) s = .next t ∧ sqAt t fn n = some { x with tail := k } ∧
        (∀ f m, (f, m) ≠ (fn.val, n.val) → sqAt t f m = sqAt s f m) ∧ t.withFns s.fns = s) ∧
      (∀ k, x.tail ≤ k → k < x.tail + 2 ^ x.d.lsize → k % 2 ^ x.d.lsize = ix → 2 ^ x.d.lsize < k - x.head →
        ∃ t, exec (.sqTailDoorbell fn n ix true) s = .next t ∧ doorbellIgnored s t)) ∧
    (∀ w, sqAt s fn n = none → ∃ t, exec (.sqTailDoorbell fn n ix w) s = .next t ∧ doorbellIgnored s t) ∧
    (∀ x w, sqAt s fn n = some x → w = false ∨ 2 ^ x.d.lsize ≤ ix →
      ∃ t, exec (.sqTailDoorbell fn n ix w) s = .next t ∧ doorbellIgnored s t) ∧
    (∀ c k, cqAt s fn n = some c → ix < 2 ^ c.d.lsize → c.head ≤ k → k < c.head + 2 ^ c.d.lsize →
      k % 2 ^ c.d.lsize = ix → k ≤ c.posted →
      ∃ t, exec (.cqHeadDoorbell fn n ix true) s = .next t ∧ cqAt t fn n = some { c with head := k } ∧
      (∀ r, r ∈ t.journal ↔ (r ∈ s.journal ∧ ¬(r.q.fn = fn ∧ r.cq = n.val ∧ r.st = .posted ∧ r.slot < k))) ∧
      (∀ f m, (f, m) ≠ (fn.val, n.val) → cqAt t f m = cqAt s f m) ∧ (t.withFns s.fns).withJournal s.journal = s) ∧
    (∀ w, cqAt s fn n = none → ∃ t, exec (.cqHeadDoorbell fn n ix w) s = .next t ∧ doorbellIgnored s t) ∧
    (∀ c w, cqAt s fn n = some c → w = false ∨ 2 ^ c.d.lsize ≤ ix →
      ∃ t, exec (.cqHeadDoorbell fn n ix w) s = .next t ∧ doorbellIgnored s t) ∧
    (∀ k, (fnAt s fn).even → (fnAt s fn).evLost = 0 → ix < 2 ^ (fnAt s fn).evlsize → (fnAt s fn).evHead ≤ k →
      k < (fnAt s fn).evHead + 2 ^ (fnAt s fn).evlsize → k % 2 ^ (fnAt s fn).evlsize = ix → k ≤ (fnAt s fn).evIx →
      ∃ t, exec (.eventHeadDoorbell fn ix true) s = .next t ∧
      t.fns = s.fns.set fn { fnAt s fn with evHead := k } ∧ t.withFns s.fns = s) ∧
    (∀ w, (fnAt s fn).even = false ∨ w = false ∨ 2 ^ (fnAt s fn).evlsize ≤ ix →
      ∃ t, exec (.eventHeadDoorbell fn ix w) s = .next t ∧ doorbellIgnored s t)

/-- Once the host frees entries of an event queue that had lost some, the count of the lost ones is reset and their source-8
entry is posted (R329). -/
def LostEventsAreReported : Prop :=
  ∀ (s : State) (fn : Fin 32) (ix k : Nat), Inv s → s.io.linkUp → s.io.perst = false → (fnAt s fn).even →
    0 < (fnAt s fn).evLost → ix < 2 ^ (fnAt s fn).evlsize → (fnAt s fn).evHead < k →
    k < (fnAt s fn).evHead + 2 ^ (fnAt s fn).evlsize → k % 2 ^ (fnAt s fn).evlsize = ix → k ≤ (fnAt s fn).evIx →
    (fnAt s fn).evIx ≤ (fnAt s fn).evHead + 2 ^ (fnAt s fn).evlsize →
    ∃ t, exec (.eventHeadDoorbell fn ix true) s = .next t ∧ (fnAt t fn).evHead = k ∧ (fnAt t fn).evLost = 0 ∧
      (fnAt t fn).evIx = (fnAt s fn).evIx + 1 ∧ (fnAt t fn).evSeq = (fnAt s fn).evSeq + 1 ∧
      (∀ f, f ≠ fn.val → fnAt t f = fnAt s f) ∧ (t.withFns s.fns).withHost s.host = s

/-- SUBMISSION_FETCH with an empty fetch buffer journals the entry at the queue's head as ACCEPTED and writes the accept record;
an entry with another sequence than the one expected completes with BAD_SEQUENCE and the expected one, and one whose extended
parameters cannot be read with PARAM_READ (R26, R332, R334, R347). That such an entry stands in the fetch buffer while an earlier
command of the queue is open, with up to seven more fetched behind it, is the model's choice (log entry 6). -/
def Obligations.SubmissionsAreTaken : Prop :=
  ∀ (s : State) (q : QId) (e : SubEntry) (x : SubQ) (t : Word64), Inv s → s.time.now.ule t → hubUp s →
    s.power.level = 0 → sqAt s q.fn q.sq = some x → x.head + x.buf.length < x.tail →
    (x.buf = [] → entSeq e = x.expect → (entExt e → e.readable) → entryIs e →
      ∃ s' r, exec (.submissionFetch q e t) s = .next s' ∧ s'.journal = s.journal ++ [r] ∧ r.q = q ∧ r.seq = x.expect ∧
      r.entry = e ∧ r.st = .accepted ∧ r.cq = x.d.cq ∧ r.tacc = t ∧
      sqAt s' q.fn q.sq = some { x with head := x.head + 1, expect := x.expect + 1 } ∧
      s'.host = memWrite s.host (hostAt q.fn x.d.araddr.toNat) (leBytes 8 x.expect.toNat ++
        leBytes 2 ((x.head + 1) % 2 ^ x.d.lsize) ++ List.replicate 6 0) ∧
      (((s'.withJournal s.journal).withFns s.fns).withHost s.host).withTime s.time = s) ∧
    (x.buf = [] → entSeq e ≠ x.expect → openOn s q.fn q.sq = false →
      ∃ s' r, exec (.submissionFetch q e t) s = .next s' ∧ s'.journal = s.journal ++ [r] ∧ r.q = q ∧ r.seq = entSeq e ∧
      r.st = .committed ∧ r.status = 0x0102 ∧ r.detail = x.expect.toNat % 2 ^ 32 ∧ r.tdone = t ∧
      sqAt s' q.fn q.sq = some { x with head := x.head + 1, expect := x.expect + 1 }) ∧
    (x.buf = [] → entSeq e = x.expect → entExt e → e.readable = false → openOn s q.fn q.sq = false →
      ∃ s' r, exec (.submissionFetch q e t) s = .next s' ∧ s'.journal = s.journal ++ [r] ∧ r.q = q ∧ r.seq = x.expect ∧
      r.st = .committed ∧ r.status = 0x010D ∧ r.detail % 2 ^ 16 = 0xFFFF ∧
      sqAt s' q.fn q.sq = some { x with head := x.head + 1, expect := x.expect + 1 }) ∧
    (∀ b, x.buf.length < 8 → (x.buf ++ [e]).head? = some b → openOn s q.fn q.sq →
      (entSeq b ≠ x.expect ∨ (entExt b ∧ b.readable = false)) →
      (entSeq e ≠ x.expect + BitVec.ofNat 64 x.buf.length ∨ (entExt e ∧ e.readable = false) ∨ entryIs e) →
      ∃ s', exec (.submissionFetch q e t) s = .next s' ∧ sqAt s' q.fn q.sq = some { x with buf := x.buf ++ [e] } ∧
      s'.journal = s.journal ∧ (s'.withFns s.fns).withTime s.time = s)

/-- COMPLETION_POST with room in the queue writes the 32-byte entry of the command that committed first to slot (completion index) mod 2^QD.LSIZE,
with the phase of that pass, and marks its journal record POSTED; entries that waited in the function's fetch buffers go on; where the queue raises its vector and its interval has
passed, the vector's message is written after it. INTERRUPT_INTERVAL_EXPIRY raises the vector that was owed (R330, R333,
R347, R350). -/
def CompletionsArePosted : Prop :=
  ∀ (s : State) (fn : Fin 32) (n : Fin 8) (c : CplQ) (t : Word64), Inv s → s.time.now.ule t → cqAt s fn n = some c →
    (∀ r, hubUp s → c.posted - c.head < 2 ^ c.d.lsize → firstDone (postable fn n [] s.journal) = some r →
      ∃ s' c', exec (.completionPost fn n t) s = .next s' ∧ s' = acceptWaiting (postNext (tick s t) fn n) fn ∧
        (∃ r' ∈ s'.journal, r' = { r with st := .posted, slot := c.posted }) ∧
        (∀ r', r' ∈ s.journal → r' ≠ r → r' ∈ s'.journal) ∧ cqAt s' fn n = some c' ∧ c'.posted = c.posted + 1 ∧
        c'.head = c.head ∧ c'.d = c.d ∧ s'.parts = s.parts ∧ s'.tiles = s.tiles ∧ s'.t2 = s.t2) ∧
    (∀ r, hubUp s → c.posted - c.head < 2 ^ c.d.lsize → firstDone (postable fn n [] s.journal) = some r →
      (∀ m x, sqAt s fn m = some x → x.buf = []) →
      (c.d.ien = false →
        ∃ s', exec (.completionPost fn n t) s = .next s' ∧
        s'.host = memWrite s.host (hostAt fn (c.d.base.toNat + 32 * (c.posted % 2 ^ c.d.lsize)))
          (cplBytes r c.posted (2 ^ c.d.lsize)) ∧
        cqAt s' fn n = some { c with posted := c.posted + 1 } ∧ s'.parts = s.parts) ∧
      (c.d.ien → (∀ u, c.lastIrq = some u → u.toNat + 1000 * c.d.itime ≤ t.toNat) →
        ((fnAt s fn).msix.getD c.d.vec MsixE.reset).mask = false →
        ∃ s', exec (.completionPost fn n t) s = .next s' ∧
        s'.host = memWrite (memWrite s.host (hostAt fn (c.d.base.toNat + 32 * (c.posted % 2 ^ c.d.lsize)))
          (cplBytes r c.posted (2 ^ c.d.lsize)))
          (hostAt fn ((fnAt s fn).msix.getD c.d.vec MsixE.reset).addr.toNat)
          (leBytes 4 ((fnAt s fn).msix.getD c.d.vec MsixE.reset).data.toNat) ∧
        cqAt s' fn n = some { c with posted := c.posted + 1, lastIrq := some t, owed := false } ∧ s'.parts = s.parts) ∧
      (∀ u, c.d.ien → c.lastIrq = some u → t.toNat < u.toNat + 1000 * c.d.itime →
        ∃ s', exec (.completionPost fn n t) s = .next s' ∧
        cqAt s' fn n = some { c with posted := c.posted + 1, owed := true })) ∧
    (c.owed → c.d.ien → (∀ u, c.lastIrq = some u → u.toNat + 1000 * c.d.itime ≤ t.toNat) → c.d.vec < 64 →
      ∃ s', exec (.interruptIntervalExpiry fn n t) s = .next s' ∧
      cqAt s' fn n = some { c with lastIrq := some t, owed := false } ∧
      (((fnAt s fn).msix.getD c.d.vec MsixE.reset).mask = false → s'.host = memWrite s.host
        (hostAt fn ((fnAt s fn).msix.getD c.d.vec MsixE.reset).addr.toNat)
        (leBytes 4 ((fnAt s fn).msix.getD c.d.vec MsixE.reset).data.toNat)) ∧
      (((fnAt s fn).msix.getD c.d.vec MsixE.reset).mask → s'.host = s.host ∧
        ((fnAt s' fn).msix.getD c.d.vec MsixE.reset).pend = true) ∧ s'.parts = s.parts ∧ s'.journal = s.journal)

/-- A completion entry lays the command's sequence, status, phase, queue, detail and times into 32 bytes (R333, R350). -/
def CompletionEntryFields : Prop :=
  ∀ (r : JRec) (ix size : Nat), r.status < 2 ^ 16 → r.detail < 2 ^ 32 → 0 < size →
    (cplBytes r ix size).length = 32 ∧ numAt (cplBytes r ix size) 0 8 = r.seq.toNat ∧
    numAt (cplBytes r ix size) 8 2 = r.status ∧
    fld (numAt (cplBytes r ix size) 10 1) 0 1 = (if ix / size % 2 = 0 then 1 else 0) ∧
    fld (numAt (cplBytes r ix size) 10 1) 1 3 = r.q.sq.val ∧ numAt (cplBytes r ix size) 12 4 = r.detail ∧
    numAt (cplBytes r ix size) 16 8 = r.tacc.toNat ∧ numAt (cplBytes r ix size) 24 8 = r.tdone.toNat

/-- ID.AQEN = 1 creates SQ 0 and CQ 0 from ID.AQS and ID.AQC, where SQ 0 holds no uncompleted command; writing 0 deletes them, and is ignored while SQ 0 holds an
uncompleted command (R325). -/
def AdminQueuesFollowTheirEnable : Prop :=
  ∀ (s : State) (fn : Fin 32), Inv s → bar0Up s → s.boot.fw = 2 →
    ((fnAt s fn).aqen = false → adminDescOk (fnAt s fn) → openOn s fn 0 = false →
      ∃ t, exec (.adminQueueEnable fn true) s = .next t ∧ (fnAt t fn).aqen = true ∧
      sqAt t fn 0 = some ⟨(fnAt s fn).aqs, 0, 0, (fnAt s fn).aqs.seq0, []⟩ ∧
      cqAt t fn 0 = some ⟨(fnAt s fn).aqc, 0, 0, none, false⟩ ∧
      (∀ n, n ≠ 0 → sqAt t fn n = sqAt s fn n ∧ cqAt t fn n = cqAt s fn n) ∧
      (∀ f, f ≠ fn.val → fnAt t f = fnAt s f) ∧ t.withFns s.fns = s) ∧
    ((fnAt s fn).aqen → openOn s fn 0 = false →
      ∃ t, exec (.adminQueueEnable fn false) s = .next t ∧ (fnAt t fn).aqen = false ∧ sqAt t fn 0 = none ∧
      cqAt t fn 0 = none ∧ (∀ n, n ≠ 0 → sqAt t fn n = sqAt s fn n ∧ cqAt t fn n = cqAt s fn n) ∧
      (∀ f, f ≠ fn.val → fnAt t f = fnAt s f) ∧ t.withFns s.fns = s) ∧
    (openOn s fn 0 → exec (.adminQueueEnable fn false) s = .next s)

/-- REGISTER_WRITE changes the one field that it names, of its function or of the PF, and nothing else; ID.AQS and ID.AQC stay
while ID.AQEN is 1; the window fields and the mailbox are the PF's, and a virtual function's write of them changes nothing; an
event queue that is newly enabled starts empty at sequence 0 (log entry 6); a vector that is unmasked with its bit pending is raised; the alert
mask drives ALERT#. ATS_INVALIDATION takes its translation out of the cache at once, and waits for the reads in flight that use
it (R211, R324, R325, R327, R329, R380). -/
def Obligations.RegistersTakeTheirWrites : Prop :=
  ∀ (s : State) (fn : Fin 32), Inv s →
    (bar0Up s →
      (∀ d, exec (.registerWrite fn (.aqs d)) s = .next (if (fnAt s fn).aqen then s
        else s.withFns (s.fns.set fn { fnAt s fn with aqs := d }))) ∧
      (∀ d, exec (.registerWrite fn (.aqc d)) s = .next (if (fnAt s fn).aqen then s
        else s.withFns (s.fns.set fn { fnAt s fn with aqc := d }))) ∧
      (∀ v, exec (.registerWrite fn (.evbase v)) s = .next (s.withFns (s.fns.set fn { fnAt s fn with evbase := v }))) ∧
      (∀ v, exec (.registerWrite fn (.evlsize v)) s = .next (s.withFns (s.fns.set fn { fnAt s fn with evlsize := v }))) ∧
      (exec (.registerWrite fn (.even true)) s = .next (s.withFns (s.fns.set fn (if (fnAt s fn).even then fnAt s fn
        else { fnAt s fn with even := true, evIx := 0, evHead := 0, evSeq := 0, evLost := 0 })))) ∧
      (exec (.registerWrite fn (.even false)) s = .next (s.withFns (s.fns.set fn { fnAt s fn with even := false }))) ∧
      (∀ v, exec (.registerWrite 0 (.w2base v)) s = .next (s.withFns (s.fns.set 0 { fnAt s 0 with w2base := v }))) ∧
      (∀ v, exec (.registerWrite 0 (.w2we v)) s = .next (s.withFns (s.fns.set 0 { fnAt s 0 with w2we := v }))) ∧
      (∀ v, exec (.registerWrite 0 (.mbaddr v)) s = .next (s.withBoot { s.boot with mbAddr := v })) ∧
      (∀ v, exec (.registerWrite 0 (.mblen v)) s = .next (s.withBoot { s.boot with mbLen := v })) ∧
      (fn ≠ 0 → (∀ v, exec (.registerWrite fn (.w2base v)) s = .next s) ∧ (∀ v, exec (.registerWrite fn (.w2we v)) s = .next s) ∧
        (∀ v, exec (.registerWrite fn (.mbaddr v)) s = .next s) ∧ (∀ v, exec (.registerWrite fn (.mblen v)) s = .next s)) ∧
      (∀ k a d m, k < 64 → ∃ t, exec (.registerWrite fn (.msix k a d m)) s = .next t ∧
        t.fns = s.fns.set fn { fnAt s fn with
          msix := (fnAt s fn).msix.set k ⟨a, d, m, ((fnAt s fn).msix.getD k MsixE.reset).pend && m⟩ } ∧
        t.host = (if ((fnAt s fn).msix.getD k MsixE.reset).pend ∧ m = false then
          memWrite s.host (hostAt fn a.toNat) (leBytes 4 d.toNat) else s.host) ∧ (t.withFns s.fns).withHost s.host = s) ∧
      (∀ v, exec (.registerWrite fn (.atsEnable v)) s = .next (s.withFns (s.fns.set fn { fnAt s fn with ats := v }))) ∧
      (∀ v, exec (.registerWrite fn (.pasidEnable v)) s = .next (s.withFns (s.fns.set fn { fnAt s fn with pasid := v })))) ∧
    (∀ v, exec (.registerWrite fn (.alertMask v)) s = .next (s.withIo { s.io with
      alertMask := v, alertPin := decide (s.io.alerts &&& ~~~v ≠ 0) })) ∧
    (∀ pasid page,
      ∃ t, exec (.atsInvalidation fn pasid page) s = .next t ∧ (pasid, page) ∉ (fnAt t fn).atc ∧
      (∀ e, e ≠ (pasid, page) → (e ∈ (fnAt t fn).atc ↔ e ∈ (fnAt s fn).atc)) ∧
      (pageUses s fn pasid page ≠ [] → ⟨pasid, page, pageUses s fn pasid page⟩ ∈ (fnAt t fn).invals) ∧
      (pageUses s fn pasid page = [] → ∀ v ∈ (fnAt t fn).invals, v ∈ (fnAt s fn).invals) ∧
      (∀ f, f ≠ fn.val → fnAt t f = fnAt s f) ∧ t.withFns s.fns = s)

/-- Does a byte of module memory lie in a poisoned 128-byte line? -/
def inPoisonedLine (s : State) (b : Nat) : Prop := ∃ j, j < 4 ∧ secPois s.t2 (b / 128 * 4 + j) = true

/-- BAR2 offset x addresses module address ID.W2BASE × 1 GiB + x. A read of Utora's reserved memory or of a poisoned line
returns all ones, and the poisoned line is counted, once the error codes have found what they find in the lines read (R208); a
write takes effect where ID.W2WE = 1 and the address lies in no region of a partition that is not at rest, but not in the
reserved memory; any other write is dropped and counted (R328). That a write which touches a byte of such a region is dropped
whole is the model's choice (log entry 47), and so is the stop of an access beyond the window, which the manual gives no
meaning (log entry 18). -/
def Obligations.WindowReadsAndWrites : Prop :=
  ∀ (s : State) (x : Nat), Inv s → bar0Up s →
    (∀ n errs, x + n ≤ windowSize →
      ∃ t u, exec (.bar2Read x ⟨n, errs⟩) s = .next t ∧
      u = meetErrs s (windowLines ((fnAt s 0).w2base * 2 ^ 30 + x) n) errs ∧ (errs = ReadErrs.none → u = s) ∧
      u.t2.mem = s.t2.mem ∧ t.io.rsp.length = n ∧
      (∀ k, k < n → reservedBase ≤ (fnAt s 0).w2base * 2 ^ 30 + x + k ∨
        inPoisonedLine u ((fnAt s 0).w2base * 2 ^ 30 + x + k) → t.io.rsp.getD k 0 = 0xFF#8) ∧
      (∀ k, k < n → (fnAt s 0).w2base * 2 ^ 30 + x + k < reservedBase →
        ¬inPoisonedLine u ((fnAt s 0).w2base * 2 ^ 30 + x + k) →
        t.io.rsp.getD k 0 = memGet s.t2.mem ((fnAt s 0).w2base * 2 ^ 30 + x + k)) ∧
      (t.withIo { t.io with rsp := u.io.rsp }).withCtrs u.ctrs = u ∧
      ((∀ k, k < n → ¬inPoisonedLine u ((fnAt s 0).w2base * 2 ^ 30 + x + k)) → t.ctrs = u.ctrs) ∧
      (0 < n → (x % 128 + n) ≤ 128 → (fnAt s 0).w2base * 2 ^ 30 + x + n ≤ reservedBase →
        inPoisonedLine u ((fnAt s 0).w2base * 2 ^ 30 + x) →
        mapGet 0 t.ctrs (ctrKey 0 6 0 cB2Poison) = mapGet 0 u.ctrs (ctrKey 0 6 0 cB2Poison) + 1)) ∧
    (∀ data : List Byte, x + data.length ≤ windowSize → (fnAt s 0).w2we →
      (∀ k, k < data.length → inLiveRegion s ((fnAt s 0).w2base * 2 ^ 30 + x + k) = false) →
      ∃ t, exec (.bar2Write x data) s = .next t ∧
      (∀ k, k < data.length → (fnAt s 0).w2base * 2 ^ 30 + x + k < reservedBase →
        memGet t.t2.mem ((fnAt s 0).w2base * 2 ^ 30 + x + k) = data.getD k 0) ∧
      (∀ a, (∀ k, k < data.length → a ≠ (fnAt s 0).w2base * 2 ^ 30 + x + k) ∨ reservedBase ≤ a →
        memGet t.t2.mem a = memGet s.t2.mem a) ∧ t.withT2 s.t2 = s) ∧
    (∀ data : List Byte, x + data.length ≤ windowSize → (fnAt s 0).w2we = false ∨
      (∃ k, k < data.length ∧ inLiveRegion s ((fnAt s 0).w2base * 2 ^ 30 + x + k)) →
      ∃ t, exec (.bar2Write x data) s = .next t ∧
      mapGet 0 t.ctrs (ctrKey 0 6 0 cB2Drop) = mapGet 0 s.ctrs (ctrKey 0 6 0 cB2Drop) + 1 ∧ t.withCtrs s.ctrs = s) ∧
    (∀ n errs, windowSize < x + n → exec (.bar2Read x ⟨n, errs⟩) s = .fault .outsideWindow) ∧
    (∀ data : List Byte, windowSize < x + data.length → exec (.bar2Write x data) s = .fault .outsideWindow)

/-! ### The sideband -/

/-- While Distaff runs on a good input, every command of the I3C target has its effect, and touches nothing but the pins' unit: a
read returns the shadow bytes from the index upward and advances it, an alert flag is cleared by writing 1 and ALERT# follows, a
dynamic address is given once and taken back by RSTDAA; from the loss of the input until step 2 of R412 no command acts (R379,
R380, R381, R412, R422). That the index wraps at 256, and that ENTDAA and SETDASA act only where no dynamic address is held, is
log entry 46 (DEDUCED). -/
def I3cTargetAnswers : Prop :=
  (∀ (s : State), distaffUp s → s.io.inputOn →
    (∀ b : Byte, exec (.i3cIndexWrite b) s = .next (s.withIo { s.io with i3cIndex := b.toNat })) ∧
    (∀ n, ∃ t, exec (.i3cRead n) s = .next t ∧ t.io.rsp.length = n ∧
      (∀ k, k < n → t.io.rsp.getD k 0 = shadowByte s.io ((s.io.i3cIndex + k) % 256)) ∧
      t.io.i3cIndex = (s.io.i3cIndex + n) % 256 ∧ t.withIo s.io = s) ∧
    (∀ v, ∃ t, exec (.alertFlagClear v) s = .next t ∧
      (∀ k, t.io.alerts.getLsbD k = (s.io.alerts.getLsbD k && !v.getLsbD k)) ∧
      (t.io.alertPin = true ↔ ∃ k, t.io.alerts.getLsbD k ∧ s.io.alertMask.getLsbD k = false) ∧ t.withIo s.io = s) ∧
    (∀ a, s.io.i3cAddr = none →
      exec (.i3cEntdaa a) s = .next (s.withIo { s.io with i3cAddr := some a.toNat }) ∧
      exec (.i3cSetdasa a) s = .next (s.withIo { s.io with i3cAddr := some a.toNat })) ∧
    (∀ a, s.io.i3cAddr.isSome → exec (.i3cEntdaa a) s = .next s ∧ exec (.i3cSetdasa a) s = .next s) ∧
    exec .i3cRstdaa s = .next (s.withIo { s.io with i3cAddr := none }) ∧
    (∃ t, exec .i3cGetpid s = .next t ∧ t.io.rsp.length = 6 ∧ t.withIo s.io = s) ∧
    (∃ t, exec .i3cGetbcr s = .next t ∧ t.io.rsp.length = 1 ∧ t.withIo s.io = s) ∧
    (∃ t, exec .i3cGetdcr s = .next t ∧ t.io.rsp.length = 1 ∧ t.withIo s.io = s) ∧
    (∃ t, exec .i3cGetstatus s = .next t ∧ t.io.rsp.length = 2 ∧ t.withIo s.io = s) ∧
    (∃ t, exec .i3cGetmwl s = .next t ∧ t.io.rsp.length = 2 ∧ t.withIo s.io = s) ∧
    (∃ t, exec .i3cGetmrl s = .next t ∧ t.io.rsp.length = 2 ∧ t.withIo s.io = s) ∧
    exec .i3cEnec s = .next (s.withIo { s.io with i3cIbi := true }) ∧
    exec .i3cDisec s = .next (s.withIo { s.io with i3cIbi := false })) ∧
  ∀ (s : State), distaffUp s = false ∨ s.io.inputOn = false →
    ∀ i ∈ [Instr.i3cGetpid, .i3cGetbcr, .i3cGetdcr, .i3cGetstatus, .i3cGetmwl, .i3cGetmrl, .i3cRstdaa, .i3cEnec, .i3cDisec],
      exec i s = .next s ∧ (∀ b, exec (.i3cIndexWrite b) s = .next s) ∧ (∀ n, exec (.i3cRead n) s = .next s) ∧
      (∀ v, exec (.alertFlagClear v) s = .next s) ∧ (∀ a, exec (.i3cEntdaa a) s = .next s) ∧
      (∀ a, exec (.i3cSetdasa a) s = .next s)

/-- IDCODE shifts out 0x0D70_0A4B; BYPASS delays by one bit; SAMPLE/PRELOAD loads the boundary register; EXTEST drives the contacts
only while PERST# is asserted and acts as BYPASS at any other time; a token that verifies unlocks the private instructions,
which have no effect before (R420). What a private instruction does after an unlock the manual does not say, and the model refuses
it (log entry 18); that the unlock's history record has class 0 is log entry 44. -/
def TestPortActs : Prop :=
  ∀ (s : State),
    (∃ t, exec .tapIdcode s = .next t ∧ t.io.tapDr.length = 32 ∧
      (∀ k, k < 32 → t.io.tapDr.getD k false = Nat.testBit 0x0D700A4B k) ∧ t.withIo { s.io with tapDr := t.io.tapDr } = t ∧
      t.withIo s.io = s) ∧
    (∀ bits, ∃ t, exec (.tapBypass bits) s = .next t ∧ t.io.tapDr.length = bits.length ∧
      (∀ k, k + 1 < bits.length → t.io.tapDr.getD (k + 1) true = bits.getD k true) ∧
      t.io.contacts = s.io.contacts ∧ t.withIo s.io = s) ∧
    (∀ bits, ∃ t, exec (.tapSamplePreload bits) s = .next t ∧ t.io.tapDr.length = bits.length ∧ t.io.contacts = bits ∧
      (t.withIo s.io).withFree s.free = s) ∧
    (∀ bits, s.io.perst → ∃ t, exec (.tapExtest bits) s = .next t ∧ t.io.tapDr.length = bits.length ∧
      t.io.contacts = bits ∧ (t.withIo s.io).withFree s.free = s) ∧
    (∀ bits, s.io.perst = false → exec (.tapExtest bits) s = exec (.tapBypass bits) s) ∧
    (∀ t, s.boot.phase = .rom ∨ s.boot.phase = .utora → s.time.now.ule t →
      ∃ s', exec (.tapDebugUnlock true t) s = .next s' ∧ s'.io.tapUnlocked = true ∧
      (∃ h ∈ s'.boot.hist, h.kind = 12 ∧ h.cls = 0) ∧ s'.tiles = s.tiles ∧ s'.parts = s.parts ∧ s'.host = s.host) ∧
    (∀ t, exec (.tapDebugUnlock false t) s = .next s) ∧
    (∀ c, s.io.tapUnlocked = false → exec (.tapPrivateDebug c) s = .next s) ∧
    (∀ c, s.io.tapUnlocked → exec (.tapPrivateDebug c) s = .refused .privateDebug)

/-! ### Events of partitions and of store memory -/

/-- STARTING_COMPLETE makes a STARTING partition RUNNING, its whorl table expanded from the seed in effect, and completes
its PART_START, and at once STOPPING where a stop or a destroy waits; STOP_COMPLETE makes a STOPPING one STOPPED, its tiles reset, and completes its PART_STOP; from PENDING_ENABLE
it goes to STARTING (R148, R340, R341, R343). -/
def PartitionsStartAndStop : Prop :=
  ∀ (s : State) (p : Fin 32) (t : Word64), Inv s → s.time.now.ule t →
    ((partAt s p).st = .starting → hubUp s → runsCmd s p isStop = false → runsCmd s p isDestroy = false →
      ∃ s', exec (.startingComplete p t) s = .next s' ∧
      s'.parts = s.parts.set p { partAt s p with
        st := .running, whorl := some (expandSeed (partAt s p).seedOn), bal := budgetOf (partAt s p) } ∧
      (∀ r ∈ s.journal, r.st = .started → cmdOf p isStart r → CommittedIn s' r 0 t) ∧
      (∀ r ∈ s.journal, r.st ≠ .started ∨ cmdOf p isStart r = false → r ∈ s'.journal) ∧ s'.tiles = s.tiles ∧
      s'.groups = s.groups ∧ s'.t2 = s.t2 ∧ s'.fabric = s.fabric) ∧
    ((partAt s p).st = .starting → hubUp s → runsCmd s p isStop ∨ runsCmd s p isDestroy →
      ∃ s', exec (.startingComplete p t) s = .next s' ∧ (partAt s' p).st = .stopping ∧
      (∀ r ∈ s.journal, r.st = .started → cmdOf p isStart r → CommittedIn s' r 0 t) ∧
      (∀ k, k ≠ p.val → partAt s' k = partAt s k) ∧ s'.tiles = s.tiles ∧ s'.t2 = s.t2) ∧
    ((partAt s p).st = .stopping → (partAt s p).camp = none → (partAt s p).fault = none → runsCmd s p isDestroy = false →
      (∀ n, (tileRaw s n).replace = false) → (∀ g ∈ (partAt s p).groups, (groupAt s g).st ≠ .failed) →
      ∃ s', exec (.stopComplete p t) s = .next s' ∧
      s'.parts = s.parts.set p { partAt s p with
        st := .stopped, whorl := none,
        snaps := (partAt s p).snaps.filter (fun e => !(e.2.mark && decide (e.2.need ≠ []))) } ∧
      (∀ g ∈ (partAt s p).groups, ∀ k, k < 8 → tileRaw s' (8 * g + k) =
        { Tile.reset with errs := (tileRaw s (8 * g + k)).errs }) ∧
      (∀ n, n / 8 ∉ (partAt s p).groups → tileRaw s' n = tileRaw s n) ∧
      (∀ r ∈ s.journal, r.st = .started → cmdOf p isStop r → CommittedIn s' r 0 t) ∧
      (∀ r ∈ s.journal, r.st ≠ .started ∨ cmdOf p isStop r = false → r ∈ s'.journal) ∧
      s'.groups = s.groups ∧ s'.t2 = s.t2 ∧ s'.fabric = s.fabric) ∧
    ((partAt s p).st = .pendingEnable → (partAt s p).camp = none → (partAt s p).fault = none →
      runsCmd s p isDestroy = false → (∀ n, (tileRaw s n).replace = false) →
      ∃ s', exec (.stopComplete p t) s = .next s' ∧ (partAt s' p).st = .starting ∧
      (partAt s' p).seedOn = (partAt s p).seed ∧ (∀ k, k ≠ p.val → partAt s' k = partAt s k) ∧ s'.t2 = s.t2)

/-- A drained group without marked tiles becomes FREE, or ASSIGNED to the partition that waits for it, with its eight tiles
reset; a DESTROYING partition whose regions are scrubbed becomes UNUSED, its pages zero and its queues gone (R340, R342,
R343). -/
def DrainAndScrubComplete : Prop :=
  ∀ (s : State) (t : Word64), Inv s → s.time.now.ule t →
    (∀ g : Fin 24, (groupAt s g).st = .draining → (∀ n, (tileRaw s n).replace = false) →
      ∃ s', exec (.groupDrainComplete g t) s = .next s' ∧ groupAt s' g = ⟨.free, 0⟩ ∧
      (∀ k, k ≠ g.val → groupAt s' k = groupAt s k) ∧ (∀ k, k < 8 → tileRaw s' (8 * g.val + k) =
        { Tile.reset with errs := (tileRaw s (8 * g.val + k)).errs }) ∧
      (∀ n, n / 8 ≠ g.val → tileRaw s' n = tileRaw s n) ∧ s'.parts = s.parts ∧ s'.journal = s.journal ∧ s'.t2 = s.t2 ∧
      s'.host = s.host) ∧
    (∀ g : Fin 24, (groupAt s g).st = .pendingEnable → (∀ n, (tileRaw s n).replace = false) →
      ∃ s', exec (.groupDrainComplete g t) s = .next s' ∧ groupAt s' g = ⟨.assigned, (groupAt s g).part⟩ ∧
      (∀ k, k ≠ g.val → groupAt s' k = groupAt s k) ∧ (∀ k, k < 8 → tileRaw s' (8 * g.val + k) =
        { Tile.reset with errs := (tileRaw s (8 * g.val + k)).errs }) ∧
      (∀ k, k ≠ (groupAt s g).part → partAt s' k = partAt s k) ∧ s'.t2 = s.t2 ∧ s'.host = s.host) ∧
    (∀ p : Fin 32, (partAt s p).st = .destroying →
      ∃ s', exec (.regionsScrubbed p t) s = .next s' ∧ partAt s' p = Part.unused ∧
      (∀ k, k ≠ p.val → partAt s' k = partAt s k) ∧
      (∀ a, a / pageSize ∈ partPages (partAt s p) → memGet s'.t2.mem a = 0) ∧
      (∀ a, a / pageSize ∉ partPages (partAt s p) → memGet s'.t2.mem a = memGet s.t2.mem a) ∧
      (∀ n, sqAt s' p n = none ∧ cqAt s' p n = none) ∧
      (∀ r ∈ s.journal, r.st = .started → cmdOf p isDestroy r → CommittedIn s' r 0 t) ∧ s'.tiles = s.tiles ∧
      s'.groups = s.groups)

/-- FAULT_RECORD_COMPLETE makes the partition FAULTED, tells the campaign's members and completes its running commands with
the fault's status and record, the campaign's once its turn records are written; PEER_FAULT_RECEIVE from a member with which the
digest has been exchanged raises PEER_FAULT, or SHARD_LOST where a switch has lost a shard there; FUNCTION_LEVEL_RESET gives the
function its reset values, for the PF the mailbox's too, completes its commands and stops its partition (R5, R46, R303, R305, R337,
R344, R345). That a fault completes a PART_DESTROY whose stop it cuts off, and that the reset cancels a start of its partition
that another function's queue holds, in STARTING too, are log entry 27 (DEDUCED from R341 and R361). -/
def Obligations.FaultsAndResetsComplete : Prop :=
  ∀ (s : State) (p : Fin 32) (t : Word64), Inv s → s.time.now.ule t →
    (∀ f, (partAt s p).fault = some f → f.completed = false → (partAt s p).camp = none →
      ∃ s', exec (.faultRecordComplete p t) s = .next s' ∧ (partAt s' p).st = .faulted ∧
      (partAt s' p).fault = some { f with completed := true } ∧
      (∀ r ∈ s.journal, r.st = .started → cmdOf p (fun c => isStop c || isStart c || isDestroy c) r →
        CommittedIn s' r f.status t) ∧
      (∀ r ∈ s.journal, r.st ≠ .started ∨ recPart r ≠ p.val → r ∈ s'.journal) ∧
      (∀ k, k ≠ p.val → partAt s' k = partAt s k) ∧ s'.tiles = s.tiles ∧ s'.t2 = s.t2) ∧
    (∀ f c r, (partAt s p).fault = some f → f.completed = false → f.peer = false → (partAt s p).camp = some c →
      c.phase ≠ .turn → c.fin = none → c.due = [] → c.badRec = false →
      headRec s c.q = some r → r.st = .started →
      ∃ s', exec (.faultRecordComplete p t) s = .next s' ∧ (partAt s' p).st = .faulted ∧ (partAt s' p).camp = none ∧
      CommittedIn s' r f.status t ∧
      (∀ m ∈ c.p.positions, m ≠ s.fabric.member → ∃ x ∈ s'.fabric.out, x.dest = m ∧
        x.msg = .peerFault c.p.id s.fabric.member (shardDetail (partAt s p) f)) ∧
      (∀ k, k ≠ p.val → partAt s' k = partAt s k)) ∧
    (∀ f c, (partAt s p).fault = some f → f.completed = false → f.peer = false → (partAt s p).camp = some c →
      c.phase ≠ .turn → c.fin = none → c.due ≠ [] →
      ∃ s' c', exec (.faultRecordComplete p t) s = .next s' ∧ (partAt s' p).st = .faulted ∧ (partAt s' p).camp = some c' ∧
      c'.phase = .closing ∧ c'.fin = some (f.status, some f.ix) ∧ (∀ k, k ≠ p.val → partAt s' k = partAt s k)) ∧
    (∀ c (m : MsgAt), (partAt s p).camp = some c → m.frm ∈ c.p.positions → (partAt s p).fault = none →
      (m.frm, m.seq) ∉ s.fabric.seen → boundWith s c m.frm →
      ∃ s' r, exec (.peerFaultReceive p ⟨m, none⟩ t) s = .next s' ∧ (partAt s' p).flog = (partAt s p).flog ++ [r] ∧
      r.status = 0x0340 ∧ r.other = memberCode m.frm ∧ r.time = t ∧ r.tile = 255 ∧
      (partAt s' p).fault = some ⟨(partAt s p).flog.length, 0x0340, false, true⟩ ∧
      (∀ k, k ≠ p.val → partAt s' k = partAt s k) ∧ s'.t2 = s.t2 ∧ s'.journal = s.journal) ∧
    (∀ c (m : MsgAt) d, (partAt s p).camp = some c → m.frm ∈ c.p.positions → (partAt s p).fault = none →
      (m.frm, m.seq) ∉ s.fabric.seen → boundWith s c m.frm →
      ∃ s' r, exec (.peerFaultReceive p ⟨m, some d⟩ t) s = .next s' ∧ (partAt s' p).flog = (partAt s p).flog ++ [r] ∧
      r.status = 0x0339 ∧ r.detail = d ∧ r.time = t ∧ (∃ c', (partAt s' p).camp = some c' ∧ c'.sw = none) ∧
      (partAt s' p).fault = some ⟨(partAt s p).flog.length, 0x0339, false, true⟩ ∧
      (∀ k, k ≠ p.val → partAt s' k = partAt s k) ∧ s'.t2 = s.t2 ∧ s'.journal = s.journal) ∧
    (s.io.linkUp → s.io.perst = false →
      ∃ s', exec (.functionLevelReset p t) s = .next s' ∧ fnAt s' p = Fn.reset ∧ (partAt s' p).camp = none ∧
      (∀ r ∈ s'.journal, r.q.fn = p → r.st ≠ .accepted ∧ r.st ≠ .started) ∧
      (∀ r ∈ s.journal, r.q.fn = p → r.st = .started → CommittedIn s' r 0x0206 t) ∧
      (∀ r ∈ s.journal, r.q.fn = p → r.st = .accepted → CommittedIn s' r 0x0202 t) ∧
      (∀ r ∈ s.journal, r.q.fn ≠ p → cmdOf p isStart r = false → r ∈ s'.journal) ∧
      (∀ r ∈ s.journal, r.q.fn ≠ p → r.st = .started → cmdOf p isStart r → CommittedIn s' r 0x0201 t) ∧
      ((partAt s p).st = .running → (partAt s' p).st = .stopping) ∧ (partAt s' p).regions = (partAt s p).regions ∧
      (p = 0 → s'.boot.mbState = 0 ∧ s'.boot.mbErr = 0 ∧ s'.boot.mbAddr = 0 ∧ s'.boot.mbLen = 0) ∧
      (∀ k, k ≠ p.val → partAt s' k = partAt s k) ∧ s'.t2 = s.t2)

/-- A fill that runs and lands gives its frame the page as the error codes find it (R208), or is discarded where its epoch is not
current or its frame is to be released; a victim's frame is released once it serves no read, and filled with the page that waits
for it; at each multiple of 1,000,000 ns the heat h of every page falls by h / 16, rounded up (R196, R198). What a fill from the
host does whose read fails is the model's choice (log entry 31): the frame is free, and the failure is reported (R210). -/
def Obligations.StoreFramesMove : Prop :=
  ∀ (s : State), Inv s →
    (∀ n f data errs, frameAt s n = some f → f.whole = false → fillRuns s n → f.victim = false → keyCurrent s f.key →
      fillFromHost s f.key = false ∨ data.length = pageSize →
      ∃ t u, exec (.t1FillLand ⟨n, data, .ok errs⟩) s = .next t ∧
      u = (if fillFromHost s f.key then s else meetErrs s (fillLines s f.key) errs) ∧ (errs = ReadErrs.none → u = s) ∧
      frameAt t n = some (filledFrame u f data) ∧
      (filledFrame u f data).whole ∧ n ∉ t.t1.fills ∧ (∀ k, k ≠ n → frameAt t k = frameAt s k) ∧
      (t.withT1 u.t1).withFns u.fns = u) ∧
    (∀ n f data errs, frameAt s n = some f → f.whole = false → fillRuns s n → f.victim ∨ keyCurrent s f.key = false →
      f.nxt = none → s.t1.pins = [] →
      ∃ t, exec (.t1FillLand ⟨n, data, .ok errs⟩) s = .next t ∧ frameAt t n = none ∧
      (∀ k, k ≠ n → frameAt t k = frameAt s k) ∧ (t.withT1 s.t1).withFns s.fns = s) ∧
    (∀ n f data addr why, frameAt s n = some f → f.whole = false → fillRuns s n →
      (fillFromHost s f.key = false → exec (.t1FillLand ⟨n, data, .translation addr why⟩) s = .next s) ∧
      (fillFromHost s f.key → f.pin = false → f.nxt = none → s.t1.pins = [] →
        ∃ t, exec (.t1FillLand ⟨n, data, .translation addr why⟩) s = .next t ∧ frameAt t n = none ∧
        (∀ k, k ≠ n → frameAt t k = frameAt s k) ∧ (why ≠ .noPermission → why ∈ (fnAt t f.key.part).aer) ∧
        (t.withT1 s.t1).withFns s.fns = s)) ∧
    (∀ n f data errs k pin holds, frameAt s n = some f → f.whole = false → fillRuns s n →
      f.victim ∨ keyCurrent s f.key = false → f.nxt = some (k, pin, holds) →
      ∃ t, exec (.t1FillLand ⟨n, data, .ok errs⟩) s = .next t ∧ frameAt t n = some (givenFrame k pin holds s.time.now) ∧
      n ∈ t.t1.fills ∧ (∀ j, j ≠ n → frameAt t j = frameAt s j) ∧ (t.withT1 s.t1).withFns s.fns = s) ∧
    (∀ n f, frameAt s n = some f → f.victim → frameBusy s n f = false → f.nxt = none → s.t1.pins = [] →
      ∃ t, exec (.frameRelease n) s = .next t ∧ frameAt t n = none ∧ (∀ k, k ≠ n → frameAt t k = frameAt s k) ∧
      t.withT1 s.t1 = s) ∧
    (∀ n f k pin holds, frameAt s n = some f → f.victim → frameBusy s n f = false → f.nxt = some (k, pin, holds) →
      ∃ t, exec (.frameRelease n) s = .next t ∧ frameAt t n = some (givenFrame k pin holds s.time.now) ∧
      (∀ j, j ≠ n → frameAt t j = frameAt s j) ∧ t.withT1 s.t1 = s) ∧
    (∀ t, s.time.now.ule t → t.toNat % 1000000 = 0 → s.time.decays < t.toNat / 1000000 →
      ∃ s', exec (.heatDecay t) s = .next s' ∧ s'.time.decays = t.toNat / 1000000 ∧
      (∀ p r g b, regionAt s p r = some g → g.cur = some b → keysRise b.heat →
        ∃ g' b', regionAt s' p r = some g' ∧ g'.cur = some b' ∧ b'.epoch = b.epoch ∧ b'.pages = b.pages ∧
        ∀ k, mapGet 0 b'.heat k = mapGet 0 b.heat k - (mapGet 0 b.heat k + 15) / 16) ∧
      (s'.withParts s.parts).withTime s.time = s)

/-! ### Command words: the sequencer and synchronisation -/

/-- The tile that a word runs on. -/
def tileOf (s : State) (a : TileAt) : Tile := tileAt s a.part a.tile

/-- What the words of a tile compute with and on: registers, semaphores, T0, predicates, flags, slots, queues of results. -/
def dataOf (x : Tile) : Map Word64 × Map Nat × Memory × Map Tag × Map TReg × Map NSet × FlagWord × List FtqE ×
    MxSlot × MxSlot × MxSlot × Option Held × List StatAdd × List (Nat × Nat) :=
  (x.sregs, x.sems, x.t0, x.pois, x.tregs, x.preds, x.ewf, x.ftq, x.slotA, x.slotB, x.slotD, x.held, x.stats, x.marks)

/-- The head word of queue q of a tile is done: its tile's data is that of y, the queue has moved on, and no other tile's data,
no memory of the module, no group, journal, port or clock has changed. -/
def WordDone (s : State) (a : TileAt) (q : Nat) (o : Out) (y : Tile) : Prop :=
  ∃ t, o = .next t ∧ dataOf (tileOf t a) = dataOf y ∧
    (q ≠ 0 → (queueAt (tileOf s a) q).tail <+: queueAt (tileOf t a) q) ∧
    (∀ n, tileIx s a.part a.tile ≠ some n → dataOf (tileRaw t n) = dataOf (tileRaw s n)) ∧ t.t2 = s.t2 ∧ t.t1 = s.t1 ∧
    t.groups = s.groups ∧ t.journal = s.journal ∧ t.fabric = s.fabric ∧ t.power = s.power ∧ t.time = s.time ∧
    (∀ k, k ≠ a.part.val → partAt t k = partAt s k)

/-- Once the head word of queue q is gone, the sequencer stands at a word of its own and passes nothing. -/
def seqRests (x : Tile) (q : Nat) : Prop := ∃ w, (popWord x q).words[(popWord x q).pc]? = some w ∧ queueOf w = 0

/-- One fault record more in a partition's log, with this status, tile, queue and word. -/
def FaultAt (s t : State) (a : TileAt) (q ix status : Nat) (more : FaultRec → Prop) : Prop :=
  ∃ r, (partAt t a.part).flog = (partAt s a.part).flog ++ [r] ∧ r.status = status ∧ r.tile = a.tile.val ∧ r.q = q ∧
    r.word = ix ∧ r.time = s.time.now ∧ more r ∧
    (partAt t a.part).fault = some ⟨(partAt s a.part).flog.length, status, false, false⟩

/-- Each scalar word at the head of its sequencer puts the value of R19's table into its destination register, s0 staying 0,
and changes no other register. That TBASE's local copy of the timebase is the module's is log entry 8 (DEDUCED). -/
def Obligations.ScalarWordsCompute : Prop :=
  ∀ (s : State) (a : TileAt) (w : SqW), TilesOk s →
    let x := tileOf s a
    let ra := sreg x w.a.toNat
    let rb := sreg x w.b.toNat
    let ext := w.imm.signExtend 64
    let sh := (rb + ext).toNat % 64
    let gives (c : TWord) (i : Instr) (v : Word64) : Prop := (atHead s a 0 c).isSome →
      WordDone s a 0 (exec i s) (setSreg x w.dst.toNat v) ∧
      (∀ r, sreg (setSreg x w.dst.toNat v) r = if r = w.dst.toNat ∧ r ≠ 0 then v else sreg x r)
    gives (.li w) (.li a w) ext ∧
    gives (.lih w) (.lih a w) (BitVec.append w.imm ((sreg x w.dst.toNat).extractLsb' 0 32)) ∧
    gives (.add w) (.add a w) (ra + rb + ext) ∧ gives (.sub w) (.sub a w) (ra - rb) ∧
    gives (.mul w) (.mul a w) (ra * rb) ∧ gives (.and w) (.and a w) (ra &&& rb) ∧
    gives (.or w) (.or a w) (ra ||| rb) ∧ gives (.xor w) (.xor a w) (ra ^^^ rb) ∧
    gives (.shl w) (.shl a w) (ra <<< sh) ∧ gives (.shr w) (.shr a w) (ra >>> sh) ∧
    gives (.qcnt w) (.qcnt a w) (BitVec.ofNat 64 (if w.imm.toNat % 16 = 1 then x.q1.length
      else if w.imm.toNat % 16 = 2 then x.q2.length else if w.imm.toNat % 16 = 3 then x.q3.length
      else if w.imm.toNat % 16 = 4 then x.sigin.length else if w.imm.toNat % 16 = 5 then x.ftq.length else 0)) ∧
    gives (.tbase w) (.tbase a w) s.time.now ∧ gives (.tileid w) (.tileid a w) (BitVec.ofNat 64 a.tile.val)

/-- Up to four LOOP bodies nest, each wholly inside the segment's list and inside the body around it. LOOP then opens a
frame over its body with the count in its register, and a count of 0 passes the body; a fifth level, a length of 0, a body past
the end of the list or past the body around it raises ILLEGAL_COMMAND at the LOOP word, before a word of the body issues (R20). -/
def Obligations.LoopsNestFourDeep : Prop :=
  ∀ (s : State) (a : TileAt) (h : QWord), Inv s →
    let x := tileOf s a
    (∀ w k, atHead s a 0 (.loop w) = some h → x.loops.length < 4 → w.imm.toNat % 65536 = k → k ≠ 0 →
      x.pc + 1 + k ≤ x.words.length → (∀ f, x.loops.head? = some f → x.pc + 1 + k ≤ f.start + f.len) →
      ((sreg x w.a.toNat).toNat % 2 ^ 32 ≠ 0 → (∃ v, x.words[x.pc + 1]? = some v ∧ queueOf v = 0) →
        exec (.loop a w) s = .next (setTile s a.part a.tile { x with
          pc := x.pc + 1, loops := ⟨x.pc + 1, k, (sreg x w.a.toNat).toNat % 2 ^ 32⟩ :: x.loops })) ∧
      ((sreg x w.a.toNat).toNat % 2 ^ 32 = 0 → x.loops = [] →
        (∃ v, x.words[x.pc + 1 + k]? = some v ∧ queueOf v = 0) →
        exec (.loop a w) s = .next (setTile s a.part a.tile { x with pc := x.pc + 1 + k, loops := [] }))) ∧
    (∀ w, atHead s a 0 (.loop w) = some h → 4 ≤ x.loops.length ∨ w.imm.toNat % 65536 = 0 ∨
      x.words.length < x.pc + 1 + w.imm.toNat % 65536 ∨
      (∃ f, x.loops.head? = some f ∧ f.start + f.len < x.pc + 1 + w.imm.toNat % 65536) →
      ∃ t, exec (.loop a w) s = .next t ∧ FaultAt s t a 0 h.ix 0x0308 (fun _ => True) ∧ (tileOf t a).pc = x.pc ∧
      (tileOf t a).loops = x.loops)

/-- A word with a reserved or undefined opcode or a reserved value raises ILLEGAL_COMMAND at its queue's head (R17, R44). -/
def ReservedWordsFault : Prop :=
  ∀ (s : State) (a : TileAt) (h : QWord) (raw : Word64), Inv s → atHead s a (queueOf raw) .illegal = some h → h.raw = raw →
    ∃ t, exec (.reservedOpcodeWord a raw) s = .next t ∧ FaultAt s t a (queueOf raw) h.ix 0x0308 (fun _ => True) ∧
    t.t2 = s.t2 ∧ (∀ k, k ≠ a.part.val → partAt t k = partAt s k)

/-- SIGNAL puts its count into the inbound queue of its target; its arrival adds it to the semaphore, or raises SEM_OVERFLOW above
65,535. WAIT takes its count where it is there, and blocks its queue where it is not; a blocked WAIT goes on when the count
has come and times out when it has waited too long. TAKE takes its count or raises SEM_UNDERFLOW. MARK is noted; SEGEND ends
its queue (R21 to R24, R36, R37, R44, R387). -/
def SynchronisationWords : Prop :=
  ∀ (s : State) (a : TileAt) (w : SyncW) (h : QWord), Inv s → TilesOk s →
    let x := tileOf s a
    let q := w.q.toNat
    (atHead s a q (.signal w) = some h → chainOpen x q = false → seqRests x q →
      ((tileSeg s a).map (fun d => segHasTile d (signalTarget a w))).getD false → signalTarget a w < nTiles s a.part →
      owesStores x q = false → (tileAt s a.part (signalTarget a w)).sigin.length < 256 →
      ∃ t, exec (.signal a w) s = .next t ∧ (tileAt t a.part (signalTarget a w)).sigin =
        (tileAt s a.part (signalTarget a w)).sigin ++ [⟨w.sem.toNat, w.arg.toNat, a.tile.val, q⟩] ∧
      WordDone s a q (exec (.signal a w) s) x ∧ t.parts = s.parts) ∧
    (∀ n g, x.sigin[n]? = some g → issues s a.part → a.tile.val < nTiles s a.part → arrivalOk x.sigin n g →
      (sem x g.sem + g.count ≤ 65535 → ∃ t, exec (.signalArrival a n) s = .next t ∧
        (tileOf t a).sigin = x.sigin.eraseIdx n ∧ sem (tileOf t a) g.sem = sem x g.sem + g.count ∧
        (∀ m, m ≠ g.sem → sem (tileOf t a) m = sem x m) ∧ t.withTiles s.tiles = s) ∧
      (65535 < sem x g.sem + g.count → ∃ t r, exec (.signalArrival a n) s = .next t ∧
        (partAt t a.part).flog = (partAt s a.part).flog ++ [r] ∧ r.status = 0x0302 ∧ r.sem = g.sem ∧
        r.tile = a.tile.val ∧ r.other = g.tile ∧ (r.detail = sem x g.sem ∨ r.detail = g.count))) ∧
    (atHead s a q (.wait w) = some h → chainOpen x q = false →
      (w.arg.toNat ≤ sem x w.sem.toNat →
        WordDone s a q (exec (.wait a w) s) (setSem x w.sem.toNat (sem x w.sem.toNat - w.arg.toNat))) ∧
      (sem x w.sem.toNat < w.arg.toNat → ∃ t, exec (.wait a w) s = .next t ∧
        (tileOf t a).blocked = ⟨q, none, w.sem.toNat, w.arg.toNat, s.time.wait, tileWork s x⟩ :: x.blocked ∧
        dataOf (tileOf t a) = dataOf x ∧ t.withTiles s.tiles = s)) ∧
    (∀ k b, issues s a.part → a.tile.val < nTiles s a.part →
      x.blocked.find? (fun b => decide (b.q = k) && b.ring.isNone) = some b → k < 4 →
      (b.count ≤ sem x b.sem →
        WordDone s a k (exec (.waitSatisfied a (Fin.ofNat 4 k)) s) (setSem x b.sem (sem x b.sem - b.count))) ∧
      (x.blocked.find? (fun b => decide (b.q = k)) = some b → sem x b.sem < b.count →
        waitLimit s a.part < (s.time.wait - b.since).toNat →
        ∃ t r, exec (.waitTimeout a (Fin.ofNat 4 k)) s = .next t ∧
        (partAt t a.part).flog = (partAt s a.part).flog ++ [r] ∧ r.status = 0x0303 ∧ r.tile = a.tile.val ∧ r.q = k ∧
        r.sem = b.sem ∧ (r.detail = sem x b.sem ∨ r.detail = b.count))) ∧
    (atHead s a q (.take w) = some h → chainOpen x q = false →
      (w.arg.toNat ≤ sem x w.sem.toNat →
        WordDone s a q (exec (.take a w) s) (setSem x w.sem.toNat (sem x w.sem.toNat - w.arg.toNat))) ∧
      (sem x w.sem.toNat < w.arg.toNat → ∃ t, exec (.take a w) s = .next t ∧
        FaultAt s t a q h.ix 0x0301 (fun r => r.sem = w.sem.toNat ∧
          (r.detail = sem x w.sem.toNat ∨ r.detail = w.arg.toNat)))) ∧
    (atHead s a q (.mark w) = some h → chainOpen x q = false →
      WordDone s a q (exec (.mark a w) s) { x with marks := (q, h.ix) :: x.marks.filter (fun e => e.1 ≠ q) }) ∧
    (atHead s a q (.segend w) = some h → chainOpen x q = false → (x.seg.map (fun r => r.seg)) = some (w.arg.toNat % 65536) →
      (q = 0 → x.pc + 1 = x.words.length ∧ 1 ∈ x.closed ∧ 2 ∈ x.closed ∧ 3 ∈ x.closed) → (q = 1 → x.held = none) →
      (q = 3 → (∀ e ∈ x.rings, ∀ b ∈ e.2.bobs, b.st ≠ .sending) ∧ residueRing x = none) →
      ∃ t, exec (.segend a w) s = .next t ∧ (tileOf t a).ended = q :: x.ended ∧ dataOf (tileOf t a) = dataOf x ∧
      t.t2 = s.t2)

/-! ### Command words: the engines -/

/-- The slot, origin and finish words set what they name. MXMUL starts with every check passed: the register it will write continues its
run, keeps the elements outside its selection, and holds the group sum of its one group where it starts a run with one;
MXDELTA adds a pass to the held window; MULTIPLY_WORD_COMPLETE makes them take effect together, on the elements that the word
updates. A held register refuses MXORG and MXFIN, and a mask that overlaps raises DELTA_OVERLAP (R61, R63, R66 to R70, R73, R75 to
R83); a word that has met a parity error taints what it sets (R30). Which of several failing checks a word reports first is log
entry 29 (CANON_ORDER before the operand checks DEDUCED, DELTA_OVERLAP before slot D's format and extent DESIGN CHOICE). -/
def Obligations.MatrixWords : Prop :=
  ∀ (s : State) (a : TileAt) (h : QWord), Inv s → TilesOk s →
    let x := tileOf s a
    (∀ w, atHead s a 1 (.mxseta w) = some h → WordDone s a 1 (exec (.mxseta a w) s)
      { x with slotA := ⟨w, w.addr.toNat, x.slotA.saddr, x.slotA.skstride, h.bad, x.slotA.sbad⟩ }) ∧
    (∀ w, atHead s a 1 (.mxsetb w) = some h → WordDone s a 1 (exec (.mxsetb a w) s)
      { x with slotB := ⟨w, w.addr.toNat, x.slotB.saddr, x.slotB.skstride, h.bad, x.slotB.sbad⟩ }) ∧
    (∀ w, atHead s a 1 (.mxsetd w) = some h → WordDone s a 1 (exec (.mxsetd a w) s)
      { x with slotD := ⟨w, w.addr.toNat, x.slotD.saddr, x.slotD.skstride, h.bad, x.slotD.sbad⟩ }) ∧
    (∀ w, atHead s a 1 (.mxsets w) = some h →
      (w.slot = 0 → WordDone s a 1 (exec (.mxsets a w) s)
        { x with slotA := ⟨x.slotA.w, x.slotA.addr, w.addr.toNat, w.kstride.toNat, x.slotA.bad, h.bad⟩ }) ∧
      (w.slot = 1 → WordDone s a 1 (exec (.mxsets a w) s)
        { x with slotB := ⟨x.slotB.w, x.slotB.addr, w.addr.toNat, w.kstride.toNat, x.slotB.bad, h.bad⟩ }) ∧
      (w.slot = 2 → WordDone s a 1 (exec (.mxsets a w) s)
        { x with slotD := ⟨x.slotD.w, x.slotD.addr, w.addr.toNat, w.kstride.toNat, x.slotD.bad, h.bad⟩ })) ∧
    (∀ w, atHead s a 1 (.mxorg w) = some h →
      ((x.held.map (fun g => g.dst)) ≠ some w.dst.toNat → WordDone s a 1 (exec (.mxorg a w) s)
        (setTreg x w.dst.toNat { treg x w.dst.toNat with
          rowb := w.rowb.toNat, colb := w.colb.toNat, stream := w.stream.toNat, obad := h.bad })) ∧
      ((x.held.map (fun g => g.dst)) = some w.dst.toNat →
        ∃ t, exec (.mxorg a w) s = .next t ∧ FaultAt s t a 1 h.ix 0x0310 (fun _ => True))) ∧
    (∀ w ba bb, atHead s a 1 (.mxmul w) = some h → x.held = none → runOk (shapeOf s a.part).run (treg x w.dst.toNat) w →
      (w.hold → x.slotA.w.fmt ≠ 0 ∧ x.slotB.w.fmt ≠ 0) → slotUse s a x.slotA false w.nk.toNat = .ok ba →
      slotUse s a x.slotB false w.nk.toNat = .ok bb → braked s.power = false →
      ∃ t p, exec (.mxmul a w) s = .next t ∧ (tileOf t a).mxPend = some p ∧ dataOf (tileOf t a) = dataOf x ∧
      t.withTiles s.tiles = s ∧ p.dst = w.dst.toNat ∧ p.kgroups = w.nk.toNat ∧ p.reg.run = true ∧ p.reg.held = w.hold ∧
      p.reg.nextk = (w.kidx.toNat + w.nk.toNat) % 65536 ∧ (p.held.isSome = true ↔ w.hold = true) ∧
      (∀ n, n < 4096 → selected x w.pm.toNat w.pred.toNat n = false →
        tregElem w.dst.toNat p.reg n = tregElem w.dst.toNat (treg x w.dst.toNat) n) ∧
      (w.acc = false → w.hold = false → w.nk = 1 → ∀ n, n < 4096 → selected x w.pm.toNat w.pred.toNat n →
        tregElem w.dst.toNat p.reg n = (groupSum (decide (x.slotA.w.fmt = 0) || decide (x.slotB.w.fmt = 0))
          ((pairsAt (slotBlock x x.slotA false ba 0) (slotBlock x x.slotB false bb 0) (n / 64) (n % 64)).map
            (fun e => (e.1.v, e.2.v)))).x)) ∧
    (∀ w, atHead s a 1 (.mxmul w) = some h → x.held.isSome ∨
      runOk (shapeOf s a.part).run (treg x w.dst.toNat) w = false →
      ∃ t, exec (.mxmul a w) s = .next t ∧ FaultAt s t a 1 h.ix 0x0310 (fun _ => True)) ∧
    (∀ w g bd, atHead s a 1 (.mxdelta w) = some h → x.held = some g → g.dst = w.dst.toNat → g.kidx = w.kidx.toNat →
      (treg x g.dst).holdn ≠ 15 →
      ((∀ i, i < 64 → predAt x w.pred.toNat i 0 → setHas (treg x g.dst).dmask i = false) →
        slotUse s a x.slotD true 1 = .ok bd → braked s.power = false →
        ∃ t p, exec (.mxdelta a w) s = .next t ∧ (tileOf t a).mxPend = some p ∧ dataOf (tileOf t a) = dataOf x ∧
        t.withTiles s.tiles = s ∧ p.dst = w.dst.toNat ∧ p.kgroups = 0 ∧
        (w.hold → p.reg = { treg x g.dst with holdn := (treg x g.dst).holdn + 1, dmask := p.reg.dmask } ∧
          ∃ g' d, p.held = some g' ∧ g'.passes = g.passes ++ [d] ∧ d.b = slotBlock x (taintSlot h.bad x.slotD) true bd 0) ∧
        (w.hold = false → p.held = none ∧ p.reg.holdn = 0 ∧ p.reg.held = false)) ∧
      (∀ i, i < 64 → predAt x w.pred.toNat i 0 → setHas (treg x g.dst).dmask i →
        ∃ t, exec (.mxdelta a w) s = .next t ∧ FaultAt s t a 1 h.ix 0x0311 (fun _ => True))) ∧
    (∀ p, x.mxPend = some p → issues s a.part → a.tile.val < nTiles s a.part →
      WordDone s a 1 (exec (.multiplyWordComplete a) s) { setTreg x p.dst (writeBack (treg x p.dst) p) with
        held := p.held, slotA := p.slots.getD 0 x.slotA, slotB := p.slots.getD 1 x.slotB,
        slotD := p.slots.getD 2 x.slotD } ∧
      (p.sel = none → writeBack (treg x p.dst) p = p.reg) ∧
      (∀ sel n, p.sel = some sel → (∀ e ∈ sel, e.1 ≠ n) →
        tregElem p.dst (writeBack (treg x p.dst) p) n = tregElem p.dst (treg x p.dst) n)) ∧
    (∀ w, atHead s a 1 (.mxfin w) = some h →
      (x.held = none → x.ftq.length < 4 → WordDone s a 1 (exec (.mxfin a w) s) { x with
        ftq := x.ftq ++ [taintFtq h.bad {
          elems := (List.range 4096).map (tregElem w.dst.toNat (treg x w.dst.toNat)),
          pois := (treg x w.dst.toNat).pois, flags := (treg x w.dst.toNat).flags, rowb := (treg x w.dst.toNat).rowb,
          colb := (treg x w.dst.toNat).colb, stream := (treg x w.dst.toNat).stream, obad := (treg x w.dst.toNat).obad, reg := w.dst.toNat,
          tag := w.tag.toNat }] }) ∧
      (x.held.isSome → ∃ t, exec (.mxfin a w) s = .next t ∧ FaultAt s t a 1 h.ix 0x0310 (fun _ => True)))

/-- A group sum: with any NaN operand, an infinity times zero or two infinities of unlike sign it is the NaN 0x7FC0_0000; with
infinities of one sign alone that infinity; over zero products alone it is −0 where every product is −0, else +0 (R60). -/
def Obligations.GroupSumSpecials : Prop :=
  ∀ (fmode : Bool) (ps : List (FVal × FVal)),
    (ps.any (fun e => e.1.isNaN || e.2.isNaN) → (groupSum fmode ps).x = 0x7FC00000) ∧
    (ps.any (fun e => isInvProd e.1 e.2) → (groupSum fmode ps).x = 0x7FC00000) ∧
    (true ∈ ps.filterMap (fun e => infProd e.1 e.2) → false ∈ ps.filterMap (fun e => infProd e.1 e.2) →
      (groupSum fmode ps).x = 0x7FC00000) ∧
    (∀ neg, (∀ e ∈ ps, e.1.isNaN = false ∧ e.2.isNaN = false ∧ isInvProd e.1 e.2 = false) →
      neg ∈ ps.filterMap (fun e => infProd e.1 e.2) → (!neg) ∉ ps.filterMap (fun e => infProd e.1 e.2) →
      (groupSum fmode ps).x = (if neg then 0xFF800000 else 0x7F800000)) ∧
    ((∀ e ∈ ps, e.1.isZero ∧ e.2.isNaN = false ∧ e.2.isInf = false) → (∃ e ∈ ps, xor e.1.sign e.2.sign = false) →
      (groupSum fmode ps).x = 0) ∧
    ((∀ e ∈ ps, e.1.isZero ∧ e.2.isNaN = false ∧ e.2.isInf = false) → (∀ e ∈ ps, xor e.1.sign e.2.sign = true) →
      ps ≠ [] → (groupSum fmode ps).x = 0x80000000)

/-- The words of a chain are taken in their order, each with the scalar value that it names and the poison of a parity error that it
has met; a word out of order raises CHAIN_FORM (R30, R118, R125, R146). -/
def ChainWordsAssemble : Prop :=
  ∀ (s : State) (a : TileAt) (h : QWord), Inv s →
    let x := tileOf s a
    let takes (t : State) (c : ChainAsm) : Prop := (tileOf t a).chain = some c ∧
      (tileOf t a).q2 = x.q2.tail ∧ dataOf (tileOf t a) = dataOf x ∧ t.withTiles s.tiles = s
    let breaks (t : State) (n : Nat) : Prop := FaultAt s t a 2 h.ix 0x031A (fun r => r.detail = n + 256)
    (∀ w, atHead s a 2 (.ewhead w) = some h → x.chain = none → w.nsrc.toNat ≤ 4 → w.ndst = 1 ∨ w.ndst = 2 → seqRests x 2 →
      ∃ t, exec (.ewhead a w) s = .next t ∧
      takes t ⟨w, (h.vals.getD 0 0).setWidth 32, (h.vals.getD 1 0).toNat % 2 ^ 40, 1, [h.ix], none, [], [], [], h.bad⟩) ∧
    (∀ w c, atHead s a 2 (.ewhead w) = some h → x.chain = some c →
      ∃ t, exec (.ewhead a w) s = .next t ∧ breaks t c.n) ∧
    (∀ w c, atHead s a 2 (.eworg w) = some h → x.chain = some c → c.head.org → c.org = none → seqRests x 2 →
      ∃ t, exec (.eworg a w) s = .next t ∧
      takes t { c with org := some (w, h.vals.getD 0 0), n := c.n + 1, ixs := c.ixs ++ [h.ix], bad := tagOr c.bad h.bad }) ∧
    (∀ w c, atHead s a 2 (.eworg w) = some h → x.chain = some c → c.head.org = false ∨ c.org.isSome →
      ∃ t, exec (.eworg a w) s = .next t ∧ breaks t c.n) ∧
    (∀ w c, atHead s a 2 (.ewsrc w) = some h → x.chain = some c → c.head.org = false ∨ c.org.isSome →
      c.srcs.length < c.head.nsrc.toNat → seqRests x 2 →
      ∃ t, exec (.ewsrc a w) s = .next t ∧
      takes t { c with srcs := c.srcs ++ [(w, (h.vals.getD 0 0).toNat % 16)], n := c.n + 1, ixs := c.ixs ++ [h.ix], bad := tagOr c.bad h.bad }) ∧
    (∀ w c, atHead s a 2 (.ewsrc w) = some h → x.chain = some c → c.head.nsrc.toNat ≤ c.srcs.length →
      ∃ t, exec (.ewsrc a w) s = .next t ∧ breaks t c.n) ∧
    (∀ w c, atHead s a 2 (.ewop w) = some h → x.chain = some c → c.head.org = false ∨ c.org.isSome →
      c.srcs.length = c.head.nsrc.toNat → c.ops.length ≤ c.head.nst.toNat → seqRests x 2 →
      ∃ t, exec (.ewop a w) s = .next t ∧
      takes t { c with ops := c.ops ++ [(w, (h.vals.getD 0 0).setWidth 32)], n := c.n + 1, ixs := c.ixs ++ [h.ix], bad := tagOr c.bad h.bad }) ∧
    (∀ w c, atHead s a 2 (.ewop w) = some h → x.chain = some c → c.srcs.length < c.head.nsrc.toNat →
      ∃ t, exec (.ewop a w) s = .next t ∧ breaks t c.n) ∧
    (∀ w c, atHead s a 2 (.ewdst w) = some h → x.chain = some c → c.ops.length = c.head.nst.toNat + 1 →
      c.dsts.length < c.head.ndst.toNat → seqRests x 2 →
      ∃ t, exec (.ewdst a w) s = .next t ∧
      takes t { c with dsts := c.dsts ++ [(w, (h.vals.getD 0 0).toNat % 16)], n := c.n + 1, ixs := c.ixs ++ [h.ix], bad := tagOr c.bad h.bad }) ∧
    (∀ w c, atHead s a 2 (.ewdst w) = some h → x.chain = some c → c.ops.length ≤ c.head.nst.toNat →
      ∃ t, exec (.ewdst a w) s = .next t ∧ breaks t c.n)

/-- Where a chain's words, sources and destinations pass every check, the tile runs a segment, no brake holds and no chain is under
way, the chain starts; its completion applies its writes, takes its finished tiles, raises its flags and counts it; a flag that
the partition's mask selects raises NUMERIC, and poison that meets a predicate register raises POISON with the place where it
entered (R30, R118, R122, R133, R138, R140). EWFLAG stores the flags and the count of chains, and clears the flags where asked
(R139). -/
def ChainsRun : Prop :=
  ∀ (s : State) (a : TileAt) (h : QWord), Inv s → TilesOk s → issues s a.part → a.tile.val < nTiles s a.part →
    let x := tileOf s a
    (∀ c, x.chain = some c → x.chPend = none → x.seg.isSome → braked s.power = false → chainFull c →
      formFaults (((progOf (partAt s a.part)).map (fun p => p.tables)).getD []) c = [] →
      (∀ e ∈ c.srcs.zipIdx, (srcBase s a c e.2 e.1).1 = []) → (∀ e ∈ c.dsts.zipIdx, (dstBase s a c e.2 e.1).1 = []) →
      ∃ t p, exec (.chainStart a) s = .next t ∧ (tileOf t a).chPend = some p ∧ (tileOf t a).chain = none ∧
      p.quiet = c.head.fquiet ∧ p.mask = (partAt s a.part).flagmask ∧
      p.ftqPop = (c.srcs.filter (fun e => decide (e.1.kind = 0) && e.1.pop)).length ∧
      dataOf (tileOf t a) = dataOf x ∧ t.withTiles s.tiles = s) ∧
    (∀ p y, x.chPend = some p → p.poisonAt = none →
      y = { p.writes.foldl applyWrite { x with chPend := none } with
        ftq := x.ftq.drop p.ftqPop, ewf := x.ewf ||| p.flags, stats := x.stats ++ p.stats, chains := x.chains + 1 } →
      autoSends (p.ringPops.foldl popHead y) p.tails = [] →
      ∃ t, exec (.chainComplete a) s = .next t ∧ dataOf (tileOf t a) = dataOf y ∧
      (tileOf t a).chains = x.chains + 1 ∧ (tileOf t a).chPend = none ∧ t.t2 = s.t2 ∧
      (p.quiet = true ∨ p.flags &&& p.mask = 0 → t.parts = s.parts) ∧
      (p.quiet = false → p.flags &&& p.mask ≠ 0 → FaultAt s t a 2 p.ix 0x030A (fun r => r.detail = p.flags.toNat))) ∧
    (∀ p e, x.chPend = some p → p.poisonAt = some e →
      ∃ t, exec (.chainComplete a) s = .next t ∧ FaultAt s t a 2 e.1 0x0309 (fun r => r.addr = e.2 - 1) ∧ t.t2 = s.t2) ∧
    (∀ w, atHead s a 2 (.ewflag w) = some h → x.chain = none → t0Ok s a true (64 * w.addr.toNat) 8 →
      ∃ t, exec (.ewflag a w) s = .next t ∧ WordDone s a 2 (.next t) { x with
        t0 := memWrite x.t0 (64 * w.addr.toNat) (leBytes 4 x.ewf.toNat ++ leBytes 4 (x.chains % 2 ^ 32)),
        pois := tagRange x.pois (64 * w.addr.toNat) 8 h.bad, ewf := if w.clr then 0 else x.ewf })

/-- EWSAMP reads its part, the sampling unit accepts it, and the draw of a complete request writes its result record to the
tile that the parts name, signals it and joins the step's draws (R141 to R144, R163); that the signal names tile 0xFFFF as its
source is log entry 32 (DEDUCED). -/
def Obligations.SamplingRuns : Prop :=
  ∀ (s : State) (a : TileAt) (h : QWord), Inv s → TilesOk s →
    let x := tileOf s a
    (∀ w d, atHead s a 2 (.ewsamp w) = some h → h.bad = 0 → x.chain = none → t0Ok s a false (64 * w.daddr.toNat) 32 →
      d = partDescOf (leNat (memRead x.t0 (64 * w.daddr.toNat) 32)) →
      t0Ok s a false (64 * d.addr) (d.count * (if d.list then 8 else if d.f16 then 2 else 4)) →
      tagFirst x.pois (64 * w.daddr.toNat) 32 = 0 →
      tagFirst x.pois (64 * d.addr) (d.count * (if d.list then 8 else if d.f16 then 2 else 4)) = 0 →
      ∃ t, exec (.ewsamp a w) s = .next t ∧ (tileOf t a).sampWait = some d ∧ dataOf (tileOf t a) = dataOf x ∧
      t.withTiles s.tiles = s) ∧
    (∀ d, x.sampWait = some d → issues s a.part → a.tile.val < nTiles s a.part → seqRests x 2 →
      partBad s a.part d (partIds x d) = 0 → openReq s a.part d.req = none → drawLeft s a.part d.req d.step →
      (s.samp.filter (fun r => decide (dieOf s r.part r.rtile = dieOf s a.part d.rtile))).length < 1024 →
      ∃ t, exec (.samplePartAccept a) s = .next t ∧ t.samp = s.samp ++
        [⟨a.part, d.req, d.step, d.npart, [⟨d.part, partIds x d, partFlags x d⟩], d.rtile, d.rsem, 64 * d.raddr⟩] ∧
      (tileOf t a).sampWait = none ∧ dataOf (tileOf t a) = dataOf x ∧ (t.withSamp s.samp).withTiles s.tiles = s) ∧
    (∀ die n q r y, (s.samp.filter (fun r => decide (dieOf s r.part r.rtile = (die : Fin 2).val)))[n]? = some q → q.part < 32 →
      mapFind (partAt s q.part).reqs q.req = some r → stepRec s q.part q.step = some y → q.parts.length = q.npart →
      issues s q.part → q.rtile < nTiles s q.part → (tileAt s q.part q.rtile).sigin.length < 256 →
      ∃ t d, exec (.sampleDraw die n) s = .next t ∧ d.req = q.req ∧
      (tileAt t q.part q.rtile).t0 = memWrite (tileAt s q.part q.rtile).t0 q.raddr (srBytes d q.step) ∧
      (tileAt t q.part q.rtile).sigin = (tileAt s q.part q.rtile).sigin ++ [⟨q.rsem, 1, 0xFFFF, 0⟩] ∧
      stepRec t q.part q.step = some { y with draws := y.draws ++ [d] } ∧
      (∀ z, z ∈ t.samp ↔ (z ∈ s.samp ∧ ¬(z.part = q.part ∧ z.req = q.req))) ∧
      (∀ k, k ≠ q.part → partAt t k = partAt s k) ∧ t.t2 = s.t2 ∧ t.host = s.host)

/-! ### Rings -/

/-- RARM arms a closed ring from its record, REARM queues the next walk, which keeps the ring's fan, RSEND sends the tail and takes
the queued walk over once the current one is done, RCLOSE closes. RARM on an armed ring, REARM on one without a walk and RSEND on one
that is closed, inbound or automatic raise RING_FORM, and a tail or a word with poison names where that poison entered (R30, R172,
R178, R180 to R183). -/
def RingWords : Prop :=
  ∀ (s : State) (a : TileAt) (w : RingW) (h : QWord), Inv s → TilesOk s →
    let x := tileOf s a
    let n := w.ring.toNat
    let r := ringAt x n
    (∀ p d rcd v, atHead s a 3 (.rarm w) = some h → progOf (partAt s a.part) = some p → tileSeg s a = some d →
      recordOf s a w = some rcd → r.dir = 0 → (ringRecOf rcd).dir ≠ 0 → walkAt s a p rcd (recordTag s a w h) = some v → armForm v = false →
      armExtent s a p d v = none → lateMember s a.part n a.tile v = false →
      ∃ t, exec (.rarm a w) s = .next t ∧ ringAt (tileOf t a) n = armedRing v h.ix ∧
      (∀ k, k ≠ n → (ringAt (tileOf t a) k).walk = (ringAt x k).walk) ∧ WordDone s a 3 (exec (.rarm a w) s) x) ∧
    (∀ rcd, atHead s a 3 (.rarm w) = some h → recordOf s a w = some rcd → r.dir ≠ 0 →
      ∃ t, exec (.rarm a w) s = .next t ∧ FaultAt s t a 3 h.ix 0x0323 (fun f => f.detail = n)) ∧
    (∀ p d rcd, atHead s a 3 (.rearm w) = some h → progOf (partAt s a.part) = some p → tileSeg s a = some d →
      recordOf s a w = some rcd → r.walk = none ∨ (∃ cur, r.walk = some cur ∧ rearmOk (ringRecOf rcd) cur.r = false) →
      ∃ t, exec (.rearm a w) s = .next t ∧ FaultAt s t a 3 h.ix 0x0323 (fun f => f.detail = n)) ∧
    (atHead s a 3 (.rsend w) = some h → r.dir ≠ 2 ∨ (∃ v, r.walk = some v ∧ v.r.auto) →
      ∃ t, exec (.rsend a w) s = .next t ∧ FaultAt s t a 3 h.ix 0x0323 (fun f => f.detail = n)) ∧
    (∀ v, atHead s a 3 (.rsend w) = some h → h.bad ≠ 0 → r.dir = 2 → r.walk = some v → v.r.auto = false →
      ∃ t, exec (.rsend a w) s = .next t ∧ FaultAt s t a 3 h.ix 0x0309 (fun f => f.detail = n ∧ f.addr = h.bad - 1)) ∧
    (∀ p d rcd v cur, atHead s a 3 (.rearm w) = some h → progOf (partAt s a.part) = some p → tileSeg s a = some d →
      recordOf s a w = some rcd → r.walk = some cur → rearmOk (ringRecOf rcd) cur.r → r.pend = none →
      walkAt s a p rcd (recordTag s a w h) = some v → armForm (keepFan cur v) = false → armExtent s a p d (keepFan cur v) = none →
      ∃ t, exec (.rearm a w) s = .next t ∧ (ringAt (tileOf t a) n).pend = some (keepFan cur v) ∧
      (ringAt (tileOf t a) n).walk = some cur ∧ WordDone s a 3 (exec (.rearm a w) s) x) ∧
    (∀ v, atHead s a 3 (.rsend w) = some h → h.bad = 0 → seqRests x 3 → r.dir = 2 → r.walk = some v → v.r.auto = false →
      r.pend = none → r.next < v.bobs → (bobAt r r.head).st = .tail → bobPoison x v (bobBase v r.head) = 0 →
      r.bobs.length = v.r.nslots → r.head < v.r.nslots →
      ∃ t, exec (.rsend a w) s = .next t ∧ (bobAt (ringAt (tileOf t a) n) r.head).st = .sending ∧
      (ringAt (tileOf t a) n).head = (r.head + 1) % v.r.nslots ∧ (ringAt (tileOf t a) n).next = r.next + 1 ∧
      (ringAt (tileOf t a) n).total = r.total + 1 ∧ dataOf (tileOf t a) = dataOf x ∧ t.withTiles s.tiles = s) ∧
    (∀ v0 v, atHead s a 3 (.rsend w) = some h → h.bad = 0 → seqRests x 3 → r.dir = 2 → r.walk = some v0 → v0.r.auto = false →
      r.pend = some v → v0.bobs ≤ r.next → 0 < v.bobs → (bobAt r r.head).st = .tail →
      bobPoison x v (bobBase v r.head) = 0 →
      ∃ t, exec (.rsend a w) s = .next t ∧ (ringAt (tileOf t a) n).walk = some v ∧ (ringAt (tileOf t a) n).pend = none ∧
      (ringAt (tileOf t a) n).next = 1 ∧ (ringAt (tileOf t a) n).total = r.total + 1 ∧ t.withTiles s.tiles = s) ∧
    (∀ v, atHead s a 3 (.rsend w) = some h → h.bad = 0 → r.dir = 2 → r.walk = some v → v.r.auto = false → r.pend = none →
      (bobAt r r.head).st ≠ .sending → (v.bobs ≤ r.next → v.r.ptile ≠ 255) → bobPoison x v (bobBase v r.head) ≠ 0 →
      ∃ t, exec (.rsend a w) s = .next t ∧ FaultAt s t a 3 h.ix 0x0309 (fun f => f.detail = n ∧
        f.addr = bobPoison x v (bobBase v r.head) - 1)) ∧
    (∀ v, atHead s a 3 (.rsend w) = some h → h.bad = 0 → r.dir = 2 → r.walk = some v → v.r.auto = false →
      (bobAt r r.head).st = .sending →
      ∃ t, exec (.rsend a w) s = .next t ∧ FaultAt s t a 3 h.ix 0x0306 (fun f => f.detail = n)) ∧
    (atHead s a 3 (.rclose w) = some h → (∀ b ∈ r.bobs, b.st ≠ .sending) →
      (r.dir ≠ 2 ∨ (bobAt r r.head).wrote = false) →
      ∃ t, exec (.rclose a w) s = .next t ∧ ringAt (tileOf t a) n = { Ring.closed with head := r.head, next := r.next } ∧
      dataOf (tileOf t a) = dataOf x ∧ t.t1 = (readersDone s ((r.bobs.map (fun b => b.frs)).flatten)).t1 ∧ t.t2 = s.t2 ∧
      t.groups = s.groups ∧ t.journal = s.journal) ∧
    (atHead s a 3 (.rclose w) = some h → (∀ b ∈ r.bobs, b.st ≠ .sending) → r.dir = 2 →
      (bobAt r r.head).st = .tail → (bobAt r r.head).wrote →
      ∃ t, exec (.rclose a w) s = .next t ∧ FaultAt s t a 3 h.ix 0x0322 (fun f => f.detail = n))

/-- The fetch of the next bobbin goes out into its slot where the slot is free and the limit of outstanding fetches permits it; its
landing fills the bobbin from the frames that serve its pages and from their home, a failed host read defers a prefetch and
faults at the consumer that demanded it; a fan starts once every member has armed; a bobbin that was
sent frees its slot as its bytes become visible, in the peer's T0 or in the region (R166, R173, R174, R177, R178, R195, R210). -/
def BobbinsMove : Prop :=
  ∀ (s : State) (r : RingAt) (w : Walk), Inv s → TilesOk s → r.tile.val < nTiles s r.part →
    let x := tileAt s r.part r.tile
    let y := ringAt x r.ring
    y.walk = some w → (partAt s r.part).fault = none →
    (∀ slot, issues s r.part → y.dir = 1 → w.r.fan = 0 → y.started → y.next < w.bobs → slot = y.total % w.r.nslots →
      y.bobs.length = w.r.nslots → (bobAt y slot).st = .free →
      (y.bobs.filter (fun b => decide (b.st = .issued))).length ≤ w.r.outst →
      (bobAt y y.head).st ≠ .deferred → (bobAt y y.head).st ≠ .stale → epochOk s r.part w →
      ∃ t b, exec (.fetchIssue r) s = .next t ∧ bobAt (ringAt (tileAt t r.part r.tile) r.ring) slot = b ∧
      b.st = .issued ∧ b.k = y.next ∧ b.w = some w ∧ b.demand = firstWaiting s r.part r.ring slot [r.tile.val] ∧
      some (b.lo, b.hi) = (bobRange w y.next <|> some (0, 0)) ∧
      (ringAt (tileAt t r.part r.tile) r.ring).next = y.next + 1 ∧
      (ringAt (tileAt t r.part r.tile) r.ring).total = y.total + 1 ∧
      dataOf (tileAt t r.part r.tile) = dataOf x ∧ t.t2 = s.t2 ∧ t.journal = s.journal ∧ t.host = s.host) ∧
    (∀ slot : Fin 16, ∀ data v g e, slot.val < y.bobs.length → (bobAt y slot).st = .issued → (bobAt y slot).w = some v →
      regionAt s r.part v.td.region = some g →
      (g.p.hostback → homeSpans s r.part v (bobAt y slot).frs (bobSpans v (bobAt y slot).k) ≠ [] →
        (bobAt y slot).hi - (bobAt y slot).lo ≤ data.length) →
      ∃ t, exec (.fetchLand r slot (.ok e) data) s = .next t ∧
      bobAt (ringAt (tileAt t r.part r.tile) r.ring) slot = { bobAt y slot with st := .filled, frs := [], reqs := [] } ∧
      (tileAt t r.part r.tile).t0 = (landBob x { v with bad := tagOr v.bad w.bad } (fetchByte (readErrors s r.part g v (bobAt y slot) e) r.part g v
        (bobAt y slot).frs (bobAt y slot).lo data) (bobAt y slot).k (bobBase w slot)).t0 ∧
      (tileAt t r.part r.tile).sregs = x.sregs ∧ t.parts = s.parts ∧
      t.t2 = (readErrors s r.part g v (bobAt y slot) e).t2) ∧
    (∀ slot : Fin 16, ∀ data v g addr why, slot.val < y.bobs.length → (bobAt y slot).st = .issued →
      (bobAt y slot).w = some v → regionAt s r.part v.td.region = some g → g.p.hostback →
      homeSpans s r.part v (bobAt y slot).frs (bobSpans v (bobAt y slot).k) ≠ [] →
      ((bobAt y slot).demand = none → w.r.fan = 0 →
        ∃ t, exec (.fetchLand r slot (.translation addr why) data) s = .next t ∧
        bobAt (ringAt (tileAt t r.part r.tile) r.ring) slot = { bobAt y slot with st := .deferred, frs := [], reqs := [] } ∧
        (why ≠ .noPermission → why ∈ (fnAt t r.part).aer) ∧
        dataOf (tileAt t r.part r.tile) = dataOf x ∧ t.parts = s.parts ∧ t.t2 = s.t2) ∧
      (∀ k : Fin 192, (bobAt y slot).demand = some k.val →
        ∃ t, exec (.fetchLand r slot (.translation addr why) data) s = .next t ∧
        FaultAt s t ⟨r.part, k⟩ (consumerWord s ⟨r.part, k⟩ r.ring).1 (consumerWord s ⟨r.part, k⟩ r.ring).2 0x0320
          (fun f => f.addr = addr.toNat ∧ f.detail = r.ring.val + 256 * ((bobAt y slot).k % 2 ^ 24)))) ∧
    (w.r.fan = 1 → y.started = false → issues s r.part → (fanMembers s r.part r.ring r.tile).length = w.r.fanarg →
      (∀ k ∈ fanMembers s r.part r.ring r.tile, ∀ v, (ringAt (tileAt s r.part k) r.ring).walk = some v → fanMatch w v) →
      ∃ t, exec (.fanStart r) s = .next t ∧ ringAt (tileAt t r.part r.tile) r.ring = { y with started := true } ∧
      t.withTiles s.tiles = s) ∧
    (∀ slot : Fin 16, ∀ v, slot.val < y.bobs.length → (bobAt y slot).st = .sending → (bobAt y slot).w = some v →
      v.r.ptile ≠ 255 → v.r.ptile ≠ r.tile.val → v.r.ptile < nTiles s r.part →
      tileIx s r.part v.r.ptile ≠ tileIx s r.part r.tile →
      ∃ t, exec (.sendVisible r slot) s = .next t ∧
      (bobAt (ringAt (tileAt t r.part r.tile) r.ring) slot).st ≠ .sending ∧
      (tileAt t r.part v.r.ptile).t0 = memWrite (tileAt s r.part v.r.ptile).t0
        (64 * (v.r.paddr + ((bobAt y slot).k % (v.r.pwrap + 1)) * v.r.pstride))
        (memRead x.t0 (bobBase v slot) (v.r.bpb * v.pitch)) ∧
      dataOf (tileAt t r.part r.tile) = dataOf x ∧ t.t2 = s.t2 ∧ t.parts = s.parts) ∧
    (∀ slot : Fin 16, ∀ v g, slot.val < y.bobs.length → (bobAt y slot).st = .sending → (bobAt y slot).w = some v →
      v.r.ptile = 255 → regionAt s r.part v.td.region = some g →
      ∃ t, exec (.sendVisible r slot) s = .next t ∧
      t.t2 = (clearBob (storeBob s x v g.wpages (bobAt y slot).k (bobBase v slot)) v g.wpages (bobAt y slot).k).t2 ∧
      (bobAt (ringAt (tileAt t r.part r.tile) r.ring) slot).st ≠ .sending ∧ dataOf (tileAt t r.part r.tile) = dataOf x ∧
      t.parts = s.parts)

/-! ### Campaigns, turns and energy windows -/

/-- ADMIT_CLOSE completes; without a campaign nothing else changes, and in a rollout turn with an entry still open its
admission is closed from then on and the turn goes on (R8, R243). -/
def AdmissionCloses : Prop :=
  ∀ (s : State) (q : QId) (p : Nat), Inv s → hostReady s q .admitClose p →
    ((∀ x ∈ s.parts, x.camp = none) →
      ∃ t, exec (.admitClose q) s = .next t ∧ Completes s t q 0 ∧ (t.withJournal s.journal).withFree s.free = s) ∧
    (∀ c tn r e y, (partAt s p).camp = some c → c.stop = false → c.run = some r → c.p.turns[r.turn]? = some tn →
      tn.kind = .rollout → r.kind = .rollout → reqAt s p e = some y → reqOpen y → y.turn = some (partAt s p).turnSeq →
      ∃ t c' r', exec (.admitClose q) s = .next t ∧ Completes s t q 0 ∧ (partAt t p).camp = some c' ∧ c'.run = some r' ∧
      r'.admOpen = false ∧ r'.turn = r.turn ∧ r'.steps = r.steps ∧ c'.turnIx = c.turnIx ∧ c'.phase = c.phase ∧
      (partAt t p).reqs = (partAt s p).reqs)

/-- ENERGY_WINDOW_START, once for each multiple of 1 ms of the timebase, adds every partition's budget to its balance, up
to one budget (R369). -/
def EnergyWindowsRefill : Prop :=
  ∀ (s : State) (t : Word64), Inv s → s.time.now.ule t → t.toNat % 1000000 = 0 →
    s.time.windows < t.toNat / 1000000 → (∀ x ∈ s.parts, x.camp = none) →
    ∃ s', exec (.energyWindowStart t) s = .next s' ∧ s'.time.windows = t.toNat / 1000000 ∧ s'.time.now = t ∧
      (∀ p, p < 32 → partAt s' p = { partAt s p with
        bal := min ((partAt s p).bal + budgetOf (partAt s p)) (budgetOf (partAt s p)) }) ∧
      (s'.withParts s.parts).withTime s.time = s

/-- The digests of a campaign's members are kept until all have come, a repeated message being discarded; an unequal one ends the
campaign with CAMPAIGN_MISMATCH on this member; the last equal one starts the switch into the first turn. RENDEZVOUS_TIMEOUT ends
the wait (R298, R352, R353). -/
def RendezvousMeets : Prop :=
  ∀ (s : State) (part : Fin 32) (c : Camp) (t : Word64), Inv s → s.time.now.ule t → (partAt s part).camp = some c →
    c.phase = .rendezvous → c.fin = none → c.due = [] →
    (∀ (m : MsgAt) d k, issues s part → m.frm ∈ c.p.positions → (m.frm, m.seq) ∉ s.fabric.seen → d = c.digest →
      (∀ e ∈ c.digests, e.2 = c.digest) → k ∈ c.p.positions → k ≠ m.frm → k ≠ s.fabric.member →
      (∀ e ∈ c.digests, e.1 ≠ k) →
      ∃ s', exec (.campaignDigestReceive part m d t) s = .next s' ∧
      s'.parts = s.parts.set part { partAt s part with
        camp := some { c with digests := (m.frm, d) :: c.digests.filter (fun e => decide (e.1 ≠ m.frm)) } } ∧
      s'.fabric = { s.fabric with seen := (m.frm, m.seq) :: s.fabric.seen } ∧
      ((s'.withParts s.parts).withFabric s.fabric).withTime s.time = s) ∧
    (∀ (m : MsgAt) d, issues s part → (m.frm, m.seq) ∈ s.fabric.seen →
      ∃ s', exec (.campaignDigestReceive part m d t) s = .next s' ∧ s'.withTime s.time = s) ∧
    (∀ (m : MsgAt) d r, issues s part → m.frm ∈ c.p.positions → (m.frm, m.seq) ∉ s.fabric.seen → d ≠ c.digest →
      headRec s c.q = some r → r.st = .started →
      ∃ s', exec (.campaignDigestReceive part m d t) s = .next s' ∧ (partAt s' part).camp = none ∧
      CommittedIn s' r 0x0207 t ∧ (∀ k, k ≠ part.val → partAt s' k = partAt s k) ∧ s'.tiles = s.tiles ∧ s'.t2 = s.t2) ∧
    (∀ (m : MsgAt) d tn pr l, issues s part → m.frm ∈ c.p.positions → (m.frm, m.seq) ∉ s.fabric.seen → d = c.digest →
      (∀ e ∈ c.digests, e.2 = c.digest) →
      (∀ k ∈ c.p.positions, k = m.frm ∨ k = s.fabric.member ∨ ∃ e ∈ c.digests, e.1 = k) →
      (∀ x ∈ l, ∀ d ∈ x.pieces, d.dst → (∃ k ∈ posList d, memberAt c k = s.fabric.member) →
        ∀ y ∈ sourcesOf x d, memberAt c (srcPos y (x.hd.repl.headD 0)) ≠ s.fabric.member) →
      c.p.turns[c.p.fromTurn]? = some tn → tn.kind ≠ .checkpoint → mapFind (partAt s part).progs tn.prog = some pr →
      l = tn.pairs.filterMap (fun i => pr.pairs.find? (fun x => decide (x.hd.id = i))) → l ≠ [] →
      ∃ s' c' sw, exec (.campaignDigestReceive part m d t) s = .next s' ∧ (partAt s' part).camp = some c' ∧
      c'.phase = .switching ∧ c'.turnIx = c.p.fromTurn ∧ c'.run = none ∧ c'.sw = some sw ∧ sw.into = c.p.fromTurn ∧
      sw.t0 = t ∧ sw.pairs.map (fun y => y.pair) = l.map (fun x => x.hd.id) ∧
      (∀ k, k ≠ part.val → partAt s' k = partAt s k) ∧ s'.journal = s.journal) ∧
    (∀ r, headRec s c.q = some r → r.st = .started →
      c.rdv0.toNat + 1000000 * (if c.p.rdvlimit = 0 then 10000 else c.p.rdvlimit) ≤ t.toNat →
      ∃ s', exec (.rendezvousTimeout part t) s = .next s' ∧ (partAt s' part).camp = none ∧ CommittedIn s' r 0x0205 t ∧
      (∀ k, k ≠ part.val → partAt s' k = partAt s k) ∧ s'.tiles = s.tiles ∧ s'.t2 = s.t2)

/-- Turn-end beacons are kept until every member's has come; after the last turn the campaign then succeeds with the number
of turns (R7, R355). Once every destination member has reported, SWITCH_PUBLISH makes what has landed current and starts the turn; with a stop, unless
another member may have started steps of the learning turn that follows, it ends the campaign with STOPPED (R10, R194, R305, R355;
which members may have is log entry 26, DEDUCED). -/
def TurnsFollowEachOther : Prop :=
  ∀ (s : State) (part : Fin 32) (c : Camp) (t : Word64), Inv s → s.time.now.ule t → (partAt s part).camp = some c →
    issues s part → c.turnIx < c.p.turns.length → c.fin = none → c.due = [] → c.badRec = false →
    (∀ (m : MsgAt) k, c.phase = .turnEnd → m.frm ∈ c.p.positions → (m.frm, m.seq) ∉ s.fabric.seen → boundWith s c m.frm →
      k ∈ c.p.positions → k ≠ m.frm → setHas c.beacons (beaconKey c.turnIx k) = false →
      ∃ s', exec (.turnEndBeaconArrival part m c.turnIx t) s = .next s' ∧
      s'.parts = s.parts.set part { partAt s part with
        camp := some { c with beacons := setPut c.beacons (beaconKey c.turnIx m.frm) true } } ∧
      s'.fabric = { s.fabric with seen := (m.frm, m.seq) :: s.fabric.seen } ∧
      ((s'.withParts s.parts).withFabric s.fabric).withTime s.time = s) ∧
    (∀ (m : MsgAt) r, c.phase = .turnEnd → m.frm ∈ c.p.positions → (m.frm, m.seq) ∉ s.fabric.seen → boundWith s c m.frm →
      (∀ k ∈ c.p.positions, k = m.frm ∨ setHas c.beacons (beaconKey c.turnIx k)) →
      c.p.turns.length ≤ c.turnIx + 1 → headRec s c.q = some r → r.st = .started →
      ∃ s', exec (.turnEndBeaconArrival part m c.turnIx t) s = .next s' ∧ (partAt s' part).camp = none ∧
      CommittedIn s' r 0 t ∧ (∃ r' ∈ s'.journal, r'.seq = r.seq ∧ r'.q = r.q ∧ r'.detail = c.turnIx + 1 - c.p.fromTurn) ∧
      (∀ k, k ≠ part.val → partAt s' k = partAt s k) ∧ s'.tiles = s.tiles ∧ s'.t2 = s.t2) ∧
    (∀ sw r reports, c.sw = some sw → allLanded sw →
      (∀ m ∈ destMembers (partAt s part) c sw, m = s.fabric.member ∨ m ∈ reports) → c.stop →
      (∀ tn, c.p.turns[c.turnIx]? = some tn → tn.kind = .learning →
        stopsKnown c ∧ stopBoundAt c c.turnIx ≤ tn.lt.step0) →
      headRec s c.q = some r → r.st = .started →
      ∃ s', exec (.switchPublish part ⟨reports, t⟩) s = .next s' ∧ (partAt s' part).camp = none ∧ CommittedIn s' r 0x0201 t ∧
      (∀ y x g n, y ∈ sw.pairs → pairDesc (partAt s part) c sw y.pair = some x →
        regionAt s part x.hd.dregion = some g → g.next = some n →
        ∃ g', regionAt s' part x.hd.dregion = some g' ∧ curEpoch g' = n.epoch ∧ g'.next = none) ∧
      (∀ k, k ≠ part.val → partAt s' k = partAt s k)) ∧
    (∀ sw tn pr d reports, c.sw = some sw → allLanded sw →
      (∀ m ∈ destMembers (partAt s part) c sw, m = s.fabric.member ∨ m ∈ reports) → c.stop = false → sw.into = c.turnIx →
      c.p.turns[c.turnIx]? = some tn →
      tn.kind = .reward → mapFind (partAt s part).progs tn.prog = some pr → d ∈ pr.segs →
      ∃ s' c' r', exec (.switchPublish part ⟨reports, t⟩) s = .next s' ∧ (partAt s' part).camp = some c' ∧ c'.sw = none ∧
      c'.phase = .turn ∧ c'.turnIx = c.turnIx ∧ c'.run = some r' ∧ r'.turn = c.turnIx ∧ r'.tstart = t ∧ r'.done = [] ∧
      r'.slot = tn.prog ∧ s'.journal = s.journal)

/-! ### Settle, collectives and chunks -/

/-- Partition p runs segment turns: campaign c in its turn tn, run r of program pr, issuing. -/
def RunsTurn (s : State) (p : Nat) (c : Camp) (tn : TurnP) (pr : Program) (r : Run) : Prop :=
  (partAt s p).camp = some c ∧ c.run = some r ∧ c.phase = .turn ∧ c.p.turns[r.turn]? = some tn ∧
    mapFind (partAt s p).progs r.slot = some pr ∧ r.ended2 = false ∧ c.stop = false ∧ issues s p = true

/-- Partition p of t has one fault record more than in s, of a hub unit, with a status and a time; it is the fault that holds. -/
def HubFaulted (s t : State) (p status : Nat) (time : Word64) (detail : Nat) : Prop :=
  (∃ x, (partAt t p).flog = (partAt s p).flog ++ [x] ∧ x.status = status ∧ x.tile = 255 ∧ x.time = time ∧
    x.detail = detail) ∧ (partAt t p).fault = some ⟨(partAt s p).flog.length, status, false, false⟩ ∧
  (∀ k, k ≠ p → partAt t k = partAt s k) ∧ t.t2 = s.t2 ∧ t.journal = s.journal

/-- A ready beacon that reaches the arbiter is an arrival stamped with its time. At its deadline or when all have arrived
the arbiter closes the next step of the settle domain with what R230 to R232 decide; a member takes each close list once, and
faults with the arbiter's word on the log, or where a member of the domain has left the epoch (R229, R230, R231, R238, R312). -/
def StepsSettle : Prop :=
  ∀ (s : State) (part : Fin 32) (c : Camp) (tn : TurnP) (pr : Program) (r : Run) (d : Coll) (t : Word64), Inv s →
    s.time.now.ule t → RunsTurn s part c tn pr r →
    (∀ (m : MsgAt) coll leaf tokens, pr.colls.find? (fun x => decide (x.id = coll)) = some d →
      arbiterOf c d = s.fabric.member → leaf.rank < d.members.length → arrivalAt r coll leaf = none →
      (m.frm, m.seq) ∉ s.fabric.seen → boundWith s c m.frm →
      ∃ s' r', exec (.stepBeaconArrival part m coll leaf tokens t) s = .next s' ∧ runOf (partAt s' part) = some r' ∧
      r'.arrivals = r.arrivals ++ [⟨coll, leaf, t, tokens⟩] ∧ r'.turn = r.turn ∧ r'.done = r.done ∧
      (partAt s' part).reqs = (partAt s part).reqs ∧ s'.journal = s.journal) ∧
    (∀ step w dl, pr.colls = [d] → d.kind = 0 → arbiterOf c d = s.fabric.member → tn.kind = .learning →
      inDomain tn pr d → closeMode tn pr.shape = 1 → step = tn.lt.step0 + (closesOf r d.id).length → step ≤ r.lastStep →
      closeTime r d tn true 1 step t = some (w, dl) → lostRank r = none → closeOf r d.id step = none →
      ∃ s' r', exec (.settleDeadline part t) s = .next s' ∧ runOf (partAt s' part) = some r' ∧
      decide1 r d tn true 1 step w dl ∈ r'.closes ∧ (∀ x ∈ r.closes, x ∈ r'.closes) ∧ r'.arrivals = r.arrivals ∧
      r'.recs ≠ r.recs ∧ (∀ m ∈ c.p.positions, m ≠ s.fabric.member → ∃ x ∈ s'.fabric.out, x.dest = m ∧
        x.msg = .closeList c.p.id c.turnIx (decide1 r d tn true 1 step w dl) 0) ∧ s'.journal = s.journal) ∧
    (∀ (m : MsgAt) (x : CloseP), pr.colls.find? (fun y => decide (y.id = x.coll)) = some d →
      (m.frm, m.seq) ∉ s.fabric.seen → boundWith s c m.frm →
      ((inDomain tn pr d → lostRank r = none) → closeOf r x.coll x.step = none →
        ∃ s' r', exec (.closeListReceive part ⟨m, x, 0⟩ t) s = .next s' ∧ runOf (partAt s' part) = some r' ∧
        r'.closes = r.closes ++ [x] ∧ r'.arrivals = r.arrivals ∧ s'.journal = s.journal) ∧
      ((inDomain tn pr d → lostRank r = none) → (closeOf r x.coll x.step).isSome →
        ∃ s' r', exec (.closeListReceive part ⟨m, x, 0⟩ t) s = .next s' ∧ runOf (partAt s' part) = some r' ∧
        r'.closes = r.closes ∧ r'.recs = r.recs) ∧
      (∀ j, inDomain tn pr d → lostRank r = some j → ∃ s', exec (.closeListReceive part ⟨m, x, 0⟩ t) s = .next s' ∧
        HubFaulted s s' part 0x032A t j) ∧
      (∀ bad, bad ≠ 0 → ∃ s', exec (.closeListReceive part ⟨m, x, bad⟩ t) s = .next s' ∧
        HubFaulted s s' part 0x0329 t (x.step % 2 ^ 20 + 2 ^ 20 * (bad % 16))))

/-- Every rank of a step is on time, pending, or dropped at its own step, and a close that allows no staleness leaves none
pending (R231). -/
def EveryRankIsDecided : Prop :=
  ∀ (r : Run) (d : Coll) (tn : TurnP) (dom : Bool) (mode step : Nat) (w dl : Word64) (x : CloseP),
    x = decide1 r d tn dom mode step w dl →
    x.leaves.length = x.ontime + x.late.length ∧
    (∀ k, k < d.members.length → (⟨step, k⟩ : LeafP) ∈ x.leaves.take x.ontime ∨ k ∈ x.pend ∨
      ∃ n, ((⟨step, k⟩ : LeafP), n) ∈ x.drop) ∧
    (∀ k ∈ x.pend, k < d.members.length ∧ ∀ a, arrivalAt r d.id ⟨step, k⟩ = some a → w.ult a.time) ∧
    (∀ e ∈ x.late, ∃ a, arrivalAt r d.id e.1 = some a ∧ a.time.ule w) ∧
    ((dom = false ∨ mode = 0 ∨ tn.lt.smax = 0) → x.pend = [])

/-- The waits of a step and of a collective or layout pair are bounded: SETTLE_TIMEOUT and FABRIC_TIMEOUT raise their faults
once the bound has passed. SETTLE_TIMEOUT names the lowest rank of those that the step waits for, in replay of those that the log
lists (R235, R238, R320). What the bound counts from in the last step, and that a member that is not the arbiter has the rank and the
start of the wait from the arbiter, are log entry 34 (DEDUCED). -/
def Obligations.WaitsAreBounded : Prop :=
  ∀ (s : State) (part : Fin 32) (t : Word64), Inv s → s.time.now.ule t →
    (∀ c tn pr r d w step since rank, RunsTurn s part c tn pr r → domainColl tn pr = some d →
      step = firstStep tn + (closesOf r d.id).length → step ≤ r.lastStep →
      waitFrom s c r tn pr.shape d step since = some w → w + waitMax tn < t.toNat →
      (∀ j, arbiterOf c d = s.fabric.member → closeMode tn pr.shape ≠ 2 → j < d.members.length →
        arrivalAt r d.id ⟨step, j⟩ = none → (∀ k, k < j → arrivalAt r d.id ⟨step, k⟩ ≠ none) →
        (step = r.lastStep → ∀ l ∈ pendingLeaves (closesOf r d.id), step ≤ l.step + tn.lt.smax →
          arrivalAt r d.id l ≠ none ∨ j ≤ l.rank) →
        ∃ s', exec (.settleTimeout part ⟨since, rank, t⟩) s = .next s' ∧
        HubFaulted s s' part 0x0328 t (step % 2 ^ 20 + 2 ^ 20 * (j % 4096))) ∧
      (∀ j k, arbiterOf c d = s.fabric.member → closeMode tn pr.shape = 2 → step ≠ r.lastStep →
        logAt r tn d.id (step - tn.lt.step0) = .at k → j < d.members.length →
        (∃ l ∈ k.leaves, l.rank = j ∧ arrivalAt r d.id l = none) →
        (∀ l ∈ k.leaves, arrivalAt r d.id l ≠ none ∨ j ≤ l.rank) →
        ∃ s', exec (.settleTimeout part ⟨since, rank, t⟩) s = .next s' ∧
        HubFaulted s s' part 0x0328 t (step % 2 ^ 20 + 2 ^ 20 * (j % 4096))) ∧
      (arbiterOf c d ≠ s.fabric.member →
        ∃ s', exec (.settleTimeout part ⟨since, rank, t⟩) s = .next s' ∧
        HubFaulted s s' part 0x0328 t (step % 2 ^ 20 + 2 ^ 20 * (rank % 4096)))) ∧
    (∀ id pair w, issues s part → phaseStart s part id pair = some w → w.toNat + fabricLimit s part < t.toNat →
      ∃ s', exec (.fabricTimeout part id pair t) s = .next s' ∧
      HubFaulted s s' part 0x033B t (id % 65536 + 2 ^ 31 * b2n pair))

/-- The chunk in buffer n is given up: it is counted, and nothing changes but the fabric's hold on it. -/
def ChunkDropped (s : State) (i : Instr) : Prop :=
  ∃ s', exec i s = .next s' ∧ mapGet 0 s'.ctrs (ctrKey 0 6 0 cFabDrop) = mapGet 0 s.ctrs (ctrKey 0 6 0 cFabDrop) + 1 ∧
    (((s'.withTime s.time).withCtrs s.ctrs).withFabric s.fabric) = s

/-- A collective's chunk for this member that a buffer holds whole lands once in its place and is noted with its step and rank; one
that the descriptor does not allow raises FABRIC_FORM with the collective and the rank; one for a partition that its sender's
campaign is not bound to is discarded and counted (R301, R303, R313, R318, R320). -/
def CollectiveChunksLand : Prop :=
  ∀ (s : State) (n : Fin 48) (b : ChunkBuf) (x : Chunk) (c : Camp) (tn : TurnP) (pr : Program) (r : Run) (d : Coll) (j : Nat)
    (t : Word64), Inv s → s.time.now.ule t → mapFind s.fabric.bufs n = some b → b.whole → b.written = false →
    chunkOf b.bytes = some x → x.kind = 2 →
    (x.dmem ≠ s.fabric.member → ∃ s', exec (.collectiveChunkReceive n t) s = .next s' ∧ s' = s) ∧
    (x.dmem = s.fabric.member → (partAt s x.part).camp = none → ChunkDropped s (.collectiveChunkReceive n t)) ∧
    (x.dmem = s.fabric.member → RunsTurn s x.part c tn pr r →
      (boundWith s c (memberAt c x.spos) = false ∨ x.dpos ∉ heldPos s c) →
      ChunkDropped s (.collectiveChunkReceive n t)) ∧
    (x.dmem = s.fabric.member → RunsTurn s x.part c tn pr r → boundWith s c (memberAt c x.spos) → x.dpos ∈ heldPos s c →
      collAtOff pr (gbufsOf tn) x.region x.off = some d → j = d.members.idxOf x.spos →
      (j < d.members.length → (tn.kind = .learning → tn.lt.step0 ≤ x.epoch ∧ x.epoch ≤ r.lastStep) →
        (tn.kind ≠ .learning → x.epoch = 0 ∨ tn.kind = .rollout) →
        collPlaceOk pr.shape (gbufsOf tn) d j x.epoch x.off x.data.length →
        ((∀ l ∈ r.collLand, l.coll ≠ d.id ∨ l.step ≠ x.epoch ∨ l.rank ≠ j ∨ l.off ≠ x.off) →
          ∃ s' r', exec (.collectiveChunkReceive n t) s = .next s' ∧ runOf (partAt s' x.part) = some r' ∧
          r'.collLand = r.collLand ++ [⟨d.id, x.epoch, j, x.off, x.data.length, x.fmt, x.tokens⟩] ∧
          r'.done = r.done ∧ r'.closes = r.closes ∧ s'.journal = s.journal) ∧
        ((∃ l ∈ r.collLand, l.coll = d.id ∧ l.step = x.epoch ∧ l.rank = j ∧ l.off = x.off) →
          ∃ s' r', exec (.collectiveChunkReceive n t) s = .next s' ∧ runOf (partAt s' x.part) = some r' ∧
          r'.collLand = r.collLand)) ∧
      ((d.members.length ≤ j ∨ (tn.kind = .learning ∧ (x.epoch < tn.lt.step0 ∨ r.lastStep < x.epoch)) ∨
          (tn.kind = .reward ∧ x.epoch ≠ 0) ∨ collPlaceOk pr.shape (gbufsOf tn) d j x.epoch x.off x.data.length = false) →
        ∃ s', exec (.collectiveChunkReceive n t) s = .next s' ∧
        HubFaulted s s' x.part 0x033A t (d.id % 65536 + 65536 * (j % 4096))))

/-- A chunk of a layout pair for a position of this member, which a buffer holds whole, lands in the staging publication of its
region, there and nowhere else, bit by bit where source pieces meet inside a byte, is noted so that it lands once, and goes on from
its buffer to the next position of its chain; one of a switch that has not begun here waits; one for another member goes one hop
further where its header allows it; any other is discarded and counted (R299, R301 to R303, R310, R312, R318). That CH.HOPS counts
the hops after the one that a chunk is on, and that messages on chunks come with this command, are log entry 23. -/
def LayoutChunksLand : Prop :=
  ∀ (s : State) (n : Fin 48) (b : ChunkBuf) (x : Chunk) (t : Word64), Inv s → s.time.now.ule t →
    mapFind s.fabric.bufs n = some b → b.whole → b.written = false → chunkOf b.bytes = some x →
    (x.dmem ≠ s.fabric.member → (x.hops = 0 ∨ ∀ e ∈ s.fabric.bulk, e.1 = x.dmem → ∀ w ∈ e.2, w.2 ≠ x.dmem) →
      ChunkDropped s (.chunkReceive (.chunk n) t)) ∧
    (∀ l w, x.dmem ≠ s.fabric.member → x.hops ≠ 0 →
      (s.fabric.bulk.find? (fun e => decide (e.1 = x.dmem))).map (fun e => e.2) = some l →
      l.find? (fun w => decide (w.2 = x.dmem)) = some w → w.1 < 12 →
      ∃ s', exec (.chunkReceive (.chunk n) t) s = .next s' ∧
      mapFind s'.fabric.bufs n = some { b with written := true, due := b.due ++ [w.1] } ∧
      (portAt s' w.1).tx = (portAt s w.1).tx ++
        [⟨chunkClass x, chunkBytes { x with hops := 0 }, false, false, none, some n.val⟩] ∧
      (s'.withTime s.time).withFabric s.fabric = s) ∧
    (x.dmem = s.fabric.member → x.kind ≠ 2 →
      (2 < x.kind ∨ ∀ c, (partAt s x.part).camp = some c →
        c.sw = none ∧ comesEarly s x.part (memberAt c x.spos) true x.epoch = false) → ChunkDropped s (.chunkReceive (.chunk n) t)) ∧
    (∀ c, x.dmem = s.fabric.member → x.kind ≤ 1 → (partAt s x.part).camp = some c →
      comesEarly s x.part (memberAt c x.spos) true x.epoch → exec (.chunkReceive (.chunk n) t) s = .next s) ∧
    (∀ c sw y pr k d r g pub, x.dmem = s.fabric.member → (partAt s x.part).camp = some c → issues s x.part →
      c.phase = .switching → c.sw = some sw → sw.pairs = [y] → pairDesc (partAt s x.part) c sw y.pair = some pr → pr.hd.dregion = x.region →
      pieceFor pr x.dpos x.spos x.off x.data.length = some (k, d, r) → x.kind ≤ 1 → x.epoch = sw.epoch →
      boundWith s c (memberAt c x.spos) → x.dpos ∈ heldPos s c → regionAt s x.part x.region = some g →
      g.next = some pub → pub.pages.Nodup →
      (∀ m, ((fromPos d x.dpos).drop 1).head? = some m → memberAt c m ≠ s.fabric.member) →
      (covered y.landed r = false →
        ∃ s' c' sw', exec (.chunkReceive (.chunk n) t) s = .next s' ∧
        (∀ i j a, i < x.data.length → j < 8 → pageAddr pub.pages (x.off + i) = some a →
          (memGet s'.t2.mem a).getLsbD j =
            (if r.off ≤ 8 * (x.off + i) + j ∧ 8 * (x.off + i) + j < r.off + r.len then (x.data.getD i 0).getLsbD j
             else (memGet s.t2.mem a).getLsbD j)) ∧
        (∀ a, (∀ i, i < x.data.length → pageAddr pub.pages (x.off + i) ≠ some a) →
          memGet s'.t2.mem a = memGet s.t2.mem a) ∧ (partAt s' x.part).camp = some c' ∧ c'.sw = some sw' ∧
        sw'.pairs = [{ y with landed := y.landed ++ [r] }] ∧
        (∀ m w, ((fromPos d x.dpos).drop 1).head? = some m → chunkRoute s (memberAt c m) x.index = some w → w.1 < 12 →
          (portAt s' w.1).tx = (portAt s w.1).tx ++ [⟨3,
            chunkBytes (onRoute { x with dpos := m, dmem := memberAt c m } w), false, false, none, some n.val⟩]) ∧
        s'.journal = s.journal ∧ s'.host = s.host) ∧
      (covered y.landed r = true →
        ∃ s', exec (.chunkReceive (.chunk n) t) s = .next s' ∧ s'.t2 = s.t2 ∧ s'.parts = s.parts ∧ s'.tiles = s.tiles)) ∧
    (∀ c sw, x.dmem = s.fabric.member → x.kind ≠ 2 → (partAt s x.part).camp = some c → c.phase = .switching →
      c.sw = some sw → boundWith s c (memberAt c x.spos) = false → ChunkDropped s (.chunkReceive (.chunk n) t)) ∧
    (∀ (m : MsgAt) (f : FetchP), (m.frm, m.seq) ∉ s.fabric.seen → (partAt s f.part).camp = none →
      ChunkDropped s (.chunkReceive (.fetch m f) t)) ∧
    (∀ (m : MsgAt) (l : LostP), (m.frm, m.seq) ∉ s.fabric.seen → (partAt s l.part).camp = none →
      ChunkDropped s (.chunkReceive (.lost m l) t))

/-! ### Segments and rollout steps -/

/-- SEGMENT_COMMIT of a running segment whose tiles have all ended: it is done, and its turn goes on while something is left
of it, once the steps that are due have settled without a fault; a poisoned byte in a write window faults with POISON at the place where that poison entered, a semaphore that is not zero with SEM_NONZERO on each such
tile (R30, R36, R46). -/
def Obligations.SegmentsCommit : Prop :=
  ∀ (s : State) (part : Fin 32) (c : Camp) (tn : TurnP) (pr : Program) (r : Run) (seg step : Nat) (l : SegRun) (d : SegD)
    (t : Word64), Inv s → s.time.now.ule t → RunsTurn s part c tn pr r → l ∈ r.live → l.seg = seg → l.step = step →
    segDesc pr seg = some d → (∀ n ∈ segTiles s part d, tileEnded (tileAt s part n)) →
    ((∀ n ∈ segTiles s part d, windowPoison pr seg n (tileAt s part n) = none ∧ (tileAt s part n).sems = []) →
      turnMet (partAt s part) { r with done := r.done ++ [⟨seg, step⟩], live := [] } tn = false →
      issues (settleTry (tick s t) part) part →
      ∃ s' r', exec (.segmentCommit part seg step t) s = .next s' ∧ runOf (partAt s' part) = some r' ∧
      r'.done = r.done ++ [⟨seg, step⟩] ∧ r'.turn = r.turn ∧ r'.steps = r.steps ∧ r'.nextStep = r.nextStep ∧
      s'.journal = s.journal ∧ (partAt s' part).reqs = (partAt s part).reqs) ∧
    ((∀ n ∈ segTiles s part d, windowPoison pr seg n (tileAt s part n) = none) →
      (∃ n ∈ segTiles s part d, (tileAt s part n).sems ≠ []) →
      ∃ s' xs, exec (.segmentCommit part seg step t) s = .next s' ∧ (partAt s' part).flog = (partAt s part).flog ++ xs ∧
      xs.map (fun x => x.tile) = (segTiles s part d).filter (fun n => decide ((tileAt s part n).sems ≠ [])) ∧
      (∀ x ∈ xs, x.status = 0x0304 ∧ x.seg = seg ∧ x.time = t ∧
        (tileAt s part x.tile).sems.head? = some (x.sem, x.detail)) ∧
      (partAt s' part).fault = some ⟨(partAt s part).flog.length, 0x0304, false, false⟩ ∧
      (∀ k, k ≠ part.val → partAt s' k = partAt s k) ∧ s'.t2 = s.t2 ∧ s'.journal = s.journal) ∧
    ((partAt s part).groups.length ≤ 24 → (∃ n ∈ segTiles s part d, windowPoison pr seg n (tileAt s part n) ≠ none) →
      ∃ s' x w, exec (.segmentCommit part seg step t) s = .next s' ∧ (partAt s' part).flog = (partAt s part).flog ++ [x] ∧
      x.status = 0x0309 ∧ x.time = t ∧ x.tile ∈ segTiles s part d ∧
      windowPoison pr seg x.tile (tileAt s part x.tile) = some w ∧ x.detail = w.1 ∧ x.addr = w.2 - 1 ∧
      (partAt s' part).fault = some ⟨(partAt s part).flog.length, 0x0309, false, false⟩ ∧
      (∀ k, k ≠ part.val → partAt s' k = partAt s k) ∧ s'.t2 = s.t2 ∧ s'.journal = s.journal)

/-- The next entry of the prompt list becomes an ADMITTED entry of the running rollout turn, marked as the list's; one that
an admission would reject is passed over, which is the model's reading (log entry 12) (R243, R244, R248). -/
def PromptListsAreAdmitted : Prop :=
  ∀ (s : State) (part : Fin 32) (c : Camp) (r : Run) (rp : RollP) (a : AdmitP) (e : Nat) (drs : List Nat) (t : Word64), Inv s →
    s.time.now.ule t → rollRun s part = some (c, r, rp) → c.stop = false → r.kind = .rollout → r.admOpen →
    r.listNext < rp.nprompt → (∀ x, listEntry s part rp r.listNext = some x → x = a) →
    (admitStatus s part a = 0 → admitChoice s part e a drs →
      ∃ s' y r', exec (.listAdmission part a e drs t) s = .next s' ∧ reqAt s' part e = some y ∧ y.st = .admitted ∧
      y.list = true ∧ y.turn = some (partAt s part).turnSeq ∧ y.tag = a.tag ∧ y.plen = a.plen ∧ y.maxgen = a.maxgen ∧
      y.clen = 0 ∧ y.seq = (partAt s part).reqSeq ∧ (∀ k, k ≠ e → reqAt s' part k = reqAt s part k) ∧
      runOf (partAt s' part) = some r' ∧ r'.listNext = r.listNext + 1 ∧
      r'.admOpen = !(decide (rp.close = 0) && decide (r.listNext + 1 = rp.nprompt)) ∧ s'.journal = s.journal) ∧
    (∀ k y, admitStatus s part a ≠ 0 → admitStatus s part a ≠ 0x0108 → reqAt s part k = some y → reqOpen y →
      y.turn = some (partAt s part).turnSeq →
      ∃ s' r', exec (.listAdmission part a e drs t) s = .next s' ∧ (partAt s' part).reqs = (partAt s part).reqs ∧
      runOf (partAt s' part) = some r' ∧ r'.listNext = r.listNext + 1 ∧ s'.journal = s.journal)

/-- The composer opens the next step, once every member has committed the step that used its slot before, with the entries that it
selects: a decoding entry that needs no drawer and has nothing
against it gets one row, and the manifest goes to the other members of its decoding set; they open the same step from it, once the
steps before it that hold one of its entries have committed there (R253, R254, R255). Which positions make a set is log entry 36
(DEDUCED). -/
def StepsAreComposed : Prop :=
  ∀ (s : State) (part : Fin 32) (c : Camp) (r : Run) (rp : RollP) (t : Word64), Inv s → s.time.now.ule t →
    rollRun s part = some (c, r, rp) → c.stop = false →
    (∀ e y reports drs toks bad, isComposer s part c → (∀ x ∈ r.steps, r.nextStep ≤ x.step + rp.mbufs) →
      (∀ m ∈ slotPeers s part c rp r.nextStep, m ∈ reports) →
      considered (partAt s part) r = [(e, y)] → reqAt s part e = some y → y.st = .decode → y.ven = false → y.tlen = 0 →
      dueReason y t = 0 → planOf s part rp e y 1 1 = ⟨e, 1, 1, [], [], 0⟩ → 1 ≤ rp.maxdec → 1 ≤ rp.tokbudget →
      ∃ s' r', exec (.stepCompose part ⟨reports, drs⟩ toks bad t) s = .next s' ∧ runOf (partAt s' part) = some r' ∧
      r'.steps = r.steps ++ [⟨r.nextStep, [⟨e, 1, 0, 1, 0, y.klen⟩], []⟩] ∧ r'.nextStep = r.nextStep + 1 ∧
      (partAt s' part).reqs = (partAt s part).reqs ∧ (partAt s' part).drawers = (partAt s part).drawers ∧
      (∀ m ∈ setPeers s c (progOf (partAt s part)), ∃ x slot, x ∈ s'.fabric.out ∧ x.dest = m ∧
        x.msg = .manifest c.p.id c.turnIx r.nextStep slot [] []) ∧ s'.journal = s.journal) ∧
    (∀ (m : MsgAt) slot reqs evicts drs, isComposer s part c = false → slot.length = 64 + 82 * rp.tokbudget → reqs ≠ [] →
      (∀ q ∈ reqs, inFlight r q.req = false) →
      (m.frm, m.seq) ∉ s.fabric.seen → boundWith s c m.frm →
      ∃ s' r', exec (.manifestReceive part ⟨m, r.nextStep⟩ slot ⟨reqs, drs⟩ evicts t) s = .next s' ∧
      runOf (partAt s' part) = some r' ∧ r'.steps = r.steps ++ [⟨r.nextStep, reqs, []⟩] ∧
      r'.nextStep = r.nextStep + 1 ∧ s'.journal = s.journal)

/-- What one decode draw leaves of an entry: one token more in the output and the context, the draw counter one up; a stop
token ends it, and so does the last token that it may have, its drafts as they were; one that goes on has none (R249, R258,
R265). -/
def TokenCommitted (y y' : Req) (d : Draw) : Prop :=
  y'.clen = y.clen + 1 ∧ y'.klen = y.klen + 1 ∧ y'.last = d.token ∧ y'.bg = { y.bg with ctr := y.bg.ctr + 1 } ∧
  (y'.st = .done → y'.tlen = y.tlen ∧ y'.draft = y.draft) ∧ (y'.st = .decode → y'.tlen = 0 ∧ y'.draft = []) ∧ y'.tag = y.tag ∧ y'.plen = y.plen ∧ y'.prio = y.prio ∧
  (y.stops.contains d.token → y'.st = .done ∧ y'.reason = 1) ∧
  (y.stops.contains d.token = false → y.clen + 1 = y.maxgen → y'.st = .done ∧ y'.reason = 2) ∧
  (y.stops.contains d.token = false → y.clen + 1 ≠ y.maxgen → y'.st = .decode)

/-- ROLLOUT_COMMIT at the sampler, and COMMIT_RECORD_RECEIVE at the other positions, commit the oldest step in flight: here
one decoding entry without drafts, with one good draw. The step leaves the flight, and the sampler tells the others of its set; an
entry that another member has had to evict is evicted there with the step (R253, R258, R265, R274, R276). -/
def RolloutStepsCommit : Prop :=
  ∀ (s : State) (part : Fin 32) (c : Camp) (r : Run) (rp : RollP) (pr : Program) (e : Nat) (row0 k0 : Nat) (y : Req)
    (d : Draw) (x : StepRec) (t : Word64), Inv s → s.time.now.ule t → rollRun s part = some (c, r, rp) → c.stop = false →
    r.admOpen → progOf (partAt s part) = some pr → r.steps.head? = some x → x.reqs = [⟨e, 1, row0, 1, 0, k0⟩] →
    reqAt s part e = some y → y.list = false → d.req = e → d.stat = 0 →
    (isSampler s part c → stepDrawn s part r pr x.step → drawsOf x e = [d] → dueReason y t = 0 →
      ndoutOf (recordNow s part rp x.step 0) = 0 →
      ∃ s' r' y', exec (.rolloutCommit part x.step t) s = .next s' ∧ runOf (partAt s' part) = some r' ∧
      r'.steps = r.steps.filter (fun z => decide (z.step ≠ x.step)) ∧ reqAt s' part e = some y' ∧ TokenCommitted y y' d ∧
      (∀ k, k ≠ e → reqAt s' part k = reqAt s part k) ∧
      (∀ m ∈ setPeers s c (progOf (partAt s part)), ∃ z ∈ s'.fabric.out, z.dest = m ∧
        z.msg = .commit c.p.id c.turnIx x.step x.draws [(e, [])] []) ∧ s'.journal = s.journal) ∧
    (∀ m : MsgAt, isSampler s part c = false → (m.frm, m.seq) ∉ s.fabric.seen → boundWith s c m.frm → y.due ≠ 0 →
      y.stops.contains d.token = false → y.clen + 1 ≠ y.maxgen →
      ∃ s' y', exec (.commitRecordReceive part ⟨m, x.step⟩ [d] [] [] t) s = .next s' ∧ reqAt s' part e = some y' ∧
      y'.st = .evicted ∧ y'.reason = y.due ∧ y'.clen = y.clen + 1 ∧ (∀ k, k ≠ e → reqAt s' part k = reqAt s part k)) ∧
    (∀ m : MsgAt, isSampler s part c = false → (m.frm, m.seq) ∉ s.fabric.seen → boundWith s c m.frm → y.due = 0 →
      ∃ s' r' y', exec (.commitRecordReceive part ⟨m, x.step⟩ [d] [] [] t) s = .next s' ∧ runOf (partAt s' part) = some r' ∧
      r'.steps = r.steps.filter (fun z => decide (z.step ≠ x.step)) ∧ reqAt s' part e = some y' ∧ TokenCommitted y y' d ∧
      (∀ k, k ≠ e → reqAt s' part k = reqAt s part k) ∧ s'.journal = s.journal) ∧
    (isSampler s part c → drawsOf x e = [] → stepDrawn s part r pr x.step →
      ∃ s' z, exec (.rolloutCommit part x.step t) s = .next s' ∧ (partAt s' part).flog = (partAt s part).flog ++ [z] ∧
      z.status = 0x0330 ∧ z.tile = 255 ∧ z.detail = e + 2 ^ 24 ∧ z.time = t ∧
      (partAt s' part).fault = some ⟨(partAt s part).flog.length, 0x0330, false, false⟩ ∧
      (partAt s' part).reqs = (partAt s part).reqs)

/-- At the turn's end time admission closes and every open entry of the turn is evicted with reason 7, one that is in flight
at its step's commit (R8, R274). -/
def TurnsEndOnTime : Prop :=
  ∀ (s : State) (part : Fin 32) (c : Camp) (r : Run) (rp : RollP) (e : Nat) (y : Req) (t : Word64), Inv s →
    s.time.now.ule t → rollRun s part = some (c, r, rp) → rp.endt ≠ 0 → rp.endt.ule t → reqAt s part e = some y →
    reqOpen y → y.turn = some (partAt s part).turnSeq → y.list = false →
    (inFlight r e = false →
      ∃ s' y', exec (.turnEndTime part t) s = .next s' ∧ reqAt s' part e = some y' ∧ y'.st = .evicted ∧ y'.reason = 7 ∧
      y'.clen = y.clen ∧ y'.tag = y.tag) ∧
    (inFlight r e → c.stop = false → ((partAt s part).reqs.map (fun x => x.1)).Nodup →
      ∃ s' r', exec (.turnEndTime part t) s = .next s' ∧ reqAt s' part e = some { y with due := 7 } ∧
      runOf (partAt s' part) = some r' ∧ r'.admOpen = false ∧ r'.steps = r.steps ∧ s'.journal = s.journal)

/-! ### The whole block -/

/-- A step takes the command at the front of the queue and runs it on the state with the queue's rest; with an empty queue one
nanosecond passes and nothing else happens, which is the model's choice (log entry 9). -/
def Obligations.StepRunsTheFront : Prop :=
  ∀ (s : State),
    (∀ (c : Instr) (r : List Instr), s.pending = c :: r → Machine.step s = exec c (s.withPending r)) ∧
    (s.pending = [] → ∃ t, Machine.step s = .next t ∧ t.time.now = s.time.now + 1 ∧ t.withTime s.time = s)

/-- Every command of every row completes with a next state, in every state, but for an access beyond the BAR2 window and for a
private debug instruction after an unlock, of which the manual says no effect (R324, R420): those alone stop, the first with a fault and
the second with a refusal, which is the model's reading of that silence (log entry 18). -/
def Obligations.EveryCommandCompletes : Prop :=
  ∀ (c : Instr) (s : State),
    ((∀ x n, c = .bar2Read x n → x + n.n ≤ windowSize) → (∀ x data, c = .bar2Write x data → x + data.length ≤ windowSize) →
      (∀ n, c = .tapPrivateDebug n → s.io.tapUnlocked = false) → ∃ t, exec c s = .next t) ∧
    ((∃ t, exec c s = .next t) ∨
    (exec c s = .fault .outsideWindow ∧ ((∃ x n, c = .bar2Read x n ∧ windowSize < x + n.n) ∨
      (∃ x data, c = .bar2Write x data ∧ windowSize < x + data.length))) ∨
    (exec c s = .refused .privateDebug ∧ s.io.tapUnlocked ∧ ∃ n, c = .tapPrivateDebug n))

/-- No command's effect touches the queue of waiting commands. -/
def Obligations.EffectsLeaveTheQueue : Prop :=
  ∀ (c : Instr) (s t : State), exec c s = .next t → t.pending = s.pending

/-- After reset the tables have their sizes and canonical forms, every partition but partition 0 is UNUSED, partition 0 is
STOPPED without groups, every group is FREE, no queue exists, every vector is masked, no port trains, semaphores and registers of
every tile read 0 (R5, R24, R47, R338, R340, R342). That the vectors are masked is PCI Express's reset value, not the manual's
(log entry 5). -/
def Obligations.ResetMeetsTheInvariant : Prop :=
  Inv State.reset ∧ TilesOk State.reset ∧ State.reset.pending = [] ∧ State.reset.boot.fw = 0 ∧
  (partAt State.reset 0).st = .stopped ∧ (partAt State.reset 0).groups = [] ∧
  (∀ p, 1 ≤ p → p < 32 → partAt State.reset p = Part.unused) ∧
  (∀ g, g < 24 → groupAt State.reset g = ⟨.free, 0⟩) ∧
  (∀ f n, f < 32 → n < 8 → sqAt State.reset f n = none ∧ cqAt State.reset f n = none) ∧
  (∀ f v, f < 32 → v < 64 → ((fnAt State.reset f).msix.getD v ⟨0, 0, false, false⟩).mask = true) ∧
  (∀ n, n < 12 → (portAt State.reset n).st = .disabled) ∧
  (∀ n r, sreg (tileRaw State.reset n) r = 0 ∧ mapGet 0 (tileRaw State.reset n).sems r = 0)

/-- Every step keeps the sizes of the module's tables and the canonical forms of its memories, poison and counters. -/
def Obligations.StepsKeepTheInvariant : Prop :=
  ∀ (s t : State), Inv s → Machine.step s = .next t → Inv t

/-- Every step keeps every tile's tables in canonical form, and scalar register 0 is never stored (R19). -/
def Obligations.StepsKeepTilesCanonical : Prop :=
  ∀ (s t : State), TilesOk s → Machine.step s = .next t → TilesOk t

/-- A well-formed command word is what its encoding decodes to, with every field at every value, and a pattern that decodes
to a word is that word's encoding: no bit is dropped either way (R17, R19, R21, R75 to R81, R119 to R123, R131, R139, R141,
R183). -/
def Obligations.WordsRoundTrip : Prop :=
  (∀ w : TWord, wordOk w → decodeWord (encodeWord w) = w) ∧
  (∀ b : Word64, decodeWord b ≠ .illegal → wordOk (decodeWord b) ∧ encodeWord (decodeWord b) = b)

/-- The words that the manual writes out decode to the words that it says they are, and reserved opcodes to none. -/
def Obligations.WrittenWordsDecode : Prop :=
  decodeWord 0x411C800000020000 = .mxsetb ⟨1, true, true, 2, false, false, 0, 0, 128⟩ ∧
  decodeWord 0x411CA00000020000 = .mxsetb ⟨1, true, true, 2, true, false, 0, 0, 128⟩ ∧
  decodeWord 0x48382000A0000000 = .mxmul ⟨3, true, false, 16, 80, 0, 0⟩ ∧
  decodeWord 0x807E800002800000 = .ewhead ⟨3, 7, 2, true, false, 0, 0, 0, false, 0, false, 0, 20⟩ ∧
  decodeWord 0x820D155830180000 =
    .ewop ⟨3, 0x08, 0x15, 0x0B, 0, false, false, 3, false, 0, false, 12, 0⟩ ∧
  decodeWord 0x0000000000000000 = .illegal ∧ decodeWord 0xF000000000000000 = .illegal ∧
  decodeWord 0x48382000A0000001 = .illegal

/-- A virtual function's command that names another partition than its own, or that only the PF may give, completes with NOT_PERMITTED once
it stands at its queue's head and may start, and then nothing but that completion happens: every partition is as before, and all else.
So a command that has its own effect is for the function's own partition (R335, R336, R338, R346). PART_CREATE and REGION_CREATE
wait for the general T2 (R396), and a snapshot takes an id that is free. -/
def Obligations.VirtualFunctionsStayInside : Prop :=
  (∀ (s : State) (i : Instr) (q : QId) (c : HostCmd) (r : JRec), hostInstr i = some (q, c) → canStart s q c = some r → q.fn ≠ 0 →
    s.boot.restT2 → snapIdFree s i → (recPart r ≠ q.fn.val ∨ pfOnly c) →
    ∃ t, exec i s = .next t ∧ Completes s t q 0x0104 ∧ t.parts = s.parts ∧ (t.withJournal s.journal).withFree s.free = s) ∧
  (∀ (s : State) (q : QId) (c : HostCmd) (p : Nat), hostReady s q c p → q.fn ≠ 0 → p = q.fn)

/-! ### Statements in several parts -/

/-- PART_START, PART_STOP, PART_DESTROY and PART_RECOVER complete or begin as R340 says from each state of the partition in which they
start; a start or stop that finds nothing to do completes at once (R340, R341, R343, R344; with log entry 27 where a PART_DESTROY waits for
a stop, and for PART_RECOVER). -/
def Obligations.PartitionLifecycle : Prop := PartStartStopFromEachState ∧ PartDestroyFromEachState

/-- Queues are created and deleted by command, and the admin queue pair by its enable bit (R326, R330). -/
def Obligations.QueuesComeAndGo : Prop := QueueCommandsComplete ∧ AdminQueuesFollowTheirEnable

/-- REGION_CREATE, REGION_STAGE and REGION_ABANDON open, stage and give up; REGION_PUBLISH makes a staged publication current;
REGION_FREE takes a region away and zeroes its pages (R187, R190 to R194). -/
def Obligations.RegionsLive : Prop := RegionOpensAndStages ∧ RegionPublishCompletes ∧ RegionFreeCompletes

/-- REGION_FILL writes its pattern; COPY_IN and COPY_OUT start, and a finished transfer moves the bytes of its range and
completes the command (R335, R336). -/
def Obligations.RegionBytesMove : Prop := RegionFillWrites ∧ CopiesStart ∧ CopiesMoveTheirBytes

/-- A campaign starts at its rendezvous, goes on when every member's digest has come and is equal, and ends there by a stop, a
mismatch or the time limit; it closes once its last turn record is in host memory (R352 to R355). The word that a stop sends of a reward
turn is the model's choice (log entry 26). -/
def Obligations.CampaignsMeet : Prop := CampaignCommandsComplete ∧ CampaignStopsAtRendezvous ∧ RendezvousMeets ∧ CampaignClosesWithItsRecord

/-- Ports are enabled, disabled and greeted by command, and move between the states of R289 as light, training, hellos and
failures have it (R287 to R290). How nonces go and what training resets is log entries 38 and 39. -/
def Obligations.PortsLive : Prop := PortCommandsComplete ∧ PortStatesMove ∧ HelloDecidesThePort

/-- A flit goes out with the next sequence number or from the replay buffer, and one that comes in is taken in order
(R280 to R286). The CRC-32C's form and which credits a flit returns are log entries 24 and 38. -/
def Obligations.FlitsPass : Prop := FlitTransmitSends ∧ FlitReceiveTakesInOrder

/-- Beacons measure the round trip, a dark lane is replaced by a spare one, light moves a port, and laser units have spares
(R285 to R288). The turns and times of reflected beacons are log entry 38's. -/
def Obligations.LinesAreWatched : Prop := BeaconsAndSpareLanes ∧ LightAndLasers

/-- Membership is given, asked for and agreed by majority; leaders follow each other, and messages are sent again (R293 to R295, R298). What
commits and heartbeats tell of links is log entry 23. -/
def Obligations.MembershipForms : Prop := GroupMembershipCommands ∧ EpochsFormByMajority ∧ LeadersAndMessages

/-- Budgets, limits and balances of partitions: GEAR_LIMIT, ENERGY_BUDGET, and the refill of each energy window (R367 to
R369). -/
def Obligations.EnergyIsBudgeted : Prop := LimitsAndBudgets ∧ EnergyWindowsRefill

/-- Power levels are entered by command; input power, its loss, presence contacts and PERST# take the module up and down
(R365, R366, R410 to R412, R422). What starts and ends an
input is log entry 41. -/
def Obligations.PowerIsSequenced : Prop := PowerLevelEnters ∧ PowerSequencing

/-- Sensors are sampled and filtered, fast and slow, with the energy delivered, and the caps on gears step with them (R375, R376, R380). The
filters are exact by log entry 41. -/
def Obligations.SensorsSetTheCaps : Prop := SensorsAreSampled ∧ GearCapsStep

/-- Device faults reset the module or end it, cores that fall silent are watched, and the loss of the link stops every
partition (R240, R323, R377, R399, R401, R403, R407). T0 through a device reset, the replay of two faults and the link in L2 are log
entries 43, 44 and 39. -/
def Obligations.DeviceFaultsAct : Prop := DeviceFaultsResetOrEnd ∧ CoresAreWatched ∧ LinkLossStops

/-- Spares take the place of what fails, and a scrub poisons what it cannot correct (R208, R209, R401, R402). How spares are numbered and
what a word of T0 is are log entries 44 and 50. -/
def Obligations.RepairsAct : Prop := SparesEngage ∧ ScrubPoisons

/-- A cold boot leads to a running Utora, and an image that fails a check is refused with its code (R394 to R399). The order of
the checks is log entry 43. -/
def Obligations.BootActs : Prop := ColdBootStartsUtora ∧ BadImagesAreRefused

/-- Snapshots latch and are read; counters, records, the fault log and the history are read; attestation, measurements and
certificates are answered, and a configuration record is taken; a read whose write the host refuses ends with HOST_WRITE
(R45, R337, R385 to R388, R404 to R406, R423). -/
def Obligations.DiagnosticsAnswer : Prop := SnapshotsAreArmed ∧ DiagnosticReadsComplete ∧ RefusedReadsComplete ∧ AttestAndConfigure

/-- A completion is posted in its queue's next slot with its fields and phase, and lost events are reported once there is room
(R329, R333, R350). -/
def Obligations.CompletionsReachTheHost : Prop := CompletionsArePosted ∧ CompletionEntryFields ∧ LostEventsAreReported

/-- The I3C target and the test port answer as R379 to R381 and R420 say. -/
def Obligations.SidebandAnswers : Prop := I3cTargetAnswers ∧ TestPortActs

/-- STARTING, STOPPING, draining and scrubbing end where R340 to R343 say. -/
def Obligations.PartitionEventsAct : Prop := PartitionsStartAndStop ∧ DrainAndScrubComplete

/-- Chain words are assembled in order, and a whole chain runs and leaves its results (R117 to R138). -/
def Obligations.ChainsAssembleAndRun : Prop := ChainWordsAssemble ∧ ChainsRun

/-- Ring words arm, send and close rings, and bobbins move through their states (R165 to R186). -/
def Obligations.RingsAndBobbins : Prop := RingWords ∧ BobbinsMove

/-- Prompt lists are admitted while admission is open, and ADMIT_CLOSE closes it (R243, R244). -/
def Obligations.AdmissionsOpenAndClose : Prop := AdmissionCloses ∧ PromptListsAreAdmitted

/-- Turns end with every member's beacon or at their end time, and switches lead into the next (R7, R8, R305, R355). -/
def Obligations.TurnsEndAndFollow : Prop := TurnsFollowEachOther ∧ TurnsEndOnTime

/-- Steps settle, and every rank of a step is decided (R229 to R232, R312). -/
def Obligations.SettleDecides : Prop := StepsSettle ∧ EveryRankIsDecided

/-- Chunks of collectives and layout pairs land once, in their places (R301, R303, R310, R313, R318). -/
def Obligations.ChunksLand : Prop := CollectiveChunksLand ∧ LayoutChunksLand

/-- Rollout steps are composed and committed (R253 to R258, R265). -/
def Obligations.RolloutStepsRun : Prop := StepsAreComposed ∧ RolloutStepsCommit

/-- Prefix handles and variants come and go by command, and keep what refers to them (R261, R264, R267, R268). -/
def Obligations.HandlesAndVariants : Prop := PrefixCommandsComplete ∧ VariantCommandsComplete

/-- Synchronisation words signal, wait, take, mark and end their queue, and a reserved word faults (R17, R21 to R24, R36, R37,
R44, R387). -/
def Obligations.WordsSynchronise : Prop := SynchronisationWords ∧ ReservedWordsFault
end

