-- ==== Sys2Proof/Laws/State.lean ====
section
/-! SUPPORT. What each update of a unit of the state leaves in each field: no later proof unfolds an update. -/

namespace Sys2Proof.Machine

open Sys2Proof

/-! ### withPending -/

section
variable (s : State) (v : List Instr)

@[simp] theorem State.withPending_pending : (s.withPending v).pending = v := rfl
@[simp] theorem State.withPending_time : (s.withPending v).time = s.time := rfl
@[simp] theorem State.withPending_io : (s.withPending v).io = s.io := rfl
@[simp] theorem State.withPending_boot : (s.withPending v).boot = s.boot := rfl
@[simp] theorem State.withPending_power : (s.withPending v).power = s.power := rfl
@[simp] theorem State.withPending_fns : (s.withPending v).fns = s.fns := rfl
@[simp] theorem State.withPending_journal : (s.withPending v).journal = s.journal := rfl
@[simp] theorem State.withPending_parts : (s.withPending v).parts = s.parts := rfl
@[simp] theorem State.withPending_groups : (s.withPending v).groups = s.groups := rfl
@[simp] theorem State.withPending_tiles : (s.withPending v).tiles = s.tiles := rfl
@[simp] theorem State.withPending_t2 : (s.withPending v).t2 = s.t2 := rfl
@[simp] theorem State.withPending_t1 : (s.withPending v).t1 = s.t1 := rfl
@[simp] theorem State.withPending_host : (s.withPending v).host = s.host := rfl
@[simp] theorem State.withPending_images : (s.withPending v).images = s.images := rfl
@[simp] theorem State.withPending_fabric : (s.withPending v).fabric = s.fabric := rfl
@[simp] theorem State.withPending_samp : (s.withPending v).samp = s.samp := rfl
@[simp] theorem State.withPending_ctrs : (s.withPending v).ctrs = s.ctrs := rfl
@[simp] theorem State.withPending_free : (s.withPending v).free = s.free := rfl
@[simp] theorem State.withPending_self : s.withPending s.pending = s := rfl
@[simp] theorem State.withPending_twice (w : List Instr) : (s.withPending w).withPending v = s.withPending v := rfl

end

/-! ### withTime -/

section
variable (s : State) (v : TimeU)

@[simp] theorem State.withTime_pending : (s.withTime v).pending = s.pending := rfl
@[simp] theorem State.withTime_time : (s.withTime v).time = v := rfl
@[simp] theorem State.withTime_io : (s.withTime v).io = s.io := rfl
@[simp] theorem State.withTime_boot : (s.withTime v).boot = s.boot := rfl
@[simp] theorem State.withTime_power : (s.withTime v).power = s.power := rfl
@[simp] theorem State.withTime_fns : (s.withTime v).fns = s.fns := rfl
@[simp] theorem State.withTime_journal : (s.withTime v).journal = s.journal := rfl
@[simp] theorem State.withTime_parts : (s.withTime v).parts = s.parts := rfl
@[simp] theorem State.withTime_groups : (s.withTime v).groups = s.groups := rfl
@[simp] theorem State.withTime_tiles : (s.withTime v).tiles = s.tiles := rfl
@[simp] theorem State.withTime_t2 : (s.withTime v).t2 = s.t2 := rfl
@[simp] theorem State.withTime_t1 : (s.withTime v).t1 = s.t1 := rfl
@[simp] theorem State.withTime_host : (s.withTime v).host = s.host := rfl
@[simp] theorem State.withTime_images : (s.withTime v).images = s.images := rfl
@[simp] theorem State.withTime_fabric : (s.withTime v).fabric = s.fabric := rfl
@[simp] theorem State.withTime_samp : (s.withTime v).samp = s.samp := rfl
@[simp] theorem State.withTime_ctrs : (s.withTime v).ctrs = s.ctrs := rfl
@[simp] theorem State.withTime_free : (s.withTime v).free = s.free := rfl
@[simp] theorem State.withTime_self : s.withTime s.time = s := rfl
@[simp] theorem State.withTime_twice (w : TimeU) : (s.withTime w).withTime v = s.withTime v := rfl

end

/-! ### withIo -/

section
variable (s : State) (v : IoU)

@[simp] theorem State.withIo_pending : (s.withIo v).pending = s.pending := rfl
@[simp] theorem State.withIo_time : (s.withIo v).time = s.time := rfl
@[simp] theorem State.withIo_io : (s.withIo v).io = v := rfl
@[simp] theorem State.withIo_boot : (s.withIo v).boot = s.boot := rfl
@[simp] theorem State.withIo_power : (s.withIo v).power = s.power := rfl
@[simp] theorem State.withIo_fns : (s.withIo v).fns = s.fns := rfl
@[simp] theorem State.withIo_journal : (s.withIo v).journal = s.journal := rfl
@[simp] theorem State.withIo_parts : (s.withIo v).parts = s.parts := rfl
@[simp] theorem State.withIo_groups : (s.withIo v).groups = s.groups := rfl
@[simp] theorem State.withIo_tiles : (s.withIo v).tiles = s.tiles := rfl
@[simp] theorem State.withIo_t2 : (s.withIo v).t2 = s.t2 := rfl
@[simp] theorem State.withIo_t1 : (s.withIo v).t1 = s.t1 := rfl
@[simp] theorem State.withIo_host : (s.withIo v).host = s.host := rfl
@[simp] theorem State.withIo_images : (s.withIo v).images = s.images := rfl
@[simp] theorem State.withIo_fabric : (s.withIo v).fabric = s.fabric := rfl
@[simp] theorem State.withIo_samp : (s.withIo v).samp = s.samp := rfl
@[simp] theorem State.withIo_ctrs : (s.withIo v).ctrs = s.ctrs := rfl
@[simp] theorem State.withIo_free : (s.withIo v).free = s.free := rfl
@[simp] theorem State.withIo_self : s.withIo s.io = s := rfl
@[simp] theorem State.withIo_twice (w : IoU) : (s.withIo w).withIo v = s.withIo v := rfl

end

/-! ### withBoot -/

section
variable (s : State) (v : BootU)

@[simp] theorem State.withBoot_pending : (s.withBoot v).pending = s.pending := rfl
@[simp] theorem State.withBoot_time : (s.withBoot v).time = s.time := rfl
@[simp] theorem State.withBoot_io : (s.withBoot v).io = s.io := rfl
@[simp] theorem State.withBoot_boot : (s.withBoot v).boot = v := rfl
@[simp] theorem State.withBoot_power : (s.withBoot v).power = s.power := rfl
@[simp] theorem State.withBoot_fns : (s.withBoot v).fns = s.fns := rfl
@[simp] theorem State.withBoot_journal : (s.withBoot v).journal = s.journal := rfl
@[simp] theorem State.withBoot_parts : (s.withBoot v).parts = s.parts := rfl
@[simp] theorem State.withBoot_groups : (s.withBoot v).groups = s.groups := rfl
@[simp] theorem State.withBoot_tiles : (s.withBoot v).tiles = s.tiles := rfl
@[simp] theorem State.withBoot_t2 : (s.withBoot v).t2 = s.t2 := rfl
@[simp] theorem State.withBoot_t1 : (s.withBoot v).t1 = s.t1 := rfl
@[simp] theorem State.withBoot_host : (s.withBoot v).host = s.host := rfl
@[simp] theorem State.withBoot_images : (s.withBoot v).images = s.images := rfl
@[simp] theorem State.withBoot_fabric : (s.withBoot v).fabric = s.fabric := rfl
@[simp] theorem State.withBoot_samp : (s.withBoot v).samp = s.samp := rfl
@[simp] theorem State.withBoot_ctrs : (s.withBoot v).ctrs = s.ctrs := rfl
@[simp] theorem State.withBoot_free : (s.withBoot v).free = s.free := rfl
@[simp] theorem State.withBoot_self : s.withBoot s.boot = s := rfl
@[simp] theorem State.withBoot_twice (w : BootU) : (s.withBoot w).withBoot v = s.withBoot v := rfl

end

/-! ### withPower -/

section
variable (s : State) (v : PowerU)

@[simp] theorem State.withPower_pending : (s.withPower v).pending = s.pending := rfl
@[simp] theorem State.withPower_time : (s.withPower v).time = s.time := rfl
@[simp] theorem State.withPower_io : (s.withPower v).io = s.io := rfl
@[simp] theorem State.withPower_boot : (s.withPower v).boot = s.boot := rfl
@[simp] theorem State.withPower_power : (s.withPower v).power = v := rfl
@[simp] theorem State.withPower_fns : (s.withPower v).fns = s.fns := rfl
@[simp] theorem State.withPower_journal : (s.withPower v).journal = s.journal := rfl
@[simp] theorem State.withPower_parts : (s.withPower v).parts = s.parts := rfl
@[simp] theorem State.withPower_groups : (s.withPower v).groups = s.groups := rfl
@[simp] theorem State.withPower_tiles : (s.withPower v).tiles = s.tiles := rfl
@[simp] theorem State.withPower_t2 : (s.withPower v).t2 = s.t2 := rfl
@[simp] theorem State.withPower_t1 : (s.withPower v).t1 = s.t1 := rfl
@[simp] theorem State.withPower_host : (s.withPower v).host = s.host := rfl
@[simp] theorem State.withPower_images : (s.withPower v).images = s.images := rfl
@[simp] theorem State.withPower_fabric : (s.withPower v).fabric = s.fabric := rfl
@[simp] theorem State.withPower_samp : (s.withPower v).samp = s.samp := rfl
@[simp] theorem State.withPower_ctrs : (s.withPower v).ctrs = s.ctrs := rfl
@[simp] theorem State.withPower_free : (s.withPower v).free = s.free := rfl
@[simp] theorem State.withPower_self : s.withPower s.power = s := rfl
@[simp] theorem State.withPower_twice (w : PowerU) : (s.withPower w).withPower v = s.withPower v := rfl

end

/-! ### withFns -/

section
variable (s : State) (v : List Fn)

@[simp] theorem State.withFns_pending : (s.withFns v).pending = s.pending := rfl
@[simp] theorem State.withFns_time : (s.withFns v).time = s.time := rfl
@[simp] theorem State.withFns_io : (s.withFns v).io = s.io := rfl
@[simp] theorem State.withFns_boot : (s.withFns v).boot = s.boot := rfl
@[simp] theorem State.withFns_power : (s.withFns v).power = s.power := rfl
@[simp] theorem State.withFns_fns : (s.withFns v).fns = v := rfl
@[simp] theorem State.withFns_journal : (s.withFns v).journal = s.journal := rfl
@[simp] theorem State.withFns_parts : (s.withFns v).parts = s.parts := rfl
@[simp] theorem State.withFns_groups : (s.withFns v).groups = s.groups := rfl
@[simp] theorem State.withFns_tiles : (s.withFns v).tiles = s.tiles := rfl
@[simp] theorem State.withFns_t2 : (s.withFns v).t2 = s.t2 := rfl
@[simp] theorem State.withFns_t1 : (s.withFns v).t1 = s.t1 := rfl
@[simp] theorem State.withFns_host : (s.withFns v).host = s.host := rfl
@[simp] theorem State.withFns_images : (s.withFns v).images = s.images := rfl
@[simp] theorem State.withFns_fabric : (s.withFns v).fabric = s.fabric := rfl
@[simp] theorem State.withFns_samp : (s.withFns v).samp = s.samp := rfl
@[simp] theorem State.withFns_ctrs : (s.withFns v).ctrs = s.ctrs := rfl
@[simp] theorem State.withFns_free : (s.withFns v).free = s.free := rfl
@[simp] theorem State.withFns_self : s.withFns s.fns = s := rfl
@[simp] theorem State.withFns_twice (w : List Fn) : (s.withFns w).withFns v = s.withFns v := rfl

end

/-! ### withJournal -/

section
variable (s : State) (v : List JRec)

@[simp] theorem State.withJournal_pending : (s.withJournal v).pending = s.pending := rfl
@[simp] theorem State.withJournal_time : (s.withJournal v).time = s.time := rfl
@[simp] theorem State.withJournal_io : (s.withJournal v).io = s.io := rfl
@[simp] theorem State.withJournal_boot : (s.withJournal v).boot = s.boot := rfl
@[simp] theorem State.withJournal_power : (s.withJournal v).power = s.power := rfl
@[simp] theorem State.withJournal_fns : (s.withJournal v).fns = s.fns := rfl
@[simp] theorem State.withJournal_journal : (s.withJournal v).journal = v := rfl
@[simp] theorem State.withJournal_parts : (s.withJournal v).parts = s.parts := rfl
@[simp] theorem State.withJournal_groups : (s.withJournal v).groups = s.groups := rfl
@[simp] theorem State.withJournal_tiles : (s.withJournal v).tiles = s.tiles := rfl
@[simp] theorem State.withJournal_t2 : (s.withJournal v).t2 = s.t2 := rfl
@[simp] theorem State.withJournal_t1 : (s.withJournal v).t1 = s.t1 := rfl
@[simp] theorem State.withJournal_host : (s.withJournal v).host = s.host := rfl
@[simp] theorem State.withJournal_images : (s.withJournal v).images = s.images := rfl
@[simp] theorem State.withJournal_fabric : (s.withJournal v).fabric = s.fabric := rfl
@[simp] theorem State.withJournal_samp : (s.withJournal v).samp = s.samp := rfl
@[simp] theorem State.withJournal_ctrs : (s.withJournal v).ctrs = s.ctrs := rfl
@[simp] theorem State.withJournal_free : (s.withJournal v).free = s.free := rfl
@[simp] theorem State.withJournal_self : s.withJournal s.journal = s := rfl
@[simp] theorem State.withJournal_twice (w : List JRec) : (s.withJournal w).withJournal v = s.withJournal v := rfl

end

/-! ### withParts -/

section
variable (s : State) (v : List Part)

@[simp] theorem State.withParts_pending : (s.withParts v).pending = s.pending := rfl
@[simp] theorem State.withParts_time : (s.withParts v).time = s.time := rfl
@[simp] theorem State.withParts_io : (s.withParts v).io = s.io := rfl
@[simp] theorem State.withParts_boot : (s.withParts v).boot = s.boot := rfl
@[simp] theorem State.withParts_power : (s.withParts v).power = s.power := rfl
@[simp] theorem State.withParts_fns : (s.withParts v).fns = s.fns := rfl
@[simp] theorem State.withParts_journal : (s.withParts v).journal = s.journal := rfl
@[simp] theorem State.withParts_parts : (s.withParts v).parts = v := rfl
@[simp] theorem State.withParts_groups : (s.withParts v).groups = s.groups := rfl
@[simp] theorem State.withParts_tiles : (s.withParts v).tiles = s.tiles := rfl
@[simp] theorem State.withParts_t2 : (s.withParts v).t2 = s.t2 := rfl
@[simp] theorem State.withParts_t1 : (s.withParts v).t1 = s.t1 := rfl
@[simp] theorem State.withParts_host : (s.withParts v).host = s.host := rfl
@[simp] theorem State.withParts_images : (s.withParts v).images = s.images := rfl
@[simp] theorem State.withParts_fabric : (s.withParts v).fabric = s.fabric := rfl
@[simp] theorem State.withParts_samp : (s.withParts v).samp = s.samp := rfl
@[simp] theorem State.withParts_ctrs : (s.withParts v).ctrs = s.ctrs := rfl
@[simp] theorem State.withParts_free : (s.withParts v).free = s.free := rfl
@[simp] theorem State.withParts_self : s.withParts s.parts = s := rfl
@[simp] theorem State.withParts_twice (w : List Part) : (s.withParts w).withParts v = s.withParts v := rfl

end

/-! ### withGroups -/

section
variable (s : State) (v : List Group)

@[simp] theorem State.withGroups_pending : (s.withGroups v).pending = s.pending := rfl
@[simp] theorem State.withGroups_time : (s.withGroups v).time = s.time := rfl
@[simp] theorem State.withGroups_io : (s.withGroups v).io = s.io := rfl
@[simp] theorem State.withGroups_boot : (s.withGroups v).boot = s.boot := rfl
@[simp] theorem State.withGroups_power : (s.withGroups v).power = s.power := rfl
@[simp] theorem State.withGroups_fns : (s.withGroups v).fns = s.fns := rfl
@[simp] theorem State.withGroups_journal : (s.withGroups v).journal = s.journal := rfl
@[simp] theorem State.withGroups_parts : (s.withGroups v).parts = s.parts := rfl
@[simp] theorem State.withGroups_groups : (s.withGroups v).groups = v := rfl
@[simp] theorem State.withGroups_tiles : (s.withGroups v).tiles = s.tiles := rfl
@[simp] theorem State.withGroups_t2 : (s.withGroups v).t2 = s.t2 := rfl
@[simp] theorem State.withGroups_t1 : (s.withGroups v).t1 = s.t1 := rfl
@[simp] theorem State.withGroups_host : (s.withGroups v).host = s.host := rfl
@[simp] theorem State.withGroups_images : (s.withGroups v).images = s.images := rfl
@[simp] theorem State.withGroups_fabric : (s.withGroups v).fabric = s.fabric := rfl
@[simp] theorem State.withGroups_samp : (s.withGroups v).samp = s.samp := rfl
@[simp] theorem State.withGroups_ctrs : (s.withGroups v).ctrs = s.ctrs := rfl
@[simp] theorem State.withGroups_free : (s.withGroups v).free = s.free := rfl
@[simp] theorem State.withGroups_self : s.withGroups s.groups = s := rfl
@[simp] theorem State.withGroups_twice (w : List Group) : (s.withGroups w).withGroups v = s.withGroups v := rfl

end

/-! ### withTiles -/

section
variable (s : State) (v : Map Tile)

@[simp] theorem State.withTiles_pending : (s.withTiles v).pending = s.pending := rfl
@[simp] theorem State.withTiles_time : (s.withTiles v).time = s.time := rfl
@[simp] theorem State.withTiles_io : (s.withTiles v).io = s.io := rfl
@[simp] theorem State.withTiles_boot : (s.withTiles v).boot = s.boot := rfl
@[simp] theorem State.withTiles_power : (s.withTiles v).power = s.power := rfl
@[simp] theorem State.withTiles_fns : (s.withTiles v).fns = s.fns := rfl
@[simp] theorem State.withTiles_journal : (s.withTiles v).journal = s.journal := rfl
@[simp] theorem State.withTiles_parts : (s.withTiles v).parts = s.parts := rfl
@[simp] theorem State.withTiles_groups : (s.withTiles v).groups = s.groups := rfl
@[simp] theorem State.withTiles_tiles : (s.withTiles v).tiles = v := rfl
@[simp] theorem State.withTiles_t2 : (s.withTiles v).t2 = s.t2 := rfl
@[simp] theorem State.withTiles_t1 : (s.withTiles v).t1 = s.t1 := rfl
@[simp] theorem State.withTiles_host : (s.withTiles v).host = s.host := rfl
@[simp] theorem State.withTiles_images : (s.withTiles v).images = s.images := rfl
@[simp] theorem State.withTiles_fabric : (s.withTiles v).fabric = s.fabric := rfl
@[simp] theorem State.withTiles_samp : (s.withTiles v).samp = s.samp := rfl
@[simp] theorem State.withTiles_ctrs : (s.withTiles v).ctrs = s.ctrs := rfl
@[simp] theorem State.withTiles_free : (s.withTiles v).free = s.free := rfl
@[simp] theorem State.withTiles_self : s.withTiles s.tiles = s := rfl
@[simp] theorem State.withTiles_twice (w : Map Tile) : (s.withTiles w).withTiles v = s.withTiles v := rfl

end

/-! ### withT2 -/

section
variable (s : State) (v : T2U)

@[simp] theorem State.withT2_pending : (s.withT2 v).pending = s.pending := rfl
@[simp] theorem State.withT2_time : (s.withT2 v).time = s.time := rfl
@[simp] theorem State.withT2_io : (s.withT2 v).io = s.io := rfl
@[simp] theorem State.withT2_boot : (s.withT2 v).boot = s.boot := rfl
@[simp] theorem State.withT2_power : (s.withT2 v).power = s.power := rfl
@[simp] theorem State.withT2_fns : (s.withT2 v).fns = s.fns := rfl
@[simp] theorem State.withT2_journal : (s.withT2 v).journal = s.journal := rfl
@[simp] theorem State.withT2_parts : (s.withT2 v).parts = s.parts := rfl
@[simp] theorem State.withT2_groups : (s.withT2 v).groups = s.groups := rfl
@[simp] theorem State.withT2_tiles : (s.withT2 v).tiles = s.tiles := rfl
@[simp] theorem State.withT2_t2 : (s.withT2 v).t2 = v := rfl
@[simp] theorem State.withT2_t1 : (s.withT2 v).t1 = s.t1 := rfl
@[simp] theorem State.withT2_host : (s.withT2 v).host = s.host := rfl
@[simp] theorem State.withT2_images : (s.withT2 v).images = s.images := rfl
@[simp] theorem State.withT2_fabric : (s.withT2 v).fabric = s.fabric := rfl
@[simp] theorem State.withT2_samp : (s.withT2 v).samp = s.samp := rfl
@[simp] theorem State.withT2_ctrs : (s.withT2 v).ctrs = s.ctrs := rfl
@[simp] theorem State.withT2_free : (s.withT2 v).free = s.free := rfl
@[simp] theorem State.withT2_self : s.withT2 s.t2 = s := rfl
@[simp] theorem State.withT2_twice (w : T2U) : (s.withT2 w).withT2 v = s.withT2 v := rfl

end

/-! ### withT1 -/

section
variable (s : State) (v : T1U)

@[simp] theorem State.withT1_pending : (s.withT1 v).pending = s.pending := rfl
@[simp] theorem State.withT1_time : (s.withT1 v).time = s.time := rfl
@[simp] theorem State.withT1_io : (s.withT1 v).io = s.io := rfl
@[simp] theorem State.withT1_boot : (s.withT1 v).boot = s.boot := rfl
@[simp] theorem State.withT1_power : (s.withT1 v).power = s.power := rfl
@[simp] theorem State.withT1_fns : (s.withT1 v).fns = s.fns := rfl
@[simp] theorem State.withT1_journal : (s.withT1 v).journal = s.journal := rfl
@[simp] theorem State.withT1_parts : (s.withT1 v).parts = s.parts := rfl
@[simp] theorem State.withT1_groups : (s.withT1 v).groups = s.groups := rfl
@[simp] theorem State.withT1_tiles : (s.withT1 v).tiles = s.tiles := rfl
@[simp] theorem State.withT1_t2 : (s.withT1 v).t2 = s.t2 := rfl
@[simp] theorem State.withT1_t1 : (s.withT1 v).t1 = v := rfl
@[simp] theorem State.withT1_host : (s.withT1 v).host = s.host := rfl
@[simp] theorem State.withT1_images : (s.withT1 v).images = s.images := rfl
@[simp] theorem State.withT1_fabric : (s.withT1 v).fabric = s.fabric := rfl
@[simp] theorem State.withT1_samp : (s.withT1 v).samp = s.samp := rfl
@[simp] theorem State.withT1_ctrs : (s.withT1 v).ctrs = s.ctrs := rfl
@[simp] theorem State.withT1_free : (s.withT1 v).free = s.free := rfl
@[simp] theorem State.withT1_self : s.withT1 s.t1 = s := rfl
@[simp] theorem State.withT1_twice (w : T1U) : (s.withT1 w).withT1 v = s.withT1 v := rfl

end

/-! ### withHost -/

section
variable (s : State) (v : Memory)

@[simp] theorem State.withHost_pending : (s.withHost v).pending = s.pending := rfl
@[simp] theorem State.withHost_time : (s.withHost v).time = s.time := rfl
@[simp] theorem State.withHost_io : (s.withHost v).io = s.io := rfl
@[simp] theorem State.withHost_boot : (s.withHost v).boot = s.boot := rfl
@[simp] theorem State.withHost_power : (s.withHost v).power = s.power := rfl
@[simp] theorem State.withHost_fns : (s.withHost v).fns = s.fns := rfl
@[simp] theorem State.withHost_journal : (s.withHost v).journal = s.journal := rfl
@[simp] theorem State.withHost_parts : (s.withHost v).parts = s.parts := rfl
@[simp] theorem State.withHost_groups : (s.withHost v).groups = s.groups := rfl
@[simp] theorem State.withHost_tiles : (s.withHost v).tiles = s.tiles := rfl
@[simp] theorem State.withHost_t2 : (s.withHost v).t2 = s.t2 := rfl
@[simp] theorem State.withHost_t1 : (s.withHost v).t1 = s.t1 := rfl
@[simp] theorem State.withHost_host : (s.withHost v).host = v := rfl
@[simp] theorem State.withHost_images : (s.withHost v).images = s.images := rfl
@[simp] theorem State.withHost_fabric : (s.withHost v).fabric = s.fabric := rfl
@[simp] theorem State.withHost_samp : (s.withHost v).samp = s.samp := rfl
@[simp] theorem State.withHost_ctrs : (s.withHost v).ctrs = s.ctrs := rfl
@[simp] theorem State.withHost_free : (s.withHost v).free = s.free := rfl
@[simp] theorem State.withHost_self : s.withHost s.host = s := rfl
@[simp] theorem State.withHost_twice (w : Memory) : (s.withHost w).withHost v = s.withHost v := rfl

end

/-! ### withImages -/

section
variable (s : State) (v : List SavedImg)

@[simp] theorem State.withImages_pending : (s.withImages v).pending = s.pending := rfl
@[simp] theorem State.withImages_time : (s.withImages v).time = s.time := rfl
@[simp] theorem State.withImages_io : (s.withImages v).io = s.io := rfl
@[simp] theorem State.withImages_boot : (s.withImages v).boot = s.boot := rfl
@[simp] theorem State.withImages_power : (s.withImages v).power = s.power := rfl
@[simp] theorem State.withImages_fns : (s.withImages v).fns = s.fns := rfl
@[simp] theorem State.withImages_journal : (s.withImages v).journal = s.journal := rfl
@[simp] theorem State.withImages_parts : (s.withImages v).parts = s.parts := rfl
@[simp] theorem State.withImages_groups : (s.withImages v).groups = s.groups := rfl
@[simp] theorem State.withImages_tiles : (s.withImages v).tiles = s.tiles := rfl
@[simp] theorem State.withImages_t2 : (s.withImages v).t2 = s.t2 := rfl
@[simp] theorem State.withImages_t1 : (s.withImages v).t1 = s.t1 := rfl
@[simp] theorem State.withImages_host : (s.withImages v).host = s.host := rfl
@[simp] theorem State.withImages_images : (s.withImages v).images = v := rfl
@[simp] theorem State.withImages_fabric : (s.withImages v).fabric = s.fabric := rfl
@[simp] theorem State.withImages_samp : (s.withImages v).samp = s.samp := rfl
@[simp] theorem State.withImages_ctrs : (s.withImages v).ctrs = s.ctrs := rfl
@[simp] theorem State.withImages_free : (s.withImages v).free = s.free := rfl
@[simp] theorem State.withImages_self : s.withImages s.images = s := rfl
@[simp] theorem State.withImages_twice (w : List SavedImg) : (s.withImages w).withImages v = s.withImages v := rfl

end

/-! ### withFabric -/

section
variable (s : State) (v : FabricU)

@[simp] theorem State.withFabric_pending : (s.withFabric v).pending = s.pending := rfl
@[simp] theorem State.withFabric_time : (s.withFabric v).time = s.time := rfl
@[simp] theorem State.withFabric_io : (s.withFabric v).io = s.io := rfl
@[simp] theorem State.withFabric_boot : (s.withFabric v).boot = s.boot := rfl
@[simp] theorem State.withFabric_power : (s.withFabric v).power = s.power := rfl
@[simp] theorem State.withFabric_fns : (s.withFabric v).fns = s.fns := rfl
@[simp] theorem State.withFabric_journal : (s.withFabric v).journal = s.journal := rfl
@[simp] theorem State.withFabric_parts : (s.withFabric v).parts = s.parts := rfl
@[simp] theorem State.withFabric_groups : (s.withFabric v).groups = s.groups := rfl
@[simp] theorem State.withFabric_tiles : (s.withFabric v).tiles = s.tiles := rfl
@[simp] theorem State.withFabric_t2 : (s.withFabric v).t2 = s.t2 := rfl
@[simp] theorem State.withFabric_t1 : (s.withFabric v).t1 = s.t1 := rfl
@[simp] theorem State.withFabric_host : (s.withFabric v).host = s.host := rfl
@[simp] theorem State.withFabric_images : (s.withFabric v).images = s.images := rfl
@[simp] theorem State.withFabric_fabric : (s.withFabric v).fabric = v := rfl
@[simp] theorem State.withFabric_samp : (s.withFabric v).samp = s.samp := rfl
@[simp] theorem State.withFabric_ctrs : (s.withFabric v).ctrs = s.ctrs := rfl
@[simp] theorem State.withFabric_free : (s.withFabric v).free = s.free := rfl
@[simp] theorem State.withFabric_self : s.withFabric s.fabric = s := rfl
@[simp] theorem State.withFabric_twice (w : FabricU) : (s.withFabric w).withFabric v = s.withFabric v := rfl

end

/-! ### withSamp -/

section
variable (s : State) (v : List SampReq)

@[simp] theorem State.withSamp_pending : (s.withSamp v).pending = s.pending := rfl
@[simp] theorem State.withSamp_time : (s.withSamp v).time = s.time := rfl
@[simp] theorem State.withSamp_io : (s.withSamp v).io = s.io := rfl
@[simp] theorem State.withSamp_boot : (s.withSamp v).boot = s.boot := rfl
@[simp] theorem State.withSamp_power : (s.withSamp v).power = s.power := rfl
@[simp] theorem State.withSamp_fns : (s.withSamp v).fns = s.fns := rfl
@[simp] theorem State.withSamp_journal : (s.withSamp v).journal = s.journal := rfl
@[simp] theorem State.withSamp_parts : (s.withSamp v).parts = s.parts := rfl
@[simp] theorem State.withSamp_groups : (s.withSamp v).groups = s.groups := rfl
@[simp] theorem State.withSamp_tiles : (s.withSamp v).tiles = s.tiles := rfl
@[simp] theorem State.withSamp_t2 : (s.withSamp v).t2 = s.t2 := rfl
@[simp] theorem State.withSamp_t1 : (s.withSamp v).t1 = s.t1 := rfl
@[simp] theorem State.withSamp_host : (s.withSamp v).host = s.host := rfl
@[simp] theorem State.withSamp_images : (s.withSamp v).images = s.images := rfl
@[simp] theorem State.withSamp_fabric : (s.withSamp v).fabric = s.fabric := rfl
@[simp] theorem State.withSamp_samp : (s.withSamp v).samp = v := rfl
@[simp] theorem State.withSamp_ctrs : (s.withSamp v).ctrs = s.ctrs := rfl
@[simp] theorem State.withSamp_free : (s.withSamp v).free = s.free := rfl
@[simp] theorem State.withSamp_self : s.withSamp s.samp = s := rfl
@[simp] theorem State.withSamp_twice (w : List SampReq) : (s.withSamp w).withSamp v = s.withSamp v := rfl

end

/-! ### withCtrs -/

section
variable (s : State) (v : Map Word64)

@[simp] theorem State.withCtrs_pending : (s.withCtrs v).pending = s.pending := rfl
@[simp] theorem State.withCtrs_time : (s.withCtrs v).time = s.time := rfl
@[simp] theorem State.withCtrs_io : (s.withCtrs v).io = s.io := rfl
@[simp] theorem State.withCtrs_boot : (s.withCtrs v).boot = s.boot := rfl
@[simp] theorem State.withCtrs_power : (s.withCtrs v).power = s.power := rfl
@[simp] theorem State.withCtrs_fns : (s.withCtrs v).fns = s.fns := rfl
@[simp] theorem State.withCtrs_journal : (s.withCtrs v).journal = s.journal := rfl
@[simp] theorem State.withCtrs_parts : (s.withCtrs v).parts = s.parts := rfl
@[simp] theorem State.withCtrs_groups : (s.withCtrs v).groups = s.groups := rfl
@[simp] theorem State.withCtrs_tiles : (s.withCtrs v).tiles = s.tiles := rfl
@[simp] theorem State.withCtrs_t2 : (s.withCtrs v).t2 = s.t2 := rfl
@[simp] theorem State.withCtrs_t1 : (s.withCtrs v).t1 = s.t1 := rfl
@[simp] theorem State.withCtrs_host : (s.withCtrs v).host = s.host := rfl
@[simp] theorem State.withCtrs_images : (s.withCtrs v).images = s.images := rfl
@[simp] theorem State.withCtrs_fabric : (s.withCtrs v).fabric = s.fabric := rfl
@[simp] theorem State.withCtrs_samp : (s.withCtrs v).samp = s.samp := rfl
@[simp] theorem State.withCtrs_ctrs : (s.withCtrs v).ctrs = v := rfl
@[simp] theorem State.withCtrs_free : (s.withCtrs v).free = s.free := rfl
@[simp] theorem State.withCtrs_self : s.withCtrs s.ctrs = s := rfl
@[simp] theorem State.withCtrs_twice (w : Map Word64) : (s.withCtrs w).withCtrs v = s.withCtrs v := rfl

end

/-! ### withFree -/

section
variable (s : State) (v : Nat)

@[simp] theorem State.withFree_pending : (s.withFree v).pending = s.pending := rfl
@[simp] theorem State.withFree_time : (s.withFree v).time = s.time := rfl
@[simp] theorem State.withFree_io : (s.withFree v).io = s.io := rfl
@[simp] theorem State.withFree_boot : (s.withFree v).boot = s.boot := rfl
@[simp] theorem State.withFree_power : (s.withFree v).power = s.power := rfl
@[simp] theorem State.withFree_fns : (s.withFree v).fns = s.fns := rfl
@[simp] theorem State.withFree_journal : (s.withFree v).journal = s.journal := rfl
@[simp] theorem State.withFree_parts : (s.withFree v).parts = s.parts := rfl
@[simp] theorem State.withFree_groups : (s.withFree v).groups = s.groups := rfl
@[simp] theorem State.withFree_tiles : (s.withFree v).tiles = s.tiles := rfl
@[simp] theorem State.withFree_t2 : (s.withFree v).t2 = s.t2 := rfl
@[simp] theorem State.withFree_t1 : (s.withFree v).t1 = s.t1 := rfl
@[simp] theorem State.withFree_host : (s.withFree v).host = s.host := rfl
@[simp] theorem State.withFree_images : (s.withFree v).images = s.images := rfl
@[simp] theorem State.withFree_fabric : (s.withFree v).fabric = s.fabric := rfl
@[simp] theorem State.withFree_samp : (s.withFree v).samp = s.samp := rfl
@[simp] theorem State.withFree_ctrs : (s.withFree v).ctrs = s.ctrs := rfl
@[simp] theorem State.withFree_free : (s.withFree v).free = v := rfl
@[simp] theorem State.withFree_self : s.withFree s.free = s := rfl
@[simp] theorem State.withFree_twice (w : Nat) : (s.withFree w).withFree v = s.withFree v := rfl

end

end Sys2Proof.Machine
end

