-- ==== Sys2Proof/Laws/Tables.lean ====
section
/-! SUPPORT. Laws of the sparse tables and of memory: a read after a write, and that every operation keeps the canonical
form. -/

namespace Sys2Proof.Machine

open Sys2Proof

variable {α : Type}

/-! ### Rising keys -/

/-- Every key of a table lies above a bound. -/
abbrev Above (k : Nat) (m : Map α) : Prop := ∀ e ∈ m, k < e.1

theorem keysRise_cons (a : Nat × α) (m : Map α) : keysRise (a :: m) = true ↔ Above a.1 m ∧ keysRise m = true := by
  induction m generalizing a with
  | nil => simp [keysRise]
  | cons b r ih =>
    simp only [keysRise, Bool.and_eq_true, decide_eq_true_eq, List.forall_mem_cons]
    constructor
    · rintro ⟨h, hr⟩
      exact ⟨⟨h, fun e he => lt_trans h ((ih b).1 hr |>.1 e he)⟩, hr⟩
    · rintro ⟨⟨h, -⟩, hr⟩
      exact ⟨h, hr⟩

theorem mapGet_above (d : α) {m : Map α} {k i : Nat} (h : Above k m) (hi : i ≤ k) : mapGet d m i = d := by
  induction m with
  | nil => rfl
  | cons a r ih =>
    have ha := h a (List.mem_cons_self ..)
    simp only [mapGet, if_neg (show ¬ a.1 = i by omega)]
    exact ih fun e he => h e (List.mem_cons_of_mem _ he)

theorem mapFind_above {m : Map α} {k i : Nat} (h : Above k m) (hi : i ≤ k) : mapFind m i = none := by
  induction m with
  | nil => rfl
  | cons a r ih =>
    have ha := h a (List.mem_cons_self ..)
    simp only [mapFind, if_neg (show ¬ a.1 = i by omega)]
    exact ih fun e he => h e (List.mem_cons_of_mem _ he)

/-! ### Reading after writing -/

theorem mapFind_mapPut (m : Map α) (i j : Nat) (v : α) :
    mapFind (mapPut m i v) j = if j = i then some v else mapFind m j := by
  induction m with
  | nil => simp [mapPut, mapFind, eq_comm]
  | cons a r ih =>
    obtain ⟨k, w⟩ := a
    simp only [mapPut]
    grind [mapFind]

theorem mapGet_mapPut (d : α) (m : Map α) (i j : Nat) (v : α) :
    mapGet d (mapPut m i v) j = if j = i then v else mapGet d m j := by
  induction m with
  | nil => simp [mapPut, mapGet, eq_comm]
  | cons a r ih =>
    obtain ⟨k, w⟩ := a
    simp only [mapPut]
    grind [mapGet]

theorem mapGet_mapSet [DecidableEq α] (d : α) (m : Map α) (i j : Nat) (v : α) (h : keysRise m = true) :
    mapGet d (mapSet d m i v) j = if j = i then v else mapGet d m j := by
  induction m with
  | nil => simp only [mapSet]; grind [mapGet]
  | cons a r ih =>
    obtain ⟨k, w⟩ := a
    obtain ⟨ha, hr⟩ := (keysRise_cons _ _).1 h
    have low (x : Nat) (hx : x ≤ k) : mapGet d r x = d := mapGet_above d ha hx
    have := ih hr
    simp only [mapSet]
    grind [mapGet]

theorem mapFind_mapDel (m : Map α) (i j : Nat) : mapFind (mapDel m i) j = if j = i then none else mapFind m j := by
  induction m with
  | nil => simp [mapDel, mapFind]
  | cons a r ih =>
    obtain ⟨k, w⟩ := a
    simp only [mapDel, ne_eq, decide_not] at *
    grind [mapFind]

/-! ### The canonical form -/

theorem mapWf_iff [DecidableEq α] (d : α) (m : Map α) :
    mapWf d m = true ↔ keysRise m = true ∧ ∀ e ∈ m, e.2 ≠ d := by
  simp [mapWf]

theorem keysRise_filter (m : Map α) (c : Nat × α → Bool) (h : keysRise m = true) : keysRise (m.filter c) = true := by
  induction m with
  | nil => rfl
  | cons a r ih =>
    obtain ⟨ha, hr⟩ := (keysRise_cons _ _).1 h
    simp only [List.filter_cons]
    split
    · exact (keysRise_cons _ _).2 ⟨fun e he => ha e (List.mem_filter.1 he).1, ih hr⟩
    · exact ih hr

theorem mapWf_filter [DecidableEq α] (d : α) (m : Map α) (c : Nat × α → Bool) (h : mapWf d m = true) :
    mapWf d (m.filter c) = true := by
  rw [mapWf_iff] at *
  exact ⟨keysRise_filter m c h.1, fun e he => h.2 e (List.mem_filter.1 he).1⟩

theorem mem_mapPut {m : Map α} {i : Nat} {v : α} {e : Nat × α} (h : e ∈ mapPut m i v) : e = (i, v) ∨ e ∈ m := by
  induction m with
  | nil => simpa [mapPut] using h
  | cons a r ih =>
    simp only [mapPut] at h
    split_ifs at h <;> simp_all <;> grind

theorem mem_mapSet [DecidableEq α] {d : α} {m : Map α} {i : Nat} {v : α} {e : Nat × α} (h : e ∈ mapSet d m i v) :
    (e = (i, v) ∧ v ≠ d) ∨ e ∈ m := by
  induction m with
  | nil => simp only [mapSet] at h; split_ifs at h <;> simp_all
  | cons a r ih =>
    simp only [mapSet] at h
    split_ifs at h <;> simp_all <;> grind

theorem keysRise_mapPut (m : Map α) (i : Nat) (v : α) (h : keysRise m = true) : keysRise (mapPut m i v) = true := by
  induction m with
  | nil => rfl
  | cons a r ih =>
    obtain ⟨ha, hr⟩ := (keysRise_cons _ _).1 h
    simp only [mapPut]
    split_ifs with h1 h2
    · exact (keysRise_cons _ _).2 ⟨fun e he => h1 ▸ ha e he, hr⟩
    · exact (keysRise_cons _ _).2 ⟨by
        simp only [List.forall_mem_cons]; exact ⟨h2, fun e he => lt_trans h2 (ha e he)⟩, h⟩
    · refine (keysRise_cons _ _).2 ⟨fun e he => ?_, ih hr⟩
      rcases mem_mapPut he with rfl | he
      · simp only; omega
      · exact ha e he

theorem keysRise_mapSet [DecidableEq α] (d : α) (m : Map α) (i : Nat) (v : α) (h : keysRise m = true) :
    keysRise (mapSet d m i v) = true := by
  induction m with
  | nil => simp only [mapSet]; split_ifs <;> rfl
  | cons a r ih =>
    obtain ⟨ha, hr⟩ := (keysRise_cons _ _).1 h
    simp only [mapSet]
    split_ifs with h1 h2 h3 h4
    · exact hr
    · exact (keysRise_cons _ _).2 ⟨fun e he => h1 ▸ ha e he, hr⟩
    · exact h
    · exact (keysRise_cons _ _).2 ⟨by
        simp only [List.forall_mem_cons]; exact ⟨h3, fun e he => lt_trans h3 (ha e he)⟩, h⟩
    · refine (keysRise_cons _ _).2 ⟨fun e he => ?_, ih hr⟩
      rcases mem_mapSet he with ⟨rfl, -⟩ | he
      · simp only; omega
      · exact ha e he

/-- Every write keeps the canonical form: writing the default takes the entry out. -/
theorem mapWf_mapSet [DecidableEq α] (d : α) (m : Map α) (i : Nat) (v : α) (h : mapWf d m = true) :
    mapWf d (mapSet d m i v) = true := by
  rw [mapWf_iff] at *
  refine ⟨keysRise_mapSet d m i v h.1, fun e he => ?_⟩
  rcases mem_mapSet he with ⟨rfl, hv⟩ | he
  · exact hv
  · exact h.2 e he

/-! ### Memory -/

theorem memSet_wf (m : Memory) (a : Nat) (b : Byte) (h : Memory.wf m = true) : Memory.wf (memSet m a b) = true :=
  mapWf_mapSet _ m a b h

theorem memWrite_wf (m : Memory) (a : Nat) (b : List Byte) (h : Memory.wf m = true) :
    Memory.wf (memWrite m a b) = true := by
  induction b generalizing m a with
  | nil => exact h
  | cons x r ih => exact ih _ _ (memSet_wf m a x h)

theorem memFilter_wf (m : Memory) (c : Nat × Byte → Bool) (h : Memory.wf m = true) : Memory.wf (m.filter c) = true :=
  mapWf_filter _ m c h

theorem memGet_memSet (m : Memory) (a x : Nat) (b : Byte) (h : Memory.wf m = true) :
    memGet (memSet m a b) x = if x = a then b else memGet m x :=
  mapGet_mapSet _ m a x b ((mapWf_iff _ _).1 h).1

/-- A read after a write of a run of bytes: inside the run its byte, outside it what was there. -/
theorem memGet_memWrite (m : Memory) (a x : Nat) (b : List Byte) (h : Memory.wf m = true) :
    memGet (memWrite m a b) x = if a ≤ x ∧ x < a + b.length then b.getD (x - a) 0 else memGet m x := by
  induction b generalizing m a with
  | nil => simp [memWrite]
  | cons y r ih =>
    rw [memWrite, ih _ _ (memSet_wf m a y h), memGet_memSet m a x y h]
    by_cases h1 : a + 1 ≤ x ∧ x < a + 1 + r.length
    · rw [if_pos h1, if_pos ⟨by omega, by simp; omega⟩, show x - a = (x - (a + 1)) + 1 by omega, List.getD_cons_succ]
    · rw [if_neg h1]
      by_cases h2 : x = a
      · subst h2; simp
      · rw [if_neg h2, if_neg (by simp; omega)]

theorem setPut_wf (m : NSet) (i : Nat) (v : Bool) (h : mapWf false m = true) : mapWf false (setPut m i v) = true :=
  mapWf_mapSet _ m i v h

theorem setRange_wf (m : NSet) (a n : Nat) (v : Bool) (h : mapWf false m = true) :
    mapWf false (setRange m a n v) = true := by
  unfold setRange
  induction List.range n generalizing m with
  | nil => exact h
  | cons k r ih => exact ih _ (setPut_wf m _ v h)

theorem tagPut_wf (m : Map Tag) (i : Nat) (v : Tag) (h : mapWf 0 m = true) : mapWf 0 (tagPut m i v) = true :=
  mapWf_mapSet _ m i v h

theorem tagRange_wf (m : Map Tag) (a n : Nat) (v : Tag) (h : mapWf 0 m = true) : mapWf 0 (tagRange m a n v) = true := by
  unfold tagRange
  induction List.range n generalizing m with
  | nil => exact h
  | cons k r ih => exact ih _ (tagPut_wf m _ v h)

theorem tagAt_tagPut (m : Map Tag) (i j : Nat) (v : Tag) (h : mapWf 0 m = true) :
    mapGet 0 (tagPut m i v) j = if j = i then v else mapGet 0 m j :=
  mapGet_mapSet _ m i j v ((mapWf_iff _ _).1 h).1

theorem setHas_setPut (m : NSet) (i j : Nat) (v : Bool) (h : mapWf false m = true) :
    setHas (setPut m i v) j = if j = i then v else setHas m j :=
  mapGet_mapSet _ m i j v ((mapWf_iff _ _).1 h).1

end Sys2Proof.Machine
end

