-- ==== Sys2Proof/Laws/Ops.lean ====
section
/-! SUPPORT. For each shared operation, once, everything that it can change, and that it keeps the sizes and the canonical
forms. -/

namespace Sys2Proof.Machine

open Sys2Proof

/-! ### Time and counters -/

/-- Time that passes changes the two clocks alone. -/
theorem tick_changes (s : State) (t : Word64) :
    ∃ w, tick s t = s.withTime { s.time with now := t, wait := w } := ⟨_, rfl⟩

@[simp] theorem tick_now (s : State) (t : Word64) : (tick s t).time.now = t := rfl

/-- A timed event acts at its time, or not at all. -/
theorem atTime_cases (s : State) (t : Word64) (f : State → State) :
    (s.time.now.ule t = true ∧ atTime s t f = f (tick s t)) ∨ (s.time.now.ule t = false ∧ atTime s t f = s) := by
  unfold atTime
  cases h : s.time.now.ule t <;> simp

theorem addCtr_changes (s : State) (k n : Nat) : ∃ c, addCtr s k n = s.withCtrs c := ⟨_, rfl⟩

theorem addCtr_get (s : State) (k n j : Nat) (h : mapWf 0 s.ctrs = true) :
    mapGet 0 (addCtr s k n).ctrs j = if j = k then mapGet 0 s.ctrs k + BitVec.ofNat 64 n else mapGet 0 s.ctrs j :=
  mapGet_mapSet _ _ k j _ ((mapWf_iff _ _).1 h).1

/-! ### Units addressed by a number -/

theorem setFn_changes (s : State) (f : Nat) (x : Fn) : setFn s f x = s.withFns (s.fns.set f x) := rfl

theorem setPart_changes (s : State) (p : Nat) (x : Part) : setPart s p x = s.withParts (s.parts.set p x) := rfl

theorem setGroup_changes (s : State) (g : Nat) (x : Group) : setGroup s g x = s.withGroups (s.groups.set g x) := rfl

theorem fnAt_setFn (s : State) (f k : Nat) (x : Fn) (h : f < s.fns.length) :
    fnAt (setFn s f x) k = if k = f then x else fnAt s k := by
  simp only [fnAt, setFn, listSet, State.withFns_fns, List.getD_eq_getElem?_getD, List.getElem?_set]
  grind

theorem partAt_setPart (s : State) (p k : Nat) (x : Part) (h : p < s.parts.length) :
    partAt (setPart s p x) k = if k = p then x else partAt s k := by
  simp only [partAt, setPart, listSet, State.withParts_parts, List.getD_eq_getElem?_getD, List.getElem?_set]
  grind

theorem partAt_setPart_ne (s : State) {p k : Nat} (x : Part) (h : k ≠ p) : partAt (setPart s p x) k = partAt s k := by
  simp [partAt, setPart, listSet, List.getElem?_set_ne h.symm]

theorem groupAt_setGroup (s : State) (g k : Nat) (x : Group) (h : g < s.groups.length) :
    groupAt (setGroup s g x) k = if k = g then x else groupAt s k := by
  simp only [groupAt, setGroup, listSet, State.withGroups_groups, List.getD_eq_getElem?_getD, List.getElem?_set]
  grind

/-! ### Tiles -/

theorem setTile_changes (s : State) (p t : Nat) (x : Tile) : ∃ m, setTile s p t x = s.withTiles m := by
  unfold setTile
  split
  · exact ⟨_, rfl⟩
  · exact ⟨s.tiles, rfl⟩

theorem tileRaw_setTileRaw (s : State) (n k : Nat) (x : Tile) :
    tileRaw (setTileRaw s n x) k = if k = n then x else tileRaw s k :=
  mapGet_mapPut _ _ n k x

theorem tileAt_setTile (s : State) {p t n : Nat} (x : Tile) (h : tileIx s p t = some n) :
    tileAt (setTile s p t x) p t = x := by
  have h2 : tileIx (setTileRaw s n x) p t = some n := h
  simp [tileAt, setTile, h, h2, tileRaw_setTileRaw]

theorem updTiles_changes (s : State) (p : Nat) (f : Nat → Tile → Tile) : ∃ m, updTiles s p f = s.withTiles m := by
  unfold updTiles
  generalize List.range (nTiles s p) = l
  induction l generalizing s with
  | nil => exact ⟨s.tiles, rfl⟩
  | cons k r ih =>
    obtain ⟨m, hm⟩ := setTile_changes s p k (f k (tileAt s p k))
    obtain ⟨m2, hm2⟩ := ih (updTile s p k (f k))
    exact ⟨m2, by rw [List.foldl_cons, hm2, updTile, hm]; rfl⟩

/-! ### Host memory, interrupts, events -/

theorem hostWrite_changes (s : State) (space a : Nat) (b : List Byte) :
    hostWrite s space a b = s.withHost (memWrite s.host (hostAt space a) b) := rfl

theorem withFns_only (s : State) (x : List Fn) : s.withFns x = (s.withFns x).withHost s.host := rfl

/-- An interrupt changes the function's table of vectors and host memory. -/
theorem raiseMsix_changes (s : State) (f v : Nat) :
    ∃ x h, raiseMsix s f v = (s.withFns x).withHost h := by
  unfold raiseMsix
  dsimp only
  split
  · rw [setFn_changes]; exact ⟨_, s.host, withFns_only _ _⟩
  · rw [hostWrite_changes]; exact ⟨s.fns, _, rfl⟩

theorem assertWake_changes (s : State) (e : Bool) : ∃ io, assertWake s e = s.withIo io := by
  unfold assertWake
  split
  · exact ⟨s.io, rfl⟩
  · exact ⟨_, rfl⟩

theorem pushEvent_changes (s : State) (f : Nat) (y : Fn) (src part body : Nat) :
    ∃ x h, pushEvent s f y src part body = (s.withFns x).withHost h := by
  unfold pushEvent
  rw [hostWrite_changes, setFn_changes]
  generalize memWrite s.host _ _ = m
  generalize List.set _ _ _ = l
  obtain ⟨x, h, e⟩ := raiseMsix_changes ((s.withHost m).withFns l) f 63
  exact ⟨x, h, e⟩

/-- An event changes functions, host memory and the wake pin. -/
theorem postEventTo_changes (s : State) (f src part body : Nat) :
    ∃ io x h, postEventTo s f src part body = ((s.withIo io).withFns x).withHost h := by
  unfold postEventTo
  dsimp only
  obtain ⟨io, e⟩ := assertWake_changes s (fnAt s f).even
  rw [e]
  split
  · exact ⟨io, s.fns, s.host, rfl⟩
  · split
    · rw [setFn_changes]; exact ⟨io, _, s.host, withFns_only (s.withIo io) _⟩
    · obtain ⟨x, h, e⟩ := pushEvent_changes (s.withIo io) f (fnAt s f) src part body
      exact ⟨io, x, h, e⟩

theorem postEvent_changes (s : State) (src part body : Nat) :
    ∃ io x h, postEvent s src part body = ((s.withIo io).withFns x).withHost h := by
  unfold postEvent
  dsimp only
  obtain ⟨io, x, h, e⟩ := postEventTo_changes s 0 src part body
  split
  · exact ⟨io, x, h, e⟩
  · rw [e]
    obtain ⟨io2, x2, h2, e2⟩ := postEventTo_changes (((s.withIo io).withFns x).withHost h) part src part body
    exact ⟨io2, x2, h2, by rw [e2]; rfl⟩

theorem raiseAlert_changes (s : State) (n : Nat) : ∃ io, raiseAlert s n = s.withIo io := ⟨_, rfl⟩

theorem addHist_changes (s : State) (cls kind unit : Nat) (d : Word64) (r : Bool) :
    ∃ b, addHist s cls kind unit d r = s.withBoot b := by
  unfold addHist
  split <;> exact ⟨_, rfl⟩

theorem sweepInvals_changes (s : State) (p : Nat) : ∃ x, sweepInvals s p = s.withFns x := by
  unfold sweepInvals
  dsimp only
  split
  · exact ⟨s.fns, rfl⟩
  · exact ⟨_, rfl⟩

theorem setPState_changes (s : State) (p : Nat) (st : PState) :
    ∃ io x h y, setPState s p st = (((s.withParts y).withIo io).withFns x).withHost h := by
  unfold setPState
  dsimp only
  split
  · exact ⟨s.io, s.fns, s.host, s.parts, rfl⟩
  · obtain ⟨io, x, h, e⟩ := postEvent_changes (updPart s p (fun x => { x with st := st })) 2 p
      (packFields [⟨0, 5, p⟩, ⟨8, 3, (partAt s p).st.code⟩, ⟨12, 3, st.code⟩])
    exact ⟨io, x, h, _, e⟩

/-! ### The journal -/

/-- Replacing the first record that satisfies a test keeps the journal's length. -/
@[simp] theorem updFirst_length (l : List JRec) (c : JRec → Bool) (f : JRec → JRec) :
    (updFirst l c f).length = l.length := by
  induction l with
  | nil => rfl
  | cons r t ih => simp only [updFirst]; split <;> simp [ih]

theorem updFirst_none (l : List JRec) (c : JRec → Bool) (f : JRec → JRec) (h : ∀ r ∈ l, c r = false) :
    updFirst l c f = l := by
  induction l with
  | nil => rfl
  | cons r t ih =>
    simp [updFirst, h r (List.mem_cons_self ..), ih fun x hx => h x (List.mem_cons_of_mem _ hx)]

/-- A completion: the journal's record, and WAKE# where the link is down (R347, R419). -/
theorem commitCmd_changes (s : State) (q : QId) (st d : Nat) :
    ∃ io, commitCmd s q st d = (s.withIo io).withJournal (completedWith s q st d) := by
  unfold commitCmd
  obtain ⟨io, e⟩ := assertWake_changes (updHead s q (fun r =>
    { r with st := .committed, status := st, detail := d, tdone := s.time.now })) (headRec s q).isSome
  exact ⟨io, by rw [e]; rfl⟩

theorem startCmd_changes (s : State) (q : QId) : startCmd s q = s.withJournal (startedOn s q) := rfl

/-- A completion whose detail is open: some detail, and one free value drawn. -/
theorem endCmd_changes (s : State) (q : QId) (st : Nat) :
    ∃ d io, endCmd s q st = ((s.withFree (s.free + 1)).withIo io).withJournal (completedWith s q st d) :=
  ⟨_, commitCmd_changes (s.withFree (s.free + 1)) q st _⟩

theorem done_changes (s : State) (q : QId) (d : Nat) :
    ∃ io, done s q d = (s.withIo io).withJournal (completedWith s q 0 d) := commitCmd_changes s q 0 d

theorem doneOk_changes (s : State) (q : QId) :
    ∃ d io, doneOk s q = ((s.withFree (s.free + 1)).withIo io).withJournal (completedWith s q 0 d) := endCmd_changes s q 0

theorem rejectAt_changes (s : State) (q : QId) (st off : Nat) :
    ∃ d io, rejectAt s q st off = ((s.withFree (s.free + 1)).withIo io).withJournal (completedWith s q st d) :=
  ⟨_, commitCmd_changes (s.withFree (s.free + 1)) q st _⟩

theorem reject_changes (s : State) (q : QId) (st : Nat) :
    ∃ d io, reject s q st = ((s.withFree (s.free + 1)).withIo io).withJournal (completedWith s q st d) := by
  unfold reject
  split
  · exact rejectAt_changes s q st _
  · exact endCmd_changes s q st

/-- A host command that is ready runs its meaning for its partition. -/
theorem hostCmd_ready {s : State} {q : QId} {c : HostCmd} {p : Nat} (f : State → Nat → State)
    (h : hostReady s q c p = true) : hostCmd s q c f = .next (f s p) := by
  unfold hostReady at h
  split at h
  · rename_i r hr
    simp only [Bool.and_eq_true, decide_eq_true_eq, Bool.not_eq_true'] at h
    obtain ⟨⟨⟨hp, hperm⟩, hg⟩, hb⟩ := h
    subst hp
    simp [hostCmd, ok, hr, hperm, hg, hb]
  · cases h

/-- What a host command's row can answer: the state as it was, a completion by a check, or its meaning. -/
theorem hostCmd_cases (s : State) (q : QId) (c : HostCmd) (f : State → Nat → State) :
    hostCmd s q c f = .next s ∨
      (∃ st d io, hostCmd s q c f = .next (((s.withFree (s.free + 1)).withIo io).withJournal (completedWith s q st d))) ∨
      ∃ r, canStart s q c = some r ∧ hostCmd s q c f = .next (f s (recPart r)) := by
  unfold hostCmd ok
  split
  · exact .inl rfl
  · rename_i r hr
    dsimp only
    split
    · obtain ⟨d, io, e⟩ := reject_changes s q 0x0104
      exact .inr (.inl ⟨_, d, io, by rw [e]⟩)
    · split
      · exact .inl rfl
      · obtain ⟨d, io, e⟩ := endCmd_changes s q 0x0202
        exact .inr (.inl ⟨_, d, io, by rw [e]⟩)
      · obtain ⟨d, io, e⟩ := rejectAt_changes s q 0x0105 0xFFFF
        exact .inr (.inl ⟨_, d, io, by rw [e]⟩)
      · split
        · obtain ⟨d, io, e⟩ := rejectAt_changes s q 0x0103 (badOffset r.entry)
          exact .inr (.inl ⟨_, d, io, by rw [e]⟩)
        · exact .inr (.inr ⟨r, hr, rfl⟩)

/-! ### The invariant -/

theorem Sized_of_eq {s t : State} (h : Sized s) (h1 : t.fns = s.fns) (h2 : t.parts = s.parts) (h3 : t.groups = s.groups)
    (h4 : t.fabric = s.fabric) : Sized t := by
  unfold Sized at *
  rwa [h1, h2, h3, h4]

theorem Canonical_of_eq {s t : State} (h : Canonical s) (h1 : t.t2 = s.t2) (h2 : t.host = s.host)
    (h3 : t.ctrs = s.ctrs) : Canonical t := by
  unfold Canonical at *
  rwa [h1, h2, h3]

theorem hostWrite_canonical {s : State} (h : Canonical s) (space a : Nat) (b : List Byte) :
    Canonical (hostWrite s space a b) :=
  ⟨h.1, memWrite_wf _ _ b h.2.1, h.2.2⟩

theorem addCtr_canonical {s : State} (h : Canonical s) (k n : Nat) : Canonical (addCtr s k n) :=
  ⟨h.1, h.2.1, h.2.2.1, mapWf_mapSet _ _ k _ h.2.2.2⟩

theorem setPois_wf {t : T2U} (h : mapWf false t.pois = true) (k : Nat) (v : Bool) :
    mapWf false (setPois t k v).pois = true := setPut_wf _ k _ h

theorem setPois_fold_wf {t : T2U} (l : List Nat) (h : mapWf false t.pois = true) (f : Nat → Nat) (v : Bool) :
    mapWf false (l.foldl (fun t k => setPois t (f k) v) t).pois = true := by
  induction l generalizing t with
  | nil => exact h
  | cons k r ih => exact ih (setPois_wf h (f k) v)

theorem setPois_fold_mem (t : T2U) (l : List Nat) (f : Nat → Nat) (v : Bool) :
    (l.foldl (fun t k => setPois t (f k) v) t).mem = t.mem := by
  induction l generalizing t with
  | nil => rfl
  | cons k r ih => exact (ih _).trans rfl

theorem memSet_fold_wf (m : Memory) (l : List (Nat × Byte)) (h : Memory.wf m = true) :
    Memory.wf (l.foldl (fun m e => memSet m e.1 e.2) m) = true := by
  induction l generalizing m with
  | nil => exact h
  | cons e r ih => exact ih _ (memSet_wf m e.1 e.2 h)

/-- A write to pages changes module memory alone and keeps its canonical form. -/
theorem writePages_canonical {s : State} (h : Canonical s) (pages : List Nat) (off : Nat) (b : List Byte) :
    Canonical (writePages s pages off b) := by
  refine ⟨?_, h.2.1, ?_, h.2.2.2⟩
  · unfold writePages
    dsimp only [State.withT2_t2]
    rw [setPois_fold_mem _ _ (fun k => k)]
    exact memSet_fold_wf _ _ h.1
  · unfold writePages
    dsimp only [State.withT2_t2]
    refine setPois_fold_wf _ ?_ (fun k => k) false
    exact h.2.2.1

theorem writePages_changes (s : State) (pages : List Nat) (off : Nat) (b : List Byte) :
    ∃ x, writePages s pages off b = s.withT2 x := ⟨_, rfl⟩

theorem withFns_canonical {s : State} (h : Canonical s) (x : List Fn) : Canonical (s.withFns x) := h

theorem raiseMsix_canonical {s : State} (h : Canonical s) (f v : Nat) : Canonical (raiseMsix s f v) := by
  unfold raiseMsix
  dsimp only
  split
  · exact withFns_canonical h _
  · exact hostWrite_canonical h _ _ _

theorem assertWake_canonical {s : State} (h : Canonical s) (e : Bool) : Canonical (assertWake s e) := by
  obtain ⟨io, e⟩ := assertWake_changes s e
  rw [e]
  exact h

theorem pushEvent_canonical {s : State} (h : Canonical s) (f : Nat) (x : Fn) (src part body : Nat) :
    Canonical (pushEvent s f x src part body) :=
  raiseMsix_canonical (withFns_canonical (hostWrite_canonical h _ _ _) _) f 63

theorem postEventTo_canonical {s : State} (h : Canonical s) (f src part body : Nat) :
    Canonical (postEventTo s f src part body) := by
  unfold postEventTo
  dsimp only
  split
  · exact assertWake_canonical h _
  · split
    · exact withFns_canonical (assertWake_canonical h _) _
    · exact pushEvent_canonical (assertWake_canonical h _) f _ src part body

theorem postEvent_canonical {s : State} (h : Canonical s) (src part body : Nat) :
    Canonical (postEvent s src part body) := by
  unfold postEvent
  dsimp only
  split
  · exact postEventTo_canonical h 0 src part body
  · exact postEventTo_canonical (postEventTo_canonical h 0 src part body) part src part body

/-- Reset memory lists nothing. -/
theorem reset_canonical : Canonical State.reset := ⟨rfl, rfl, rfl, rfl⟩

end Sys2Proof.Machine
end

