-- ==== Sys2Proof/Laws/Tiles.lean ====
section
/-! SUPPORT. That the operations on a tile keep its tables in canonical form, and what a read answers after them. -/

namespace Sys2Proof.Machine

open Sys2Proof

/-! ### Tables whose values change and whose keys stay -/

theorem keysRise_mapVals {α : Type} (m : Map α) (f : Nat × α → α) (h : keysRise m = true) :
    keysRise (m.map (fun e => (e.1, f e))) = true := by
  induction m with
  | nil => rfl
  | cons a r ih =>
    obtain ⟨ha, hr⟩ := (keysRise_cons _ _).1 h
    refine (keysRise_cons _ _).2 ⟨fun e he => ?_, ih hr⟩
    obtain ⟨x, hx, rfl⟩ := List.mem_map.1 he
    exact ha x hx

theorem mapWf_mapVals {α : Type} [DecidableEq α] (d : α) (m : Map α) (f : Nat × α → α) (h : mapWf d m = true)
    (hf : ∀ e ∈ m, f e ≠ d) : mapWf d (m.map (fun e => (e.1, f e))) = true := by
  rw [mapWf_iff] at *
  refine ⟨keysRise_mapVals m f h.1, fun e he => ?_⟩
  obtain ⟨x, hx, rfl⟩ := List.mem_map.1 he
  exact hf x hx

/-! ### Reads after writes -/

@[simp] theorem sreg_zero (t : Tile) : sreg t 0 = 0 := rfl

/-- A scalar register reads what was last written; s0 reads zero and takes no write (R19). -/
theorem sreg_setSreg (t : Tile) (r k : Nat) (v : Word64) (h : keysRise t.sregs = true) :
    sreg (setSreg t r v) k = if k = r ∧ r ≠ 0 then v else sreg t k := by
  by_cases hr : r = 0
  · simp [setSreg, hr]
  · by_cases hk : k = 0
    · subst hk; simp [Ne.symm hr]
    · simp only [sreg, setSreg, hr, hk, if_false, mapGet_mapSet 0 t.sregs r k v h]
      simp [hr]

theorem sem_setSem (t : Tile) (n k v : Nat) (h : keysRise t.sems = true) :
    sem (setSem t n v) k = if k = n then v else sem t k := mapGet_mapSet 0 t.sems n k v h

theorem treg_setTreg (t : Tile) (r k : Nat) (x : TReg) (h : keysRise t.tregs = true) :
    treg (setTreg t r x) k = if k = r then x else treg t k := mapGet_mapSet _ t.tregs r k x h

theorem ringAt_setRing (t : Tile) (r k : Nat) (x : Ring) (h : keysRise t.rings = true) :
    ringAt (setRing t r x) k = if k = r then x else ringAt t k := mapGet_mapSet _ t.rings r k x h

theorem t0Write_get (t : Tile) (a x : Nat) (b : List Byte) (p : Tag) (h : Memory.wf t.t0 = true) :
    memGet (t0Write t a b p).t0 x = if a ≤ x ∧ x < a + b.length then b.getD (x - a) 0 else memGet t.t0 x :=
  memGet_memWrite t.t0 a x b h

/-! ### The canonical form -/

theorem reset_tileOk : TileOk Tile.reset := by decide

theorem setSreg_ok {t : Tile} (h : TileOk t) (r : Nat) (v : Word64) : TileOk (setSreg t r v) := by
  unfold setSreg
  split
  · exact h
  · rename_i hr
    refine ⟨⟨mapWf_mapSet _ _ r v h.1.1, fun e he => ?_⟩, h.2⟩
    rcases mem_mapSet he with ⟨rfl, _⟩ | he
    · exact hr
    · exact h.1.2 e he

theorem setSem_ok {t : Tile} (h : TileOk t) (n v : Nat) : TileOk (setSem t n v) :=
  ⟨h.1, mapWf_mapSet _ _ n v h.2.1, h.2.2⟩

theorem t0Write_ok {t : Tile} (h : TileOk t) (a : Nat) (b : List Byte) (p : Tag) : TileOk (t0Write t a b p) :=
  ⟨h.1, h.2.1, memWrite_wf _ a b h.2.2.1, tagRange_wf _ a _ p h.2.2.2.1, h.2.2.2.2⟩

theorem setTreg_ok {t : Tile} (h : TileOk t) (r : Nat) (x : TReg) : TileOk (setTreg t r x) :=
  ⟨h.1, h.2.1, h.2.2.1, h.2.2.2.1, mapWf_mapSet _ _ r x h.2.2.2.2.1, h.2.2.2.2.2⟩

theorem setRing_ok {t : Tile} (h : TileOk t) (r : Nat) (x : Ring) : TileOk (setRing t r x) :=
  ⟨h.1, h.2.1, h.2.2.1, h.2.2.2.1, h.2.2.2.2.1, h.2.2.2.2.2.1, mapWf_mapSet _ _ r x h.2.2.2.2.2.2⟩

theorem setQueue_ok {t : Tile} (h : TileOk t) (q : Nat) (l : List QWord) : TileOk (setQueue t q l) := by
  unfold setQueue
  split_ifs <;> exact h

theorem stepPc_ok {t : Tile} (h : TileOk t) (pc : Nat) : TileOk (stepPc t pc) := h

theorem popWord_ok {t : Tile} (h : TileOk t) (q : Nat) : TileOk (popWord t q) := by
  unfold popWord
  dsimp only
  split
  · exact h
  · refine setQueue_ok ?_ q _
    exact h

theorem passWords_ok (depth : Nat → Nat) (fuel : Nat) {t : Tile} (h : TileOk t) :
    TileOk (passWords depth fuel t).1 := by
  induction fuel generalizing t with
  | zero => exact h
  | succ n ih =>
    unfold passWords
    split
    · exact h
    · dsimp only
      split_ifs
      · exact h
      · exact h
      · exact h
      · refine ih (stepPc_ok ?_ _)
        split
        · exact setQueue_ok (t := t) h _ _
        · exact setQueue_ok (t := t) h _ _

/-- Stopping a tile keeps its rings' table: no ring becomes closed by it. -/
theorem haltTile_ok {t : Tile} (h : TileOk t) : TileOk (haltTile t) := by
  refine ⟨h.1, h.2.1, h.2.2.1, h.2.2.2.1, h.2.2.2.2.1, h.2.2.2.2.2.1, ?_⟩
  refine mapWf_mapVals Ring.closed t.rings (fun e => { e.2 with bobs := e.2.bobs.map (fun b =>
    if b.st = .sending then { b with st := .free } else b) }) h.2.2.2.2.2.2 fun e he hc => ?_
  refine ((mapWf_iff _ _).1 h.2.2.2.2.2.2).2 e he ?_
  have hb : e.2.bobs = [] := by simpa [Ring.closed] using congrArg Ring.bobs hc
  rw [hb] at hc
  rw [← hc, List.map_nil, ← hb]

theorem scrubTile_ok (t : Tile) : TileOk (scrubTile t) := reset_tileOk

theorem gateTile_ok {t : Tile} (h : TileOk t) : TileOk (gateTile t) :=
  ⟨⟨rfl, fun _ he => absurd he (List.not_mem_nil)⟩, rfl, h.2.2.1, h.2.2.2.1, rfl, rfl, rfl⟩

theorem closeRings_ok {t : Tile} (h : TileOk t) : TileOk (closeRings t) := by
  refine ⟨h.1, h.2.1, h.2.2.1, h.2.2.2.1, h.2.2.2.2.1, h.2.2.2.2.2.1, (mapWf_iff _ _).2 ⟨?_, ?_⟩⟩
  · exact keysRise_filter _ _ (keysRise_mapVals t.rings (fun e => shutRing e.2) ((mapWf_iff _ _).1 h.2.2.2.2.2.2).1)
  · intro e he
    simpa using (List.mem_filter.1 he).2

theorem applyWrite_ok {t : Tile} (h : TileOk t) (w : EWrite) : TileOk (applyWrite t w) := by
  cases w with
  | elem base f n code p kept =>
    exact ⟨h.1, h.2.1, memWrite_wf _ _ _ h.2.2.1, tagRange_wf _ _ _ _ h.2.2.2.1, h.2.2.2.2⟩
  | byte a b p => exact t0Write_ok h a _ p
  | reg r n x p => exact setTreg_ok h r _
  | pred r n b =>
    exact ⟨h.1, h.2.1, h.2.2.1, h.2.2.2.1, h.2.2.2.2.1, mapWf_mapSet _ _ r _ h.2.2.2.2.2.1, h.2.2.2.2.2.2⟩

/-! ### All tiles -/

theorem mapFind_mem {α : Type} {m : Map α} {k : Nat} {v : α} (h : mapFind m k = some v) : (k, v) ∈ m := by
  induction m with
  | nil => cases h
  | cons a r ih =>
    obtain ⟨i, x⟩ := a
    simp only [mapFind] at h
    split_ifs at h with hk
    · cases h; subst hk; exact List.mem_cons_self ..
    · exact List.mem_cons_of_mem _ (ih h)

theorem mapGet_mem {α : Type} (d : α) (m : Map α) (k : Nat) : mapGet d m k = d ∨ (k, mapGet d m k) ∈ m := by
  induction m with
  | nil => exact .inl rfl
  | cons a r ih =>
    obtain ⟨i, x⟩ := a
    simp only [mapGet]
    split_ifs with hk
    · subst hk; exact .inr (List.mem_cons_self ..)
    · exact ih.imp id (List.mem_cons_of_mem _)

theorem tileRaw_ok {s : State} (h : TilesOk s) (n : Nat) : TileOk (tileRaw s n) := by
  rcases mapGet_mem Tile.reset s.tiles n with e | e
  · rw [tileRaw, e]; exact reset_tileOk
  · exact h _ e

theorem tileAt_ok {s : State} (h : TilesOk s) (p t : Nat) : TileOk (tileAt s p t) := by
  unfold tileAt
  split
  · exact tileRaw_ok h _
  · exact reset_tileOk

theorem setTile_ok {s : State} (h : TilesOk s) (p t : Nat) {x : Tile} (hx : TileOk x) : TilesOk (setTile s p t x) := by
  unfold setTile
  split
  · intro e he
    rcases mem_mapPut (show e ∈ mapPut s.tiles _ x from he) with rfl | he
    · exact hx
    · exact h e he
  · exact h

theorem updTiles_ok {s : State} (h : TilesOk s) (p : Nat) (f : Nat → Tile → Tile)
    (hf : ∀ t x, TileOk x → TileOk (f t x)) : TilesOk (updTiles s p f) := by
  unfold updTiles
  generalize List.range (nTiles s p) = l
  induction l generalizing s with
  | nil => exact h
  | cons k r ih => exact ih (setTile_ok h p k (hf k _ (tileAt_ok h p k)))

/-! ### Faults -/

/-- A partition fault writes its records and stops the partition's tiles: what it can change (R46). -/
theorem raiseFaults_tilesOk {s : State} (h : TilesOk s) (p : Nat) (rs : List FaultRec) :
    TilesOk (raiseFaults s p rs) := by
  have events (l : List FaultRec) (u : State) (hu : TilesOk u) :
      TilesOk (l.foldl (fun acc q => postEvent acc 3 p (faultBits q)) u) := by
    induction l generalizing u with
    | nil => exact hu
    | cons r t ih =>
      obtain ⟨io, x, g, e⟩ := postEvent_changes u 3 p (faultBits r)
      exact ih _ (by dsimp only; rw [e]; exact hu)
  unfold raiseFaults
  dsimp only
  split
  · refine events _ _ ?_
    obtain ⟨x, e⟩ := sweepInvals_changes (updTiles (setPart s p _) p (fun _ => haltTile)) p
    rw [e]
    obtain ⟨b, e⟩ := addHist_changes (((updTiles (setPart s p _) p (fun _ => haltTile)).withFns x).withSamp _) 1 _
      (ctrKey 0 2 p 0) (BitVec.ofNat 64 _) false
    rw [e]
    exact updTiles_ok (s := setPart s p _) h p _ fun _ _ hx => haltTile_ok hx
  · exact h

end Sys2Proof.Machine
end

