-- ==== Sys2Proof/Tests/Slice0.lean ====
section
/-! SUPPORT. Tests: words and rows decode as the manual writes them, ill-formed terms are refused, small steps give what the
manual says, and for every clause of every statement a state and operands that meet its hypotheses. -/

open Sys2Proof Sys2Proof.Machine

set_option Elab.async false

namespace Sys2Proof.Tests

/-! ### States that the witnesses start from -/

def cqd : QDesc := ⟨0, true, 4, 0, 0, true, 0, 0x10000, 0, 0⟩
def sqd : QDesc := ⟨0, false, 4, 0, 0, false, 0, 0x20000, 0x30000, 0⟩

/-- A function with its admin queue pair and an event queue. -/
def fn1 : Fn := { Fn.reset with
  aqs := sqd, aqc := cqd, aqen := true, even := true, evlsize := 4, evbase := 0x40000,
  sqs := some ⟨sqd, 0, 0, 0, []⟩ :: List.replicate 7 none, cqs := some ⟨cqd, 0, 0, none, false⟩ :: List.replicate 7 none }

/-- Partition 1, running with tile group 0. -/
def part1 : Part := { Part.unused with
  st := .running, groups := [0], quota := ⟨8, 0, 0, 0, 8, 8⟩, entries := 16, handleQ := 4, watts := 54, whorl := none }

/-- A module that Utora runs, at 1 ms, with functions 0 and 1 and partition 1. -/
def base : State := { State.reset with
  time := { TimeU.reset with now := 1000000 },
  io := { IoU.reset with perst := false, linkUp := true, inputOn := true },
  boot := { BootU.reset with phase := .utora, fw := 2, level := 1, resvT2 := true, restT2 := true },
  fns := fn1 :: fn1 :: List.replicate 30 Fn.reset,
  parts := Part.zero :: part1 :: List.replicate 30 Part.unused,
  groups := ⟨.assigned, 1⟩ :: List.replicate 23 ⟨.free, 0⟩ }

def q0 : QId := ⟨0, 0⟩
def q1 : QId := ⟨1, 0⟩

/-- A submission entry of a command for a partition. -/
def entryOf (c : HostCmd) (p : Nat) : SubEntry := ⟨BitVec.ofNat 128 (Machine.opcOf c + 2 ^ 24 * p + 2 ^ 32 * 112), 0, [], true, c⟩

/-- An entry whose parameters are extended, 1 MiB of them. -/
def bigEntry (c : HostCmd) (p : Nat) : SubEntry :=
  ⟨BitVec.ofNat 128 (Machine.opcOf c + 2 ^ 16 + 2 ^ 24 * p + 2 ^ 32 * 1048576), 0, [], true, c⟩

/-- The record of an accepted command. -/
def recOf (q : QId) (c : HostCmd) (p : Nat) (st : JState) : JRec := ⟨q, 0, entryOf c p, st, 0, 0, 0, 0, 0, [], [], 0⟩

/-- The header of a configuration record of that sequence number, serial number and security version. -/
def cfgOf (seq serial minsvn : Nat) : ConfigP :=
  ⟨leBytes 64 (packFields [⟨0, 16, 1⟩, ⟨32, 32, seq⟩, ⟨64, 64, serial⟩, ⟨128, 32, minsvn⟩]), true⟩

/-- The state with one command accepted at the head of a queue. -/
def given (s : State) (q : QId) (c : HostCmd) (p : Nat) : State := s.withJournal [recOf q c p .accepted]

/-- The state with partition 1 changed. -/
def with1 (s : State) (f : Part → Part) : State := s.withParts (Part.zero :: f part1 :: List.replicate 30 Part.unused)

/-! ### Partition commands -/

theorem witness_base_inv : Inv base ∧ TilesOk base := by decide +kernel
theorem witness_partSeed : hostReady (given base q1 (.partSeed 5) 1) q1 (.partSeed 5) 1 := by decide +kernel

theorem witness_partFlagmask : hostReady (given base q1 (.partFlagmask 127) 1) q1 (.partFlagmask 127) 1 := by decide +kernel

theorem witness_partServe :
    let s := given base q0 (.partServe 16384 4096) 1
    hostReady s q0 (.partServe 16384 4096) 1 ∧ entrySums s 1 16384 := by decide +kernel

theorem witness_partQuota :
    let c : Quota := ⟨8, 0, 0, 0, 8, 8⟩
    let s := given base q0 (.partQuota c) 1
    hostReady s q0 (.partQuota c) 1 ∧ quotaRange c ∧ quotaSums s 1 c ∧ t2Used s 1 ≤ c.t2 ∧
      t3Used (partAt s 1) ≤ c.t3 ∧ heldFit s 1 c := by decide +kernel

def create2 : PartCreateP :=
  { part := 2, groups := [1, 23], flagmask := 0, entries := 8, handles := 4096, seed := 7, quota := ⟨8, 0, 0, 0, 8, 8⟩ }

theorem witness_partCreate :
    let s := given base q0 (.partCreate create2) 2
    Inv s ∧ s.boot.restT2 ∧ hostReady s q0 (.partCreate create2) create2.part ∧ (partAt s create2.part).st = .unused ∧
      create2.groups.length ≤ 24 ∧ quotaRange create2.quota ∧ noDup create2.groups ∧
      (∀ g ∈ create2.groups, (groupAt s g).st = .free) ∧ quotaSums s create2.part create2.quota ∧
      entrySums s create2.part create2.entries := by decide +kernel

def stopped1 : State := with1 base (fun x => { x with st := .stopped })

theorem witness_partStart :
    let s := given stopped1 q1 .partStart 1
    hostReady s q1 .partStart 1 ∧ (partAt s 1).st = .stopped := by decide +kernel

theorem witness_partDestroy :
    let s := given stopped1 q0 .partDestroy 1
    hostReady s q0 .partDestroy 1 ∧ (partAt s 1).st = .stopped ∧ (partAt s 1).groups = [0] := by decide +kernel

theorem witness_partStop :
    let s := given base q1 .partStop 1
    hostReady s q1 .partStop 1 ∧ (partAt s 1).st = .running ∧ (partAt s 1).camp = none := by decide +kernel

theorem witness_partRecover :
    let s := given (with1 base (fun x => { x with st := .faulted, fault := some ⟨0, 0x0304, true, false⟩ })) q1 .partRecover 1
    hostReady s q1 .partRecover 1 ∧ (partAt s 1).st = .faulted := by decide +kernel

theorem witness_partStart_running :
    let s := given base q1 .partStart 1
    hostReady s q1 .partStart 1 ∧ (partAt s 1).st = .running ∧ runsCmd s 1 isDestroy = false := by decide +kernel

theorem witness_partStop_stopped :
    let s := given stopped1 q1 .partStop 1
    hostReady s q1 .partStop 1 ∧ (partAt s 1).st = .stopped := by decide +kernel

theorem witness_partStop_starting :
    let s := given (with1 base (fun x => { x with st := .starting })) q1 .partStop 1
    hostReady s q1 .partStop 1 ∧ (partAt s 1).st = .starting := by decide +kernel

theorem witness_groupAdd :
    let s := given base q0 (.groupAdd [1, 23]) 1
    groupsOpen (partAt s 1) ∧ noDup [1, 23] ∧ (∀ r ∈ s.journal, r.st = .started → recPart r ≠ 1) ∧
      hostReady s q0 (.groupAdd [1, 23]) 1 ∧ (∀ g ∈ [1, 23], (groupAt s g).st = .free) := by decide +kernel

theorem witness_groupRemove :
    let s := given base q0 (.groupRemove [0]) 1
    groupsOpen (partAt s 1) ∧ noDup [0] ∧ (∀ r ∈ s.journal, r.st = .started → recPart r ≠ 1) ∧
      hostReady s q0 (.groupRemove [0]) 1 ∧ (∀ g ∈ [0], g ∈ (partAt s 1).groups) := by decide +kernel

theorem witness_partSave :
    let b : Buf := ⟨0x50000, (imageBytes stopped1 1 (contextImage stopped1 1)).length, 0, false⟩
    let s := given stopped1 q1 (.partSave b) 1
    hostReady s q1 (.partSave b) 1 ∧ (imageBytes s 1 (contextImage s 1)).length ≤ b.len := by
  refine ⟨?_, Nat.le_refl _⟩
  simp [hostReady, canStart, headRec, given, recOf, entryOf, State.withJournal, permitted, gateOf]
  decide +kernel

def image0 : CtxImage :=
  { format := 1, dir := [1, 1, 1, 1, 1, 1, 1, 1], level := 1, groups := 1, seed := 9, quota := ⟨8, 0, 0, 0, 8, 8⟩, flagmask := 0, entries := 16, handleQ := 4,
    regions := [(3, ⟨⟨2, false, false, false, false, 0, 0, 0⟩, [5, 6], none, none, []⟩)], progs := [], reqs := [], reqSeq := 4,
    variants := [], handles := [], drawers := [], tregs := [], diag := [] }

theorem witness_partRestore :
    let b : Buf := ⟨0x50000, 65536, 0, false⟩
    let s := given stopped1 q0 (.partRestore b) 1
    hostReady s q0 (.partRestore b) 1 ∧ (partAt s 1).st = .stopped ∧ image0.format = 1 ∧
      noDup (image0.regions.map (fun e => e.1)) ∧ noDup ([] : List Nat) ∧ (partAt s 1).regions = [] ∧ (partAt s 1).progs = [] ∧ (partAt s 1).reqs = [] ∧
      image0.level = s.boot.level ∧ restoreFits (partAt s 1) image0 ∧ ([] : List Nat).length = image0.reqs.length ∧
      goodPlace s (image0.regions.map (fun e => restorePages e.2)).sum [7, 24903679] := by decide +kernel

def cqd3 : QDesc := ⟨3, true, 16, 0, 62, true, 0, 0x60000, 0, 0⟩
def sqd7 : QDesc := ⟨7, false, 4, 0, 0, false, 0, 0x70000, 0x30000, 0⟩

theorem witness_queueCreate_cq :
    let s := given base q1 (.queueCreate cqd3) 1
    hostReady s q1 (.queueCreate cqd3) 1 ∧ queueRange cqd3 ∧ cqAt s q1.fn cqd3.num = none := by decide +kernel

theorem witness_queueCreate_sq :
    let s := given base q1 (.queueCreate sqd7) 1
    hostReady s q1 (.queueCreate sqd7) 1 ∧ queueRange sqd7 ∧ (cqAt s q1.fn sqd7.cq).isSome ∧ sqAt s q1.fn sqd7.num = none := by
  decide +kernel

/-- The base state with SQ 7 and CQ 3 of function 1 besides. -/
def moreQueues : State := setSq (setCq base 1 3 (some ⟨cqd3, 0, 0, none, false⟩)) 1 7 (some ⟨sqd7, 0, 0, 0, []⟩)

theorem witness_queueDelete_sq :
    let s := given moreQueues q1 (.queueDelete 7 false) 1
    hostReady s q1 (.queueDelete 7 false) 1 ∧ sqAt s q1.fn 7 = some ⟨sqd7, 0, 0, 0, []⟩ ∧ openOn s q1.fn 7 = false := by decide +kernel

theorem witness_queueDelete_cq :
    let s := given moreQueues q1 (.queueDelete 3 true) 1
    Inv s ∧ hostReady s q1 (.queueDelete 3 true) 1 ∧ (cqAt s q1.fn 3).isSome ∧
      (∀ x ∈ (fnAt s q1.fn).sqs, x.map (fun y => y.d.cq) ≠ some 3) := by decide +kernel

/-! ### Regions, copies, programs -/

def rwReg : RegionP := ⟨2, false, false, false, false, 0, 0, 0⟩
def roReg : RegionP := ⟨2, true, false, false, false, 0, 0, 0⟩

/-- Partition 1 with writable region 3 and read-only region 4, whose epoch 1 is current and epoch 2 staging. -/
def regs : State := with1 base (fun x => { x with
  regions := [(3, ⟨rwReg, [5, 6], none, none, []⟩), (4, ⟨roReg, [], some ⟨1, [7, 8], 0, [], 0⟩, some ⟨2, [9, 10], 0, [], 0⟩, []⟩)] })

theorem witness_regionCreate :
    let s := given regs q1 (.regionCreate rwReg) 1
    s.boot.restT2 ∧ hostReady s q1 (.regionCreate rwReg) 1 ∧ regionFlags s 1 rwReg ∧
      t2Used s 1 + rwReg.pages ≤ (partAt s 1).quota.t2 ∧ regionAt s 1 65534 = none ∧
      goodPlace s rwReg.pages [0, 24903679] := by decide +kernel

/-- The same without the staging publication of region 4. -/
def regs1 : State := with1 base (fun x => { x with
  regions := [(3, ⟨rwReg, [5, 6], none, none, []⟩), (4, ⟨roReg, [], some ⟨1, [7, 8], 0, [], 0⟩, none, []⟩)] })

theorem witness_regionStage :
    let g : Region := ⟨roReg, [], some ⟨1, [7, 8], 0, [], 0⟩, none, []⟩
    let s := given regs1 q1 (.regionStage 4 0xFFFFFFFE 0) 1
    hostReady s q1 (.regionStage 4 0xFFFFFFFE 0) 1 ∧ regionAt s 1 4 = some g ∧ curEpoch g < 0xFFFFFFFE ∧
      t2Used s 1 + g.p.pages ≤ (partAt s 1).quota.t2 ∧ goodPlace s g.p.pages [0, 1] := by decide +kernel

theorem witness_regionAbandon :
    let s := given regs q1 (.regionAbandon 4) 1
    hostReady s q1 (.regionAbandon 4) 1 ∧ ((regionAt s 1 4).map (fun g => g.next.isSome)) = some true ∧
      inSwitch (partAt s 1) 4 = false := by decide +kernel

theorem witness_regionPublish :
    let s := given regs q1 (.regionPublish [4]) 1
    hostReady s q1 (.regionPublish [4]) 1 ∧ (∀ r ∈ [4], ((regionAt s 1 r).bind (fun g => g.next)).isSome) ∧
      (∀ r ∈ [4], inSwitch (partAt s 1) r = false) ∧
      (∀ r ∈ [4], versionsOf (partAt s 1) r (((regionAt s 1 r).map curEpoch).getD 0) = []) := by decide +kernel

theorem witness_regionFree :
    let s := given regs q1 (.regionFree 4) 1
    Inv s ∧ hostReady s q1 (.regionFree 4) 1 ∧ (regionAt s 1 4).isSome ∧ (partAt s 1).progs = [] ∧
      ckptNames (partAt s 1) 4 = false := by decide +kernel

def fill3 : FillP := ⟨3, 1, 131071, 0x0102030405060708⟩

theorem witness_regionFill :
    let s := given regs q1 (.regionFill fill3) 1
    hostReady s q1 (.regionFill fill3) 1 ∧ regionAt s 1 3 = some ⟨rwReg, [5, 6], none, none, []⟩ ∧
      fill3.off + fill3.len ≤ regionSpan ⟨rwReg, [5, 6], none, none, []⟩ := by decide +kernel

def copy3 : CopyP := ⟨3, false, 65535, 2, 0x80000⟩

theorem witness_copyIn :
    let s := given regs q1 (.copyIn copy3) 1
    hostReady s q1 (.copyIn copy3) 1 ∧ (copyTarget ⟨rwReg, [5, 6], none, none, []⟩ copy3).isSome ∧
      copy3.off + copy3.len ≤ regionSpan ⟨rwReg, [5, 6], none, none, []⟩ := by decide +kernel

theorem witness_copyOut :
    let s := given regs q1 (.copyOut copy3) 1
    hostReady s q1 (.copyOut copy3) 1 ∧ copySource ⟨rwReg, [5, 6], none, none, []⟩ copy3 := by decide +kernel

theorem witness_copyIn_empty :
    let c : CopyP := ⟨3, false, 131072, 0, 0⟩
    let s := given regs q1 (.copyIn c) 1
    hostReady s q1 (.copyIn c) 1 ∧ (copyTarget ⟨rwReg, [5, 6], none, none, []⟩ c).isSome ∧
      c.off + c.len ≤ regionSpan ⟨rwReg, [5, 6], none, none, []⟩ := by decide +kernel

theorem witness_transferIn :
    let s := regs.withJournal [recOf q1 (.copyIn copy3) 1 .started]
    hubUp s ∧ headRec s q1 = some (recOf q1 (.copyIn copy3) 1 .started) ∧ recPart (recOf q1 (.copyIn copy3) 1 .started) = 1 ∧
      copyTarget ⟨rwReg, [5, 6], none, none, []⟩ copy3 = some [5, 6] := by decide +kernel

theorem witness_transferOut :
    let s := regs.withJournal [recOf q1 (.copyOut copy3) 1 .started]
    headRec s q1 = some (recOf q1 (.copyOut copy3) 1 .started) ∧
      sourcePoison s ⟨rwReg, [5, 6], none, none, []⟩ copy3.off copy3.len = none := by decide +kernel

/-- A small image: a header of level 1, one group and one segment without tiles, the shape, and the table directory. -/
def image1 : List Byte :=
  leBytes 64 (packFields [⟨0, 16, 1⟩, ⟨16, 16, 1⟩, ⟨32, 8, 1⟩, ⟨40, 8, 64⟩, ⟨48, 16, 1⟩]) ++
    ((List.range 10).map (fun n => leBytes 16 (packFields (if n = 0 then [⟨0, 64, 224⟩, ⟨64, 64, 32⟩]
      else if n = 1 then [⟨0, 64, 256⟩, ⟨64, 64, 32⟩] else if n = 8 then [⟨0, 64, 288⟩, ⟨64, 64, 512⟩] else [])))).flatten ++
    leBytes 32 (packFields [⟨0, 16, 1⟩, ⟨16, 8, 64⟩, ⟨24, 9, 256⟩]) ++ leBytes 32 (packFields [⟨72, 8, 1⟩]) ++
    ((List.range 32).map (fun k => leBytes 16 (packFields (if k < 10 then [⟨48, 8, 1⟩] else [])))).flatten

def empty5 : ProgSections := ⟨[], [], [], [], []⟩

def image2 : ImageP :=
  { bytes := leBytes 256 (packFields [⟨0, 32, 1⟩, ⟨64, 16, 1⟩, ⟨96, 32, 256⟩]), bist := [], tableDigests := List.replicate 10 (sha3 []),
    certOk := true, sigOk := true, readOk := true }

/-- Region 3 holds the image; the tables that it names are those of the level. -/
def withImage : State :=
  let s := regs.withT2 { regs.t2 with mem := memWrite [] (65536 * 5) image1 }
  s.withBoot { s.boot with image := some image2 }

def load0 : LoadP := ⟨63, 3, 0, 800⟩

theorem witness_progLoad :
    let g : Region := ⟨rwReg, [5, 6], none, none, []⟩
    let s := given withImage q1 (.progLoad load0) 1
    hostReady s q1 (.progLoad load0) 1 ∧ regionAt s 1 3 = some g ∧ load0.off + load0.len ≤ regionSpan g ∧
      mapFind (partAt s 1).progs 63 = none ∧ firstPoison s (readPages g) 0 800 = none ∧ sectionsOk image1 ∧
      readBytes s (readPages g) 0 800 = image1 := by decide +kernel

theorem witness_progLoad_tables :
    levelTables (given withImage q1 (.progLoad load0) 1) (sectionBytes image1 8) = true := by
  have h : ∀ k ∈ List.range 10, ((tabOf (sectionBytes image1 8) k).kind = 1 ∧
      fld (numAt (sectionBytes image1 8) (16 * k) 16) 0 32 + 12 * (tabOf (sectionBytes image1 8) k).count ≤ (sectionBytes image1 8).length) ∧
      tabBytes (sectionBytes image1 8) k = [] := by
    decide +kernel
  have w : ∀ k ∈ List.range 10,
      ((given withImage q1 (.progLoad load0) 1).boot.image.bind (fun i => i.tableDigests[k]?)) = some (sha3 []) := by
    intro k hk
    show (List.replicate 10 (sha3 []))[k]? = some (sha3 [])
    rw [List.mem_range] at hk
    rw [List.getElem?_replicate, if_pos hk]
  unfold levelTables
  rw [List.all_eq_true]
  intro k hk
  rw [(h k hk).1.1, (h k hk).2, w k hk, decide_eq_true (h k hk).1.2]
  simp

theorem witness_progLoad_form : progForm (given withImage q1 (.progLoad load0) 1) 1 63 image1
    (progOfImage (given withImage q1 (.progLoad load0) 1) 1 image1 empty5) := by
  have h := witness_progLoad_tables
  unfold progForm tablesOk
  dsimp only
  rw [h]
  decide +kernel

/-- A program of one segment without tiles. -/
def prog1 : Program :=
  { level := 1, groups := 1, nseg := 1, hostlat := 0, waitlimit := 0, shape := nshapeOf (bytesAt image1 224 32),
    segs := [segOf (bytesAt image1 256 32) 0], sec := empty5, cal := [], pairs := [], colls := [], tables := [],
    gsels := [], consts := [], meas := 0, inplace := false }
/-! ### Serving and campaigns -/

/-- A request in state DECODE, without drawers. -/
def req0 : Req :=
  { st := .decode, prio := 7, keysrc := false, ven := false, list := false, reason := 0, variant := 0, version := 0,
    prefixH := 0xFFFF, tag := 5, plen := 4, klen := 6, clen := 2, tlen := 6, maxgen := 9, deadline := 0, dhead := drawerNone,
    outoff := 64, temp := 0x3F800000, topk := 0, topp := 0, seq := 3, proff := 0, stops := [], bg := ⟨1, 2, 3⟩, draft := [],
    cancel := false, seen := false, turn := none, dreg := 3, dposl := 4, dlanes := 1, due := 0, last := 0 }

/-- Partition 1 with entry 0 open, entry 16383 DONE with a map in drawer 0 of region 3, and a prefix handle in use. -/
def serving : State := with1 base (fun x => { x with
  regions := (partAt regs 1).regions,
  reqs := [(0, req0), (16383, { req0 with st := .done, dhead := 0 })], reqSeq := 4,
  handles := [(7, ⟨true, false, 0, 0, 4, drawerNone, 1, 3, 4, 1⟩), (8, ⟨true, false, 0, 0, 4, drawerNone, 0, 3, 4, 1⟩)],
  handleQ := 3, drawers := [(drawerKey 3 0, 1)] })

def adm0 : AdmitP :=
  { tag := 9, deadline := 0, outoff := 128, proff := 0, plen := 4, maxgen := 1, variant := 0, prefixH := 0xFFFF,
    temp := 0x80000000, topk := 1024, topp := 0, prio := 0, ven := false, keysrc := false, ctrsrc := true, stops := [1, 2, 3, 4],
    key := 0, ctr := 5 }

theorem witness_reqAdmit :
    let s := given serving q1 (.reqAdmit adm0) 1
    hostReady s q1 (.reqAdmit adm0) 1 ∧ admitStatus s 1 adm0 = 0 ∧ admitChoice s 1 16382 adm0 [] := by decide +kernel

theorem witness_reqCancel :
    let s := given serving q1 (.reqCancel 0) 1
    hostReady s q1 (.reqCancel 0) 1 ∧ reqAt s 1 0 = some req0 ∧ reqOpen req0 := by decide +kernel

theorem witness_reqRelease :
    let s := given serving q1 (.reqRelease 16383) 1
    hostReady s q1 (.reqRelease 16383) 1 ∧ reqAt s 1 16383 = some { req0 with st := .done, dhead := 0 } ∧
      reqOpen { req0 with st := .done, dhead := 0 } = false := by decide +kernel

theorem witness_prefixCreate :
    let r : Req := { req0 with st := .done, dhead := 0 }
    let s := given serving q1 (.prefixCreate 16383 6) 1
    hostReady s q1 (.prefixCreate 16383 6) 1 ∧ (partAt s 1).handles.length < (partAt s 1).handleQ ∧
      reqAt s 1 16383 = some r ∧ prefixFrom r ∧ 6 ≤ r.klen ∧ mapNeed (prefixEntries r 6) ≤ freeCount s 1 r.dreg ∧
      copyOver s 1 r.dreg r.dhead (prefixEntries r 6) = false ∧ mapFind (partAt s 1).handles 4095 = none ∧
      goodDrawers s 1 r.dreg (mapNeed (prefixEntries r 6)) [1] := by decide +kernel

theorem witness_prefixRelease_used :
    let s := given serving q1 (.prefixRelease 7) 1
    hostReady s q1 (.prefixRelease 7) 1 ∧
      ((mapFind (partAt s 1).handles 7).map (fun k => (k.live, decide (0 < k.users)))) = some (true, true) := by decide +kernel

theorem witness_prefixRelease_free :
    let s := given serving q1 (.prefixRelease 8) 1
    hostReady s q1 (.prefixRelease 8) 1 ∧
      ((mapFind (partAt s 1).handles 8).map (fun k => (k.live, k.users))) = some (true, 0) := by decide +kernel

/-- Region 4 has current epoch 1; variant 65535 has version 65535 of it, in use. -/
def withVariant : State := with1 base (fun x => { x with
  regions := [(4, ⟨roReg, [], some ⟨1, [7, 8], 0, [], 0⟩, none, []⟩)],
  variants := [(65535, ⟨some ⟨65535, 4, 0, 1, 2⟩, none, 1, 2⟩)] })

def vset0 : VSetP := ⟨65535, 1, 0, 4, 64⟩

theorem witness_variantSet :
    let s := given withVariant q1 (.variantSet 0 vset0) 1
    hostReady s q1 (.variantSet 0 vset0) 1 ∧
      ((regionAt s 1 4).map (fun g => (g.p.ro, g.cur.isSome))) = some (true, true) ∧
      ((ventAt (partAt s 1) 65535).cur.map (fun c => c.ver)) = some 65535 ∧
      ((ventAt (partAt s 1) 65535).prv.isNone) := by decide +kernel

theorem witness_variantClear :
    let s := given withVariant q1 (.variantClear 65535) 1
    hostReady s q1 (.variantClear 65535) 1 ∧ (ventAt (partAt s 1) 65535).cur = some ⟨65535, 4, 0, 1, 2⟩ ∧
      (ventAt (partAt s 1) 65535).prv = none := by decide +kernel

def lt0 : LearnP := ⟨0, 0, 0, 0, 0, 0, 0, 0, 0, false, 0, 0, 0, 0, 0, 0, 0, 0, 0⟩
def rp0 : RollP := ⟨0, 0, 0, 0, 0, 0, 0, 0, 0, 0, 0, 0, 0, 0, 0, 0, 0, 0, 0, 0⟩

/-- A checkpoint turn of bytes 0 to 99 of region 3. -/
def ckptTurn : TurnP := ⟨.checkpoint, 0, [], [], [⟨3, 0, 100, 0x90000⟩], lt0, rp0⟩

/-- A campaign of two members with one checkpoint turn. -/
def camp2 : CampaignP := ⟨11, 0, [1, 0], false, 1000000, 0x80000, 1, 0, [ckptTurn]⟩

/-- The module is member 0 of a group of two. -/
def paired (s : State) : State := s.withFabric { s.fabric with
  group := 77, epoch := 3, member := 0, leader := 0, members := [(0, 100), (1, 101)], former := [(0, 100), (1, 101)] }

theorem witness_campaignStart :
    let s := (paired regs1).withJournal [{ recOf q1 (.campaignStart camp2) 1 .accepted with entry := bigEntry (.campaignStart camp2) 1 }]
    hostReady s q1 (.campaignStart camp2) 1 ∧ (headRec s q1).isSome ∧ (partAt s 1).camp = none ∧
      fails (campMissing s 1 camp2 (paramsOf s q1)) = false ∧ fails (campOff s 1 camp2 (paramsOf s q1)) = false ∧
      linksOk s 1 camp2 ∧ (∃ m ∈ camp2.positions, m ≠ s.fabric.member) := by decide +kernel

theorem witness_campaignStop :
    let s := given base q1 .campaignStop 1
    hostReady s q1 .campaignStop 1 ∧ (partAt s 1).camp = none := by decide +kernel

/-- Partition 1 waits at the rendezvous of camp2, its command started on queue 1. -/
def campAt : Camp :=
  { p := camp2, q := q1, phase := .rendezvous, digest := 5, digests := [(1, 5)], rdv0 := 900000, turnIx := 0, rerun := [],
    beacons := [], recs := 0, due := [], badRec := false, fin := none, back := [], stop := false, stops := [], epoch := 0, lastCkpt := none, sw := none, run := none }

def meeting : State :=
  let s := paired regs1
  (s.withParts (s.parts.map (fun x => if x.st = .running then { x with camp := some campAt } else x))).withJournal
    [recOf q1 (.campaignStart camp2) 1 .started]

/-- A second queue of function 1, with a CAMPAIGN_STOP accepted on it. -/
def qStop : QId := ⟨1, 1⟩
def stopGiven (s : State) : State :=
  setSq (setCq (s.withJournal (s.journal ++ [recOf qStop .campaignStop 1 .accepted])) 1 1 (some ⟨cqd, 0, 0, none, false⟩)) 1 1
    (some ⟨{ sqd with num := 1 }, 0, 0, 0, []⟩)

theorem witness_campaignStop_rendezvous :
    let s := stopGiven meeting
    hostReady s qStop .campaignStop 1 ∧ (partAt s 1).camp = some campAt ∧ campAt.phase = .rendezvous ∧ campAt.stop = false ∧
      campAt.fin = none ∧ campAt.due = [] ∧ campAt.badRec = false ∧ ((headRec s campAt.q).map (fun r => r.st)) = some .started := by
  decide +kernel

/-- A stop message from member 1. -/
def from1 : MsgAt := ⟨1, 0⟩

theorem witness_campaignStopReceive :
    Inv meeting ∧ (partAt meeting 1).camp = some campAt ∧ campAt.stop = false ∧ campAt.phase = .rendezvous ∧ campAt.fin = none ∧
      campAt.due = [] ∧ campAt.badRec = false ∧ (from1.frm, from1.seq) ∉ meeting.fabric.seen ∧ boundWith meeting campAt from1.frm ∧
      from1.frm ∈ campAt.p.positions ∧ from1.frm ≠ meeting.fabric.member ∧
      ((headRec meeting campAt.q).map (fun r => r.st)) = some .started ∧
      meeting.time.now.ule 1000000 := by decide +kernel

/-! ### Ports, flits, lanes -/

/-- Light on all nine lanes. -/
def allLit : NSet := (List.range 9).map (fun k => (k, true))

/-- Port 11 in a state, lit, with a credit of every class. -/
def portIn (st : PortSt) : State := base.withFabric { base.fabric with
  ports := List.replicate 11 Port.reset ++ [{ Port.reset with st := st, lit := allLit, rtt := 500 }] }

theorem witness_portEnable :
    let s := given (portIn .disabled) q0 (.portEnable 11) 0
    hostReady s q0 (.portEnable 11) 0 ∧ (portAt s 11).st = .disabled := by decide +kernel

theorem witness_portDisable_up :
    let s := given (portIn .up) q0 (.portDisable 11) 0
    hostReady s q0 (.portDisable 11) 0 ∧ (portAt s 11).st = .up := by decide +kernel

theorem witness_portDisable_down :
    let s := given (portIn .down) q0 (.portDisable 11) 0
    hostReady s q0 (.portDisable 11) 0 ∧ (portAt s 11).st = .down ∧ s.fabric.leaving = false ∧
      (∀ r ∈ s.journal, r.st ≠ .started) := by decide +kernel

theorem witness_portHello :
    let s := given (portIn .quarantine) q0 (.portHello 11) 0
    hostReady s q0 (.portHello 11) 0 ∧ (portAt s 11).st = .quarantine := by decide +kernel

/-- A chunk of 300 bytes waits, from chunk buffer 5. -/
def chunkOut : TxItem := ⟨3, List.replicate 300 7#8, false, false, none, some 5⟩

theorem witness_flitTransmit :
    let s := base.withFabric { base.fabric with ports := List.replicate 11 Port.reset ++ [{ Port.reset with
      st := .up, lit := allLit, tx := [chunkOut] }] }
    Inv s ∧ carries (portAt s 11) ∧ (portAt s 11).subst = false ∧ s.time.now.ule 1000000 ∧
      (portAt s 11).txNext = (portAt s 11).txSeq ∧ (portAt s 11).replay.length < 512 ∧
      pickTx (portAt s 11) = some chunkOut := by decide +kernel

/-- Header and payload of a whole class-1 message in flit 0. -/
def flitHdr : Nat := packFields [⟨0, 2, 1⟩, ⟨41, 2, 1⟩, ⟨43, 1, 1⟩, ⟨44, 1, 1⟩, ⟨45, 8, 231⟩]
def flitBody : List Byte := leBytes 8 flitHdr ++ List.replicate 232 7#8
def flitCrc : List Byte := leBytes 4 (crc32c flitBody).toNat

/-- A flit's bytes with their parity, and the flit as it arrives on the lanes. -/
def fixedOf (d : List Byte) : List Byte := d ++ (List.range 12).map (Config.fecByte d)
def flitOf (c : List Byte) : Flit := ⟨onLanes (List.range 8) (fixedOf (flitBody ++ c)), fixedOf (flitBody ++ c)⟩

theorem len_body : flitBody.length = 240 := by decide +kernel

theorem len_crc : flitCrc.length = 4 := by simp [flitCrc, leBytes]

theorem lanes_flit (b : List Byte) (h : b.length = 256) : fromLanes (List.range 8) (onLanes (List.range 8) b) = b := by
  have e : fromLanes (List.range 8) (onLanes (List.range 8) b) = b.take 32 ++ (bytesAt b 32 32 ++ (bytesAt b 64 32 ++
      (bytesAt b 96 32 ++ (bytesAt b 128 32 ++ (bytesAt b 160 32 ++ (bytesAt b 192 32 ++ bytesAt b 224 32)))))) := by
    simp [fromLanes, onLanes, List.range_succ_eq_map, List.idxOf_cons, bytesAt, List.take_take]
  rw [e]
  apply List.ext_getElem?
  intro i
  simp [bytesAt, List.getElem?_append, List.getElem?_take, List.getElem?_drop, h]
  grind

theorem fec_flit (d : List Byte) (h : d.length = 244) : fecOk (fixedOf d) (fixedOf d) = true := by
  simp [fecOk, fixedOf, h, fixedAt, List.take_left' h, List.drop_left' h]

theorem crc_flit (c : List Byte) (h : c.length = 4) : crcOk (fixedOf (flitBody ++ c)) = decide (c = flitCrc) := by
  have hb := len_body
  simp [crcOk, fixedOf, bytesAt, hb, h, flitCrc, List.drop_left', List.take_left', List.append_assoc]
  rfl

theorem head_flit (c : List Byte) : (fixedOf (flitBody ++ c)).take 8 = flitBody.take 8 := by
  simp [fixedOf, List.append_assoc, List.take_append_of_le_length, len_body]

theorem crc_bad : flitCrc.map (fun b => b + 1) ≠ flitCrc := by
  obtain ⟨a, l, h⟩ : ∃ a l, flitCrc = a :: l := by
    rcases h : flitCrc with _ | ⟨a, l⟩
    · have := len_crc; simp [h] at this
    · exact ⟨a, l, rfl⟩
  simp [h]


theorem flit_raw (c : List Byte) (h : c.length = 4) :
    fromLanes (portAt (portIn .up) 11).lmap (flitOf c).lanes = (flitOf c).fixed :=
  lanes_flit _ (by simp [fixedOf, len_body, h])

theorem witness_flitReceive_good :
    let s := portIn .up
    let f := flitOf flitCrc
    let h := leNat (f.fixed.take 8)
    carries (portAt s 11) ∧ s.time.now.ule 1000000 ∧ fecOk (fromLanes (portAt s 11).lmap f.lanes) f.fixed ∧ crcOk f.fixed ∧
      fld h 0 2 = 1 ∧ fld h 2 10 = ((portAt s 11).rxSeq + 1) % 1024 ∧ (portAt s 11).rxSeq < 1024 ∧
      bitOf h 22 = false ∧ (portAt s 11).fails < 9 ∧ (portAt s 11).owed.length = 4 ∧ fld h 41 2 < 2 := by
  have e : leNat ((flitOf flitCrc).fixed.take 8) = flitHdr := by
    simp only [flitOf, head_flit]; decide +kernel
  have l : (flitBody ++ flitCrc).length = 244 := by simp [len_body, len_crc]
  simp only [e, flit_raw _ len_crc]
  refine ⟨by decide +kernel, by decide +kernel, fec_flit _ l, ?_, by decide +kernel⟩
  simp [flitOf, crc_flit _ len_crc]

/-- A flit that the error correction gives up, and one whose CRC does not fit. -/
theorem witness_flitReceive_bad :
    let x := portAt (portIn .up) 11
    let f := flitOf (flitCrc.map (fun b => b + 1))
    fecOk (fromLanes x.lmap []) [] = false ∧ fecOk (fromLanes x.lmap f.lanes) f.fixed ∧ crcOk f.fixed = false := by
  have h : (flitCrc.map (fun b => b + 1)).length = 4 := by simp [len_crc]
  have l : (flitBody ++ flitCrc.map (fun b => b + 1)).length = 244 := by simp [len_body, len_crc]
  refine ⟨by decide +kernel, ?_, ?_⟩
  · rw [flit_raw _ h]; exact fec_flit _ l
  · exact (crc_flit _ h).trans (decide_eq_false crc_bad)

/-- Port 11 has a beacon to reflect and a substitution in progress. -/
def portMore : State := base.withFabric { base.fabric with
  ports := List.replicate 11 Port.reset ++ [{ Port.reset with
    st := .up, lit := allLit, bref := [(15, 999960)], subst := true, out := 7 }] }

theorem witness_beaconReflect :
    (portAt portMore 11).bref.find? (fun b => decide (b.2 + 40 = 1000000 ∨ b.2 + 41 = 1000000)) = some (15, 999960) ∧
      portMore.time.now.ule 1000000 := by decide +kernel

theorem witness_laneSubstitution :
    let x := { portAt (portIn .up) 11 with lit := setPut allLit 7 false }
    let y := { portAt (portIn .up) 11 with fixes := [⟨7, 1048577, 1000000⟩] }
    [x, y].all (fun x => carries x && decide (x.out = 15) && laneBad x (7 : Fin 9) 1000001 && !laneBad x 8 1000001) ∧
      (7 : Fin 9).val ≠ 8 := by decide +kernel

theorem witness_laneSubstitutionComplete : (portAt portMore 11).subst := by decide +kernel

theorem witness_lightLoss_kept :
    (portAt (portIn .up) 11).st ≠ .disabled ∧
      litOk { portAt (portIn .up) 11 with lit := [8].foldl (fun m l => setPut m l false) (portAt (portIn .up) 11).lit } := by
  decide +kernel

theorem witness_lightLoss_down :
    (portAt (portIn .up) 11).st = .up ∧
      litOk { portAt (portIn .up) 11 with lit := [8, 0].foldl (fun m l => setPut m l false) (portAt (portIn .up) 11).lit } =
        false := by decide +kernel

/-- Every port is UP; laser unit 3 has failed once. -/
def lasersUp : State := base.withFabric { base.fabric with
  ports := List.replicate 12 { Port.reset with st := .up }, lasers := [0, 0, 0, 1] }

theorem witness_laserFailure_first : lasersUp.fabric.lasers.length = 4 ∧ lasersUp.fabric.lasers.getD (0 : Fin 4) 0 = 0 := by
  decide +kernel

theorem witness_laserFailure_second :
    0 < lasersUp.fabric.lasers.getD (3 : Fin 4) 0 ∧ ∀ j, j < 3 → (portAt lasersUp (3 * (3 : Fin 4).val + j)).st = .up := by
  decide +kernel

theorem witness_portRetrain :
    let s := portIn .down
    (portAt s 11).st = .down ∧ (portAt s 11).litAt.toNat + 1000000000 ≤ (1000000000 : Word64).toNat ∧
      8 ≤ (laneSet [0, 1, 2, 3, 4, 5, 6, 8]).length ∧ s.fabric.leaving = false ∧
      portWaits s (.portDisable (11 : Fin 12)) = false := by decide +kernel

theorem witness_trainingComplete : (portAt (portIn .training) 11).st = .training := by decide +kernel

theorem witness_quarantineRehello :
    (portAt (portIn .quarantine) 11).st = .quarantine ∧
      (portAt (portIn .quarantine) 11).helloAt.toNat + 10000000000 ≤ (10000000000 : Word64).toNat := by decide +kernel

theorem witness_portDrained :
    (portAt (portIn .draining) 11).st = .draining ∧ drained (portIn .draining) (11 : Fin 12) := by decide +kernel

/-- The group number is set and port 11 waits for a hello. -/
def greeting : State :=
  let s := base.withFabric { base.fabric with ports := List.replicate 11 Port.reset ++ [{ Port.reset with
    st := .hello, lit := allLit, rtts := List.replicate 64 500 }] }
  (s.withFabric { s.fabric with group := 77 }).withBoot { s.boot with cfgA := some (cfgOf 1 0 3) }

def hello0 : HelloP := ⟨77, 0, 5, 1, 3, 3, 44, 0, true, true⟩

theorem witness_helloReceive :
    (portAt greeting 11).st = .hello ∧ helloOk greeting (portAt greeting 11) hello0 = true ∧ 64 ≤ (portAt greeting 11).rtts.length ∧ grouped greeting = false ∧
      helloOk greeting (portAt greeting 11) { hello0 with sigOk := false } = false := by decide +kernel
/-! ### Membership -/

/-- A port number beyond the twelve names no port. -/
theorem portAt_beyond (s : State) (h : s.fabric.ports.length = 12) (n : Nat) (hn : 12 ≤ n) : portAt s n = Port.reset := by
  unfold portAt
  exact List.getD_eq_default _ _ (by omega)

theorem witness_groupId : hostReady (given base q0 (.groupId 77) 0) q0 (.groupId 77) 0 := by decide +kernel

/-- No member yet, with a group number. -/
def lone : State := base.withFabric { base.fabric with group := 77 }

theorem witness_groupFound :
    let s := given lone q0 .groupFound 0
    hostReady s q0 .groupFound 0 ∧ grouped s = false ∧ s.fabric.group ≠ 0 := by decide +kernel

def leaver : State := given (paired (portIn .up)) q0 .groupLeave 0

theorem witness_groupLeave :
    hostReady leaver q0 .groupLeave 0 ∧ grouped leaver ∧ (∃ n, n < 12 ∧ (portAt leaver n).st = .up) ∧
      (∀ n, (portAt leaver n).st ≠ .pendingEnable) := by
  have h : ∀ n, n < 12 → (portAt leaver n).st ≠ .pendingEnable := by decide +kernel
  refine ⟨by decide +kernel, by decide +kernel, ⟨11, by decide +kernel⟩, fun n => ?_⟩
  by_cases hn : n < 12
  · exact h n hn
  · rw [portAt_beyond leaver (by decide +kernel) n (by omega)]
    decide

/-- A group of three; the module is member 0 and `l` leads. -/
def three (l : Nat) (prop : Option (Nat × List (Nat × BitVec 512))) : State := base.withFabric { base.fabric with
  group := 77, epoch := 3, member := 0, leader := l, members := [(0, 100), (1, 101), (2, 102)], prop := prop,
  acks := if prop.isSome then [(0, true)] else [] }

def nextL : List (Nat × BitVec 512) := [(0, 100), (1, 101)]

theorem witness_joinRequest_member :
    let s := three 1 none
    Inv s ∧ s.time.now.ule 1000000 ∧ grouped s ∧ s.fabric.isolated = false ∧ (∀ e ∈ s.fabric.members, e.2 ≠ 103) ∧
      (from1.frm, from1.seq) ∉ s.fabric.seen ∧ s.fabric.leader ≠ s.fabric.member := by decide +kernel

theorem witness_joinRequest_leader :
    let s := three 0 (some (4, nextL))
    Inv s ∧ s.time.now.ule 1000000 ∧ grouped s ∧ s.fabric.isolated = false ∧ (∀ e ∈ s.fabric.members, e.2 ≠ 103) ∧
      (from1.frm, from1.seq) ∉ s.fabric.seen ∧ s.fabric.leader = s.fabric.member ∧ s.fabric.prop.isSome := by decide +kernel

theorem witness_epochProposal : (three 1 none).fabric.prop = none ∧ isMember (three 1 none) 1 := by decide +kernel

theorem witness_epochAck_enough :
    let s := three 0 (some (4, nextL))
    s.fabric.prop = some (s.fabric.epoch + 1, nextL) ∧ s.fabric.acks ≠ [] ∧ isMember s 1 ∧
      majority s (setPut s.fabric.acks 1 true).length ∧ (∀ i ∈ s.fabric.joins, ∃ e ∈ nextL, e.2 = i) ∧
      (∀ x ∈ s.fabric.leaves, ∀ e ∈ nextL, e.1 ≠ x.1) :=
  ⟨rfl, by decide +kernel, by decide +kernel, by decide +kernel, fun _ h => (List.not_mem_nil h).elim,
    fun _ h => (List.not_mem_nil h).elim⟩

theorem witness_epochAck_short :
    let s := three 0 (some (4, nextL))
    isMember s 0 ∧ majority s (setPut s.fabric.acks 0 true).length = false := by decide +kernel

theorem witness_epochCommit :
    (∀ i ∈ (three 1 none).fabric.joins, ∃ e ∈ nextL, e.2 = i) ∧
      (∀ x ∈ (three 1 none).fabric.leaves, ∀ e ∈ nextL, e.1 ≠ x.1) :=
  ⟨fun _ h => (List.not_mem_nil h).elim, fun _ h => (List.not_mem_nil h).elim⟩

theorem witness_heartbeats :
    (three 1 none).fabric.hbAt.toNat + 1000000 ≤ (1000000 : Word64).toNat ∧ isMember (three 1 none) 2 := by decide +kernel

theorem witness_memberSilent :
    let s := three 0 none
    s.fabric.leader = s.fabric.member ∧ 2 ≠ s.fabric.member ∧ isMember s 2 ∧
      (mapGet 0 s.fabric.heard 2).toNat + 10000000 ≤ (10000000 : Word64).toNat ∧ s.fabric.prop = none ∧
      s.fabric.joins = [] ∧ 2 ≤ s.fabric.members.length ∧ s.time.now.ule 10000000 := by decide +kernel

theorem witness_leaderLoss :
    let s := three 1 none
    s.fabric.leader ≠ s.fabric.member ∧ s.fabric.leaderHeard.toNat + 10000000 ≤ (10000000 : Word64).toNat ∧
      (∀ m ∈ [1, 2], m ≠ s.fabric.leader → isMember s m → s.fabric.member < m) ∧ s.fabric.member < noMember ∧
      2 ≤ s.fabric.members.length := by decide +kernel

theorem witness_isolation : majority (three 1 none) (reached (three 1 none) []).length = false ∧
    (0 : Word64).toNat + 20000000 ≤ (20000000 : Word64).toNat ∧
      ∀ m, isMember (three 1 none) m → m ∉ reached (three 1 none) [] → (mapGet 0 (three 1 none).fabric.heard m).toNat ≤ 0 :=
  ⟨by decide +kernel, by decide +kernel, fun _ _ _ => Nat.le_refl 0⟩

/-- One message waits for its acknowledgment. -/
def outbox : State :=
  let s := three 1 none
  s.withFabric { s.fabric with out := [⟨1, 6, 0, .heartbeat []⟩], seqs := [(1, 7)] }

theorem witness_messageResend :
    outbox.fabric.out.find? (fun m => decide (m.dest = 1) && decide (m.num = 6)) = some ⟨1, 6, 0, .heartbeat []⟩ ∧ 0 + 1000000 ≤ (1000000 : Word64).toNat := by
  decide +kernel

/-! ### Power, brakes, sensors, time -/

theorem witness_limits :
    hostReady (given base q0 (.gearLimit 1 7) 0) q0 (.gearLimit 1 7) 0 ∧ (partAt base (1 : Fin 32)).st ≠ .unused ∧
      hostReady (given base q0 (.energyBudget 1 1300) 0) q0 (.energyBudget 1 1300) 0 ∧
      ((List.range 32).map (fun j => if j = (1 : Fin 32).val then 1300
        else (partAt (given base q0 (.energyBudget 1 1300) 0) j).watts)).sum ≤ 1300 := by decide +kernel

/-- Every partition stopped. -/
def quiet : State := with1 base (fun x => { x with st := .stopped })

theorem witness_powerLevel_0 :
    let s := given quiet q0 (.powerLevel 0) 0
    Inv s ∧ hostReady s q0 (.powerLevel 0) 0 ∧ (headRec s q0).isSome ∧ levelOk s 0 := by decide +kernel

theorem witness_powerLevel_3 :
    let s := given quiet q0 (.powerLevel 3) 0
    hostReady s q0 (.powerLevel 3) 0 ∧ (headRec s q0).isSome ∧ levelOk s 3 ∧
      allPosted (postAll (done s q0 s.power.level) q0.fn 0 (done s q0 s.power.level).journal.length) q0 := by decide +kernel

theorem witness_powerLevel_1 :
    let s := given quiet q0 (.powerLevel 1) 0
    hostReady s q0 (.powerLevel 1) 0 ∧ (headRec s q0).isSome ∧ levelOk s 1 ∧
      allPosted (postAll (done s q0 s.power.level) q0.fn 0 (done s q0 s.power.level).journal.length) q0 := by decide +kernel

theorem witness_pwrbrkAssert :
    distaffUp base ∧ base.io.perst = false ∧ base.power.brakePin = false ∧ base.time.now.ule 1000000 := by decide +kernel

def brakedPin : State := base.withPower { base.power with brakePin := true, brakeTest := some 1000000 }

theorem witness_pwrbrkRelease : brakedPin.power.brakePin ∧ brakedPin.time.now.ule 1000000 := by decide +kernel

theorem witness_brakeTest :
    hostReady (given base q0 (.brakeTest 1000) 0) q0 (.brakeTest 1000) 0 ∧ base.power.brakeTest = none ∧
      hostReady (given base q0 (.brakeTest 0) 0) q0 (.brakeTest 0) 0 := by decide +kernel

theorem witness_brakeTestEnd :
    brakedPin.power.brakeTest = some 1000000 ∧ (1000000 : Word64).ule 1000000 ∧ brakedPin.time.now.ule 1000000 := by decide +kernel

theorem witness_sensorSample : distaffUp base ∧ (List.replicate 64 (⟨some 400, none⟩ : PairSample)).length = 64 := by decide +kernel

theorem witness_gearCapStep :
    distaffUp base ∧ base.power.caps.length = 24 ∧ (∀ c ∈ base.power.caps, c ≤ 7) ∧ base.time.now.ule 1000000 ∧
      base.power.capStep.toNat + 100000 ≤ (1000000 : Word64).toNat ∧
      base.power.capRise.toNat + 1000000 ≤ (1000000 : Word64).toNat := by decide +kernel

theorem witness_gearCapStep_early :
    let s := base.withPower { base.power with capRise := 900000 }
    s.power.caps.length = 24 ∧ (∀ c ∈ s.power.caps, c ≤ 7) ∧
      s.power.capStep.toNat + 100000 ≤ (1000000 : Word64).toNat ∧ (1000000 : Word64).toNat < s.power.capRise.toNat + 1000000 := by
  decide +kernel

theorem witness_tbSyncOut : (1000000 : Word64).toNat % 1000000 = 0 ∧ base.time.outMs < (1000000 : Word64).toNat / 1000000 := by
  decide +kernel

theorem witness_tbSyncIn_bad : 1000 < (pulseError (1001001 : Word64).toNat).natAbs ∧ base.time.now.ule 1001001 ∧ base.time.inMs = 0 := by
  decide +kernel

theorem witness_tbSyncIn_good :
    let s := (three 0 none).withTime { base.time with inLocked := true, inMs := 1, inGood := 8 }
    (pulseError (2001000 : Word64).toNat).natAbs ≤ 1000 ∧ s.time.inLocked ∧ s.time.inBad = 0 ∧
      ((2001000 : Word64).toNat : Int) - pulseError (2001000 : Word64).toNat = 1000000 * (s.time.inMs + 1) ∧
      s.fabric.leader = s.fabric.member ∧ s.time.now.ule 2001000 := by decide +kernel

/-- Port 11 is up and leads to the leader. -/
def follower : State :=
  let s := portIn .up
  let f := (three 1 none).fabric
  s.withFabric { f with ports := s.fabric.ports, routes := [(1, 11)] }

theorem witness_timing_member :
    Inv follower ∧ (portAt follower (11 : Fin 12)).st = .up ∧ grouped follower ∧ parentPort follower (11 : Fin 12) ∧
      timeMaster follower ≠ follower.fabric.member ∧ follower.time.now.ule 1000000 := by decide +kernel

theorem witness_timing_joining :
    let s := (portIn .up).withFabric { (portIn .up).fabric with group := 77 }
    (portAt s (11 : Fin 12)).st = .up ∧ grouped s = false ∧ s.time.stepped = false ∧ s.fabric.group ≠ 0 := by decide +kernel
/-! ### Device faults, spares, boot -/

def t2m : Word64 := 2000000

theorem witness_deviceFault_fourth :
    let s := base.withBoot { base.boot with faults60 := [0, 1, 2] }
    Inv s ∧ s.time.now.ule t2m ∧ s.boot.phase = .utora ∧
      3 ≤ (s.boot.faults60.filter (fun u => decide (t2m.toNat < u.toNat + 60000000000))).length := by decide +kernel

theorem witness_deviceFault_third :
    let s := base.withBoot { base.boot with faults60 := [0, 1] }
    s.time.now.ule t2m ∧ s.boot.phase = .utora ∧ DevCause.hubState ≠ .watchdog ∧ DevCause.hubState ≠ .linkLoss ∧
      DevCause.hubState ≠ .reservedPoison true ∧
      (s.boot.faults60.filter (fun u => decide (t2m.toNat < u.toNat + 60000000000))).length < 3 := by decide +kernel

theorem witness_thermalTrip :
    let s := base.withPower { base.power with
      hotAt := some 1000000, sensors := { Sensor.reset with fast := 1841 } :: List.replicate 63 Sensor.reset }
    s.power.hotAt = some 1000000 ∧ (1000000 : Word64).toNat + 1000000 ≤ t2m.toNat ∧ s.boot.phase ≠ .fatal ∧
      (∃ n ∈ junctions, 1840 < (sensorAt s n).fast) := by decide +kernel

/-- Cores 0, 1 and 2 run, the first two active; core 1 was last heard of at 0. -/
def cores3 : State := base.withBoot { base.boot with core := [0, 1, 2] }

theorem witness_heartbeatWrite :
    Inv cores3 ∧ cores3.boot.phase = .utora ∧ (activeCores cores3).contains (1 : Fin 3).val ∧ cores3.boot.beat.length = 3 ∧
      cores3.power.level < 3 := by
  decide +kernel

theorem witness_watchdog_spare :
    (cores3.boot.beat.getD (1 : Fin 3) 0).toNat + 5000000 ≤ (5000000 : Word64).toNat ∧
      2 ≤ (cores3.boot.core.filter (fun c => c ≠ (1 : Fin 3).val)).length ∧
      (cores3.boot.faults60.filter (fun u => decide ((5000000 : Word64).toNat < u.toNat + 60000000000))).length < 3 ∧
      cores3.time.now.ule 5000000 := by decide +kernel

theorem witness_watchdog_last :
    let s := base.withBoot { base.boot with core := [0, 1] }
    (activeCores s).contains (1 : Fin 3).val ∧ (s.boot.beat.getD (1 : Fin 3) 0).toNat + 5000000 ≤ (5000000 : Word64).toNat ∧
      (s.boot.core.filter (fun c => c ≠ (1 : Fin 3).val)).length < 2 := by decide +kernel

theorem witness_pcieLinkDown : base.io.perst = false ∧ base.io.linkUp ∧ base.boot.phase = .utora ∧ base.time.now.ule t2m := by
  decide +kernel

theorem witness_pcieLinkUp_first :
    let s := base.withIo { base.io with linkUp := false }
    s.io.perst = false ∧ s.io.linkUp = false ∧ s.boot.phase = .utora ∧ s.io.linkLost = false := by decide +kernel

theorem witness_pcieLinkUp_again :
    let s := base.withIo { base.io with linkUp := false, linkLost := true }
    s.io.perst = false ∧ s.io.linkUp = false ∧ s.boot.phase = .utora ∧ s.io.linkLost ∧
      (s.boot.faults60.filter (fun u => decide (t2m.toNat < u.toNat + 60000000000))).length < 3 := by decide +kernel

theorem witness_storeBankSpare :
    let s := base.withT1 { base.t1 with bad := List.replicate 16 (79, 1000000) }
    (39 : Nat) < 40 ∧ 16 ≤ bankErrs s (40 * (1 : Fin 2).val + 39) t2m ∧ base.t1.frames = [] ∧
      base.t1.spareLeft.length = 2 ∧ 0 < base.t1.spareLeft.getD (1 : Fin 2) 0 ∧ base.boot.phase = .utora := by decide +kernel

theorem witness_packagePrediction :
    let by1 := List.replicate 256 (⟨23, 0, 0⟩ : Fixed)
    let by2 := (List.range 16).map (fun k => (⟨23, k, 0⟩ : Fixed))
    predicted (base.withT2 { base.t2 with fixed := by1 }) (23 : Fin 25) 1 ∧
      predicted (base.withT2 { base.t2 with fixed := by2 }) (23 : Fin 25) 2 ∧
      predicted (base.withT2 { base.t2 with broken := [23] }) (23 : Fin 25) 3 ∧ predicted base (23 : Fin 25) 4 ∧
      base.t2.spareUsed = false ∧ base.t2.migr = none ∧ base.t2.map.contains (23 : Fin 25).val := by decide +kernel

theorem witness_migrationCopyDone :
    let s := base.withT2 { base.t2 with migr := some 23 }
    s.t2.migr = some 23 ∧ s.boot.phase = .utora := by decide +kernel

theorem witness_scrubPass :
    base.boot.restT2 ∧ base.t2.scrubAt.toNat + 86400000000000 ≤ (86400000000000 : Word64).toNat ∧
      (∀ k ∈ [0, 5], 32 * k < reservedBase) ∧ base.time.now.ule 86400000000000 := by decide +kernel

theorem witness_powerInputRise : Inv State.reset ∧ inputOff State.reset ∧ State.reset.time.now.ule 0 := by decide +kernel

theorem witness_powerLoss : inputOff base = false ∧ distaffUp base ∧ base.time.now.ule t2m := by decide +kernel

theorem witness_perstAssert : base.io.perst = false ∧ base.boot.phase ≠ .fatal ∧ inputOff base = false := by decide +kernel

/-- Input power has come: the module is held in reset, with a certificate for identity i. -/
def heldAs (i : BitVec 512) : State :=
  State.reset.withBoot { BootU.reset with phase := .held, cfgA := some (cfgOf 1 8 3), certSerial := 8, certId := i }

def heldState : State := heldAs 0

theorem witness_perstRelease :
    let p : RomP := ⟨[false, false, true], true, false, [4]⟩
    let id := Config.keyDigest (shake256 (0x49 :: leBytes 32 (Config.pufSecret (cfgOf 1 8 3).helper).toNat) 32)
    (heldAs id).boot.phase = .held ∧ (∃ k, k < 3 ∧ [false, false, true].getD k false) ∧ bootCopy (heldAs id) p = some false ∧
      (∀ e ∈ bootMap (heldAs id) false [4], rxKind e = 8 → rxLogical e ≠ 2) ∧
      Config.keyDigest (shake256 (0x49 :: leBytes 32 (Config.pufSecret
        (((heldAs id).boot.cfgA.map ConfigP.helper).getD [])).toNat) 32) = (heldAs id).boot.certId := by
  have copy : ∀ i, bootCopy (heldAs i) ⟨[false, false, true], true, false, [4]⟩ = bootCopy (heldAs 0) ⟨[false, false, true], true, false, [4]⟩ :=
    fun _ => rfl
  have count : (cfgOf 1 8 3).head 192 16 = 0 := by decide +kernel
  have none : (cfgOf 1 8 3).repair = [] := by unfold ConfigP.repair; rw [count]; rfl
  have map : ∀ i, bootMap (heldAs i) false [4] = effMap ((cfgOf 1 8 3).repair ++ []) := fun _ => rfl
  have helper : ∀ i, ((heldAs i).boot.cfgA.map ConfigP.helper).getD [] = (cfgOf 1 8 3).helper := fun _ => rfl
  have cert : ∀ i, (heldAs i).boot.certId = i := fun _ => rfl
  dsimp only
  rw [copy, map, none, helper, cert]
  exact ⟨rfl, ⟨2, by decide⟩, by decide +kernel, fun _ he => (List.not_mem_nil (show _ ∈ ([] : List (BitVec 64)) from he)).elim,
    Eq.refl _⟩

/-- The ROM runs; the host has named an image buffer. -/
def romState : State :=
  (State.reset.withBoot { BootU.reset with phase := .rom, resvT2 := true, mbLen := 4983, cfgA := some (cfgOf 1 0 3) }).withIo
    { IoU.reset with perst := false, linkUp := true }

/-- An image of security version v with 100 bytes after its header, and a signature. -/
def imageOf (v : Nat) : ImageP := { image2 with
  bytes := leBytes 256 (packFields [⟨0, 32, 1⟩, ⟨32, 32, v⟩, ⟨64, 16, 1⟩, ⟨96, 32, 356⟩, ⟨128, 32, 100⟩]) ++ List.replicate 4727 0 }

def image3 : ImageP := imageOf 3

theorem witness_loadImage :
    Inv romState ∧ bar0Up romState ∧ romState.boot.mbState ≠ 1 ∧ romState.boot.fw = 0 ∧ romState.boot.resvT2 ∧
      romState.boot.resume = none ∧ image3.bytes.length = romState.boot.mbLen ∧ imageError romState image3 = none := by decide +kernel

/-- A warm boot has found the image damaged. -/
theorem witness_loadImage_resume :
    let s := romState.withBoot { romState.boot with resume := some .plain }
    Inv s ∧ bar0Up s ∧ s.boot.mbState ≠ 1 ∧ s.boot.fw = 0 ∧ s.boot.resvT2 ∧ s.boot.resume = some .plain ∧
      imageError s image3 = none := by decide +kernel

theorem witness_loadImage_bad :
    imageError romState (imageOf 2) = some (3, 3) ∧ imageError romState { image3 with readOk := false } = some (5, 0) := by
  decide +kernel

theorem witness_t2Init :
    romState.boot.phase = .rom ∧ romState.boot.restT2 = false ∧ heldState.boot.resvT2 = false ∧
      (heldState.boot.held.isNone) := by decide +kernel

/-! ### Diagnostics -/

theorem witness_snapshotAt :
    let s := given base q1 (.snapshotAt 1100000 0) 1
    hostReady s q1 (.snapshotAt 1100000 0) 1 ∧ s.parts.all (fun x => (mapFind x.snaps 65535).isNone) ∧
      s.time.now.toNat + 100000 ≤ (1100000 : Word64).toNat ∧ (1100000 : Word64).toNat ≤ s.time.now.toNat + 10000000000 ∧
      snapRoom s 1 (readMask q1.fn 0) := by decide +kernel

theorem witness_snapshotMark :
    let s := given base q1 (.snapshotMark 5 6) 1
    hostReady s q1 (.snapshotMark 5 6) 1 ∧ s.parts.all (fun x => (mapFind x.snaps 0).isNone) ∧
      snapRoom s 1 (readMask q1.fn 6) := by decide +kernel

/-- Snapshot 9 waits for its time, snapshot 10 is whole. -/
def snaps : State := with1 base (fun x => { x with
  snaps := [(9, ⟨false, 1100000, 6, [0], [], 0, 0⟩), (10, ⟨false, 900000, 6, [], [(2, 5)], 900000, 900000⟩)] })

theorem witness_snapshotLatch :
    mapFind (partAt snaps (1 : Fin 32)).snaps 9 = some ⟨false, 1100000, 6, [0], [], 0, 0⟩ ∧
      (1100000 : Word64).ule 1100000 ∧ snaps.time.now.ule 1100000 := by decide +kernel

def buf0 : Buf := ⟨0x90000, 4096, 0, false⟩

theorem witness_counterRead_live :
    let s := given base q1 (.counterRead (.live [2 ^ 25 + 256]) buf0) 1
    hostReady s q1 (.counterRead (.live [2 ^ 25 + 256]) buf0) 1 ∧ (∀ i ∈ [2 ^ 25 + 256], ctrAllowed q1.fn 1 i) ∧
      (∃ e ∈ classCounters s 1 2, [2 ^ 25 + 256].map (fun i => (classCounters s 1 (i / 2 ^ 24)).find? (fun e => decide (e.1 = i))) =
        [e].map some) := by decide +kernel

theorem witness_counterRead_snap :
    let s := given snaps q1 (.counterRead (.snap 10 false) buf0) 1
    hostReady s q1 (.counterRead (.snap 10 false) buf0) 1 ∧ hostReady (given snaps q1 (.counterRead (.snap 10 true) buf0) 1) q1
      (.counterRead (.snap 10 true) buf0) 1 ∧ ((mapFind (partAt s 1).snaps 10).map (fun x => x.need)) = some [] := by decide +kernel

theorem witness_recordRead :
    let s := given regs q1 (.recordRead ⟨.region, 0, 3⟩ buf0) 1
    hostReady s q1 (.recordRead ⟨.region, 0, 3⟩ buf0) 1 ∧ (diagRecord s q1.fn 1 ⟨.region, 0, 3⟩).isLeft := by decide +kernel

theorem witness_reads :
    hostReady (given base q1 (.faultLogRead 0 4 buf0) 1) q1 (.faultLogRead 0 4 buf0) 1 ∧
      hostReady (given base q0 (.historyRead buf0) 0) q0 (.historyRead buf0) 0 ∧
      hostReady (given base q1 (.certRead buf0) 1) q1 (.certRead buf0) 1 := by decide +kernel

/-- A buffer that the host does not accept. -/
def bufBad : Buf := ⟨0x90000, 4096, 0, true⟩

theorem witness_refused :
    bufBad.refused ∧ hostReady (given base q1 (.faultLogRead 0 4 bufBad) 1) q1 (.faultLogRead 0 4 bufBad) 1 ∧
      hostReady (given base q0 (.historyRead bufBad) 0) q0 (.historyRead bufBad) 0 ∧
      hostReady (given base q1 (.certRead bufBad) 1) q1 (.certRead bufBad) 1 ∧
      hostReady (given base q1 (.counterRead (.live []) bufBad) 1) q1 (.counterRead (.live []) bufBad) 1 := by decide +kernel

theorem witness_refused_record :
    let s := given regs q1 (.recordRead ⟨.region, 0, 3⟩ bufBad) 1
    hostReady s q1 (.recordRead ⟨.region, 0, 3⟩ bufBad) 1 ∧ (diagRecord s q1.fn 1 ⟨.region, 0, 3⟩).isLeft := by decide +kernel

def buf1 : Buf := ⟨0x90000, 5000, 0, false⟩

theorem witness_attest :
    let s := given base q1 (.attest 7 1 buf1) 1
    hostReady s q1 (.attest 7 1 buf1) 1 ∧ q1.fn = 1 ∧ s.io.tapUnlocked = false ∧
      (reportBytes s 7 (1 : Fin 32)).length + 4627 ≤ buf1.len := by decide +kernel

theorem witness_measureRead :
    let s := given base q1 (.measureRead 1 buf0) 1
    hostReady s q1 (.measureRead 1 buf0) 1 ∧ q1.fn = 1 ∧ 296 + 72 * (partAt s (1 : Fin 32)).progs.length ≤ buf0.len := by
  decide +kernel

def cfg1 : ConfigP := cfgOf 1 8 3
def cfg2 : ConfigP := cfgOf 2 8 3

theorem witness_configUpdate :
    let b := base.withBoot { base.boot with cfgA := some cfg1, certSerial := 8 }
    let s := given b q0 (.configUpdate cfg2) 0
    hostReady s q0 (.configUpdate cfg2) 0 ∧ activeCfg s = some cfg1 ∧ cfg2.sigOk ∧ cfg2.serial = s.boot.certSerial ∧
      cfg1.seq < cfg2.seq ∧ cfg1.minsvn ≤ cfg2.minsvn := by decide +kernel

theorem witness_undefinedCommand :
    (canStart (given base q0 (.undefined 0x0100) 0) q0 (.undefined 0x0100)).isSome ∧ opcDefined 0x0100 = false := by decide +kernel
/-! ### The host's door -/

/-- Function 1 with entries 14 to 16 of SQ 0 not yet fetched, entries 13 and 14 of CQ 0 not yet freed, and events 5 to 7. -/
def door : State :=
  setCq (setSq (setFn base 1 { fnAt base 1 with evIx := 8, evHead := 5 }) 1 0 (some ⟨sqd, 17, 14, 14, []⟩)) 1 0
    (some ⟨cqd, 15, 13, none, false⟩)

theorem witness_door : Inv door ∧ door.io.linkUp ∧ door.io.perst = false ∧ door.power.level = 0 := by decide +kernel

theorem witness_sqTail_moves :
    sqAt door (1 : Fin 32) (0 : Fin 8) = some ⟨sqd, 17, 14, 14, []⟩ ∧ 13 < 2 ^ sqd.lsize ∧ 17 ≤ 29 ∧ 29 < 17 + 2 ^ sqd.lsize ∧
      29 % 2 ^ sqd.lsize = 13 ∧ 29 - 14 ≤ 2 ^ sqd.lsize := by decide +kernel

theorem witness_sqTail_passes :
    0 < 2 ^ sqd.lsize ∧ 17 ≤ 32 ∧ 32 < 17 + 2 ^ sqd.lsize ∧ 32 % 2 ^ sqd.lsize = 0 ∧ 2 ^ sqd.lsize < 32 - 14 := by decide +kernel

theorem witness_sqTail_none : sqAt door (1 : Fin 32) (7 : Fin 8) = none ∧ cqAt door (1 : Fin 32) (7 : Fin 8) = none := by
  decide +kernel

theorem witness_sqTail_index : (sqAt door (1 : Fin 32) (0 : Fin 8)).isSome ∧ 2 ^ sqd.lsize ≤ 16 := by decide +kernel

theorem witness_cqHead :
    cqAt door (1 : Fin 32) (0 : Fin 8) = some ⟨cqd, 15, 13, none, false⟩ ∧ 15 < 2 ^ cqd.lsize ∧ 13 ≤ 15 ∧
      15 < 13 + 2 ^ cqd.lsize ∧ 15 % 2 ^ cqd.lsize = 15 ∧ 2 ^ cqd.lsize ≤ 16 := by decide +kernel

theorem witness_eventHead :
    (fnAt door (1 : Fin 32)).even ∧ (fnAt door (1 : Fin 32)).evLost = 0 ∧ 8 < 2 ^ (fnAt door (1 : Fin 32)).evlsize ∧
      (fnAt door (1 : Fin 32)).evHead ≤ 8 ∧ 8 < (fnAt door (1 : Fin 32)).evHead + 2 ^ (fnAt door (1 : Fin 32)).evlsize ∧
      8 % 2 ^ (fnAt door (1 : Fin 32)).evlsize = 8 ∧ 8 ≤ (fnAt door (1 : Fin 32)).evIx := by decide +kernel

theorem witness_eventHead_ignored : (fnAt door (2 : Fin 32)).even = false ∧ 2 ^ (fnAt door (1 : Fin 32)).evlsize ≤ 16 := by
  decide +kernel

/-- The event queue of function 1 is full and has lost two events. -/
def losing : State := setFn base 1 { fnAt base 1 with evIx := 21, evHead := 5, evLost := 2 }

theorem witness_lostEvents :
    let x := fnAt losing (1 : Fin 32)
    Inv losing ∧ losing.io.linkUp ∧ losing.io.perst = false ∧ x.even ∧ 0 < x.evLost ∧ 6 < 2 ^ x.evlsize ∧ x.evHead < 6 ∧
      6 < x.evHead + 2 ^ x.evlsize ∧ 6 % 2 ^ x.evlsize = 6 ∧ 6 ≤ x.evIx ∧ x.evIx ≤ x.evHead + 2 ^ x.evlsize := by decide +kernel

/-- PART_START as sequence number 14, and the same with extended parameters that cannot be read. -/
def entry14 : SubEntry := ⟨BitVec.ofNat 128 (0x0103 + 2 ^ 24 + 2 ^ 64 * 14), 0, [], true, .partStart⟩
def entry14x : SubEntry := ⟨BitVec.ofNat 128 (0x0103 + 2 ^ 16 + 2 ^ 24 + 2 ^ 64 * 14), 0, [], false, .partStart⟩

theorem witness_submissionFetch :
    hubUp door ∧ door.time.now.ule 1000000 ∧ sqAt door q1.fn q1.sq = some ⟨sqd, 17, 14, 14, []⟩ ∧ 14 + 0 < 17 ∧
      entSeq entry14 = 14 ∧ entExt entry14 = false ∧ entryIs entry14 := by decide +kernel

theorem witness_submissionFetch_sequence :
    entSeq { entry14 with hdr := 0x0103 } ≠ 14 ∧ openOn door q1.fn q1.sq = false := by decide +kernel

/-- Two entries stand in the fetch buffer behind an open command, the first with another sequence than the one expected. -/
theorem witness_submissionFetch_buffer :
    let b := { entry14 with hdr := 0x0103 }
    let s := setSq (door.withJournal [recOf q1 .partStart 1 .accepted]) 1 0 (some ⟨sqd, 17, 14, 14, [b]⟩)
    sqAt s q1.fn q1.sq = some ⟨sqd, 17, 14, 14, [b]⟩ ∧ 14 + 1 < 17 ∧ ([b] ++ [entry14]).head? = some b ∧
      openOn s q1.fn q1.sq ∧ entSeq b ≠ 14 ∧ entSeq entry14 ≠ 14 + BitVec.ofNat 64 [b].length ∧ entryIs entry14 := by
  decide +kernel

theorem witness_submissionFetch_param : entSeq entry14x = 14 ∧ entExt entry14x ∧ entry14x.readable = false := by decide +kernel

/-- Queue 1 has a committed command, and its vector is unmasked; `ien` and `last` of its completion queue are free. -/
def posting (ien : Bool) (last : Option Word64) (owed : Bool) : State :=
  let s := setFn base 1 { fnAt base 1 with msix := ⟨0xFEE00000, 5, false, false⟩ :: List.replicate 63 MsixE.reset }
  (setCq s 1 0 (some ⟨{ cqd with ien := ien, itime := 10 }, 31, 16, last, owed⟩)).withJournal [recOf q1 .partStart 1 .committed]

theorem witness_completionPost :
    let s := posting false none false
    Inv s ∧ hubUp s ∧ s.time.now.ule 1000000 ∧
      cqAt s (1 : Fin 32) (0 : Fin 8) = some ⟨{ cqd with ien := false, itime := 10 }, 31, 16, none, false⟩ ∧
      31 - 16 < 2 ^ cqd.lsize ∧
      firstDone (postable (1 : Fin 32) (0 : Fin 8) [] s.journal) = some (recOf q1 .partStart 1 .committed) ∧
      (fnAt s 1).sqs.all (fun x => x.all (fun y => decide (y.buf = []))) := by decide +kernel

theorem witness_completionPost_vector :
    let s := posting true (some 990000) false
    cqAt s (1 : Fin 32) (0 : Fin 8) = some ⟨{ cqd with ien := true, itime := 10 }, 31, 16, some 990000, false⟩ ∧
      (990000 : Word64).toNat + 1000 * 10 ≤ (1000000 : Word64).toNat ∧
      ((fnAt s (1 : Fin 32)).msix.getD cqd.vec MsixE.reset).mask = false ∧
      firstDone (postable (1 : Fin 32) (0 : Fin 8) [] s.journal) = some (recOf q1 .partStart 1 .committed) := by decide +kernel

theorem witness_completionPost_owed :
    let s := posting true (some 990001) false
    cqAt s (1 : Fin 32) (0 : Fin 8) = some ⟨{ cqd with ien := true, itime := 10 }, 31, 16, some 990001, false⟩ ∧
      (1000000 : Word64).toNat < (990001 : Word64).toNat + 1000 * 10 := by decide +kernel

theorem witness_interruptInterval :
    cqAt (posting true (some 990000) true) (1 : Fin 32) (0 : Fin 8) =
        some ⟨{ cqd with ien := true, itime := 10 }, 31, 16, some 990000, true⟩ ∧
      (990000 : Word64).toNat + 1000 * 10 ≤ (1000000 : Word64).toNat ∧ cqd.vec < 64 := by decide +kernel

theorem witness_completionEntry : 0x033A < 2 ^ 16 ∧ 0xFFFFFFFF < 2 ^ 32 ∧ 0 < 16 := by decide

theorem witness_adminQueue_on :
    let s := setFn base 1 { fnAt base 1 with aqen := false }
    Inv s ∧ bar0Up s ∧ s.boot.fw = 2 ∧ (fnAt s (1 : Fin 32)).aqen = false ∧ adminDescOk (fnAt s (1 : Fin 32)) ∧
      openOn s (1 : Fin 32) 0 = false := by decide +kernel

theorem witness_adminQueue_off :
    (fnAt base (1 : Fin 32)).aqen ∧ openOn base (1 : Fin 32) 0 = false ∧
      openOn (given base q1 .partStart 1) (1 : Fin 32) 0 := by decide +kernel

theorem witness_atsInvalidation : pageUses base (1 : Fin 32) 5 6 = [] := by decide +kernel

theorem witness_bar2 :
    let s := setFn regs 0 { fnAt regs 0 with w2we := true }
    Inv s ∧ bar0Up s ∧ windowSize - 64 + 64 ≤ windowSize ∧ (fnAt s 0).w2we ∧
      (∀ k, k < 4 → inLiveRegion s ((fnAt s 0).w2base * 2 ^ 30 + 0 + k) = false) := by decide +kernel

theorem witness_bar2_drop :
    (fnAt regs 0).w2we = false ∧ inLiveRegion regs ((fnAt regs 0).w2base * 2 ^ 30 + 327680 + 3) := by decide +kernel

theorem witness_bar2_poison :
    let s := base.withT2 { base.t2 with pois := [(0, true)] }
    0 < 4 ∧ (0 % 128 + 4) ≤ 128 ∧ (fnAt s 0).w2base * 2 ^ 30 + 0 + 4 ≤ reservedBase ∧
      inPoisonedLine s ((fnAt s 0).w2base * 2 ^ 30 + 0) :=
  ⟨by decide +kernel, by decide +kernel, by decide +kernel, 0, by decide +kernel, by decide +kernel⟩

theorem witness_bar2_outside : windowSize < windowSize - 3 + 4 := by decide +kernel

/-! ### The sideband -/

theorem witness_i3c : distaffUp base ∧ base.io.i3cAddr = none ∧
    ({ base.io with i3cAddr := some 9 } : IoU).i3cAddr.isSome := by decide +kernel

theorem witness_testPort :
    State.reset.io.perst ∧ base.io.perst = false ∧ base.boot.phase = .utora ∧ base.io.tapUnlocked = false ∧
      base.time.now.ule 1000000 ∧ (base.withIo { base.io with tapUnlocked := true }).io.tapUnlocked := by decide +kernel
/-! ### Events of partitions and of store memory -/

theorem witness_startingComplete :
    let s := (with1 base (fun x => { x with st := .starting })).withJournal [recOf q1 .partStart 1 .started]
    Inv s ∧ s.time.now.ule t2m ∧ (partAt s (1 : Fin 32)).st = .starting ∧ hubUp s ∧
      runsCmd s (1 : Fin 32) isStop = false ∧ runsCmd s (1 : Fin 32) isDestroy = false ∧
      (∃ r ∈ s.journal, r.st = .started ∧ cmdOf (1 : Fin 32) isStart r) := by decide +kernel

/-- Partition 1 stops by command. -/
def stopping1 : State := (with1 base (fun x => { x with st := .stopping })).withJournal [recOf q1 .partStop 1 .started]

theorem witness_stopComplete :
    (partAt stopping1 (1 : Fin 32)).st = .stopping ∧ (partAt stopping1 (1 : Fin 32)).camp = none ∧
      (partAt stopping1 (1 : Fin 32)).fault = none ∧ runsCmd stopping1 (1 : Fin 32) isDestroy = false ∧
      (∀ n, (tileRaw stopping1 n).replace = false) ∧
      (∀ g ∈ (partAt stopping1 (1 : Fin 32)).groups, (groupAt stopping1 g).st ≠ .failed) ∧
      (∃ r ∈ stopping1.journal, r.st = .started ∧ cmdOf (1 : Fin 32) isStop r) :=
  ⟨by decide +kernel, by decide +kernel, by decide +kernel, by decide +kernel, fun _ => rfl, by decide +kernel,
    by decide +kernel⟩

theorem witness_stopComplete_pending :
    let s := with1 base (fun x => { x with st := .pendingEnable })
    (partAt s (1 : Fin 32)).st = .pendingEnable ∧ (partAt s (1 : Fin 32)).camp = none ∧
      (partAt s (1 : Fin 32)).fault = none ∧ runsCmd s (1 : Fin 32) isDestroy = false ∧ (∀ n, (tileRaw s n).replace = false) :=
  ⟨by decide +kernel, by decide +kernel, by decide +kernel, by decide +kernel, fun _ => rfl⟩

theorem witness_groupDrain :
    let s := base.withGroups (⟨.draining, 1⟩ :: List.replicate 23 ⟨.free, 0⟩)
    (groupAt s (0 : Fin 24)).st = .draining ∧ ∀ n, (tileRaw s n).replace = false := ⟨by decide +kernel, fun _ => rfl⟩

theorem witness_groupDrain_pending :
    let s := base.withGroups (List.replicate 23 ⟨.free, 0⟩ ++ [⟨.pendingEnable, 1⟩])
    (groupAt s (23 : Fin 24)).st = .pendingEnable ∧ ∀ n, (tileRaw s n).replace = false := ⟨by decide +kernel, fun _ => rfl⟩

theorem witness_regionsScrubbed :
    let s := (with1 regs (fun x => { x with st := .destroying, regions := [(3, ⟨rwReg, [5, 6], none, none, []⟩)] })).withJournal
      [recOf q0 .partDestroy 1 .started]
    (partAt s (1 : Fin 32)).st = .destroying ∧ 5 ∈ partPages (partAt s (1 : Fin 32)) ∧
      (∃ r ∈ s.journal, r.st = .started ∧ cmdOf (1 : Fin 32) isDestroy r) := by decide +kernel

/-- Partition 1 stops with a fault that is not yet completed. -/
def faulting (c : Option Camp) (st : JState) : State :=
  ((paired regs1).withParts (Part.zero :: { part1 with st := .stopping, camp := c, fault := some ⟨0, 0x0307, false, false⟩ } ::
    List.replicate 30 Part.unused)).withJournal
    [match c with | some _ => recOf q1 (.campaignStart camp2) 1 st | none => recOf q1 .partStop 1 st]

theorem witness_faultRecordComplete :
    let s := faulting none .started
    Inv s ∧ (partAt s (1 : Fin 32)).fault = some ⟨0, 0x0307, false, false⟩ ∧ (partAt s (1 : Fin 32)).camp = none ∧
      runsCmd s (1 : Fin 32) isDestroy = false ∧
      (∃ r ∈ s.journal, r.st = .started ∧ cmdOf (1 : Fin 32) (fun c => isStop c || isStart c) r) := by decide +kernel

theorem witness_faultRecordComplete_campaign :
    let s := faulting (some campAt) .started
    (partAt s (1 : Fin 32)).fault = some ⟨0, 0x0307, false, false⟩ ∧ (partAt s (1 : Fin 32)).camp = some campAt ∧
      campAt.phase ≠ .turn ∧ campAt.fin = none ∧ campAt.due = [] ∧ campAt.badRec = false ∧
      runsCmd s (1 : Fin 32) isDestroy = false ∧
      ((headRec s campAt.q).map (fun r => r.st)) = some .started := by decide +kernel

/-- A campaign with a turn record still to be written. -/
theorem witness_faultRecordComplete_records :
    let c := { campAt with due := [⟨0x80000, [], none⟩] }
    let s := faulting (some c) .started
    (partAt s (1 : Fin 32)).fault = some ⟨0, 0x0307, false, false⟩ ∧ (partAt s (1 : Fin 32)).camp = some c ∧ c.phase ≠ .turn ∧
      c.fin = none ∧ c.due ≠ [] ∧ runsCmd s (1 : Fin 32) isDestroy = false := by decide +kernel

theorem witness_peerFaultReceive :
    (partAt meeting (1 : Fin 32)).camp = some campAt ∧ from1.frm ∈ campAt.p.positions ∧
      (from1.frm, from1.seq) ∉ meeting.fabric.seen ∧ boundWith meeting campAt from1.frm ∧ (partAt meeting (1 : Fin 32)).fault = none := by
  decide +kernel

theorem witness_functionLevelReset :
    base.io.linkUp ∧ base.io.perst = false ∧ (partAt base (1 : Fin 32)).st = .running := by decide +kernel

/-- Frame 5 is being filled with page 0 of region 4 in epoch e; frame 6 is a victim, with what takes its place. -/
def store (e : Nat) (nxt : Option (PageKey × Bool × List (Option Nat))) : State := regs1.withT1 { regs1.t1 with
  frames := [(5, ⟨⟨1, 4, e, 0⟩, false, false, [], 0, 0, false, none, [], []⟩), (6, ⟨⟨1, 4, 1, 1⟩, true, false, [], 0, 0, true, nxt, [], []⟩)],
  fills := [5] }

theorem witness_t1FillLand :
    frameAt (store 1 none) 5 = some ⟨⟨1, 4, 1, 0⟩, false, false, [], 0, 0, false, none, [], []⟩ ∧ fillRuns (store 1 none) 5 ∧
      keyCurrent (store 1 none) ⟨1, 4, 1, 0⟩ ∧ fillFromHost (store 1 none) ⟨1, 4, 1, 0⟩ = false := by decide +kernel

/-- A fill of an epoch that is not current, with nothing or with another page waiting for its frame. -/
theorem witness_t1FillLand_late :
    let k : PageKey := ⟨1, 4, 2, 0⟩
    let s := store 2 none
    let x := (⟨1, 4, 1, 0⟩, false, [none])
    let r := s.withT1 { s.t1 with frames := [(5, ⟨k, false, false, [], 0, 0, false, some x, [], []⟩)] }
    frameAt s 5 = some ⟨k, false, false, [], 0, 0, false, none, [], []⟩ ∧ fillRuns s 5 ∧ keyCurrent s k = false ∧ s.t1.pins = [] ∧
      frameAt r 5 = some ⟨k, false, false, [], 0, 0, false, some x, [], []⟩ ∧ fillRuns r 5 ∧ keyCurrent r k = false := by
  decide +kernel

theorem witness_frameRelease :
    frameAt (store 1 none) 6 = some ⟨⟨1, 4, 1, 1⟩, true, false, [], 0, 0, true, none, [], []⟩ ∧ (store 1 none).t1.pins = [] ∧
      frameAt (store 1 (some (⟨1, 4, 1, 0⟩, true, [none]))) 6 =
        some ⟨⟨1, 4, 1, 1⟩, true, false, [], 0, 0, true, some (⟨1, 4, 1, 0⟩, true, [none]), [], []⟩ := by decide +kernel

theorem witness_heatDecay :
    base.time.now.ule t2m ∧ t2m.toNat % 1000000 = 0 ∧ base.time.decays < t2m.toNat / 1000000 ∧
      keysRise ([(0, 1), (1, 17)] : Map Nat) := by decide +kernel

/-! ### Command words: the sequencer and synchronisation -/

/-- Segment 0 of the test program: group 0, no predecessors. -/
def segA : SegD := ⟨0, 0, 0, 0, false, 255, 1, 0, []⟩

def progA : Program := { prog1 with segs := [segA], waitlimit := 1, sec := { empty5 with windows := [⟨0, 0, true, 0, 2048⟩] } }

def run0 : Run :=
  { turn := 0, kind := .reward, slot := 0, tstart := 0, done := [], live := [⟨0, 0, 7, 0, 0⟩], trig := [],
    admOpen := false, nextStep := 0, steps := [], listNext := 0, ended := [], arrivals := [], closes := [], recs := 0,
    collLand := [], gsel := [], statOpen := [], lastStep := 0, owed := [], phases := [], log := [], left := [], ckptLeft := [], ended2 := false }

def turn0 : TurnP := ⟨.reward, 0, [], [], [], lt0, rp0⟩

def campRun (r : Run) (t : TurnP) : Camp :=
  { campAt with p := { camp2 with positions := [0], turns := [t] }, phase := .turn, run := some r }

/-- Partition 1 runs the test program's segment 0; tile 0 is as given. -/
def runs (x : Tile) : State :=
  ((paired base).withParts (Part.zero :: { part1 with camp := some (campRun run0 turn0), progs := [(0, progA)] } ::
    List.replicate 30 Part.unused)).withTiles [(0, { x with seg := some ⟨0, 0, 7, 0, 0⟩, gear := 7 })]

def at0 : TileAt := ⟨1, 0⟩

/-- A tile at the first of a list of words. -/
def seqTile (ws : List Word64) : Tile := { Tile.reset with words := ws, sregs := [(1, 5), (2, 3)] }

def sq3 : SqW := ⟨3, 1, 2, 0xFFFFFFFF⟩
/-- A word that the sequencer does not pass on: LI of s0. -/
def nop0 : Word64 := encodeWord (.li ⟨0, 0, 0, 0⟩)

/-- Every scalar word stands at a head. -/
theorem witness_scalarWords :
    [TWord.li sq3, .lih sq3, .add sq3, .sub sq3, .mul sq3, .and sq3, .or sq3, .xor sq3, .shl sq3, .shr sq3, .qcnt sq3,
      .tbase sq3, .tileid sq3].all (fun c => (atHead (runs (seqTile [encodeWord c, nop0])) at0 0 c).isSome) ∧
    TilesOk (runs (seqTile [encodeWord (.li sq3), nop0])) := by decide +kernel

/-- Queue q holds one word of its own. -/
def queued (q : Nat) (w : Word64) : Tile := setQueue (seqTile [nop0]) q [⟨w, 5, [], 0⟩]

def loopW (n : Nat) : SqW := ⟨0, 1, 0, BitVec.ofNat 32 n⟩

/-- A LOOP of one word, at a nesting depth, with a repetition count in s1. -/
def looping (d n : Nat) (ws : List Word64) (c : Word64) : Tile :=
  { seqTile (encodeWord (.loop (loopW n)) :: ws) with loops := List.replicate d ⟨0, 1 + n, 2⟩, sregs := mapSet 0 [] 1 c }

theorem witness_loop :
    let s := runs (looping 3 2 [nop0, nop0] 0xFFFFFFFF)
    let x := tileOf s at0
    Inv s ∧ (atHead s at0 0 (.loop (loopW 2))).isSome ∧ x.loops.length < 4 ∧ (loopW 2).imm.toNat % 65536 = 2 ∧
      x.pc + 1 + 2 ≤ x.words.length ∧ (x.loops.head? = some ⟨0, 3, 2⟩) ∧ x.pc + 1 + 2 ≤ 0 + 3 ∧
      (sreg x (loopW 2).a.toNat).toNat % 2 ^ 32 ≠ 0 ∧ x.words[x.pc + 1]? = some nop0 ∧ queueOf nop0 = 0 := by decide +kernel

theorem witness_loop_zero :
    let s := runs (looping 0 1 [nop0, nop0] (BitVec.ofNat 64 (2 ^ 32)))
    let x := tileOf s at0
    (atHead s at0 0 (.loop (loopW 1))).isSome ∧ x.loops = [] ∧ (sreg x (loopW 1).a.toNat).toNat % 2 ^ 32 = 0 ∧
      x.words[x.pc + 1 + 1]? = some nop0 := by decide +kernel

theorem witness_loop_bad :
    (atHead (runs (looping 4 1 [nop0] 5)) at0 0 (.loop (loopW 1))).isSome ∧
      4 ≤ (tileOf (runs (looping 4 1 [nop0] 5)) at0).loops.length ∧
      (atHead (runs (looping 0 0 [nop0] 5)) at0 0 (.loop (loopW 0))).isSome ∧
      (atHead (runs (looping 0 2 [nop0] 5)) at0 0 (.loop (loopW 2))).isSome ∧
      (tileOf (runs (looping 0 2 [nop0] 5)) at0).words.length < 0 + 1 + 2 := by decide +kernel

theorem witness_reservedWord :
    let w : Word64 := 0x3000000000000000
    Inv (runs (seqTile [w])) ∧ ((atHead (runs (seqTile [w])) at0 (queueOf w) .illegal).map (fun h => h.raw)) = some w ∧
      ((atHead (runs (queued 3 0xC400000000000000)) at0 3 .illegal).map (fun h => h.raw)) = some 0xC400000000000000 := by
  decide +kernel

/-- Synchronisation words of queue 3, semaphore 63 and count 65,535. -/
def sync3 : SyncW := ⟨3, 63, 255, 65535⟩

theorem witness_signal :
    let s := runs (queued 3 (encodeWord (.signal sync3)))
    let x := tileOf s at0
    Inv s ∧ TilesOk s ∧ (atHead s at0 3 (.signal sync3)).isSome ∧ chainOpen x 3 = false ∧ seqRests x 3 ∧
      ((tileSeg s at0).map (fun d => segHasTile d (signalTarget at0 sync3))).getD false ∧
      signalTarget at0 sync3 < nTiles s at0.part ∧ owesStores x 3 = false ∧
      (tileAt s at0.part (signalTarget at0 sync3)).sigin.length < 256 :=
  ⟨by decide +kernel, by decide +kernel, by decide +kernel, by decide +kernel, ⟨nop0, by decide +kernel, by decide +kernel⟩,
    by decide +kernel, by decide +kernel, by decide +kernel, by decide +kernel⟩

/-- Two signals wait to be applied: one fits, one overflows. -/
def inbound : Tile := { seqTile [nop0] with sigin := [⟨1, 65535, 0, 0⟩, ⟨2, 1, 4, 2⟩], sems := [(2, 65535)] }

theorem witness_signalArrival :
    let s := runs inbound
    let x := tileOf s at0
    x.sigin[0]? = some ⟨1, 65535, 0, 0⟩ ∧ x.sigin[1]? = some ⟨2, 1, 4, 2⟩ ∧ issues s at0.part ∧
      at0.tile.val < nTiles s at0.part ∧ arrivalOk x.sigin 0 ⟨1, 65535, 0, 0⟩ ∧ arrivalOk x.sigin 1 ⟨2, 1, 4, 2⟩ ∧
      sem x 1 + 65535 ≤ 65535 ∧ 65535 < sem x 2 + 1 := by decide +kernel

theorem witness_wait :
    let x := { queued 3 (encodeWord (.wait sync3)) with sems := [(63, 65535)] }
    (atHead (runs x) at0 3 (.wait sync3)).isSome ∧ sync3.arg.toNat ≤ sem (tileOf (runs x) at0) sync3.sem.toNat ∧
      (atHead (runs (queued 3 (encodeWord (.wait sync3)))) at0 3 (.wait sync3)).isSome ∧
      sem (tileOf (runs (queued 3 (encodeWord (.wait sync3)))) at0) sync3.sem.toNat < sync3.arg.toNat := by decide +kernel

/-- Queue 3 waits on semaphore 63, which holds n. -/
def waiting (n : Nat) : Tile := { queued 3 (encodeWord (.wait sync3)) with
  sems := mapSet 0 [] 63 n, blocked := [⟨3, none, 63, 65535, 0, 0⟩] }

theorem witness_waitSatisfied :
    let s := runs (waiting 65535)
    issues s at0.part ∧ (tileOf s at0).blocked.find? (fun b => decide (b.q = 3) && b.ring.isNone) = some ⟨3, none, 63, 65535, 0, 0⟩ ∧
      65535 ≤ sem (tileOf s at0) 63 := by decide +kernel

theorem witness_waitTimeout :
    let r := runs (waiting 65534)
    let s := r.withTime { r.time with wait := 1001 }
    (tileOf s at0).blocked.find? (fun b => decide (b.q = 3)) = some ⟨3, none, 63, 65535, 0, 0⟩ ∧ sem (tileOf s at0) 63 < 65535 ∧
      waitLimit s at0.part < (s.time.wait - 0).toNat := by decide +kernel

theorem witness_take :
    let x := { queued 3 (encodeWord (.take sync3)) with sems := [(63, 65535)] }
    (atHead (runs x) at0 3 (.take sync3)).isSome ∧ sync3.arg.toNat ≤ sem (tileOf (runs x) at0) sync3.sem.toNat ∧
      (atHead (runs (queued 3 (encodeWord (.take sync3)))) at0 3 (.take sync3)).isSome ∧
      sem (tileOf (runs (queued 3 (encodeWord (.take sync3)))) at0) sync3.sem.toNat < sync3.arg.toNat := by decide +kernel

/-- Queues 1 and 3 take part in no chain. -/
theorem witness_noChain :
    chainOpen (tileOf (runs (queued 3 (encodeWord (.wait sync3)))) at0) 3 = false ∧
      chainOpen (tileOf (runs (queued 1 (encodeWord (.mark ⟨1, 0, 0, 7⟩)))) at0) 1 = false := by decide +kernel

theorem witness_mark :
    (atHead (runs (queued 1 (encodeWord (.mark ⟨1, 0, 0, 7⟩)))) at0 1 (.mark ⟨1, 0, 0, 7⟩)).isSome := by decide +kernel

def endW (q : BitVec 2) : SyncW := ⟨q, 0, 0, 0⟩

theorem witness_segend :
    let s := runs (queued 3 (encodeWord (.segend (endW 3))))
    let x := tileOf s at0
    (atHead s at0 3 (.segend (endW 3))).isSome ∧ (x.seg.map (fun r => r.seg)) = some ((endW 3).arg.toNat % 65536) ∧
      (∀ e ∈ x.rings, ∀ b ∈ e.2.bobs, b.st ≠ .sending) ∧ residueRing x = none := by decide +kernel

theorem witness_segend_0 :
    let s := runs { seqTile [encodeWord (.segend (endW 0))] with closed := [1, 2, 3] }
    let x := tileOf s at0
    (atHead s at0 0 (.segend (endW 0))).isSome ∧ x.pc + 1 = x.words.length ∧ 1 ∈ x.closed ∧ 2 ∈ x.closed ∧ 3 ∈ x.closed := by
  decide +kernel
/-! ### Command words: the engines -/

def slotW : MxSlotW := ⟨7, false, false, 0, false, true, 1, 0x1FFF, 0x40⟩

theorem witness_slotWords :
    (atHead (runs (queued 1 (encodeWord (.mxseta slotW)))) at0 1 (.mxseta slotW)).isSome ∧
      (atHead (runs (queued 1 (encodeWord (.mxsetb slotW)))) at0 1 (.mxsetb slotW)).isSome ∧
      (atHead (runs (queued 1 (encodeWord (.mxsetd slotW)))) at0 1 (.mxsetd slotW)).isSome ∧
      (List.range 3).all (fun k => let w : MxScaleW := ⟨BitVec.ofNat 2 k, 0x7FFFF, 1⟩
        (atHead (runs (queued 1 (encodeWord (.mxsets w)))) at0 1 (.mxsets w)).isSome) := by decide +kernel

/-- Slots A and B hold F16 blocks in T0, register 2 a run that stands at group 5; register 9 is held where asked. -/
def mxTile (w : TWord) (held : Bool) : Tile := { queued 1 (encodeWord w) with
  slotA := ⟨⟨1, false, false, 0, false, false, 0, 0, 0⟩, 0, 0, 0, 0, 0⟩,
  slotB := ⟨⟨1, false, false, 0, false, false, 0, 128, 0⟩, 128, 0, 0, 0, 0⟩,
  slotD := ⟨⟨1, false, false, 0, false, false, 0, 256, 0⟩, 256, 0, 0, 0, 0⟩,
  tregs := [(2, { TReg.reset with run := true, nextk := 5 }), (9, { TReg.reset with run := true, held := held, nextk := 1, holdn := 14 })],
  preds := [(1, [(0, true)])],
  held := if held then some ⟨9, 0, true, [], [⟨[], []⟩]⟩ else none }

def orgW (d : BitVec 4) : MxOrgW := ⟨d, 0xFFFFF, 1, 255⟩

theorem witness_mxorg :
    (atHead (runs (mxTile (.mxorg (orgW 3)) true)) at0 1 (.mxorg (orgW 3))).isSome ∧
      ((tileOf (runs (mxTile (.mxorg (orgW 3)) true)) at0).held.map (fun g => g.dst)) ≠ some (orgW 3).dst.toNat ∧
      (atHead (runs (mxTile (.mxorg (orgW 9)) true)) at0 1 (.mxorg (orgW 9))).isSome ∧
      ((tileOf (runs (mxTile (.mxorg (orgW 9)) true)) at0).held.map (fun g => g.dst)) = some (orgW 9).dst.toNat := by
  decide +kernel

/-- One group that starts a run in register 15; and one that goes on in register 2, of which no run of one group allows it. -/
def mulW (d : BitVec 4) (acc hold : Bool) : MxMulW := ⟨d, acc, hold, 1, 0, 0, 0⟩

theorem witness_mxmul :
    let w := mulW 15 false false
    let s := runs (mxTile (.mxmul w) false)
    let x := tileOf s at0
    Inv s ∧ TilesOk s ∧ (atHead s at0 1 (.mxmul w)).isSome ∧ x.held = none ∧
      runOk (shapeOf s at0.part).run (treg x w.dst.toNat) w ∧ slotUse s at0 x.slotA false w.nk.toNat = .ok 0 ∧
      slotUse s at0 x.slotB false w.nk.toNat = .ok 0 ∧ braked s.power = false ∧ w.acc = false ∧ w.hold = false ∧ w.nk = 1 ∧
      selected x w.pm.toNat w.pred.toNat 4095 := by decide +kernel

theorem witness_mxmul_hold :
    let w := mulW 15 false true
    let x := tileOf (runs (mxTile (.mxmul w) false)) at0
    (atHead (runs (mxTile (.mxmul w) false)) at0 1 (.mxmul w)).isSome ∧ x.slotA.w.fmt ≠ 0 ∧ x.slotB.w.fmt ≠ 0 := by decide +kernel

theorem witness_mxmul_refused :
    let w := mulW 15 false false
    let v := mulW 2 true false
    (atHead (runs (mxTile (.mxmul w) true)) at0 1 (.mxmul w)).isSome ∧ (tileOf (runs (mxTile (.mxmul w) true)) at0).held.isSome ∧
      (atHead (runs (mxTile (.mxmul v) false)) at0 1 (.mxmul v)).isSome ∧
      runOk (shapeOf (runs (mxTile (.mxmul v) false)) at0.part).run (treg (tileOf (runs (mxTile (.mxmul v) false)) at0) 2) v =
        false := by decide +kernel

def deltaW (p : BitVec 3) : MxDeltaW := ⟨9, true, 0, p⟩

theorem witness_mxdelta :
    let w := deltaW 1
    let s := runs (mxTile (.mxdelta w) true)
    let x := tileOf s at0
    (atHead s at0 1 (.mxdelta w)).isSome ∧ x.held = some ⟨9, 0, true, [], [⟨[], []⟩]⟩ ∧ w.dst.toNat = 9 ∧ w.kidx.toNat = 0 ∧
      (treg x 9).holdn ≠ 15 ∧ (∀ i, i < 64 → predAt x w.pred.toNat i 0 → setHas (treg x 9).dmask i = false) ∧
      slotUse s at0 x.slotD true 1 = .ok 0 := by decide +kernel

theorem witness_mxdelta_overlap :
    let w := deltaW 1
    let t := mxTile (.mxdelta w) true
    let x := tileOf (runs { t with tregs := mapPut t.tregs 9 { treg t 9 with dmask := [(0, true)] } }) at0
    0 < 64 ∧ predAt x w.pred.toNat 0 0 ∧ setHas (treg x 9).dmask 0 := by decide +kernel

theorem witness_multiplyComplete :
    let p : MxPend := ⟨15, TReg.reset, some [(0, true)], [], none, [], 1⟩
    let s := runs { mxTile (.mxmul (mulW 15 false false)) false with mxPend := some p }
    (tileOf s at0).mxPend = some p ∧ issues s at0.part ∧ at0.tile.val < nTiles s at0.part ∧
      (∀ e ∈ ([(0, true)] : NSet), e.1 ≠ 4095) ∧
      (tileOf (runs { mxTile (.mxmul (mulW 15 false false)) false with mxPend := some { p with sel := none } }) at0).mxPend =
        some { p with sel := none } := by decide +kernel

theorem witness_mxfin :
    let w : MxFinW := ⟨2, 0xFFFF⟩
    (atHead (runs (mxTile (.mxfin w) false)) at0 1 (.mxfin w)).isSome ∧ (tileOf (runs (mxTile (.mxfin w) false)) at0).held = none ∧
      (tileOf (runs (mxTile (.mxfin w) false)) at0).ftq.length < 4 ∧
      (atHead (runs (mxTile (.mxfin w) true)) at0 1 (.mxfin w)).isSome ∧
      (tileOf (runs (mxTile (.mxfin w) true)) at0).held.isSome := by decide +kernel

/-- One, a zero of either sign, an infinity of either sign, a NaN. -/
def fv (b : Nat) : FVal := decodeCode .f16 b

theorem witness_groupSum :
    (([(fv 0x7E00, fv 0x3C00)] : List (FVal × FVal)).any (fun e => e.1.isNaN || e.2.isNaN)) ∧
      (([(fv 0x7C00, fv 0)] : List (FVal × FVal)).any (fun e => isInvProd e.1 e.2)) ∧
      true ∈ ([(fv 0x7C00, fv 0x3C00), (fv 0xFC00, fv 0x3C00)] : List (FVal × FVal)).filterMap (fun e => infProd e.1 e.2) ∧
      false ∈ ([(fv 0x7C00, fv 0x3C00), (fv 0xFC00, fv 0x3C00)] : List (FVal × FVal)).filterMap (fun e => infProd e.1 e.2) ∧
      (∀ e ∈ ([(fv 0x7C00, fv 0x3C00)] : List (FVal × FVal)), e.1.isNaN = false ∧ e.2.isNaN = false ∧ isInvProd e.1 e.2 = false) ∧
      false ∈ ([(fv 0x7C00, fv 0x3C00)] : List (FVal × FVal)).filterMap (fun e => infProd e.1 e.2) ∧
      (!false) ∉ ([(fv 0x7C00, fv 0x3C00)] : List (FVal × FVal)).filterMap (fun e => infProd e.1 e.2) ∧
      (∀ e ∈ ([(fv 0x8000, fv 0x8000), (fv 0x8000, fv 0)] : List (FVal × FVal)), e.1.isZero ∧ e.2.isNaN = false ∧ e.2.isInf = false) ∧
      (∃ e ∈ ([(fv 0x8000, fv 0x8000), (fv 0x8000, fv 0)] : List (FVal × FVal)), xor e.1.sign e.2.sign = false) ∧
      (∀ e ∈ ([(fv 0x8000, fv 0)] : List (FVal × FVal)), e.1.isZero ∧ xor e.1.sign e.2.sign = true) := by decide +kernel

/-! A vector chain of one source, one stage and one destination in T0, without and with its words. -/

def headW : EwHeadW := ⟨1, 0, 1, false, true, 0, 0, 0, false, 0, false, 0, 0⟩
def orgHeadW : EwHeadW := { headW with org := true }
def originW : EwOrgW := ⟨1, 2, 3, 0⟩
def srcW : EwSrcW := ⟨2, 0, false, false, 0, false, 0, false, false, 0, false, 0, 0⟩
def opW : EwOpW := ⟨0, 0, 0x10, 0, 0, false, false, 0, false, 0, false, 0, 0⟩
def dstW : EwDstW := ⟨0, 0, false, 0, 0, 0, false, 0, 0, false, 0, false, 0, 64⟩

def asm (h : EwHeadW) (n srcs ops dsts : Nat) : ChainAsm :=
  { head := h, kappa := 0, lic := 0, n := n, ixs := List.range n, org := none, srcs := List.replicate srcs (srcW, 0),
    ops := List.replicate ops (opW, 0), dsts := List.replicate dsts (dstW, 0), bad := 0 }

/-- A chain word at the head of queue 2 of a tile that has assembled c. -/
def chTile (w : TWord) (c : Option ChainAsm) : Tile := { queued 2 (encodeWord w) with chain := c }

def headAt (w : TWord) (c : Option ChainAsm) : Bool := (atHead (runs (chTile w c)) at0 2 w).isSome

theorem witness_chainWords :
    headAt (.ewhead headW) none ∧ headAt (.ewhead headW) (some (asm headW 1 0 0 0)) ∧
      headAt (.eworg originW) (some (asm orgHeadW 1 0 0 0)) ∧ headAt (.eworg originW) (some (asm headW 1 0 0 0)) ∧
      headAt (.ewsrc srcW) (some (asm headW 1 0 0 0)) ∧ headAt (.ewsrc srcW) (some (asm headW 2 1 0 0)) ∧
      headAt (.ewop opW) (some (asm headW 2 1 0 0)) ∧ headAt (.ewop opW) (some (asm headW 1 0 0 0)) ∧
      headAt (.ewdst dstW) (some (asm headW 3 1 1 0)) ∧ headAt (.ewdst dstW) (some (asm headW 2 1 0 0)) := by decide +kernel

theorem witness_chainWords_rest :
    Inv (runs (chTile (.ewhead headW) none)) ∧ headW.nsrc.toNat ≤ 4 ∧ headW.ndst = 1 ∧
      seqRests (tileOf (runs (chTile (.ewhead headW) none)) at0) 2 :=
  ⟨by decide +kernel, by decide, by decide, ⟨nop0, by decide +kernel, by decide +kernel⟩⟩

/-- The whole chain waits to start; or has started, with one write and a flag. -/
def chainTile (p : Option ChainPend) : Tile := { seqTile [nop0] with
  chain := if p.isNone then some (asm headW 4 1 1 1) else none, chPend := p }

theorem witness_chainStart :
    let s := runs (chainTile none)
    let c := asm headW 4 1 1 1
    Inv s ∧ TilesOk s ∧ (tileOf s at0).chain = some c ∧ (tileOf s at0).chPend = none ∧ (tileOf s at0).seg.isSome ∧ braked s.power = false ∧ chainFull c ∧
      formFaults (((progOf (partAt s at0.part)).map (fun p => p.tables)).getD []) c = [] ∧
      (∀ e ∈ c.srcs.zipIdx, (srcBase s at0 c e.2 e.1).1 = []) ∧ (∀ e ∈ c.dsts.zipIdx, (dstBase s at0 c e.2 e.1).1 = []) := by
  decide +kernel

def pend0 (poison : Option (Nat × Tag)) (quiet : Bool) : ChainPend :=
  ⟨[.byte 64 7 0], 4, quiet, 4, 0, [], [], [], poison, 9⟩

theorem witness_chainComplete :
    let s := runs (chainTile (some (pend0 none false)))
    (tileOf s at0).chPend = some (pend0 none false) ∧ issues s at0.part ∧ at0.tile.val < nTiles s at0.part ∧
      (pend0 none false).poisonAt = none ∧ autoSends ((pend0 none false).ringPops.foldl popHead (tileOf s at0)) (pend0 none false).tails = [] ∧
      (pend0 none false).flags &&& (pend0 none false).mask ≠ 0 ∧ (pend0 none true).quiet ∧
      (tileOf (runs (chainTile (some (pend0 (some (3, 65)) false)))) at0).chPend =
        some (pend0 (some (3, 65)) false) := by decide +kernel

theorem witness_ewflag :
    let w : EwFlagW := ⟨true, 0x1FFFF⟩
    let s := runs (queued 2 (encodeWord (.ewflag w)))
    (atHead s at0 2 (.ewflag w)).isSome ∧ (tileOf s at0).chain = none ∧ t0Ok s at0 true (64 * w.addr.toNat) 8 := by
  decide +kernel

/-- Partition 1 decodes entry 0 in step 5, whose draw is open; sampling requests as given. -/
def sampling (x : Tile) (l : List SampReq) : State :=
  let r : Run := { run0 with kind := .rollout, steps := [⟨5, [⟨0, 1, 0, 1, 0, 6⟩], []⟩] }
  (((runs x).withParts (Part.zero :: { part1 with
    camp := some (campRun r { turn0 with kind := .rollout }), progs := [(0, progA)], reqs := [(0, req0)] } ::
    List.replicate 30 Part.unused))).withSamp l

/-- One part of one request: two F32 logits at 1,024, the result at 2,048. -/
def part0 : PartDesc := ⟨0, 1, 0, false, false, 0, 16, 2, 0, 9, 32, 5⟩

def partBytes : List Byte := leBytes 32 (packFields [⟨16, 8, 1⟩, ⟨64, 17, 16⟩, ⟨96, 21, 2⟩, ⟨136, 6, 9⟩, ⟨144, 17, 32⟩, ⟨192, 32, 5⟩])

def sampW : EwSampW := ⟨1⟩

theorem witness_ewsamp :
    let s := sampling { queued 2 (encodeWord (.ewsamp sampW)) with t0 := memWrite [] 64 partBytes } []
    let x := tileOf s at0
    Inv s ∧ TilesOk s ∧ (atHead s at0 2 (.ewsamp sampW)).map (fun h => h.bad) = some 0 ∧ x.chain = none ∧ t0Ok s at0 false (64 * sampW.daddr.toNat) 32 ∧
      part0 = partDescOf (leNat (memRead x.t0 (64 * sampW.daddr.toNat) 32)) ∧ t0Ok s at0 false (64 * part0.addr) (part0.count * 4) ∧
      tagFirst x.pois (64 * sampW.daddr.toNat) 32 = 0 ∧ tagFirst x.pois (64 * part0.addr) (part0.count * 4) = 0 := by
  decide +kernel

theorem witness_samplePartAccept :
    let s := sampling { queued 2 (encodeWord (.ewsamp sampW)) with sampWait := some part0 } []
    let x := tileOf s at0
    x.sampWait = some part0 ∧ issues s at0.part ∧ at0.tile.val < nTiles s at0.part ∧ partBad s at0.part part0 (partIds x part0) = 0 ∧
      openReq s at0.part part0.req = none ∧ drawLeft s at0.part part0.req part0.step ∧
      (s.samp.filter (fun r => decide (dieOf s r.part r.rtile = dieOf s at0.part part0.rtile))).length < 1024 := by decide +kernel

theorem witness_samplePartAccept_rest :
    seqRests (tileOf (sampling { queued 2 (encodeWord (.ewsamp sampW)) with sampWait := some part0 } []) at0) 2 :=
  ⟨nop0, by decide +kernel, by decide +kernel⟩

def samp0 : SampReq := ⟨1, 0, 5, 1, [⟨0, [(0, 0x3F800000), (1, 0)], 0⟩], 0, 9, 2048⟩

theorem witness_sampleDraw :
    let s := sampling (seqTile [nop0]) [samp0]
    (s.samp.filter (fun r => decide (dieOf s r.part r.rtile = (0 : Fin 2).val)))[0]? = some samp0 ∧ samp0.part < 32 ∧
      mapFind (partAt s samp0.part).reqs samp0.req = some req0 ∧
      stepRec s samp0.part samp0.step = some ⟨5, [⟨0, 1, 0, 1, 0, 6⟩], []⟩ ∧ samp0.parts.length = samp0.npart ∧
      issues s samp0.part ∧ samp0.rtile < nTiles s samp0.part ∧ (tileAt s samp0.part samp0.rtile).sigin.length < 256 := by
  decide +kernel
/-! ### Rings -/

/-- 128 F32 elements of region 3, from offset 0. -/
def tdBytes : List Byte := leBytes 64 (packFields [⟨0, 16, 3⟩, ⟨20, 3, 1⟩, ⟨128, 24, 128⟩])

/-- A vector ring record: direction, fan and peer tile; three slots of 256 bytes at 1,024, two blocks of one bobbin each. -/
def recBytes (dir fan fanarg ptile : Nat) : List Byte := leBytes 64 (packFields
  [⟨0, 4, 5⟩, ⟨4, 2, dir⟩, ⟨6, 2, 2⟩, ⟨10, 1, 1⟩, ⟨12, 4, 2⟩, ⟨16, 4, 2⟩, ⟨20, 2, fan⟩, ⟨22, 8, fanarg⟩, ⟨32, 17, 16⟩, ⟨49, 14, 4⟩,
   ⟨64, 16, 1⟩, ⟨136, 16, 2⟩, ⟨152, 16, 1⟩, ⟨184, 16, 1⟩, ⟨232, 16, 1⟩, ⟨280, 16, 1⟩, ⟨320, 8, ptile⟩, ⟨328, 17, 64⟩,
   ⟨345, 17, 4⟩, ⟨362, 4, 1⟩])

def progB : Program := { progA with
  consts := tdBytes ++ recBytes 1 0 0 0 ++ recBytes 2 0 0 255,
  sec := { empty5 with windows := [⟨0, 0, true, 0, 2048⟩, ⟨0, 1, true, 0, 2048⟩], extents := [⟨0, 3, true, 0, 512⟩] } }

/-- The running state with rings: writable region 3, host-backed region 9 and program progB. -/
def ringsRun (x : Tile) : State :=
  let g9 : Region := ⟨{ roReg with hostback := true }, [], some ⟨1, [], 0x60000, [], 0⟩, none, []⟩
  (runs x).withParts (Part.zero :: { part1 with
    camp := some (campRun run0 turn0), progs := [(0, progB)], regions := [(3, ⟨rwReg, [5, 6], none, none, []⟩), (9, g9)] } ::
    List.replicate 30 Part.unused)

def walkOf (dir fan fanarg ptile region : Nat) : Walk :=
  ⟨ringRecOf (leNat (recBytes dir fan fanarg ptile)), { tdOf (leNat tdBytes) with region := region, epoch := if region = 9 then 1 else 0 }, 0⟩

def ringW (n : BitVec 4) (addr : BitVec 17) : RingW := ⟨n, false, addr⟩

theorem witness_rarm :
    let w := ringW 5 1
    let s := ringsRun (queued 3 (encodeWord (.rarm w)))
    let v := walkOf 1 0 0 0 3
    Inv s ∧ TilesOk s ∧ (atHead s at0 3 (.rarm w)).isSome ∧ progOf (partAt s at0.part) = some progB ∧ tileSeg s at0 = some segA ∧
      recordOf s at0 w = some (leNat (recBytes 1 0 0 0)) ∧ (ringAt (tileOf s at0) 5).dir = 0 ∧
      (ringRecOf (leNat (recBytes 1 0 0 0))).dir ≠ 0 ∧ walkAt s at0 progB (leNat (recBytes 1 0 0 0)) 0 = some v ∧
      (atHead s at0 3 (.rarm w)).map (recordTag s at0 w) = some 0 ∧
      armForm v = false ∧ armExtent s at0 progB segA v = none ∧
      lateMember s at0.part 5 at0.tile v = false := by decide +kernel

/-- Ring 5 of a tile armed as given. -/
def armedTile (q3 : TWord) (x : Ring) : Tile := { queued 3 (encodeWord q3) with rings := [(5, x)] }

theorem witness_rarm_armed :
    let w := ringW 5 1
    let s := ringsRun (armedTile (.rarm w) (armedRing (walkOf 1 0 0 0 3) 0))
    (atHead s at0 3 (.rarm w)).isSome ∧ (recordOf s at0 w).isSome ∧ (ringAt (tileOf s at0) 5).dir ≠ 0 := by decide +kernel

theorem witness_rearm :
    let w := ringW 5 1
    let s := ringsRun (armedTile (.rearm w) (armedRing (walkOf 1 0 0 0 3) 0))
    let v := walkOf 1 0 0 0 3
    (atHead s at0 3 (.rearm w)).isSome ∧ progOf (partAt s at0.part) = some progB ∧ tileSeg s at0 = some segA ∧
      recordOf s at0 w = some (leNat (recBytes 1 0 0 0)) ∧ (ringAt (tileOf s at0) 5).walk = some v ∧
      rearmOk (ringRecOf (leNat (recBytes 1 0 0 0))) v.r ∧ (ringAt (tileOf s at0) 5).pend = none ∧
      walkAt s at0 progB (leNat (recBytes 1 0 0 0)) 0 = some v ∧
      (atHead s at0 3 (.rearm w)).map (recordTag s at0 w) = some 0 ∧ armForm (keepFan v v) = false ∧
      armExtent s at0 progB segA (keepFan v v) = none := by decide +kernel

theorem witness_rsend :
    let w := ringW 5 0
    let s := ringsRun (armedTile (.rsend w) (armedRing (walkOf 2 0 0 255 3) 0))
    let r := ringAt (tileOf s at0) 5
    let v := walkOf 2 0 0 255 3
    (atHead s at0 3 (.rsend w)).isSome ∧ r.dir = 2 ∧ r.walk = some v ∧ v.r.auto = false ∧ r.pend = none ∧ r.next < v.bobs ∧
      (bobAt r r.head).st = .tail ∧ bobPoison (tileOf s at0) v (bobBase v r.head) = 0 ∧ r.bobs.length = v.r.nslots ∧
      r.head < v.r.nslots := by decide +kernel

theorem witness_rsend_rest :
    seqRests (tileOf (ringsRun (armedTile (.rsend (ringW 5 0)) (armedRing (walkOf 2 0 0 255 3) 0))) at0) 3 :=
  ⟨nop0, by decide +kernel, by decide +kernel⟩

/-- The current walk is done, and the queued one begins with this tail. -/
theorem witness_rsend_takeover :
    let w := ringW 5 0
    let v := walkOf 2 0 0 255 3
    let s := ringsRun (armedTile (.rsend w) { armedRing v 0 with next := 2, pend := some v })
    let r := ringAt (tileOf s at0) 5
    (atHead s at0 3 (.rsend w)).isSome ∧ r.dir = 2 ∧ r.walk = some v ∧ v.r.auto = false ∧ r.pend = some v ∧ v.bobs ≤ r.next ∧
      0 < v.bobs ∧ (bobAt r r.head).st = .tail ∧ bobPoison (tileOf s at0) v (bobBase v r.head) = 0 := by decide +kernel

theorem witness_rsend_takeover_rest :
    let v := walkOf 2 0 0 255 3
    seqRests (tileOf (ringsRun (armedTile (.rsend (ringW 5 0)) { armedRing v 0 with next := 2, pend := some v })) at0) 3 :=
  ⟨nop0, by decide +kernel, by decide +kernel⟩

/-- A byte of the tail is poisoned. -/
theorem witness_rsend_poison :
    let w := ringW 5 0
    let v := walkOf 2 0 0 255 3
    let s := ringsRun { armedTile (.rsend w) (armedRing v 0) with pois := [(1030, 77)] }
    let r := ringAt (tileOf s at0) 5
    (atHead s at0 3 (.rsend w)).isSome ∧ r.dir = 2 ∧ r.walk = some v ∧ v.r.auto = false ∧ r.pend = none ∧
      (bobAt r r.head).st ≠ .sending ∧ r.next < v.bobs ∧ bobPoison (tileOf s at0) v (bobBase v r.head) = 77 := by decide +kernel

/-- An outbound ring whose head is on its way. -/
def sendingRing (ptile : Nat) : Ring :=
  let r := armedRing (walkOf 2 0 0 ptile 3) 0
  setBob r 0 { bobAt r 0 with st := .sending }

/-- RSEND on a closed, an inbound and an automatic ring, and a word that has met a parity error. -/
theorem witness_rsend_wrong :
    let w := ringW 5 0
    let v := walkOf 2 0 0 255 3
    (atHead (ringsRun (queued 3 (encodeWord (.rsend w)))) at0 3 (.rsend w)).isSome ∧ Ring.closed.dir ≠ 2 ∧
      (atHead (ringsRun (armedTile (.rsend w) (armedRing (walkOf 1 0 0 0 3) 0))) at0 3 (.rsend w)).isSome ∧
      (ringAt (tileOf (ringsRun (armedTile (.rsend w) (armedRing (walkOf 1 0 0 0 3) 0))) at0) 5).dir ≠ 2 ∧
      (atHead (ringsRun { armedTile (.rsend w) (armedRing v 0) with q3 := [⟨encodeWord (.rsend w), 5, [], 66⟩] }) at0 3 (.rsend w)).map
        (fun h => h.bad) = some 66 := by decide +kernel

/-- REARM on a closed ring, and with a record of another direction. -/
theorem witness_rearm_wrong :
    let w := ringW 5 1
    let s := ringsRun (queued 3 (encodeWord (.rearm w)))
    let r := ringsRun (armedTile (.rearm w) (armedRing (walkOf 2 0 0 255 3) 0))
    (atHead s at0 3 (.rearm w)).isSome ∧ tileSeg s at0 = some segA ∧ (recordOf s at0 w).isSome ∧ (ringAt (tileOf s at0) 5).walk = none ∧
      (atHead r at0 3 (.rearm w)).isSome ∧ recordOf r at0 w = some (leNat (recBytes 1 0 0 0)) ∧
      (ringAt (tileOf r at0) 5).walk = some (walkOf 2 0 0 255 3) ∧
      rearmOk (ringRecOf (leNat (recBytes 1 0 0 0))) (walkOf 2 0 0 255 3).r = false := by decide +kernel

theorem witness_rsend_full :
    let w := ringW 5 0
    let s := ringsRun (armedTile (.rsend w) (sendingRing 255))
    (atHead s at0 3 (.rsend w)).isSome ∧ (bobAt (ringAt (tileOf s at0) 5) (ringAt (tileOf s at0) 5).head).st = .sending := by
  decide +kernel

theorem witness_rclose :
    let w := ringW 5 0
    let s := ringsRun (armedTile (.rclose w) (armedRing (walkOf 2 0 0 255 3) 0))
    let r := ringAt (tileOf s at0) 5
    (atHead s at0 3 (.rclose w)).isSome ∧ (∀ b ∈ r.bobs, b.st ≠ .sending) ∧ (bobAt r r.head).wrote = false := by decide +kernel

theorem witness_rclose_residue :
    let w := ringW 5 0
    let x := armedRing (walkOf 2 0 0 255 3) 0
    let s := ringsRun (armedTile (.rclose w) (setBob x 0 { bobAt x 0 with wrote := true }))
    let r := ringAt (tileOf s at0) 5
    (atHead s at0 3 (.rclose w)).isSome ∧ (∀ b ∈ r.bobs, b.st ≠ .sending) ∧ r.dir = 2 ∧ (bobAt r r.head).st = .tail ∧
      (bobAt r r.head).wrote := by decide +kernel

def ra5 : RingAt := ⟨1, 0, 5⟩

/-- The state whose tile 0 has ring 5 as given. -/
def withRing (x : Ring) : State := ringsRun { seqTile [nop0] with rings := [(5, x)] }

theorem witness_fetchIssue :
    let s := withRing (armedRing (walkOf 1 0 0 0 3) 0)
    let w := walkOf 1 0 0 0 3
    let y := ringAt (tileAt s ra5.part ra5.tile) ra5.ring
    Inv s ∧ TilesOk s ∧ ra5.tile.val < nTiles s ra5.part ∧ y.walk = some w ∧ (partAt s ra5.part).fault = none ∧
      issues s ra5.part ∧ y.dir = 1 ∧ w.r.fan = 0 ∧ y.started ∧ y.next < w.bobs ∧ 0 = y.total % w.r.nslots ∧
      y.bobs.length = w.r.nslots ∧ (bobAt y 0).st = .free ∧
      (y.bobs.filter (fun b => decide (b.st = .issued))).length ≤ w.r.outst ∧ (bobAt y y.head).st ≠ .deferred ∧
      (bobAt y y.head).st ≠ .stale ∧ epochOk s ra5.part w := by decide +kernel

/-- A fetch of region r is in flight in slot 0. -/
def issuedRing (r : Nat) : Ring :=
  let x := armedRing (walkOf 1 0 0 0 r) 0
  setBob x 0 { bobAt x 0 with st := .issued, w := some (walkOf 1 0 0 0 r), lo := 0, hi := 256 }

theorem witness_fetchLand :
    let s := withRing (issuedRing 3)
    let y := ringAt (tileAt s ra5.part ra5.tile) ra5.ring
    (0 : Fin 16).val < y.bobs.length ∧ (bobAt y (0 : Fin 16)).st = .issued ∧ (bobAt y (0 : Fin 16)).w = some (walkOf 1 0 0 0 3) ∧
      regionAt s ra5.part 3 = some ⟨rwReg, [5, 6], none, none, []⟩ ∧ rwReg.hostback = false := by decide +kernel

/-- A fetch from the host's memory, 256 bytes of it. -/
theorem witness_fetchLand_host :
    let s := withRing (issuedRing 9)
    let y := ringAt (tileAt s ra5.part ra5.tile) ra5.ring
    (bobAt y (0 : Fin 16)).st = .issued ∧ (bobAt y (0 : Fin 16)).w = some (walkOf 1 0 0 0 9) ∧
      ((regionAt s ra5.part 9).map (fun g => g.p.hostback)) = some true ∧
      (bobAt y (0 : Fin 16)).hi - (bobAt y (0 : Fin 16)).lo ≤ (List.replicate 256 7#8).length := by decide +kernel

theorem witness_fetchLand_translation :
    let s := withRing (issuedRing 9)
    let y := ringAt (tileAt s ra5.part ra5.tile) ra5.ring
    (bobAt y (0 : Fin 16)).st = .issued ∧ (bobAt y (0 : Fin 16)).w = some (walkOf 1 0 0 0 9) ∧
      ((regionAt s ra5.part 9).map (fun g => g.p.hostback)) = some true ∧ (bobAt y (0 : Fin 16)).demand = none ∧
      homeSpans s ra5.part (walkOf 1 0 0 0 9) (bobAt y (0 : Fin 16)).frs (bobSpans (walkOf 1 0 0 0 9) (bobAt y (0 : Fin 16)).k) ≠ [] ∧
      (walkOf 1 0 0 0 9).r.fan = 0 := by decide +kernel

/-- The same where a consumer on the tile demanded the bobbin. -/
theorem witness_fetchLand_demand :
    let x := issuedRing 9
    let s := withRing (setBob x 0 { bobAt x 0 with demand := some 0 })
    let y := ringAt (tileAt s ra5.part ra5.tile) ra5.ring
    y.walk = some (walkOf 1 0 0 0 9) ∧ (partAt s ra5.part).fault = none ∧
      (bobAt y (0 : Fin 16)).st = .issued ∧ (bobAt y (0 : Fin 16)).w = some (walkOf 1 0 0 0 9) ∧
      ((regionAt s ra5.part 9).map (fun g => g.p.hostback)) = some true ∧ (bobAt y (0 : Fin 16)).demand = some (0 : Fin 192).val ∧
      homeSpans s ra5.part (walkOf 1 0 0 0 9) (bobAt y (0 : Fin 16)).frs (bobSpans (walkOf 1 0 0 0 9) (bobAt y (0 : Fin 16)).k) ≠ [] := by
  decide +kernel

/-- The fetch reads page 96 of the host's memory. -/
theorem witness_atsInvalidation_used :
    pageUses (withRing (issuedRing 9)) (1 : Fin 32) 0 96 = [.bob 0 5 0 0] := by decide +kernel

/-- Tile 0 leads a fan of one member, tile 1. -/
def fanned : State :=
  let s := ringsRun { seqTile [nop0] with rings := [(5, armedRing (walkOf 1 1 1 0 3) 0)] }
  s.withTiles (s.tiles ++ [(1, { seqTile [nop0] with seg := some ⟨0, 0, 7, 0, 0⟩, rings := [(5, armedRing (walkOf 1 2 0 0 3) 0)] })])

theorem witness_fanStart :
    let w := walkOf 1 1 1 0 3
    let y := ringAt (tileAt fanned ra5.part ra5.tile) ra5.ring
    Inv fanned ∧ TilesOk fanned ∧ y.walk = some w ∧ w.r.fan = 1 ∧ y.started = false ∧ issues fanned ra5.part ∧
      (fanMembers fanned ra5.part ra5.ring ra5.tile).length = w.r.fanarg ∧
      (∀ k ∈ fanMembers fanned ra5.part ra5.ring ra5.tile, ((ringAt (tileAt fanned ra5.part k) ra5.ring).walk.map (fanMatch w)) =
        some true) := by decide +kernel

theorem witness_sendVisible_peer :
    let s := withRing (sendingRing 1)
    let v := walkOf 2 0 0 1 3
    let y := ringAt (tileAt s ra5.part ra5.tile) ra5.ring
    y.walk = some v ∧ (bobAt y (0 : Fin 16)).st = .sending ∧ (bobAt y (0 : Fin 16)).w = some v ∧ v.r.ptile ≠ 255 ∧
      v.r.ptile ≠ ra5.tile.val ∧ v.r.ptile < nTiles s ra5.part ∧ tileIx s ra5.part v.r.ptile ≠ tileIx s ra5.part ra5.tile := by
  decide +kernel

theorem witness_sendVisible_region :
    let s := withRing (sendingRing 255)
    let v := walkOf 2 0 0 255 3
    let y := ringAt (tileAt s ra5.part ra5.tile) ra5.ring
    (bobAt y (0 : Fin 16)).w = some v ∧ v.r.ptile = 255 ∧ (regionAt s ra5.part v.td.region).isSome ∧
      bobRange v (bobAt y (0 : Fin 16)).k = some (0, 256) := by decide +kernel
/-! ### Campaigns, turns and energy windows -/

theorem witness_admitClose_idle :
    let s := given base q1 .admitClose 1
    Inv s ∧ hostReady s q1 .admitClose 1 ∧ (∀ x ∈ s.parts, x.camp = none) := by decide +kernel

/-- A rollout turn with an entry still open and its admission open. -/
def rolling : State :=
  let r : Run := { run0 with kind := .rollout, admOpen := true }
  ((runs (seqTile [nop0])).withParts (Part.zero :: { part1 with
    camp := some (campRun r { turn0 with kind := .rollout }), progs := [(0, progA)], reqs := [(0, { req0 with turn := some 0 })] } ::
    List.replicate 30 Part.unused)).withJournal [recOf q1 .admitClose 1 .accepted]

theorem witness_admitClose_open :
    hostReady rolling q1 .admitClose 1 ∧
      ((partAt rolling 1).camp.bind (fun c => c.run.map (fun r => (c.stop, r.kind, r.turn)))) = some (false, .rollout, 0) ∧
      ((partAt rolling 1).camp.bind (fun c => c.p.turns[0]?.map (fun t => t.kind))) = some .rollout ∧
      reqAt rolling 1 0 = some { req0 with turn := some 0 } ∧ reqOpen { req0 with turn := some 0 } ∧
      some 0 = some (partAt rolling 1).turnSeq := by decide +kernel

theorem witness_campaignStop_reward :
    let s := stopGiven (runs (seqTile [nop0]))
    let c := campRun run0 turn0
    hostReady s qStop .campaignStop 1 ∧ (partAt s 1).camp = some c ∧ c.phase = .turn ∧ c.stop = false ∧
      turnOf (partAt s 1) = some turn0 ∧ turn0.kind = .reward ∧ c.run = some run0 ∧ run0.kind = .reward ∧ run0.live ≠ [] ∧
      turnMet (partAt s 1) run0 turn0 = false := by decide +kernel

theorem witness_energyWindow :
    base.time.now.ule t2m ∧ t2m.toNat % 1000000 = 0 ∧ base.time.windows < t2m.toNat / 1000000 ∧ (∀ x ∈ base.parts, x.camp = none) := by
  decide +kernel

/-- A campaign of three members at its rendezvous. -/
def camp3 : Camp := { campAt with p := { camp2 with positions := [0, 1, 2] } }

/-- Partition 1 in a campaign, its command started. -/
def inCamp (c : Camp) : State :=
  let s := (three 1 none).withFabric (three 1 none).fabric
  (s.withParts (Part.zero :: { part1 with
    camp := some c, progs := [(0, progA)], regions := [(3, ⟨rwReg, [5, 6], none, none, []⟩),
      (4, ⟨roReg, [], some ⟨1, [7, 8], 0, [], 0⟩, some ⟨2, [9, 10], 0, [], 0⟩, []⟩)] } ::
    List.replicate 30 Part.unused)).withJournal [recOf q1 (.campaignStart c.p) 1 .started]

theorem witness_digest_kept :
    let s := inCamp camp3
    Inv s ∧ s.time.now.ule t2m ∧ (partAt s (1 : Fin 32)).camp = some camp3 ∧ camp3.phase = .rendezvous ∧ issues s (1 : Fin 32) ∧
      camp3.fin = none ∧ camp3.due = [] ∧ from1.frm ∈ camp3.p.positions ∧ (from1.frm, from1.seq) ∉ s.fabric.seen ∧ (5 : BitVec 512) = camp3.digest ∧ (∀ e ∈ camp3.digests, e.2 = camp3.digest) ∧
      2 ∈ camp3.p.positions ∧ 2 ≠ s.fabric.member ∧ (∀ e ∈ camp3.digests, e.1 ≠ 2) := by decide +kernel

theorem witness_digest_again :
    let s := (inCamp camp3).withFabric { (inCamp camp3).fabric with seen := [(1, 0)] }
    issues s (1 : Fin 32) ∧ (from1.frm, from1.seq) ∈ s.fabric.seen := by decide +kernel

theorem witness_digest_unequal :
    (6 : BitVec 512) ≠ camp3.digest ∧ ((headRec (inCamp camp3) camp3.q).map (fun r => r.st)) = some .started := by decide +kernel

/-- One layout pair from region 3 into region 4: it lands nothing here. -/
def pair0 : PairD := ⟨⟨8, 0, 0, false, 0, false, 0, 0, 0, 0, 3, 3, 4, 3, [0]⟩, []⟩

def progP : Program := { progA with pairs := [pair0] }

/-- The first turn of the campaign has the layout pair. -/
def switchCamp (ph : CPhase) (stop : Bool) (sw : Option Switch) : Camp :=
  { campAt with p := { camp2 with turns := [{ turn0 with pairs := [8] }] }, phase := ph, stop := stop, sw := sw }

def switching (c : Camp) : State :=
  let s := inCamp c
  s.withParts (s.parts.map (fun x => if x.st = .running then { x with progs := [(0, progP)] } else x))

theorem witness_digest_last :
    let c := switchCamp .rendezvous false none
    let s := switching c
    (partAt s (1 : Fin 32)).camp = some c ∧ (∀ k ∈ c.p.positions, k = 1 ∨ k = s.fabric.member ∨ ∃ e ∈ c.digests, e.1 = k) ∧
      ((c.p.turns[c.p.fromTurn]?).map (fun t => (t.prog, t.pairs))) = some (0, [8]) ∧
      mapFind (partAt s (1 : Fin 32)).progs 0 = some progP ∧
      (∀ x ∈ [8].filterMap (fun i => progP.pairs.find? (fun x => decide (x.hd.id = i))), x.pieces = []) ∧
      ([8].filterMap (fun i => progP.pairs.find? (fun x => decide (x.hd.id = i)))) ≠ [] := by decide +kernel

theorem witness_rendezvousTimeout :
    camp3.rdv0.toNat + 1000000 * camp3.p.rdvlimit ≤ (1000000900000 : Word64).toNat ∧ camp3.p.rdvlimit ≠ 0 ∧
      (inCamp camp3).time.now.ule 1000000900000 := by decide +kernel

def endCamp (n : Nat) : Camp := { campAt with
  p := { camp2 with positions := List.range n, turns := [turn0] }, phase := .turnEnd, beacons := [(0, true)] }

theorem witness_beacon_kept :
    let c := endCamp 3
    issues (inCamp c) (1 : Fin 32) ∧ c.phase = .turnEnd ∧ from1.frm ∈ c.p.positions ∧ 2 ∈ c.p.positions ∧
      c.turnIx < c.p.turns.length ∧ c.fin = none ∧ c.due = [] ∧ c.badRec = false ∧ boundWith (inCamp c) c from1.frm ∧
      (from1.frm, from1.seq) ∉ (inCamp c).fabric.seen ∧ setHas c.beacons (beaconKey c.turnIx 2) = false := by
  decide +kernel

theorem witness_beacon_last :
    let c := endCamp 2
    c.phase = .turnEnd ∧ (∀ k ∈ c.p.positions, k = 1 ∨ setHas c.beacons (beaconKey c.turnIx k)) ∧ c.p.turns.length ≤ c.turnIx + 1 ∧
      ((headRec (inCamp c) c.q).map (fun r => r.st)) = some .started := by decide +kernel

def landed : Switch := ⟨0, 0, 2, [⟨8, [], [], []⟩]⟩

theorem witness_switchPublish_stop :
    let c := switchCamp .switching true (some landed)
    let s := switching c
    (partAt s (1 : Fin 32)).camp = some c ∧ issues s (1 : Fin 32) ∧ allLanded landed ∧ c.stop ∧
      (∀ m ∈ destMembers (partAt s (1 : Fin 32)) c landed, m = s.fabric.member ∨ m ∈ [1]) ∧
      ((c.p.turns[landed.into]?).map (fun t => t.kind)) = some .reward ∧
      ((headRec s c.q).map (fun r => r.st)) = some .started ∧
      pairDesc (partAt s (1 : Fin 32)) c landed 8 = some pair0 ∧
      ((regionAt s (1 : Fin 32) pair0.hd.dregion).map (fun g => g.next.isSome)) = some true := by decide +kernel

theorem witness_switchPublish_turn :
    let c := switchCamp .switching false (some landed)
    let s := switching c
    (partAt s (1 : Fin 32)).camp = some c ∧ allLanded landed ∧ landed.into = c.turnIx ∧
      (∀ m ∈ destMembers (partAt s (1 : Fin 32)) c landed, m = s.fabric.member ∨ m ∈ [1]) ∧
      ((c.p.turns[c.turnIx]?).map (fun t => t.kind)) = some .reward ∧ mapFind (partAt s (1 : Fin 32)).progs 0 = some progP ∧
      segA ∈ progP.segs := by decide +kernel
/-! ### Settle, collectives and chunks -/

/-- A reduction and an all-gather of two ranks, in region 3. -/
def collA : Coll := ⟨21, 0, 3, [0, 1], 0, 0xFFFF, 0xFFFF, 3, 0, 16384, 4096, 16384, 0x20000, 0, 0⟩
def collG : Coll := ⟨22, 2, 3, [0, 1], 0, 0xFFFF, 0xFFFF, 3, 0, 64, 0, 0, 0x30000, 0, 0⟩

def progC : Program := { progA with colls := [collA], shape := { prog1.shape with detmode := true } }
def progG : Program := { progA with colls := [collA, collG] }

def ltA : LearnP := { lt0 with
  steps := 3, step0 := 10, deadline0 := 1500000, period := 100, waitmax := 1, quorum := 1, gbufs := 1, readyseg := 0, coll := 21,
  recslots := 4, recaddr := 0xA0000 }

def turnL : TurnP := { turn0 with kind := .learning, lt := ltA }

/-- A learning turn of steps 10 to 12; `as` have arrived, `cs` are closed. -/
def runL (as : List Arrival) (cs : List CloseP) : Run :=
  { run0 with kind := .learning, lastStep := 12, live := [], arrivals := as, closes := cs, nextStep := 10 }

def campL (m : Nat) (r : Run) (t : TurnP) : Camp :=
  { campAt with p := { camp2 with positions := [m, 1 - m], turns := [t] }, phase := .turn, run := some r }

/-- Partition 1 in that turn; position 0 of the campaign is member m, and this module is member 0. -/
def learning (pr : Program) (c : Camp) : State :=
  (three 1 none).withParts (Part.zero :: { part1 with
    camp := some c, progs := [(0, pr)], regions := [(3, ⟨rwReg, [5, 6], none, none, []⟩)] } :: List.replicate 30 Part.unused)

def arrived : List Arrival := [⟨21, ⟨10, 0⟩, 900000, 7⟩, ⟨21, ⟨10, 1⟩, 950000, 8⟩]

/-- RunsTurn of a state is decidable data. -/
theorem witness_learning :
    let c := campL 0 (runL arrived []) turnL
    let s := learning progC c
    Inv s ∧ s.time.now.ule t2m ∧ RunsTurn s (1 : Fin 32) c turnL progC (runL arrived []) :=
  ⟨by decide +kernel, by decide +kernel, by unfold RunsTurn; decide +kernel⟩

theorem witness_stepBeacon :
    let c := campL 0 (runL [] []) turnL
    let s := learning progC c
    progC.colls.find? (fun x => decide (x.id = 21)) = some collA ∧ arbiterOf c collA = s.fabric.member ∧
      1 < collA.members.length ∧ arrivalAt (runL [] []) 21 ⟨10, 1⟩ = none ∧
      (from1.frm, from1.seq) ∉ s.fabric.seen ∧ boundWith s c from1.frm := by decide +kernel

theorem witness_settleDeadline :
    let r := runL arrived []
    let c := campL 0 r turnL
    let s := learning progC c
    progC.colls = [collA] ∧ collA.kind = 0 ∧ arbiterOf c collA = s.fabric.member ∧ turnL.kind = .learning ∧
      inDomain turnL progC collA ∧ closeMode turnL progC.shape = 1 ∧ 10 = turnL.lt.step0 + (closesOf r collA.id).length ∧
      10 ≤ r.lastStep ∧ closeTime r collA turnL true 1 10 t2m = some (950000, 1500000) ∧ lostRank r = none ∧
      closeOf r collA.id 10 = none := by decide +kernel

def close10 : CloseP := ⟨21, 10, 950000, 1500000, 1, false, [⟨10, 0⟩, ⟨10, 1⟩], 2, [], [], [], 15, 2⟩

theorem witness_closeList :
    let c := campL 0 (runL [] []) turnL
    progC.colls.find? (fun y => decide (y.id = close10.coll)) = some collA ∧ lostRank (runL [] []) = none ∧
      (from1.frm, from1.seq) ∉ (learning progC c).fabric.seen ∧ boundWith (learning progC c) c from1.frm ∧
      closeOf (runL [] []) close10.coll close10.step = none ∧ (closeOf (runL [] [close10]) close10.coll close10.step).isSome := by
  decide +kernel

/-- The member of rank 1 has left the epoch during the turn. -/
theorem witness_closeList_left :
    let r := { runL [] [] with left := [(1, true)] }
    let c := campL 0 r turnL
    let s := learning progC c
    lostRank r = some 1 ∧ inDomain turnL progC collA ∧ (from1.frm, from1.seq) ∉ s.fabric.seen ∧ boundWith s c from1.frm := by
  decide +kernel

theorem witness_closeList_left_runs :
    let r := { runL [] [] with left := [(1, true)] }
    RunsTurn (learning progC (campL 0 r turnL)) (1 : Fin 32) (campL 0 r turnL) turnL progC r := by unfold RunsTurn; decide +kernel

theorem witness_everyRank : close10 = decide1 (runL arrived []) collA turnL true 1 10 950000 1500000 := by decide +kernel

theorem witness_settleTimeout_arbiter :
    let r := runL [⟨21, ⟨10, 0⟩, 900000, 7⟩] []
    let c := campL 0 r turnL
    let s := learning progC c
    domainColl turnL progC = some collA ∧ 10 = firstStep turnL + (closesOf r collA.id).length ∧ 10 ≤ r.lastStep ∧
      waitFrom s c r turnL progC.shape collA 10 0 = some 1500000 ∧ 1500000 + waitMax turnL < (1501001 : Word64).toNat ∧
      arbiterOf c collA = s.fabric.member ∧ 1 < collA.members.length ∧ arrivalAt r collA.id ⟨10, 1⟩ = none ∧
      (∀ k, k < 1 → arrivalAt r collA.id ⟨10, k⟩ ≠ none) ∧ closeMode turnL progC.shape ≠ 2 ∧
      pendingLeaves (closesOf r collA.id) = [] := by decide +kernel

/-- The last step waits for a pending contribution of an earlier one. -/
theorem witness_settleTimeout_last :
    let x : CloseP := ⟨21, 10, 950000, 1500000, 1, false, [⟨10, 0⟩], 1, [], [], [1], 7, 2⟩
    let y : CloseP := ⟨21, 11, 960000, 1600000, 1, false, [⟨11, 0⟩, ⟨11, 1⟩], 2, [], [], [], 7, 2⟩
    let t := { turnL with lt := { ltA with smax := 2 } }
    let r := runL [⟨21, ⟨12, 0⟩, 900000, 7⟩] [x, y]
    let c := campL 0 r t
    let s := learning progC c
    domainColl t progC = some collA ∧ 12 = firstStep t + (closesOf r collA.id).length ∧ 12 = r.lastStep ∧
      waitFrom s c r t progC.shape collA 12 0 = some 1700000 ∧ 1700000 + waitMax t < (1701001 : Word64).toNat ∧
      arbiterOf c collA = s.fabric.member ∧ arrivalAt r collA.id ⟨12, 1⟩ = none ∧ arrivalAt r collA.id ⟨12, 0⟩ ≠ none ∧
      pendingLeaves (closesOf r collA.id) = [⟨10, 1⟩] ∧ 12 ≤ 10 + t.lt.smax := by decide +kernel

/-- In replay, step 10 waits for the leaf of rank 1 that its record lists. -/
theorem witness_settleTimeout_replay :
    let t := { turnL with lt := { ltA with replay := true, logslots := 1 } }
    let k : CloseP := { close10 with mode := 2, deadline := 0 }
    let r := { runL [⟨21, ⟨10, 0⟩, 900000, 7⟩] [] with log := [(0, recSlot k 0 0 1 [])] }
    let c := campL 0 r t
    let s := learning progC c
    domainColl t progC = some collA ∧ 10 = firstStep t + (closesOf r collA.id).length ∧ 10 ≠ r.lastStep ∧
      waitFrom s c r t progC.shape collA 10 0 = some 900000 ∧ 900000 + waitMax t < (1000001 : Word64).toNat ∧
      arbiterOf c collA = s.fabric.member ∧ closeMode t progC.shape = 2 ∧
      (match logAt r t collA.id (10 - t.lt.step0) with
        | .at k => decide (k.leaves = [⟨10, 0⟩, ⟨10, 1⟩])
        | _ => false) = true ∧ arrivalAt r collA.id ⟨10, 1⟩ = none ∧ arrivalAt r collA.id ⟨10, 0⟩ ≠ none := by decide +kernel

theorem witness_settleTimeout_member :
    let c := campL 1 (runL [] []) turnL
    arbiterOf c collA ≠ (learning progC c).fabric.member ∧
      waitFrom (learning progC c) c (runL [] []) turnL progC.shape collA 10 0 = some 1500000 := by decide +kernel

theorem witness_fabricTimeout :
    let c := campL 0 { runL [] [] with done := [⟨0, 10⟩] } turnL
    let s := learning progG c
    issues s (1 : Fin 32) ∧ phaseStart s (1 : Fin 32) 22 false = some 0 ∧ 0 + fabricLimit s (1 : Fin 32) < (1001 : Word64).toNat := by
  decide +kernel

theorem witness_fabricTimeout_pair :
    let c := switchCamp .switching false (some ⟨0, 0, 2, [⟨8, [⟨0, 64⟩], [], []⟩]⟩)
    issues (switching c) (1 : Fin 32) ∧ phaseStart (switching c) (1 : Fin 32) 8 true = some 0 ∧
      fabricLimit (switching c) (1 : Fin 32) = 1000 := by decide +kernel

def gatherChunk : Chunk := ⟨1, 0, 1, 0, 1, 2, 3, 0, 0x30000 + 64, 0, 10, 0, 0, List.replicate 64 9#8⟩

/-- A chunk that stands whole in a buffer. -/
def bufOf (x : Chunk) : ChunkBuf := ⟨none, chunkBytes x, true, false, [], none⟩
def held (s : State) (x : Chunk) : State := s.withFabric { s.fabric with bufs := [(47, bufOf x)] }

theorem witness_chunkBuffer :
    mapFind (held base gatherChunk).fabric.bufs (47 : Fin 48) = some (bufOf gatherChunk) ∧
      chunkOf (bufOf gatherChunk).bytes = some gatherChunk ∧ gatherChunk.kind = 2 := by decide +kernel

theorem witness_collectiveChunk :
    let c := campL 0 (runL [] []) turnL
    let s := held (learning progG c) gatherChunk
    Inv s ∧ s.time.now.ule t2m ∧ gatherChunk.dmem = s.fabric.member ∧
      collAtOff progG (gbufsOf turnL) gatherChunk.region gatherChunk.off = some collG ∧
      boundWith s c (memberAt c gatherChunk.spos) ∧ gatherChunk.dpos ∈ heldPos s c ∧
      1 = collG.members.idxOf gatherChunk.spos ∧ 1 < collG.members.length ∧ turnL.lt.step0 ≤ gatherChunk.epoch ∧
      gatherChunk.epoch ≤ (runL [] []).lastStep ∧ turnL.kind = .learning ∧
      collPlaceOk progG.shape (gbufsOf turnL) collG 1 gatherChunk.epoch gatherChunk.off gatherChunk.data.length ∧
      (∀ l ∈ (runL [] []).collLand, l.coll ≠ collG.id ∨ l.step ≠ gatherChunk.epoch ∨ l.rank ≠ 1 ∨ l.off ≠ gatherChunk.off) := by
  decide +kernel

theorem witness_collectiveChunk_runs :
    let c := campL 0 (runL [] []) turnL
    RunsTurn (held (learning progG c) gatherChunk) (1 : Fin 32) c turnL progG (runL [] []) := by unfold RunsTurn; decide +kernel

/-- The chunk has landed before. -/
theorem witness_collectiveChunk_again :
    let r := { runL [] [] with collLand := [⟨22, 10, 1, 0x30000 + 64, 64, 0, 0⟩] }
    ∃ l ∈ r.collLand, l.coll = collG.id ∧ l.step = gatherChunk.epoch ∧ l.rank = 1 ∧ l.off = gatherChunk.off :=
  ⟨_, List.mem_singleton.mpr rfl, rfl, rfl, rfl, rfl⟩

/-- A chunk from a place that no rank has, of a step past the last, and in another rank's place. -/
theorem witness_collectiveChunk_bad :
    let c := campL 0 (runL [] []) turnL
    let s := learning progG c
    collG.members.length ≤ collG.members.idxOf 7 ∧ (runL [] []).lastStep < ({ gatherChunk with epoch := 13 } : Chunk).epoch ∧
      collAtOff progG (gbufsOf turnL) 3 0x30000 = some collG ∧
      collPlaceOk progG.shape (gbufsOf turnL) collG 1 10 0x30000 64 = false ∧
      ({ gatherChunk with dmem := 1 } : Chunk).dmem ≠ s.fabric.member ∧ (partAt base gatherChunk.part).camp = none ∧
      base.fabric.member ≠ 0 ∧ (three 1 none).fabric.member = 0 ∧ (partAt (three 1 none) gatherChunk.part).camp = none ∧
      boundWith s { c with digests := [] } (memberAt { c with digests := [] } gatherChunk.spos) = false ∧
      ({ gatherChunk with dpos := 1 } : Chunk).dpos ∉ heldPos s c := by decide +kernel

/-- A destination piece of one row of 16 F32, at position 0 of the campaign and then at position 1. -/
def piece0 : Piece := ⟨1, true, false, 0, 0, 1, 0, 16, 0, 0, 64, 0, 16, [1]⟩
def pairX : PairD := { pair0 with pieces := [piece0] }
def progX : Program := { progA with pairs := [pairX] }

def layoutRun : PairRun := ⟨8, [⟨0, 512⟩], [], []⟩

def layout (y : PairRun) : State :=
  let c := { switchCamp .switching false (some ⟨0, 0, 2, [y]⟩) with
    p := { camp2 with positions := [0, 1], turns := [{ turn0 with pairs := [8] }] } }
  let s := inCamp c
  s.withParts (s.parts.map (fun x => if x.st = .running then { x with progs := [(0, progX)] } else x))

def layoutChunk : Chunk := ⟨1, 0, 1, 0, 1, 0, 4, 0, 0, 0, 2, 0, 0, List.replicate 64 9#8⟩

/-- The chunk that the layout pair waits for, in a buffer; a bulk route leads to member 1 through port 11, and to member 2 through
it. -/
def landing (y : PairRun) : State :=
  let s := held (layout y) layoutChunk
  s.withFabric { s.fabric with bulk := [(1, [(11, 1)]), (2, [(11, 1), (10, 2)])] }

theorem witness_layoutChunk :
    let s := landing layoutRun
    let c := ((partAt s (1 : Fin 32)).camp).getD campAt
    let sw : Switch := ⟨0, 0, 2, [layoutRun]⟩
    Inv s ∧ mapFind s.fabric.bufs (47 : Fin 48) = some (bufOf layoutChunk) ∧
      chunkOf (bufOf layoutChunk).bytes = some layoutChunk ∧ layoutChunk.dmem = s.fabric.member ∧
      (partAt s layoutChunk.part).camp = some c ∧ issues s layoutChunk.part ∧
      c.sw = some sw ∧ pairDesc (partAt s layoutChunk.part) c sw 8 = some pairX ∧ pairX.hd.dregion = layoutChunk.region ∧
      pieceFor pairX layoutChunk.dpos layoutChunk.spos layoutChunk.off layoutChunk.data.length = some (0, piece0, ⟨0, 512⟩) ∧ layoutChunk.kind ≤ 1 ∧
      layoutChunk.epoch = sw.epoch ∧ boundWith s c (memberAt c layoutChunk.spos) ∧ layoutChunk.dpos ∈ heldPos s c ∧
      ((regionAt s layoutChunk.part layoutChunk.region).bind (fun g => g.next.map (fun b => b.pages))) = some [9, 10] ∧
      ([9, 10] : List Nat).Nodup ∧ c.phase = .switching ∧
      ((fromPos piece0 layoutChunk.dpos).drop 1).head? = some 1 ∧ memberAt c 1 ≠ s.fabric.member ∧
      chunkRoute s (memberAt c 1) layoutChunk.index = some (11, 1) ∧
      covered layoutRun.landed ⟨0, 512⟩ = false ∧
      covered [⟨0, 512⟩] ⟨0, 512⟩ = true := by decide +kernel

/-- A chunk for another member: without and with a hop that it may take; one for no switch; one that no campaign binds. -/
theorem witness_layoutChunk_other :
    let s := landing layoutRun
    let x : Chunk := { layoutChunk with dmem := 2, hops := 1 }
    let c := ((partAt s (1 : Fin 32)).camp).getD campAt
    x.dmem ≠ s.fabric.member ∧ ({ x with hops := 0 } : Chunk).hops = 0 ∧
      (∀ e ∈ s.fabric.bulk, e.1 = 3 → ∀ w ∈ e.2, w.2 ≠ 3) ∧
      (s.fabric.bulk.find? (fun e => decide (e.1 = x.dmem))).map (fun e => e.2) = some [(11, 1), (10, 2)] ∧
      ([(11, 1), (10, 2)] : List (Nat × Nat)).find? (fun w => decide (w.2 = x.dmem)) = some (10, 2) ∧
      (partAt (three 1 none) layoutChunk.part).camp = none ∧ 2 < ({ layoutChunk with kind := 3 } : Chunk).kind ∧
      c.sw.isSome ∧ (three 1 none).fabric.member = layoutChunk.dmem ∧ (from1.frm, from1.seq) ∉ (three 1 none).fabric.seen ∧
      boundWith s { c with digests := [] } (memberAt { c with digests := [] } layoutChunk.spos) = false := by
  decide +kernel

/-- A chunk of a switch that has not begun here. -/
theorem witness_layoutChunk_early :
    let s := landing layoutRun
    let c := { ((partAt s (1 : Fin 32)).camp).getD campAt with phase := .rendezvous, sw := none }
    let u := s.withParts (s.parts.map (fun x => if x.st = .running then { x with camp := some c } else x))
    (partAt u layoutChunk.part).camp = some c ∧ layoutChunk.dmem = u.fabric.member ∧
      comesEarly u layoutChunk.part (memberAt c layoutChunk.spos) true layoutChunk.epoch = true := by decide +kernel

/-! ### Segments and rollout steps -/

def endedTile : Tile := { seqTile [nop0] with ended := [0, 1, 2, 3] }

/-- Segment 0 with every tile of group 0 ended; tile 0 as given, and one segment more to run. -/
def segSt (x : Tile) : State :=
  let rest := (List.range 7).map (fun k => (k + 1, { endedTile with seg := some (⟨0, 0, 7, 0, 0⟩ : SegRun) }))
  let s := (runs x).withTiles ((0, { x with seg := some ⟨0, 0, 7, 0, 0⟩ }) :: rest)
  s.withParts (s.parts.map (fun y => if y.st = .running then { y with progs := [(0, { progA with segs := [segA, { segA with id := 1, npred := 9 }] })] }
    else y))

theorem witness_segmentCommit :
    let s := segSt endedTile
    let pr : Program := { progA with segs := [segA, { segA with id := 1, npred := 9 }] }
    Inv s ∧ s.time.now.ule t2m ∧ (⟨0, 0, 7, 0, 0⟩ : SegRun) ∈ run0.live ∧ segDesc pr 0 = some segA ∧
      (∀ n ∈ segTiles s (1 : Fin 32) segA, tileEnded (tileAt s (1 : Fin 32) n)) ∧
      (∀ n ∈ segTiles s (1 : Fin 32) segA, windowPoison pr 0 n (tileAt s (1 : Fin 32) n) = none ∧ (tileAt s (1 : Fin 32) n).sems = []) ∧
      turnMet (partAt s (1 : Fin 32)) { run0 with done := run0.done ++ [⟨0, 0⟩], live := [] } turn0 = false := by decide +kernel

theorem witness_segmentCommit_runs :
    RunsTurn (segSt endedTile) (1 : Fin 32) (campRun run0 turn0) turn0
      { progA with segs := [segA, { segA with id := 1, npred := 9 }] } run0 := by unfold RunsTurn; decide +kernel

theorem witness_segmentCommit_sems :
    let s := segSt { endedTile with sems := [(63, 1)] }
    (∃ n ∈ segTiles s (1 : Fin 32) segA, (tileAt s (1 : Fin 32) n).sems ≠ []) ∧
      (∀ n ∈ segTiles s (1 : Fin 32) segA, windowPoison progA 0 n (tileAt s (1 : Fin 32) n) = none) := by decide +kernel

theorem witness_segmentCommit_poison :
    let s := segSt { endedTile with pois := [(8388607, 1)] }
    (partAt s (1 : Fin 32)).groups.length ≤ 24 ∧
      (∃ n ∈ segTiles s (1 : Fin 32) segA, windowPoison progA 0 n (tileAt s (1 : Fin 32) n) ≠ none) := by decide +kernel
/-- Rollout parameters: drawers in region 3, blocks of 16, one lane, manifests in region 3. -/
def rpA : RollP := { rp0 with
  tokbudget := 64, maxdec := 1, chunk := 1, vmax := 1, dposl := 4, dlanes := 1, dregion := 3, mregion := 3, oregion := 3, pregion := 4,
  mbufs := 1, nprompt := 1, vstep := 1, maxlen := 64, sreg := 9, endt := 1500000 }

def turnR : TurnP := { turn0 with kind := .rollout, rp := rpA }

/-- A decoding entry of the running turn whose map drawer is drawer 0 and whose block 0 is drawer 1. -/
def reqR : Req := { req0 with dhead := 0, turn := some 0, tlen := 0, maxgen := 3 }

def runR (steps : List StepRec) : Run :=
  { run0 with kind := .rollout, admOpen := true, live := [], steps := steps, nextStep := 4, done := [⟨0, 3⟩] }

/-- The test program with a collective that joins both positions in one decoding set. -/
def progR : Program := { progA with colls := [collG] }

/-- Partition 1 in a rollout turn; this module (member 0) stands at position k of two; entry 0 as given. -/
def rollout (k : Nat) (r : Run) (y : Req) : State :=
  let c : Camp := { campAt with p := { camp2 with positions := [k, 1 - k], turns := [turnR] }, phase := .turn, run := some r }
  let b := three 1 none
  let mem := memWrite (memWrite [] (65536 * 5) (leBytes 4 1)) (65536 * 6 - 4) (leBytes 4 0xFFFFFFFF)
  (b.withT2 { b.t2 with mem := mem }).withParts (Part.zero :: { part1 with
    camp := some c, progs := [(0, progR)], reqs := [(0, y)], reqSeq := 4,
    drawers := [(drawerKey 3 0, 1), (drawerKey 3 1, 1)],
    regions := [(3, ⟨{ rwReg with pages := 2 }, [5, 6], none, none, []⟩), (4, ⟨roReg, [], some ⟨1, [7, 8], 0, [], 0⟩, none, []⟩)] } ::
    List.replicate 30 Part.unused)

def rollCamp (k : Nat) (r : Run) : Camp :=
  { campAt with p := { camp2 with positions := [k, 1 - k], turns := [turnR] }, phase := .turn, run := some r }

theorem witness_listAdmission :
    let r := runR []
    let s := rollout 0 r reqR
    let a := admitOf (List.replicate 112 0#8)
    Inv s ∧ s.time.now.ule t2m ∧ rollRun s (1 : Fin 32) = some (rollCamp 0 r, r, rpA) ∧ r.kind = .rollout ∧ r.admOpen ∧
      r.listNext < rpA.nprompt ∧ listEntry s (1 : Fin 32) rpA r.listNext = some a ∧ admitStatus s (1 : Fin 32) a = 0x0103 ∧
      reqAt s (1 : Fin 32) 0 = some reqR ∧ reqOpen reqR ∧ reqR.turn = some (partAt s (1 : Fin 32)).turnSeq := by decide +kernel

/-- The prompt list's entry is one that is admitted. -/
def listing : State :=
  let s := rollout 0 (runR []) reqR
  s.withT2 { s.t2 with mem := memWrite s.t2.mem (65536 * 7) (leBytes 64 (packFields [⟨280, 24, 1⟩, ⟨320, 16, 0xFFFF⟩])) }

theorem witness_listAdmission_taken :
    let a := admitOf (leBytes 112 (packFields [⟨280, 24, 1⟩, ⟨320, 16, 0xFFFF⟩]))
    listEntry listing (1 : Fin 32) rpA 0 = some a ∧ admitStatus listing (1 : Fin 32) a = 0 ∧
      admitChoice listing (1 : Fin 32) 16383 a [] := by decide +kernel

theorem witness_stepCompose :
    let r := runR []
    let s := rollout 0 r reqR
    let c := rollCamp 0 r
    rollRun s (1 : Fin 32) = some (c, r, rpA) ∧ c.stop = false ∧ isComposer s (1 : Fin 32) c ∧
      (∀ x ∈ r.steps, r.nextStep ≤ x.step + rpA.mbufs) ∧ (∀ m ∈ slotPeers s (1 : Fin 32) c rpA r.nextStep, m ∈ [1]) ∧ considered (partAt s (1 : Fin 32)) r = [(0, reqR)] ∧
      reqAt s (1 : Fin 32) 0 = some reqR ∧ reqR.st = .decode ∧ reqR.ven = false ∧ reqR.tlen = 0 ∧ dueReason reqR t2m = 0 ∧
      planOf s (1 : Fin 32) rpA 0 reqR 1 1 = ⟨0, 1, 1, [], [], 0⟩ ∧ 1 ≤ rpA.maxdec ∧ 1 ≤ rpA.tokbudget := by decide +kernel

theorem witness_manifestReceive :
    let r := runR []
    let s := rollout 1 r reqR
    rollRun s (1 : Fin 32) = some (rollCamp 1 r, r, rpA) ∧ isComposer s (1 : Fin 32) (rollCamp 1 r) = false ∧
      (from1.frm, from1.seq) ∉ s.fabric.seen ∧ boundWith s (rollCamp 1 r) from1.frm ∧
      (List.replicate 5312 0#8).length = 64 + 82 * rpA.tokbudget ∧
      ([⟨0, 1, 0, 1, 0, 6⟩] : List StepReq) ≠ [] ∧ inFlight r 0 = false := by decide +kernel

def draw0 : Draw := ⟨0, 77, 0, 0, 0, 1⟩

def stepR (ds : List Draw) : StepRec := ⟨3, [⟨0, 1, 0, 1, 0, 6⟩], ds⟩

theorem witness_rolloutCommit :
    let r := runR [stepR [draw0]]
    let s := rollout 1 r reqR
    let c := rollCamp 1 r
    Inv s ∧ rollRun s (1 : Fin 32) = some (c, r, rpA) ∧ r.admOpen ∧ progOf (partAt s (1 : Fin 32)) = some progR ∧
      r.steps.head? = some (stepR [draw0]) ∧ reqR.list = false ∧ draw0.stat = 0 ∧ isSampler s (1 : Fin 32) c ∧
      stepDrawn s (1 : Fin 32) r progR 3 ∧ drawsOf (stepR [draw0]) 0 = [draw0] ∧ dueReason reqR t2m = 0 ∧
      ndoutOf (recordNow s (1 : Fin 32) rpA 3 0) = 0 := by decide +kernel

theorem witness_rolloutCommit_undrawn :
    let r := runR [stepR []]
    let s := rollout 1 r reqR
    isSampler s (1 : Fin 32) (rollCamp 1 r) ∧ drawsOf (stepR []) 0 = [] ∧ stepDrawn s (1 : Fin 32) r progR 3 := by decide +kernel

theorem witness_commitRecordReceive :
    let r := runR [stepR []]
    let s := rollout 0 r reqR
    rollRun s (1 : Fin 32) = some (rollCamp 0 r, r, rpA) ∧ isSampler s (1 : Fin 32) (rollCamp 0 r) = false ∧
      (from1.frm, from1.seq) ∉ s.fabric.seen ∧ boundWith s (rollCamp 0 r) from1.frm := by decide +kernel

/-- The same for an entry that is to be evicted with its step. -/
theorem witness_commitRecordReceive_due :
    let y := { reqR with due := 5, maxgen := 4 }
    let s := rollout 0 (runR [stepR []]) y
    reqAt s (1 : Fin 32) 0 = some y ∧ y.due ≠ 0 ∧ y.stops.contains draw0.token = false ∧ y.clen + 1 ≠ y.maxgen ∧
      isSampler s (1 : Fin 32) (rollCamp 0 (runR [stepR []])) = false := by decide +kernel

/-- Each way that TokenCommitted says an entry goes on: a stop token, the last token, and neither. -/
theorem witness_tokenCommitted :
    ({ reqR with stops := [77] } : Req).stops.contains draw0.token ∧ reqR.stops.contains draw0.token = false ∧
      reqR.clen + 1 = reqR.maxgen ∧ reqR.clen + 1 ≠ ({ reqR with maxgen := 4 } : Req).maxgen := by decide +kernel

theorem witness_turnEndTime :
    let r := runR []
    let s := rollout 0 r reqR
    rollRun s (1 : Fin 32) = some (rollCamp 0 r, r, rpA) ∧ rpA.endt ≠ 0 ∧ rpA.endt.ule t2m ∧ reqOpen reqR ∧
      reqR.turn = some (partAt s (1 : Fin 32)).turnSeq ∧ reqR.list = false ∧ inFlight r 0 = false := by decide +kernel

theorem witness_turnEndTime_inFlight :
    let r := runR [stepR []]
    let s := rollout 0 r reqR
    rollRun s (1 : Fin 32) = some (rollCamp 0 r, r, rpA) ∧ inFlight r 0 ∧
      ((partAt s (1 : Fin 32)).reqs.map (fun x => x.1)).Nodup := by decide +kernel
/-! ### The whole block -/

theorem witness_step : (State.reset.withPending [.i3cRstdaa]).pending = .i3cRstdaa :: [] ∧ State.reset.pending = [] := by decide +kernel

theorem witness_exec : exec (.i3cIndexWrite 5) base = .next (base.withIo { base.io with i3cIndex := 5 }) := rfl

theorem witness_outside : exec (.bar2Read 1 ⟨windowSize, .none⟩) base = .fault .outsideWindow := rfl

theorem witness_privateDebug :
    exec (.tapPrivateDebug 3) (base.withIo { base.io with tapUnlocked := true }) = .refused .privateDebug := rfl

theorem witness_inv : Inv State.reset ∧ TilesOk State.reset := by decide +kernel

theorem witness_words : wordOk (.signal ⟨3, 63, 255, 65535⟩) ∧ decodeWord 0x48382000A0000000 ≠ .illegal := by decide +kernel

theorem witness_inside : hostReady (given base q1 .partStop 1) q1 .partStop 1 ∧ q1.fn ≠ 0 := by decide +kernel

/-! ### Decoding: one word of each family, written out from the encodings of R17 to R21, R75 to R81, R119 to R123, R131, R139,
R141 and R183 -/

theorem test_decode_li : decodeWord 0x010C0000FFFFFFFE = .li ⟨3, 0, 0, 0xFFFFFFFE⟩ := by decide +kernel
theorem test_decode_add : decodeWord 0x030C108000000001 = .add ⟨3, 1, 2, 1⟩ := by decide +kernel
theorem test_decode_loop : decodeWord 0x0B00500000000004 = .loop ⟨0, 5, 0, 4⟩ := by decide +kernel
theorem test_decode_sequencer_resv : decodeWord 0x010C0001FFFFFFFE = .illegal := by decide +kernel
theorem test_decode_signal : decodeWord 0x21C9FF0000000001 = .signal ⟨3, 9, 255, 1⟩ := by decide +kernel
theorem test_decode_signal_zero : decodeWord 0x21C9FF0000000000 = .illegal := by decide +kernel
theorem test_decode_wait : decodeWord 0x22850000000000FF = .wait ⟨2, 5, 0, 255⟩ := by decide +kernel
theorem test_decode_segend : decodeWord 0x2F40000000000007 = .segend ⟨1, 0, 0, 7⟩ := by decide +kernel
theorem test_decode_mxsets : decodeWord 0x438000080A000000 = .mxsets ⟨2, 1, 5⟩ := by decide +kernel
theorem test_decode_mxorg : decodeWord 0x44F000010000201F ≠ .mxorg ⟨15, 1, 2, 1⟩ := by decide +kernel
theorem test_decode_mxorg_word : decodeWord 0x44F0000100002010 = .mxorg ⟨15, 1, 2, 1⟩ := by decide +kernel
theorem test_decode_mxdelta : decodeWord 0x4994000002400000 = .mxdelta ⟨9, true, 1, 1⟩ := by decide +kernel
theorem test_decode_mxfin : decodeWord 0x4C20FFFF00000000 = .mxfin ⟨2, 0xFFFF⟩ := by decide +kernel
theorem test_decode_eworg : decodeWord 0x8400001000020304 = .eworg ⟨1, 2, 3, 1⟩ := by decide +kernel
theorem test_decode_ewsrc : decodeWord 0x8143000000600000 = .ewsrc ⟨2, 1, true, false, 0, false, 0, false, false, 3, false, 0, 0⟩ := by
  decide +kernel
theorem test_decode_ewdst : decodeWord 0x8322000000000040 = .ewdst ⟨1, 1, false, 0, 0, 0, false, 0, 0, false, 0, false, 0, 64⟩ := by
  decide +kernel
theorem test_decode_ewflag : decodeWord 0x8580004000000000 = .ewflag ⟨true, 1⟩ := by decide +kernel
theorem test_decode_ewsamp : decodeWord 0x8C00008000000000 = .ewsamp ⟨1⟩ := by decide +kernel
theorem test_decode_rarm : decodeWord 0xC058000400000000 = .rarm ⟨5, true, 1⟩ := by decide +kernel
theorem test_decode_rsend_addr : decodeWord 0xC250000400000000 = .illegal := by decide +kernel
theorem test_encode_mxmul : encodeWord (.mxmul ⟨3, true, false, 16, 80, 0, 0⟩) = 0x48382000A0000000 := by decide +kernel

/-- The table gives no row bits, so no word of it spells a command. -/
theorem test_tableWord : decodeTableWord 0 0 = none ∧ State.reset.withFetchWord 0 0 = State.reset := ⟨rfl, rfl⟩

/-! ### Well-formedness: an ill-formed term for each check -/

theorem smoke_signal : WellFormed (.signal at0 ⟨0, 0, 0, 0⟩) = false ∧ WellFormed (.signal at0 ⟨0, 0, 0, 65536⟩) = false ∧
    WellFormed (.signal at0 ⟨0, 0, 0, 65535⟩) = true := by decide +kernel
theorem smoke_wait : WellFormed (.wait at0 ⟨0, 0, 0, 0⟩) = false := by decide +kernel
theorem smoke_take : WellFormed (.take at0 ⟨0, 0, 0, 65536⟩) = false := by decide +kernel
theorem smoke_mxsets : WellFormed (.mxsets at0 ⟨3, 0, 0⟩) = false := by decide +kernel
theorem smoke_mxmul : WellFormed (.mxmul at0 ⟨0, false, false, 0, 0, 0, 0⟩) = false ∧
    WellFormed (.mxmul at0 ⟨0, false, false, 257, 0, 0, 0⟩) = false ∧ WellFormed (.mxmul at0 ⟨0, false, false, 256, 0, 0, 0⟩) := by
  decide +kernel
theorem smoke_ewop : WellFormed (.ewop at0 { opW with op := 0x35 }) = false ∧ WellFormed (.ewop at0 { opW with rm := 5 }) = false := by
  decide +kernel
theorem smoke_ewdst : WellFormed (.ewdst at0 { dstW with rm := 5 }) = false := by decide +kernel
theorem smoke_rsend : WellFormed (.rsend at0 ⟨0, false, 1⟩) = false := by decide +kernel
theorem smoke_rclose : WellFormed (.rclose at0 ⟨0, false, 1⟩) = false := by decide +kernel
theorem smoke_sensorSample : WellFormed (.sensorSample [] 0 0) = false := by decide +kernel
theorem smoke_flitTransmit : WellFormed (.flitTransmit 0 true 16 0) = false := by decide +kernel

/-! ### Small steps, with results from the rules by hand -/

/-- What a step answers, where it is a next state. -/
def nextOf (o : Host.Outcome State Fault Refusal) : Option State :=
  match o with
  | .next t => some t
  | _ => none

/-- One scalar word on a tile with s1 = 5 and s2 = 3; the answer is register 3 (R19). -/
def scalar (c : TWord) (i : Instr) : Option Word64 :=
  (nextOf (exec i (runs (seqTile [encodeWord c, nop0])))).map (fun t => sreg (tileOf t at0) 3)

theorem test_add_wraps : scalar (.add sq3) (.add at0 sq3) = some 7 := by decide +kernel
theorem test_sub : scalar (.sub ⟨3, 2, 1, 0⟩) (.sub at0 ⟨3, 2, 1, 0⟩) = some 0xFFFFFFFFFFFFFFFE := by decide +kernel
theorem test_li_sign : scalar (.li ⟨3, 0, 0, 0x80000000⟩) (.li at0 ⟨3, 0, 0, 0x80000000⟩) = some 0xFFFFFFFF80000000 := by decide +kernel
theorem test_lih_keeps : scalar (.lih ⟨3, 0, 0, 0x80000000⟩) (.lih at0 ⟨3, 0, 0, 0x80000000⟩) = some 0x8000000000000000 := by decide +kernel
theorem test_shl_amount : scalar (.shl ⟨3, 1, 2, 63⟩) (.shl at0 ⟨3, 1, 2, 63⟩) = some 20 := by decide +kernel
theorem test_shr_amount : scalar (.shr ⟨3, 1, 0, 2⟩) (.shr at0 ⟨3, 1, 0, 2⟩) = some 1 := by decide +kernel
theorem test_tileid : scalar (.tileid sq3) (.tileid at0 sq3) = some 0 := by decide +kernel
theorem test_s0_stays : (nextOf (exec (.li at0 ⟨0, 0, 0, 9⟩) (runs (seqTile [encodeWord (.li ⟨0, 0, 0, 9⟩), nop0])))).map
    (fun t => sreg (tileOf t at0) 0) = some 0 := by decide +kernel

/-- WAIT takes its count; TAKE of more than there is faults with SEM_UNDERFLOW (R22, R24). -/
theorem test_wait_takes : (nextOf (exec (.wait at0 sync3) (runs { queued 3 (encodeWord (.wait sync3)) with sems := [(63, 65535)] }))).map
    (fun t => (sem (tileOf t at0) 63, (tileOf t at0).q3)) = some (0, []) := by decide +kernel
theorem test_take_underflow : (nextOf (exec (.take at0 sync3) (runs (queued 3 (encodeWord (.take sync3)))))).map
    (fun t => ((partAt t 1).flog.map (fun f => (f.status, f.q, f.sem, f.word)))) =
      some [(0x0301, 3, 63, 5)] := by decide +kernel

/-- REGION_FILL of three bytes over a page's end writes bytes 7, 0 and 1 of the pattern (R336). -/
theorem test_fill : (nextOf (exec (.regionFill q1 ⟨3, 65535, 3, 0x0706050403020100⟩)
    (given regs q1 (.regionFill ⟨3, 65535, 3, 0x0706050403020100⟩) 1))).map
      (fun t => (memGet t.t2.mem (65536 * 6 - 1), memGet t.t2.mem (65536 * 6), memGet t.t2.mem (65536 * 6 + 1))) =
    some (7, 0, 1) := by decide +kernel

/-- A command of a virtual function for another partition is refused with NOT_PERMITTED (R337, R346). -/
theorem test_other_partition : (nextOf (exec (.partStop q1) (given base q1 .partStop 2))).map
    (fun t => t.journal.map (fun r => (r.st, r.status))) = some [(.committed, 0x0104)] := by decide +kernel

/-- BAR2 returns all ones for a poisoned line, and counts it (R328). -/
theorem test_bar2_poison : (nextOf (exec (.bar2Read 64 ⟨2, .none⟩) (base.withT2 { base.t2 with mem := [(64, 5)], pois := [(0, true)] }))).map
    (fun t => (t.io.rsp, mapGet 0 t.ctrs (ctrKey 0 6 0 cB2Poison))) = some ([0xFF, 0xFF], 1) := by decide +kernel

/-- A sum of equal and opposite products is +0, of negative zeros −0 (R60). -/
theorem test_groupSum : ((groupSum false [(fv 0x3C00, fv 0x3C00), (fv 0xBC00, fv 0x3C00)]).x,
    (groupSum false [(fv 0x8000, fv 0x3C00)]).x, (groupSum false [(fv 0x3E00, fv 0x4000)]).x) = (0, 0x80000000, 0x40400000) := by
  decide +kernel

/-! ### The remaining clauses of the partition statements -/

/-- Partition 1 in a state, with a record started before the command given. -/
def started1 (st : PState) (r : JRec) : State := (with1 base (fun x => { x with st := st })).withJournal [r]

/-- A second admin command accepted behind what runs. -/
def behind (s : State) (q : QId) (c : HostCmd) : State := s.withJournal (s.journal ++ [recOf q c 1 .accepted])

theorem witness_partStart_stopping :
    let s := behind stopping1 q0 .partStart
    hostReady s q0 .partStart 1 ∧ (partAt s 1).st = .stopping ∧ runsCmd s 1 isDestroy = false := by decide +kernel

theorem witness_partStart_waits :
    let s := behind (started1 .starting (recOf q1 .partStart 1 .started)) q0 .partStart
    let r := behind (started1 .pendingEnable (recOf q1 .partStart 1 .started)) q0 .partStart
    hostReady s q0 .partStart 1 ∧ (partAt s 1).st = .starting ∧ hostReady r q0 .partStart 1 ∧ (partAt r 1).st = .pendingEnable := by
  decide +kernel

/-- A PART_DESTROY waits for the stop, of a campaign or of the partition. -/
theorem witness_partStart_destroyed :
    let s := behind (started1 .running (recOf q0 .partDestroy 1 .started)) q1 .partStart
    let r := behind (started1 .stopping (recOf q0 .partDestroy 1 .started)) q1 .partStart
    hostReady s q1 .partStart 1 ∧ (partAt s 1).st = .running ∧ runsCmd s 1 isDestroy ∧
      hostReady r q1 .partStart 1 ∧ (partAt r 1).st = .stopping ∧ runsCmd r 1 isDestroy := by decide +kernel

theorem witness_partStop_waits :
    let s := behind (started1 .stopping (recOf q0 .partDestroy 1 .started)) q1 .partStop
    hostReady s q1 .partStop 1 ∧ (partAt s 1).st = .stopping := by decide +kernel

/-- The pending start is another function's. -/
theorem witness_partStop_pending :
    let s := behind (started1 .pendingEnable (recOf q0 .partStart 1 .started)) q1 .partStop
    hostReady s q1 .partStop 1 ∧ (partAt s 1).st = .pendingEnable ∧
      (∃ r ∈ s.journal, r.st = .started ∧ cmdOf 1 isStart r) := by decide +kernel

theorem witness_partDestroy_running :
    let s := given base q0 .partDestroy 1
    hostReady s q0 .partDestroy 1 ∧ (partAt s 1).st = .running ∧ (partAt s 1).camp = none := by decide +kernel

theorem witness_partDestroy_faulted :
    let s := given (with1 base (fun x => { x with st := .faulted, fault := some ⟨0, 0x0304, true, false⟩ })) q0 .partDestroy 1
    hostReady s q0 .partDestroy 1 ∧ (partAt s 1).st = .faulted := by decide +kernel

theorem witness_partDestroy_pending :
    let s := behind (started1 .pendingEnable (recOf q1 .partStart 1 .started)) q0 .partDestroy
    hostReady s q0 .partDestroy 1 ∧ (partAt s 1).st = .pendingEnable ∧
      (∃ r ∈ s.journal, r.st = .started ∧ cmdOf 1 isStart r) := by decide +kernel

theorem witness_partDestroy_waits :
    let s := behind (started1 .starting (recOf q1 .partStart 1 .started)) q0 .partDestroy
    let r := behind stopping1 q0 .partDestroy
    hostReady s q0 .partDestroy 1 ∧ (partAt s 1).st = .starting ∧ hostReady r q0 .partDestroy 1 ∧ (partAt r 1).st = .stopping := by
  decide +kernel

/-- Group 23 is one that a GROUP_ADD waits for. -/
theorem witness_partDestroy_group :
    let s := with1 base (fun x => { x with st := .stopped, wait := [23] })
    (partAt s 1).groups ++ (partAt s 1).wait = [0, 23] ∧ (∀ g ∈ (partAt s 1).groups ++ (partAt s 1).wait, g < 24) := by decide +kernel

theorem witness_groupRemove_number : (∀ g ∈ [0], g ∈ (partAt base 1).groups) ∧ (∀ g ∈ [0], g < 24) := by decide +kernel

/-- An image with a request, and with read-only region 4 at epoch 1. -/
def image9 : CtxImage := { image0 with
  regions := [(3, ⟨rwReg, [5, 6], none, none, []⟩), (4, ⟨roReg, [], some ⟨1, [7, 8], 0, [], 0⟩, none, []⟩)], reqs := [(40, req0)] }

theorem witness_partRestore_request :
    let b : Buf := ⟨0x50000, 65536, 0, false⟩
    let s := given stopped1 q0 (.partRestore b) 1
    hostReady s q0 (.partRestore b) 1 ∧ restoreFits (partAt s 1) image9 ∧ noDup (image9.regions.map (fun e => e.1)) ∧
      [16383].length = image9.reqs.length ∧ noDup [16383] ∧ (∀ e ∈ [16383], e < 16384 ∧ entryTaken s e = false) ∧
      goodPlace s (image9.regions.map (fun e => restorePages e.2)).sum [0, 1, 2, 24903679] ∧
      [16383][0]? = some 16383 ∧ (image9.reqs[0]?).map Prod.snd = some req0 ∧ 5 ∉ [16383] ∧ image9.format = 1 ∧
      image9.level = s.boot.level := by decide +kernel

/-! ### The remaining clauses of the membership, power and boot statements -/

theorem witness_epochAck_cert :
    let s := three 0 (some (4, nextL))
    let r := s.withBoot { s.boot with certId := 100 }
    r.fabric.prop = some (r.fabric.epoch + 1, nextL) ∧ r.fabric.acks ≠ [] ∧ isMember r 1 ∧
      majority r (setPut r.fabric.acks 1 true).length ∧
      nextL.find? (fun e => decide (e.2 = r.boot.certId)) = some (r.fabric.member, r.boot.certId) := by decide +kernel

/-- Members 1 and 2 are reached, and were heard at 5 ms. -/
def reachable (prop : Option (Nat × List (Nat × BitVec 512))) : State :=
  let s := three 0 prop
  s.withFabric { s.fabric with routes := [(1, 11), (2, 11)], heard := [(1, 5000000), (2, 5000000)] }

theorem witness_memberSilent_due :
    let s := three 0 none
    let r := reachable none
    (∀ e ∈ s.fabric.routes, e.1 ≠ 2) ∧ isMember r 2 ∧ r.fabric.leader = r.fabric.member ∧ r.fabric.joins = [] ∧
      r.fabric.prop = none ∧ 2 ≤ r.fabric.members.length ∧ (reachable (some (4, nextL))).fabric.prop.isSome ∧
      ¬ ((mapGet 0 r.fabric.heard 2).toNat + 10000000 ≤ (6000000 : Word64).toNat ∨ (∀ e ∈ r.fabric.routes, e.1 ≠ 2) ∨ false = true) := by
  decide +kernel

/-- This member leaves; port 11 drains, and port 10 as given. -/
def leavingBy (st : PortSt) : State :=
  let s := three 1 none
  s.withFabric { s.fabric with leaving := true, ports := List.replicate 10 Port.reset ++ [{ Port.reset with st := st }, { Port.reset with st := .draining }] }

theorem witness_portDrained_leaving :
    let s := leavingBy .disabled
    let r := leavingBy .draining
    s.fabric.leaving ∧ s.fabric.leader ≠ s.fabric.member ∧ (portAt s (11 : Fin 12)).st = .draining ∧ drained s (11 : Fin 12) ∧
      (∀ k, k < 12 → k ≠ (11 : Fin 12).val → drains (portAt s k) = false) ∧
      r.fabric.leaving ∧ (portAt r (11 : Fin 12)).st = .draining ∧ drained r (11 : Fin 12) ∧
      (∃ k, k < 12 ∧ k ≠ (11 : Fin 12).val ∧ drains (portAt r k)) ∧ grouped r ∧ r.fabric.isolated = false := by decide +kernel

theorem witness_heartbeatSend_leader :
    let s := reachable none
    s.fabric.hbAt.toNat + 1000000 ≤ (1000000 : Word64).toNat ∧ s.fabric.leader = s.fabric.member ∧ isMember s 2 ∧
      2 ≠ s.fabric.member := by decide +kernel

/-- Tile 0 runs segment 0 at G7, in each of the states that a brake begins and ends in. -/
theorem witness_brakes_running :
    let s := runs (seqTile [nop0])
    let r := s.withPower { s.power with brakePin := true, brakeTest := some 1000000 }
    (tileRaw s 0).seg = some ⟨0, 0, 7, 0, 0⟩ ∧ (tileRaw s 1).seg = none ∧ distaffUp s ∧ s.io.perst = false ∧ s.power.brakePin = false ∧
      r.power.brakePin ∧ r.power.brakeTest = some 1000000 ∧ (tileRaw r 0).seg = some ⟨0, 0, 7, 0, 0⟩ ∧ braked r.power := by
  decide +kernel

theorem witness_tbSyncOut_missed :
    let s := base.withTime { base.time with inMs := 1, inLocked := true }
    let r := base.withTime { base.time with inMs := 3 }
    s.time.now.ule 6000000 ∧ (6000000 : Word64).toNat % 1000000 = 0 ∧ s.time.outMs < (6000000 : Word64).toNat / 1000000 ∧
      s.time.inMs ≠ 0 ∧ s.time.inMs < (6000000 : Word64).toNat / 1000000 - 1 ∧
      s.time.inMs + 4 ≤ (6000000 : Word64).toNat / 1000000 - 1 ∧ (4000000 : Word64).toNat / 1000000 - 1 ≤ r.time.inMs := by
  decide +kernel

theorem witness_timing_knowing :
    parentPort (knowing follower []) (11 : Fin 12) ∧ timeMaster (knowing follower []) ≠ follower.fabric.member ∧
      parentPort (knowing follower [1, 2]) (11 : Fin 12) ∧ timeMaster (knowing follower [1, 2]) ≠ follower.fabric.member := by
  decide +kernel

/-- The link is down in L2, or has never come up; and one with a command started before it was lost. -/
theorem witness_pcieLink :
    let s := base.withIo { base.io with linkUp := false, linkLost := true }
    let r := s.withJournal [recOf q1 (.copyIn copy3) 1 .started]
    base.io.linkUp ∧ r.io.linkUp = false ∧ r.io.linkLost ∧ r.boot.phase = .utora ∧ (faultsNow r t2m).length < 3 ∧
      (r.boot.jrnA && r.boot.jrnB) = false ∧ recPart (recOf q1 (.copyIn copy3) 1 .started) = 1 ∧ (partAt r 1).camp = none ∧
      (partAt r 1).st = .running := by decide +kernel

theorem witness_deviceFault_warm :
    let s := base.withBoot { base.boot with resume := none }
    let r := base.withBoot { base.boot with phase := .rom, fw := 0, resume := some .plain }
    s.boot.phase = .utora ∧ s.boot.resume = none ∧ (faultsNow s t2m).length < 3 ∧ (∀ p, (partAt s p).camp = none) ∧
      r.boot.phase = .rom ∧ r.boot.resume = some .plain ∧ (faultsNow r t2m).length < 3 ∧
      DevCause.package 3 true ≠ .watchdog ∧ DevCause.package 3 true ≠ .linkLoss ∧ DevCause.hubState ≠ .package 3 true := by
  refine ⟨by decide +kernel, by decide +kernel, by decide +kernel, fun p => ?_, by decide +kernel⟩
  change (base.parts.getD p Part.unused).camp = none
  by_cases h : p < 32
  · exact (by decide +kernel : ∀ p, p < 32 → (base.parts.getD p Part.unused).camp = none) p h
  · rw [List.getD_eq_default _ _ (Nat.le_trans (by decide +kernel : base.parts.length ≤ 32) (Nat.le_of_not_lt h))]
    rfl

theorem witness_watchdog_map : ∀ e ∈ cores3.boot.repair, rxKind e = 8 → rxLogical e ∉ cores3.boot.core :=
  fun _ h => (List.not_mem_nil (show _ ∈ ([] : List (BitVec 64)) from h)).elim

theorem witness_spares :
    (8388607 : Nat) < t0Size ∧ (8191 : Nat) < 8192 ∧
      unusedSpares (base.withBoot { base.boot with cfgA := some (cfgOf 1 0 3) }) 11 (1 : Fin 2) ≠ [] ∧
      recentErrs (tileRaw base 0).errs t2m = [] ∧
      recentErrs [1000000] t2m ≠ [] := by decide +kernel

theorem witness_powerLoss_below : inputOff base = false ∧ 44999 < 45000 ∧ 20000 ≤ 20000 ∧ 39999 < 40000 := by decide +kernel

theorem witness_reservedT2 :
    let s := heldState.withBoot { heldState.boot with phase := .rom }
    let r := romState
    s.boot.phase = .rom ∧ s.boot.resvT2 = false ∧ s.boot.held = none ∧ r.boot.phase = .rom ∧ r.boot.resvT2 ∧ r.boot.restT2 = false := by
  decide +kernel

/-- One image for each check of R397, with the checks before it met. -/
theorem witness_images_refused :
    let s := romState
    let big := s.withBoot { s.boot with mbLen := 268435457 }
    let of (f len n : Nat) : ImageP := { image2 with
      bytes := leBytes 256 (packFields [⟨0, 32, f⟩, ⟨32, 32, 3⟩, ⟨64, 16, 1⟩, ⟨96, 32, len⟩, ⟨128, 32, n⟩]) ++ List.replicate 4727 0 }
    bar0Up s ∧ s.boot.mbState ≠ 1 ∧ s.boot.fw = 0 ∧ s.boot.resvT2 ∧ 268435456 < big.boot.mbLen ∧ s.boot.mbLen ≤ 268435456 ∧
      (of 1 356 100).bytes.length = s.boot.mbLen ∧ (of 2 356 100).format ≠ 1 ∧ (of 1 357 100).format = 1 ∧ (of 1 357 100).readOk ∧
      (of 1 357 100).len + 4627 ≠ s.boot.mbLen ∧ (of 1 356 101).len + 4627 = s.boot.mbLen ∧
      (of 1 356 101).len < 256 + (of 1 356 101).certLen ∧ (of 1 356 100).certOk ∧
      256 + (of 1 356 100).certLen ≤ (of 1 356 100).len ∧ (of 1 356 100).sigOk ∧ activeCfg s = some (cfgOf 1 0 3) ∧
      (imageOf 2).svn < (cfgOf 1 0 3).minsvn := by decide +kernel

theorem witness_images_busy : [1, 2, 4].all (fun f =>
    let s := romState.withBoot { romState.boot with fw := f }
    bar0Up s && decide (s.boot.mbState ≠ 1) && decide (s.boot.fw = f)) := by decide +kernel

theorem witness_registers_vf : (1 : Fin 32) ≠ 0 ∧ (fnAt base (1 : Fin 32)).even ∧ (fnAt base (5 : Fin 32)).even = false ∧
    (fnAt base (5 : Fin 32)).aqen = false ∧ (fnAt base (1 : Fin 32)).aqen ∧ bar0Up base := by decide +kernel

/-- A vector that waits, as it is unmasked. -/
theorem witness_registers_vector :
    let s := setFn base 1 { fnAt base 1 with msix := ⟨0xFEE00000, 5, true, true⟩ :: List.replicate 63 MsixE.reset }
    ((fnAt s (1 : Fin 32)).msix.getD 0 MsixE.reset).pend := by decide +kernel

/-- A read of BAR2 in which the codes find an uncorrectable sector, in a line that was good. -/
theorem witness_bar2_errs :
    let u := meetErrs base (windowLines ((fnAt base 0).w2base * 2 ^ 30 + 0) 4) ⟨[0], [], [], [], []⟩
    inPoisonedLine u 0 := ⟨0, by decide +kernel, by decide +kernel⟩

theorem witness_i3c_silent :
    let s := base.withIo { base.io with inputOn := false }
    distaffUp s ∧ s.io.inputOn = false ∧ base.io.inputOn ∧ distaffUp (base.withBoot { base.boot with phase := .dark }) = false := by
  decide +kernel

/-! ### The remaining clauses of the event, campaign and queue statements -/

theorem witness_startingComplete_stops :
    let s := behind (started1 .starting (recOf q0 .partStart 1 .started)) q1 .partStop
    let r := s.withJournal (s.journal.map (fun x => { x with st := .started }))
    (partAt r (1 : Fin 32)).st = .starting ∧ hubUp r ∧ runsCmd r (1 : Fin 32) isStop ∧
      (∃ x ∈ r.journal, x.st = .started ∧ cmdOf (1 : Fin 32) isStart x) := by decide +kernel

/-- Another function has started partition 1, and function 1 has a command started and one accepted. -/
theorem witness_functionLevelReset_journal :
    let s := base.withJournal [recOf q0 .partStart 1 .started, recOf q1 (.copyIn copy3) 1 .started, recOf qStop .partStop 1 .accepted]
    (∃ r ∈ s.journal, r.q.fn ≠ 1 ∧ r.st = .started ∧ cmdOf (1 : Fin 32) isStart r) ∧
      (∃ r ∈ s.journal, r.q.fn = 1 ∧ r.st = .started) ∧ (∃ r ∈ s.journal, r.q.fn = 1 ∧ r.st = .accepted) := by decide +kernel

/-- Frame 5 is being filled from the host, with page 0 of region 9. -/
def hostFill : State :=
  let s := store 1 none
  (s.withParts (s.parts.map (fun x => if x.st = .running then { x with
    regions := x.regions ++ [(9, ⟨{ roReg with hostback := true }, [], some ⟨1, [], 0x60000, [], 0⟩, none, []⟩)] } else x))).withT1 { s.t1 with
      frames := [(5, ⟨⟨1, 9, 1, 0⟩, false, false, [], 0, 0, false, none, [], []⟩)] }

theorem witness_t1FillLand_host :
    let f : Frame := ⟨⟨1, 9, 1, 0⟩, false, false, [], 0, 0, false, none, [], []⟩
    frameAt hostFill 5 = some f ∧ f.whole = false ∧ fillRuns hostFill 5 ∧ fillFromHost hostFill f.key ∧ f.pin = false ∧
      f.nxt = none ∧ hostFill.t1.pins = [] ∧ keyCurrent hostFill f.key ∧ TransWhy.noPermission ≠ .timeout ∧
      fillFromHost (store 1 none) ⟨1, 4, 1, 0⟩ = false := by decide +kernel

/-- A reward turn in which no segment runs, and one is left. -/
theorem witness_campaignStop_ends :
    let r := { run0 with live := [] }
    let s := stopGiven (runs (seqTile [nop0]))
    let c := campRun r turn0
    let u := s.withParts (s.parts.map (fun x => if x.st = .running then { x with camp := some c } else x))
    hostReady u qStop .campaignStop 1 ∧ (partAt u 1).camp = some c ∧ c.phase = .turn ∧ c.stop = false ∧ c.fin = none ∧
      turnOf (partAt u 1) = some turn0 ∧ turn0.kind = .reward ∧ c.run = some r ∧ r.kind = .reward ∧ r.ended2 = false ∧ r.live = [] ∧
      turnMet (partAt u 1) r turn0 = false ∧ issues u 1 := by decide +kernel

/-- The last turn record of a campaign that has ended is due, and a CAMPAIGN_STOP waits. -/
theorem witness_campaignCloses :
    let x : RecDue := ⟨0x80000, [1, 2], none⟩
    let c := { campAt with phase := .closing, due := [x], fin := some (0, some 1) }
    let s := inCamp c
    let u := s.withJournal (s.journal ++ [recOf qStop .campaignStop 1 .started])
    Inv u ∧ hubUp u ∧ (partAt u (1 : Fin 32)).camp = some c ∧ c.due = [x] ∧ c.fin = some (0, some 1) ∧ c.badRec = false ∧
      ((headRec u c.q).map (fun r => (r.st, isCampStop r.entry.cmd))) = some (.started, false) ∧
      (∃ z ∈ u.journal, z.st = .started ∧ cmdOf (1 : Fin 32) isCampStop z) ∧ u.time.now.ule 1000000 ∧
      (fnAt (u.withFns (List.replicate 32 Fn.reset)) 0).even = false := by decide +kernel

/-- A destination piece on this member whose source stands on the other, and the learning turn that a stop ends. -/
theorem witness_digest_sources :
    let c := switchCamp .rendezvous false none
    let s := switching c
    (∀ x ∈ [pairX], ∀ d ∈ x.pieces, d.dst → (∃ k ∈ posList d, memberAt c k = s.fabric.member) →
      ∀ y ∈ sourcesOf x d, memberAt c (srcPos y (x.hd.repl.headD 0)) ≠ s.fabric.member) ∧ piece0.dst ∧
      (∃ k ∈ posList piece0, memberAt c k = s.fabric.member) := by decide +kernel

theorem witness_switchPublish_learning :
    let c := { switchCamp .switching true (some landed) with
      p := { camp2 with turns := [{ turnL with pairs := [8] }] }, stops := [(0, 5), (1, 9)] }
    ((c.p.turns[c.turnIx]?).map (fun t => (t.kind, t.lt.step0))) = some (.learning, 10) ∧ stopsKnown c ∧ stopBoundAt c c.turnIx ≤ 10 := by
  decide +kernel

theorem witness_closeList_bad :
    (1 : Nat) ≠ 0 ∧ progC.colls.find? (fun y => decide (y.id = close10.coll)) = some collA ∧
      (from1.frm, from1.seq) ∉ (learning progC (campL 0 (runL [] []) turnL)).fabric.seen := by decide +kernel

/-- A fetch request and a report of lost bytes, for a partition without a campaign. -/
theorem witness_chunkReceive_messages :
    let f : FetchP := ⟨1, 8, 0, 0, false, 0, 64⟩
    let l : LostP := ⟨1, 4, 0, 1, 0, 64⟩
    (from1.frm, from1.seq) ∉ (three 1 none).fabric.seen ∧ (partAt (three 1 none) f.part).camp = none ∧
      (partAt (three 1 none) l.part).camp = none := by decide +kernel

/-- A function's PART_STOP for another partition, and a command of the PF's own that it gives for its partition. -/
theorem witness_otherPartition :
    let s := given base q1 .partStop 2
    let r := given base q1 (.partQuota ⟨8, 0, 0, 0, 8, 8⟩) 1
    hostInstr (.partStop q1) = some (q1, .partStop) ∧ ((canStart s q1 .partStop).map recPart) = some 2 ∧ q1.fn ≠ 0 ∧
      s.boot.restT2 ∧ (2 ≠ q1.fn.val) ∧ (canStart r q1 (.partQuota ⟨8, 0, 0, 0, 8, 8⟩)).isSome ∧
      pfOnly (.partQuota ⟨8, 0, 0, 0, 8, 8⟩) := by decide +kernel

theorem witness_queueDelete_idle :
    (∀ n, n < 8 → 1 ≤ n → sqAt base q1.fn n = none) ∧ (sqAt moreQueues q1.fn 7).map (fun y => y.buf) = some [] := by decide +kernel

end Sys2Proof.Tests
end

section
/-! PROOFS. The scope statements of the family 00_scope.md: the state after reset, that every command completes, the window of BAR2,
and how faults and function-level resets complete. The lemmas say once what each operation that these rows share changes. -/

namespace Sys2Proof.Machine

open Sys2Proof

/-! ### The state after reset (R5) -/

/-- A list of one repeated value answers that value at every index where it is also the default. -/
theorem getD_replicate_self {α : Type} (n i : Nat) (a : α) : (List.replicate n a).getD i a = a := by
  rw [List.getD_eq_getElem?_getD, List.getElem?_getD_replicate_default_eq]

theorem reset_sized : Sized State.reset :=
  ⟨rfl, rfl, rfl, rfl, fun x hx => by
    rw [List.eq_of_mem_replicate (show x ∈ List.replicate 32 Fn.reset from hx)]
    exact ⟨rfl, rfl, rfl⟩⟩

theorem reset_inv : Inv State.reset := ⟨reset_sized, reset_canonical⟩

theorem reset_tilesOk : TilesOk State.reset := fun _ he => absurd he List.not_mem_nil

@[simp] theorem fnAt_reset (f : Nat) : fnAt State.reset f = Fn.reset := getD_replicate_self ..

/-- Every partition but partition 0 is UNUSED after reset (R338). -/
theorem partAt_reset_of_pos {p : Nat} (h : 1 ≤ p) : partAt State.reset p = Part.unused := by
  obtain ⟨k, rfl⟩ := Nat.exists_eq_add_of_le' h
  exact getD_replicate_self ..

theorem groupAt_reset {g : Nat} (h : g < 24) : groupAt State.reset g = ⟨.free, 0⟩ :=
  List.getD_replicate _ h

@[simp] theorem portAt_reset (n : Nat) : portAt State.reset n = Port.reset := getD_replicate_self ..

@[simp] theorem sqAt_reset (f n : Nat) : sqAt State.reset f n = none := by
  rw [sqAt, fnAt_reset]
  exact getD_replicate_self ..

@[simp] theorem cqAt_reset (f n : Nat) : cqAt State.reset f n = none := by
  rw [cqAt, fnAt_reset]
  exact getD_replicate_self ..

/-- The table of vectors after reset: 64 masked ones (log entry 5). -/
theorem msix_reset {v : Nat} (h : v < 64) (d : MsixE) : Fn.reset.msix.getD v d = MsixE.reset :=
  List.getD_replicate _ h

/-- A tile is not stored after reset and so reads as its reset state (R47), with registers that read 0. -/
@[simp] theorem sreg_reset (r : Nat) : sreg Tile.reset r = 0 := by
  simp [sreg, Tile.reset, mapGet]

/-- Settles O27: each table of the reset state is a list of one repeated value, partition 0 apart. -/
theorem resetMeetsTheInvariant : Obligations.ResetMeetsTheInvariant := by
  refine ⟨reset_inv, reset_tilesOk, rfl, rfl, rfl, rfl, fun p hp _ => partAt_reset_of_pos hp, fun g hg => groupAt_reset hg,
    fun f n _ _ => ⟨sqAt_reset f n, cqAt_reset f n⟩, fun f v _ hv => ?vectors, fun n _ => ?ports, fun n r => ?tiles⟩
  case vectors => rw [fnAt_reset, msix_reset hv]; rfl
  case ports => rw [portAt_reset]; rfl
  case tiles => exact ⟨sreg_reset r, rfl⟩

/-! ### What a command's row answers -/

/-- A host command's row always answers with a next state: the state as it was, a completion by a check, or its meaning. -/
theorem hostCmd_next (s : State) (q : QId) (c : HostCmd) (f : State → Nat → State) :
    ∃ t, hostCmd s q c f = .next t :=
  ⟨_, rfl⟩

/-- A row that a condition on the module holds back answers with a next state either way. -/
theorem next_of_gate {g : Prop} [Decidable g] {s : State} {o : Out} (h : ∃ t, o = .next t) :
    ∃ t, (if g then ok s else o) = .next t := by
  split
  · exact ⟨s, rfl⟩
  · exact h

/-- BAR2_READ stops beyond the window and nowhere else (R324). -/
theorem execBar2Read_answers (x : Nat) (l : BarLen) (s : State) :
    (∃ t, execBar2Read x l s = .next t) ∨ (execBar2Read x l s = .fault .outsideWindow ∧ windowSize < x + l.n) := by
  by_cases h : windowSize < x + l.n
  · exact .inr ⟨if_pos h, h⟩
  · exact .inl ⟨_, if_neg h⟩

/-- BAR2_WRITE stops beyond the window and nowhere else (R324). -/
theorem execBar2Write_answers (x : Nat) (data : List Byte) (s : State) :
    (∃ t, execBar2Write x data s = .next t) ∨
      (execBar2Write x data s = .fault .outsideWindow ∧ windowSize < x + data.length) := by
  by_cases h : windowSize < x + data.length
  · exact .inr ⟨if_pos h, h⟩
  · exact .inl ⟨_, if_neg h⟩

/-- TAP_PRIVATE_DEBUG stops after an unlock and not before (R420). -/
theorem execTapPrivateDebug_answers (n : Nat) (s : State) :
    (∃ t, execTapPrivateDebug n s = .next t) ∨
      (execTapPrivateDebug n s = .refused .privateDebug ∧ s.io.tapUnlocked = true) := by
  by_cases h : s.io.tapUnlocked = true
  · exact .inr ⟨if_pos h, h⟩
  · exact .inl ⟨_, if_neg h⟩

/-- What any row answers, by the kind of its meaning: the two accesses through BAR2 and TAP_PRIVATE_DEBUG may stop; four host
commands wait for a condition on the module; every other host command, event and word acts, completes by a check or leaves the
state, and so answers with a next state. -/
theorem exec_answers (c : Instr) (s : State) :
    (∃ t, exec c s = .next t) ∨
    (exec c s = .fault .outsideWindow ∧ ((∃ x n, c = .bar2Read x n ∧ windowSize < x + n.n) ∨
      (∃ x data, c = .bar2Write x data ∧ windowSize < x + data.length))) ∨
    (exec c s = .refused .privateDebug ∧ s.io.tapUnlocked ∧ ∃ n, c = .tapPrivateDebug n) := by
  cases c with
  | bar2Read x n => exact (execBar2Read_answers x n s).imp id fun ⟨e, h⟩ => .inl ⟨e, .inl ⟨x, n, rfl, h⟩⟩
  | bar2Write x data => exact (execBar2Write_answers x data s).imp id fun ⟨e, h⟩ => .inl ⟨e, .inr ⟨x, data, rfl, h⟩⟩
  | tapPrivateDebug n => exact (execTapPrivateDebug_answers n s).imp id fun ⟨e, h⟩ => .inr ⟨e, h, n, rfl⟩
  | partCreate | regionCreate | snapshotAt | snapshotMark => exact .inl (next_of_gate (hostCmd_next ..))
  | _ => exact .inl ⟨_, rfl⟩

/-- Settles O25: a stop is an access beyond the window or a debug instruction after an unlock. -/
theorem everyCommandCompletes : Obligations.EveryCommandCompletes := by
  intro c s
  refine ⟨fun hread hwrite hdebug => ?_, exec_answers c s⟩
  obtain done | ⟨-, ⟨x, n, rfl, beyond⟩ | ⟨x, data, rfl, beyond⟩⟩ | ⟨-, unlocked, n, rfl⟩ := exec_answers c s
  · exact done
  · exact absurd (hread x n rfl) (by omega)
  · exact absurd (hwrite x data rfl) (by omega)
  · exact absurd unlocked (by simp [hdebug n rfl])

/-! ### The counters and poison that reads meet -/

/-- Writing what a canonical table reads changes nothing: no entry of it is the default. -/
theorem mapSet_mapGet {α : Type} [DecidableEq α] (d : α) (m : Map α) (i : Nat) (h : mapWf d m = true) :
    mapSet d m i (mapGet d m i) = m := by
  induction m with
  | nil => simp [mapSet, mapGet]
  | cons a r ih =>
    obtain ⟨rises, hv⟩ := (mapWf_iff _ _).1 h
    obtain ⟨above, hr⟩ := (keysRise_cons _ _).1 rises
    have hd : a.2 ≠ d := hv a (List.mem_cons_self ..)
    have ih := ih ((mapWf_iff _ _).2 ⟨hr, fun e he => hv e (List.mem_cons_of_mem _ he)⟩)
    have low (hi : i ≤ a.1) : mapGet d r i = d := mapGet_above d above hi
    obtain ⟨k, w⟩ := a
    simp only [mapSet, mapGet]
    grind

/-- Adding nothing to a counter changes nothing. -/
theorem addCtr_zero (s : State) (k : Nat) (h : mapWf 0 s.ctrs = true) : addCtr s k 0 = s := by
  have : mapSet 0 s.ctrs k (mapGet 0 s.ctrs k + BitVec.ofNat 64 0) = s.ctrs := by
    simpa using mapSet_mapGet 0 s.ctrs k h
  rw [addCtr, this]; rfl

/-! ### What the error codes find (R208) -/

/-- What the error codes' findings leave alone: the bytes of module memory and the canonical form of the counters. -/
structure MemKept (s t : State) : Prop where
  bytes : t.t2.mem = s.t2.mem
  counters : mapWf 0 s.ctrs = true → mapWf 0 t.ctrs = true

theorem MemKept.refl (s : State) : MemKept s s := ⟨rfl, id⟩

theorem MemKept.trans {s t u : State} (h : MemKept s t) (g : MemKept t u) : MemKept s u :=
  ⟨g.bytes.trans h.bytes, g.counters ∘ h.counters⟩

theorem MemKept.foldl {f : State → Nat → State} (h : ∀ s k, MemKept s (f s k)) (l : List Nat) (s : State) :
    MemKept s (l.foldl f s) := by
  induction l generalizing s with
  | nil => exact .refl s
  | cons k r ih => exact (h s k).trans (ih _)

theorem addCtr_memKept (s : State) (k n : Nat) : MemKept s (addCtr s k n) := ⟨rfl, mapWf_mapSet _ _ k _⟩

theorem eccFixed_memKept (num : Nat) (s : State) (k : Nat) : MemKept s (eccFixed num s k) := addCtr_memKept ..

theorem addHist_memKept (s : State) (cls kind unit : Nat) (d : Word64) (r : Bool) :
    MemKept s (addHist s cls kind unit d r) := by
  obtain ⟨b, e⟩ := addHist_changes s cls kind unit d r
  exact e ▸ ⟨rfl, id⟩

theorem sectorFixed_memKept (s : State) (k : Nat) : MemKept s (sectorFixed s k) := by
  have noted (l : List Fixed) : MemKept s (s.withT2 { s.t2 with fixed := l }) := ⟨rfl, id⟩
  exact ((noted _).trans (addCtr_memKept ..)).trans (addHist_memKept ..)

theorem sectorBroken_memKept (s : State) (k : Nat) : MemKept s (sectorBroken s k) := ⟨rfl, id⟩

/-- A read's errors poison sectors and are counted; they change no byte (R208). -/
theorem meetErrs_memKept (s : State) (lines : List Nat) (e : ReadErrs) : MemKept s (meetErrs s lines e) := by
  unfold meetErrs
  exact (((MemKept.foldl (eccFixed_memKept _) _ _).trans (.foldl (eccFixed_memKept _) _ _)).trans
    (.foldl sectorFixed_memKept _ _)).trans (.foldl sectorBroken_memKept _ _)

theorem meetErrs_none (s : State) (lines : List Nat) : meetErrs s lines .none = s := rfl

/-! ### The window (R328) -/

/-- Offset x addresses module address ID.W2BASE × 1 GiB + x (R328). -/
theorem window_eq (s : State) (x : Nat) : (fnAt s 0).w2base * 2 ^ 30 + x = windowAddr s x := by
  rw [windowAddr, show 2 ^ 30 = 1073741824 by norm_num]

theorem windowRead_length (s : State) (a n : Nat) : (windowRead s a n).length = n := by simp [windowRead]

/-- The line of a byte is poisoned where one of its four sectors is. -/
theorem any_secPois_iff (s : State) (b : Nat) :
    (List.range 4).any (fun j => secPois s.t2 (b / 128 * 4 + j)) = true ↔ inPoisonedLine s b := by
  simp [inPoisonedLine]

theorem windowRead_getD {s : State} {a n k : Nat} (hk : k < n) :
    (windowRead s a n).getD k 0 =
      if reservedBase ≤ a + k ∨ (List.range 4).any (fun j => secPois s.t2 ((a + k) / 128 * 4 + j)) then 0xFF#8
      else memGet s.t2.mem (a + k) := by
  simp only [windowRead, List.getD_eq_getElem?_getD, List.getElem?_map, List.getElem?_range hk, Option.map_some,
    Option.getD_some]

theorem windowRead_hidden {s : State} {a n k : Nat} (hk : k < n) (h : reservedBase ≤ a + k ∨ inPoisonedLine s (a + k)) :
    (windowRead s a n).getD k 0 = 0xFF#8 := by
  rw [windowRead_getD hk, if_pos (h.imp_right (any_secPois_iff s _).2)]

theorem windowRead_byte {s : State} {a n k : Nat} (hk : k < n) (hr : a + k < reservedBase)
    (hp : ¬ inPoisonedLine s (a + k)) : (windowRead s a n).getD k 0 = memGet s.t2.mem (a + k) := by
  rw [windowRead_getD hk, if_neg]
  rintro (h | h)
  · exact absurd hr (Nat.not_lt.2 h)
  · exact hp ((any_secPois_iff s _).1 h)

/-- The poisoned lines that a read of n bytes at a meets below the reserved memory, counted from its first line (R328). -/
def badLines (s : State) (a n : Nat) : List Nat :=
  (List.range (if n = 0 then 0 else cdiv (a % 128 + n) 128)).filter (fun k =>
    (List.range 4).any (fun j => secPois s.t2 ((a / 128 + k) * 4 + j)) && decide (a + 128 * k < reservedBase))

/-- The state after a read whose errors have been met: poisoned lines counted, the answer held with the pins. -/
def windowAnswer (u : State) (a n : Nat) : State :=
  let v := addCtr u (ctrKey 0 6 0 cB2Poison) (badLines u a n).length
  v.withIo { v.io with rsp := windowRead v a n }

theorem windowAnswer_rsp (u : State) (a n : Nat) : (windowAnswer u a n).io.rsp = windowRead u a n := rfl

theorem windowAnswer_ctrs (u : State) (a n : Nat) :
    (windowAnswer u a n).ctrs = (addCtr u (ctrKey 0 6 0 cB2Poison) (badLines u a n).length).ctrs := rfl

/-- A read changes the held answer and the counters alone. -/
theorem windowAnswer_frame (u : State) (a n : Nat) :
    ((windowAnswer u a n).withIo { (windowAnswer u a n).io with rsp := u.io.rsp }).withCtrs u.ctrs = u := rfl

/-- A read inside the window meets its errors and is answered. -/
theorem exec_bar2Read {s : State} {x n : Nat} {errs : ReadErrs} (hup : bar0Up s = true) (hin : x + n ≤ windowSize) :
    exec (.bar2Read x ⟨n, errs⟩) s =
      .next (windowAnswer (meetErrs s (windowLines (windowAddr s x) n) errs) (windowAddr s x) n) := by
  show execBar2Read x ⟨n, errs⟩ s = _
  rw [execBar2Read, if_neg (Nat.not_lt.2 hin), ok, hup]
  rfl

theorem exec_bar2Read_beyond {s : State} {x n : Nat} {errs : ReadErrs} (h : windowSize < x + n) :
    exec (.bar2Read x ⟨n, errs⟩) s = .fault .outsideWindow := by
  show execBar2Read x ⟨n, errs⟩ s = _
  rw [execBar2Read, if_pos h]

/-- A line that a read touches holds a byte of it: without a poisoned byte no line is counted. -/
theorem badLines_eq_nil {s : State} {a n : Nat} (h : ∀ k, k < n → ¬ inPoisonedLine s (a + k)) : badLines s a n = [] := by
  rw [badLines, List.filter_eq_nil_iff]
  intro k hk
  have hk : k < if n = 0 then 0 else cdiv (a % 128 + n) 128 := List.mem_range.1 hk
  have hn : n ≠ 0 := by rintro rfl; simp at hk
  rw [if_neg hn, cdiv] at hk
  -- a byte of the read in line k of it
  obtain ⟨j, hj, hline⟩ : ∃ j < n, (a + j) / 128 = a / 128 + k := by
    by_cases hz : k = 0
    · exact ⟨0, by omega, by omega⟩
    · exact ⟨128 * k - a % 128, by omega, by omega⟩
  have := h j hj
  rw [← any_secPois_iff, hline] at this
  simp [this]

/-- A read within one poisoned line counts it once. -/
theorem badLines_length_one {s : State} {a n : Nat} (hn : 0 < n) (hline : a % 128 + n ≤ 128) (hr : a + n ≤ reservedBase)
    (hp : inPoisonedLine s a) : (badLines s a n).length = 1 := by
  have one : cdiv (a % 128 + n) 128 = 1 := by rw [cdiv]; omega
  have counted := (any_secPois_iff s a).2 hp
  have low : a < reservedBase := Nat.lt_of_lt_of_le (Nat.lt_add_of_pos_right hn) hr
  rw [badLines, if_neg (Nat.pos_iff_ne_zero.1 hn), one, List.range_one,
    List.filter_cons_of_pos (by simpa [low] using counted)]
  rfl

/-- Does a write through the window touch a byte of a region of a partition that is not at rest (R328)? -/
def touchesLive (s : State) (a n : Nat) : Bool := (List.range n).any (fun k => inLiveRegion s (a + k))

theorem touchesLive_iff (s : State) (a n : Nat) : touchesLive s a n = true ↔ ∃ k, k < n ∧ inLiveRegion s (a + k) := by
  simp [touchesLive]

/-- Module memory after a write at an address: Utora's reserved memory is left alone, and whole sectors lose their poison. -/
def windowWritten (t : T2U) (a : Nat) (data : List Byte) : T2U :=
  let b := data.take (reservedBase - a)
  clearPoison { t with mem := memWrite t.mem a b } a b.length

/-- What a write inside the window does. -/
theorem exec_bar2Write {s : State} {x : Nat} {data : List Byte} (hup : bar0Up s = true)
    (hin : x + data.length ≤ windowSize) :
    exec (.bar2Write x data) s = .next (
      if !(fnAt s 0).w2we ∨ touchesLive s (windowAddr s x) data.length then addCtr s (ctrKey 0 6 0 cB2Drop) 1
      else s.withT2 (windowWritten s.t2 (windowAddr s x) data)) := by
  show execBar2Write x data s = _
  rw [execBar2Write, if_neg (Nat.not_lt.2 hin), ok, hup]
  rfl

/-- A write takes effect where writes are enabled and it touches no live region. -/
theorem exec_bar2Write_takes {s : State} {x : Nat} {data : List Byte} (hup : bar0Up s = true)
    (hin : x + data.length ≤ windowSize) (enabled : (fnAt s 0).w2we = true)
    (free : ∀ k, k < data.length → inLiveRegion s (windowAddr s x + k) = false) :
    exec (.bar2Write x data) s = .next (s.withT2 (windowWritten s.t2 (windowAddr s x) data)) := by
  rw [exec_bar2Write hup hin, if_neg]
  rw [touchesLive_iff]
  rintro (h | ⟨k, hk, h⟩)
  · simp [enabled] at h
  · simp [free k hk] at h

/-- Any other write is dropped whole and counted. -/
theorem exec_bar2Write_drops {s : State} {x : Nat} {data : List Byte} (hup : bar0Up s = true)
    (hin : x + data.length ≤ windowSize) (refused : (fnAt s 0).w2we = false ∨
      ∃ k, k < data.length ∧ inLiveRegion s (windowAddr s x + k)) :
    exec (.bar2Write x data) s = .next (addCtr s (ctrKey 0 6 0 cB2Drop) 1) := by
  rw [exec_bar2Write hup hin, if_pos]
  rw [touchesLive_iff]
  exact refused.imp_left fun h => by simp [h]

theorem exec_bar2Write_beyond {s : State} {x : Nat} {data : List Byte} (h : windowSize < x + data.length) :
    exec (.bar2Write x data) s = .fault .outsideWindow := by
  show execBar2Write x data s = _
  rw [execBar2Write, if_pos h]

/-- Bytes written below the reserved memory are there, and no other byte changes (R328). -/
theorem memGet_windowWritten (t : T2U) (a x : Nat) (data : List Byte) (h : Memory.wf t.mem = true) :
    memGet (windowWritten t a data).mem x =
      if a ≤ x ∧ x < a + data.length ∧ x < reservedBase then data.getD (x - a) 0 else memGet t.mem x := by
  have bytes : (windowWritten t a data).mem = memWrite t.mem a (data.take (reservedBase - a)) := setPois_fold_mem ..
  rw [bytes, memGet_memWrite _ a x _ h, List.length_take]
  by_cases hx : a ≤ x ∧ x < a + data.length ∧ x < reservedBase
  · obtain ⟨low, high, below⟩ := hx
    rw [if_pos ⟨low, by omega⟩, if_pos ⟨low, high, below⟩, List.getD_eq_getElem?_getD, List.getElem?_take_of_lt (by omega),
      List.getD_eq_getElem?_getD]
  · rw [if_neg hx, if_neg (by omega)]

/-- Settles O14: each access is its equation above, for a read, a write that takes effect, a write that is dropped, and an access
beyond the window. -/
theorem windowReadsAndWrites : Obligations.WindowReadsAndWrites := by
  intro s x hinv hup
  obtain ⟨-, memory, -, -, counters⟩ := hinv
  simp only [window_eq]
  refine ⟨fun n errs hin => ?read, fun data hin enabled free => ?write, fun data hin refused => ?drop,
    fun n errs beyond => exec_bar2Read_beyond beyond, fun data beyond => exec_bar2Write_beyond beyond⟩
  case read =>
    obtain ⟨bytes, kept⟩ := meetErrs_memKept s (windowLines (windowAddr s x) n) errs
    refine ⟨_, _, exec_bar2Read hup hin, rfl, ?noErrors, bytes, ?_⟩
    case noErrors => rintro rfl; exact meetErrs_none ..
    generalize meetErrs s (windowLines (windowAddr s x) n) errs = u at bytes kept ⊢
    rw [windowAnswer_rsp, windowAnswer_ctrs, ← bytes]
    refine ⟨windowRead_length .., fun k hk h => windowRead_hidden hk h, fun k hk hr hp => windowRead_byte hk hr hp,
      windowAnswer_frame .., fun clean => ?unpoisoned, fun hn hline hr hp => ?poisoned⟩
    case unpoisoned =>
      rw [badLines_eq_nil clean, List.length_nil, addCtr_zero _ _ (kept counters)]
    case poisoned =>
      have hline : windowAddr s x % 128 + n ≤ 128 := by simp only [windowAddr]; omega
      rw [badLines_length_one hn hline hr hp, addCtr_get _ _ _ _ (kept counters), if_pos rfl]
      rfl
  case write =>
    refine ⟨_, exec_bar2Write_takes hup hin enabled free, fun k hk below => ?_, fun a outside => ?_,
      by rw [State.withT2_twice, State.withT2_self]⟩
    · rw [State.withT2_t2, memGet_windowWritten _ _ _ _ memory,
        if_pos ⟨Nat.le_add_right .., Nat.add_lt_add_left hk _, below⟩, Nat.add_sub_cancel_left]
    · rw [State.withT2_t2, memGet_windowWritten _ _ _ _ memory, if_neg]
      rintro ⟨low, high, below⟩
      obtain h | h := outside
      · exact h (a - windowAddr s x) (by omega) (Nat.add_sub_cancel' low).symm
      · omega
  case drop =>
    refine ⟨_, exec_bar2Write_drops hup hin refused, ?_, rfl⟩
    rw [addCtr_get _ _ _ _ counters, if_pos rfl]
    rfl

/-! ### Partitions after an update -/

theorem partAt_congr {s t : State} (h : t.parts = s.parts) (k : Nat) : partAt t k = partAt s k := by
  rw [partAt, partAt, h]

theorem partAt_updPart_self {s : State} {p : Nat} (f : Part → Part) (h : p < s.parts.length) :
    partAt (updPart s p f) p = f (partAt s p) := by
  rw [updPart, partAt_setPart s p p _ h, if_pos rfl]

theorem partAt_updPart_ne (s : State) {p k : Nat} (f : Part → Part) (h : k ≠ p) :
    partAt (updPart s p f) k = partAt s k := partAt_setPart_ne s _ h

@[simp] theorem updPart_partsLength (s : State) (p : Nat) (f : Part → Part) :
    (updPart s p f).parts.length = s.parts.length := List.length_set

section
variable (s : State) (p : Nat) (f : Part → Part)
@[simp] theorem updPart_time : (updPart s p f).time = s.time := rfl
@[simp] theorem updPart_journal : (updPart s p f).journal = s.journal := rfl
@[simp] theorem updPart_fabric : (updPart s p f).fabric = s.fabric := rfl
@[simp] theorem updPart_tiles : (updPart s p f).tiles = s.tiles := rfl
@[simp] theorem updPart_t2 : (updPart s p f).t2 = s.t2 := rfl
end

/-! ### A partition's change of state -/

theorem set_getD_self {α : Type} (l : List α) (i : Nat) (d : α) : l.set i (l.getD i d) = l := by
  by_cases h : i < l.length
  · rw [List.getD_eq_getElem _ _ h, List.set_getElem_self]
  · exact List.set_eq_of_length_le (Nat.not_lt.1 h)

/-- The record of the partition has the new state, and no other record changes. -/
theorem setPState_parts (s : State) (p : Nat) (st : PState) :
    (setPState s p st).parts = s.parts.set p { partAt s p with st := st } := by
  unfold setPState
  dsimp only
  split
  · rename_i same
    subst same
    exact (set_getD_self ..).symm
  · obtain ⟨io, x, h, e⟩ := postEvent_changes (updPart s p (fun x => { x with st := st })) 2 p
      (packFields [⟨0, 5, p⟩, ⟨8, 3, (partAt s p).st.code⟩, ⟨12, 3, st.code⟩])
    rw [e]; rfl

theorem partAt_setPState_self {s : State} {p : Nat} (st : PState) (h : p < s.parts.length) :
    partAt (setPState s p st) p = { partAt s p with st := st } := by
  rw [← partAt_updPart_self (fun x => { x with st := st }) h]
  exact partAt_congr (setPState_parts s p st) p

theorem partAt_setPState_ne (s : State) {p k : Nat} (st : PState) (h : k ≠ p) :
    partAt (setPState s p st) k = partAt s k := by
  rw [← partAt_updPart_ne s (fun x => { x with st := st }) h]
  exact partAt_congr (setPState_parts s p st) k

section
variable (s : State) (p : Nat) (st : PState)
@[simp] theorem setPState_time : (setPState s p st).time = s.time := by
  obtain ⟨_, _, _, _, e⟩ := setPState_changes s p st; rw [e]; rfl
@[simp] theorem setPState_journal : (setPState s p st).journal = s.journal := by
  obtain ⟨_, _, _, _, e⟩ := setPState_changes s p st; rw [e]; rfl
@[simp] theorem setPState_fabric : (setPState s p st).fabric = s.fabric := by
  obtain ⟨_, _, _, _, e⟩ := setPState_changes s p st; rw [e]; rfl
@[simp] theorem setPState_tiles : (setPState s p st).tiles = s.tiles := by
  obtain ⟨_, _, _, _, e⟩ := setPState_changes s p st; rw [e]; rfl
@[simp] theorem setPState_t2 : (setPState s p st).t2 = s.t2 := by
  obtain ⟨_, _, _, _, e⟩ := setPState_changes s p st; rw [e]; rfl
@[simp] theorem setPState_boot : (setPState s p st).boot = s.boot := by
  obtain ⟨_, _, _, _, e⟩ := setPState_changes s p st; rw [e]; rfl
@[simp] theorem setPState_partsLength : (setPState s p st).parts.length = s.parts.length := by
  rw [setPState_parts, List.length_set]
end

/-! ### Commands that complete together (R347) -/

/-- A record as a completion commits it. -/
def committed (r : JRec) (status detail : Nat) (t : Word64) : JRec :=
  { r with st := .committed, status := status, detail := detail, tdone := t }

/-- A rewritten journal holds the rewritten form of each record. -/
theorem mem_rewritten_of_mem {l : List JRec} {r : JRec} (f : JRec × Nat → JRec) (h : r ∈ l) :
    ∃ i, f (r, i) ∈ l.zipIdx.map f := by
  obtain ⟨i, hi, rfl⟩ := List.getElem_of_mem h
  exact ⟨i, List.mem_map_of_mem (List.mem_zipIdx_iff_getElem?.2 (List.getElem?_eq_getElem hi))⟩

/-- Every record of a rewritten journal is the rewritten form of one. -/
theorem of_mem_rewritten {l : List JRec} {y : JRec} {f : JRec × Nat → JRec} (h : y ∈ l.zipIdx.map f) :
    ∃ r ∈ l, ∃ i, y = f (r, i) := by
  obtain ⟨⟨r, i⟩, hr, rfl⟩ := List.mem_map.1 h
  exact ⟨r, List.fst_mem_of_mem_zipIdx hr, i, rfl⟩

/-- What commitWhere makes of record number e.2. -/
def commitOne (s : State) (c : JRec → Bool) (status : Nat) (detail : Option Nat) (e : JRec × Nat) : JRec :=
  if decide (e.1.st = .started) && c e.1 then committed e.1 status (detailOr s detail e.2) s.time.now else e.1

theorem commitWhere_changes (s : State) (c : JRec → Bool) (status : Nat) (detail : Option Nat) :
    ∃ io, commitWhere s c status detail =
      ((s.withJournal (s.journal.zipIdx.map (commitOne s c status detail))).withFree (s.free + s.journal.length)).withIo io :=
  assertWake_changes ..

section
variable (s : State) (c : JRec → Bool) (status : Nat) (detail : Option Nat)
theorem commitWhere_journal :
    (commitWhere s c status detail).journal = s.journal.zipIdx.map (commitOne s c status detail) := by
  obtain ⟨_, e⟩ := commitWhere_changes s c status detail; rw [e]; rfl
@[simp] theorem commitWhere_time : (commitWhere s c status detail).time = s.time := by
  obtain ⟨_, e⟩ := commitWhere_changes s c status detail; rw [e]; rfl
@[simp] theorem commitWhere_fns : (commitWhere s c status detail).fns = s.fns := by
  obtain ⟨_, e⟩ := commitWhere_changes s c status detail; rw [e]; rfl
@[simp] theorem commitWhere_parts : (commitWhere s c status detail).parts = s.parts := by
  obtain ⟨_, e⟩ := commitWhere_changes s c status detail; rw [e]; rfl
@[simp] theorem commitWhere_fabric : (commitWhere s c status detail).fabric = s.fabric := by
  obtain ⟨_, e⟩ := commitWhere_changes s c status detail; rw [e]; rfl
@[simp] theorem commitWhere_tiles : (commitWhere s c status detail).tiles = s.tiles := by
  obtain ⟨_, e⟩ := commitWhere_changes s c status detail; rw [e]; rfl
@[simp] theorem commitWhere_t2 : (commitWhere s c status detail).t2 = s.t2 := by
  obtain ⟨_, e⟩ := commitWhere_changes s c status detail; rw [e]; rfl
@[simp] theorem commitWhere_boot : (commitWhere s c status detail).boot = s.boot := by
  obtain ⟨_, e⟩ := commitWhere_changes s c status detail; rw [e]; rfl
@[simp] theorem partAt_commitWhere (k : Nat) : partAt (commitWhere s c status detail) k = partAt s k :=
  partAt_congr (commitWhere_parts s c status detail) k
end

section
variable {s : State} {c : JRec → Bool} {status : Nat} {detail : Option Nat} {r : JRec}

/-- A started command that satisfies the test completes now. -/
theorem commitWhere_commits (hr : r ∈ s.journal) (hs : r.st = .started) (hc : c r = true) :
    CommittedIn (commitWhere s c status detail) r status s.time.now := by
  obtain ⟨i, hi⟩ := mem_rewritten_of_mem (commitOne s c status detail) hr
  rw [commitOne, if_pos (by simp [hs, hc])] at hi
  exact ⟨committed r status (detailOr s detail i) s.time.now, by rwa [commitWhere_journal], rfl, rfl, rfl, rfl, rfl, rfl⟩

/-- Any other record stays as it is. -/
theorem mem_commitWhere (hr : r ∈ s.journal) (h : r.st ≠ .started ∨ c r = false) :
    r ∈ (commitWhere s c status detail).journal := by
  obtain ⟨i, hi⟩ := mem_rewritten_of_mem (commitOne s c status detail) hr
  rw [commitOne, if_neg (by simpa [imp_iff_not_or] using h)] at hi
  rwa [commitWhere_journal]

/-- A record afterwards was there before, or has just committed. -/
theorem of_mem_commitWhere (h : r ∈ (commitWhere s c status detail).journal) : r ∈ s.journal ∨ r.st = .committed := by
  rw [commitWhere_journal] at h
  obtain ⟨r0, hr0, i, rfl⟩ := of_mem_rewritten h
  rw [commitOne]
  split
  · exact .inr rfl
  · exact .inl hr0

/-- What has committed stays committed. -/
theorem CommittedIn.afterCommitWhere {st : Nat} {t : Word64} (h : CommittedIn s r st t) :
    CommittedIn (commitWhere s c status detail) r st t := by
  obtain ⟨r', hr', hq, hseq, he, hst, hrest⟩ := h
  exact ⟨r', mem_commitWhere hr' (.inl (by simp [hst])), hq, hseq, he, hst, hrest⟩

end

theorem CommittedIn.congr {s t : State} {r : JRec} {st : Nat} {u : Word64} (h : CommittedIn s r st u)
    (e : t.journal = s.journal) : CommittedIn t r st u := by
  rwa [CommittedIn, e]

/-! ### The completion of a queue's head command (R347) -/

theorem mem_updFirst {l : List JRec} {c : JRec → Bool} {r : JRec} (f : JRec → JRec) (h : l.find? c = some r) :
    f r ∈ updFirst l c f := by
  induction l with
  | nil => cases h
  | cons a l ih =>
    rw [List.find?_cons] at h
    cases hc : c a with
    | true =>
      rw [hc] at h
      cases h
      simp [updFirst, hc]
    | false =>
      rw [hc] at h
      simp [updFirst, hc, ih h]

/-- The head command of a queue completes with the status given. -/
theorem commitCmd_commits {s : State} {q : QId} {r : JRec} (st d : Nat) (h : headRec s q = some r) :
    CommittedIn (commitCmd s q st d) r st s.time.now := by
  obtain ⟨io, e⟩ := commitCmd_changes s q st d
  rw [e]
  exact ⟨_, mem_updFirst _ h, rfl, rfl, rfl, rfl, rfl, rfl⟩

section
variable (s : State) (q : QId) (st d : Nat)
@[simp] theorem commitCmd_parts : (commitCmd s q st d).parts = s.parts := by
  obtain ⟨_, e⟩ := commitCmd_changes s q st d; rw [e]; rfl
@[simp] theorem commitCmd_fabric : (commitCmd s q st d).fabric = s.fabric := by
  obtain ⟨_, e⟩ := commitCmd_changes s q st d; rw [e]; rfl
@[simp] theorem partAt_commitCmd (k : Nat) : partAt (commitCmd s q st d) k = partAt s k :=
  partAt_congr (commitCmd_parts s q st d) k
end

/-! ### What serving a partition's entries may change (R249) -/

/-- A partition's record but for its tables of entries, handles, variants and drawers. -/
def Part.unserved (x : Part) : Part := { x with reqs := [], handles := [], variants := [], drawers := [] }

/-- From s to t only the tables of partition p's entries, handles, variants and drawers, module memory and tiles have changed,
memory and tiles only where p is bound to a campaign, whose rollout turns say where records go. -/
structure ServesOnly (p : Nat) (s t : State) : Prop where
  rest : t = ((s.withParts t.parts).withT2 t.t2).withTiles t.tiles
  size : t.parts.length = s.parts.length
  others : ∀ k, k ≠ p → partAt t k = partAt s k
  own : (partAt t p).unserved = (partAt s p).unserved
  idle : (partAt s p).camp = none → t.t2 = s.t2 ∧ t.tiles = s.tiles

namespace ServesOnly
variable {p : Nat} {s t u : State}

theorem refl (p : Nat) (s : State) : ServesOnly p s s := ⟨rfl, rfl, fun _ _ => rfl, rfl, fun _ => ⟨rfl, rfl⟩⟩

theorem camp (h : ServesOnly p s t) : (partAt t p).camp = (partAt s p).camp := (congrArg Part.camp h.own :)
theorem flog (h : ServesOnly p s t) : (partAt t p).flog = (partAt s p).flog := (congrArg Part.flog h.own :)
theorem time (h : ServesOnly p s t) : t.time = s.time := by rw [h.rest]; rfl
theorem journal (h : ServesOnly p s t) : t.journal = s.journal := by rw [h.rest]; rfl
theorem fabric (h : ServesOnly p s t) : t.fabric = s.fabric := by rw [h.rest]; rfl

theorem trans (h : ServesOnly p s t) (g : ServesOnly p t u) : ServesOnly p s u where
  rest := by rw [g.rest, h.rest]; rfl
  size := g.size.trans h.size
  others k hk := (g.others k hk).trans (h.others k hk)
  own := g.own.trans h.own
  idle hc := by
    obtain ⟨ht2, htiles⟩ := h.idle hc
    obtain ⟨gt2, gtiles⟩ := g.idle (h.camp.trans hc)
    exact ⟨gt2.trans ht2, gtiles.trans htiles⟩

theorem ite {c : Prop} [Decidable c] (h : ServesOnly p s t) (g : ServesOnly p s u) :
    ServesOnly p s (if c then t else u) := by
  split
  · exact h
  · exact g

theorem foldl {α : Type} {f : State → α → State} (h : ∀ s a, ServesOnly p s (f s a)) (l : List α) (s : State) :
    ServesOnly p s (l.foldl f s) := by
  induction l generalizing s with
  | nil => exact refl p s
  | cons a l ih => exact (h s a).trans (ih _)

end ServesOnly

/-- An update of those tables. -/
theorem updPart_serves (s : State) (p : Nat) (f : Part → Part) (h : ∀ x, (f x).unserved = x.unserved) :
    ServesOnly p s (updPart s p f) where
  rest := rfl
  size := updPart_partsLength s p f
  others _ hk := partAt_updPart_ne s f hk
  own := by
    by_cases hp : p < s.parts.length
    · rw [partAt_updPart_self f hp, h]
    · rw [partAt_congr (t := updPart s p f) (List.set_eq_of_length_le (Nat.not_lt.1 hp))]
  idle _ := ⟨rfl, rfl⟩

theorem setReq_serves (s : State) (p e : Nat) (r : Req) : ServesOnly p s (setReq s p e r) :=
  updPart_serves s p _ fun _ => rfl

theorem setRefs_serves (s : State) (p reg d n : Nat) : ServesOnly p s (setRefs s p reg d n) :=
  updPart_serves s p _ fun _ => rfl

theorem decRef_serves (s : State) (p reg d : Nat) : ServesOnly p s (decRef s p reg d) := setRefs_serves ..

theorem setVent_serves (s : State) (p v : Nat) (e : VEnt) : ServesOnly p s (setVent s p v e) :=
  updPart_serves s p _ fun _ => rfl

theorem releaseMap_serves (s : State) (p reg d : Nat) : ServesOnly p s (releaseMap s p reg d) :=
  .foldl (fun s d => (ServesOnly.foldl (fun s x => decRef_serves s p reg x) _ s).trans (decRef_serves _ p reg d)) _ s

theorem unbind_serves (s : State) (p v ver : Nat) : ServesOnly p s (unbind s p v ver) := by
  unfold unbind
  dsimp only
  split
  · refine .ite (setVent_serves ..) ?_
    split
    · exact .ite (setVent_serves ..) (.refl p s)
    · exact .refl p s
  · exact .ite (setVent_serves ..) (.refl p s)
  · exact .refl p s

theorem releaseHandle_serves (s : State) (p h : Nat) : ServesOnly p s (releaseHandle s p h) := by
  unfold releaseHandle
  split
  · exact .refl p s
  · exact .ite ((releaseMap_serves ..).trans (updPart_serves _ p _ fun _ => rfl)) (updPart_serves s p _ fun _ => rfl)

theorem freeReq_serves (s : State) (p e : Nat) : ServesOnly p s (freeReq s p e) := by
  unfold freeReq
  split
  · exact .refl p s
  · rename_i r _
    have h := (releaseMap_serves s p r.dreg r.dhead).trans
      (updPart_serves _ p (fun x => { x with reqs := mapDel x.reqs e }) fun _ => rfl)
    exact .ite h (h.trans (releaseHandle_serves ..))

/-- A write into a region of a partition with a campaign changes module memory, and marks bobbins of its tiles (R176). -/
theorem writeRegion_serves {s : State} {p : Nat} (r off : Nat) (b : List Byte) (h : (partAt s p).camp ≠ none) :
    ServesOnly p s (writeRegion s p r off b) := by
  unfold writeRegion
  split
  · rename_i g _
    obtain ⟨x, ex⟩ := writePages_changes s g.wpages off b
    obtain ⟨m, em⟩ : ∃ m, markStale (s.withT2 x) p r off b.length = (s.withT2 x).withTiles m := updTiles_changes ..
    rw [ex, em]
    exact ⟨rfl, rfl, fun _ _ => rfl, rfl, fun hc => absurd hc h⟩
  · exact .refl p s

/-- Without a campaign no rollout turn says where an entry's record goes. -/
theorem camp_ne_none_of_rollOf {x : Part} {rp : RollP} (h : rollOf x = some rp) : x.camp ≠ none := by
  intro hc
  simp [rollOf, hc] at h

/-- Where an ended entry's version loses a reference (R249, R268). -/
def dropVersion (s : State) (p : Nat) (r : Req) : State := if r.ven then unbind s p r.variant r.version else s

/-- Where an ended entry's record goes, if a rollout turn names its region (R249, R250). -/
def writeOut (s : State) (p : Nat) (r : Req) : State :=
  match rollOf (partAt s p) with
  | some rp => writeRegion s p rp.oregion r.outoff (outRecord r s.time.now)
  | none => s

theorem dropVersion_serves (s : State) (p : Nat) (r : Req) : ServesOnly p s (dropVersion s p r) :=
  .ite (unbind_serves ..) (.refl p s)

theorem writeOut_serves (s : State) (p : Nat) (r : Req) : ServesOnly p s (writeOut s p r) := by
  unfold writeOut
  split
  · rename_i rp hrp
    exact writeRegion_serves _ _ _ (camp_ne_none_of_rollOf hrp)
  · exact .refl p s

/-- An entry's end: its version's reference, its record, its drawers, its place (R249). -/
theorem finishReq_serves (s : State) (p e : Nat) (st : RState) (reason : Nat) :
    ServesOnly p s (finishReq s p e st reason) := by
  unfold finishReq
  split
  · exact .refl p s
  · rename_i r0 _
    let r : Req := { r0 with st := st, reason := reason, cancel := false, due := 0 }
    have recorded : ServesOnly p s (writeOut (dropVersion (setReq s p e r) p r) p r) :=
      ((setReq_serves ..).trans (dropVersion_serves ..)).trans (writeOut_serves ..)
    have emptied : ServesOnly p s (if st = .done ∧ r.list = false then writeOut (dropVersion (setReq s p e r) p r) p r
        else setReq (releaseMap (writeOut (dropVersion (setReq s p e r) p r) p r) p r.dreg r.dhead) p e
          { r with dhead := drawerNone }) :=
      .ite recorded ((recorded.trans (releaseMap_serves ..)).trans (setReq_serves ..))
    exact .ite (emptied.trans (freeReq_serves ..)) emptied

/-- Evictions serve only (R248). -/
theorem evictWhere_serves (s : State) (p reason : Nat) (c : Req → Bool) : ServesOnly p s (evictWhere s p reason c) :=
  .foldl (fun s (e : Nat × Req) => finishReq_serves s p e.1 .evicted reason) _ s

theorem faultEvicts_serves (s : State) (p : Nat) : ServesOnly p s (faultEvicts s p) := evictWhere_serves ..

/-! ### Time -/

/-- A timed event whose time has not passed acts at it. -/
theorem atTime_of_ule {s : State} {t : Word64} (f : State → State) (h : s.time.now.ule t = true) :
    atTime s t f = f (tick s t) := if_pos h

section
variable (s : State) (t : Word64)
@[simp] theorem tick_fns : (tick s t).fns = s.fns := rfl
@[simp] theorem tick_parts : (tick s t).parts = s.parts := rfl
@[simp] theorem tick_journal : (tick s t).journal = s.journal := rfl
@[simp] theorem tick_fabric : (tick s t).fabric = s.fabric := rfl
@[simp] theorem tick_tiles : (tick s t).tiles = s.tiles := rfl
@[simp] theorem tick_t2 : (tick s t).t2 = s.t2 := rfl
@[simp] theorem partAt_tick (k : Nat) : partAt (tick s t) k = partAt s k := rfl
end

/-! ### Messages to a campaign's members (R298) -/

/-- The fabric after sending holds every message that it held, and its own number is as before. -/
structure Sends (f g : FabricU) : Prop where
  member : g.member = f.member
  kept : ∀ x ∈ f.out, x ∈ g.out

theorem sendTo_changes (s : State) (dst : Nat) (m : FMsg) :
    ∃ g, sendTo s dst m = s.withFabric g ∧ Sends s.fabric g ∧ ∃ x ∈ g.out, x.dest = dst ∧ x.msg = m := by
  have sent : ∀ ports seqs, Sends s.fabric { s.fabric with
      out := s.fabric.out ++ [⟨dst, mapGet 0 s.fabric.seqs dst, s.time.now, m⟩], seqs := seqs, ports := ports } :=
    fun _ _ => ⟨rfl, fun x hx => List.mem_append_left _ hx⟩
  unfold sendTo routeMsg
  dsimp only
  split
  · exact ⟨_, rfl, sent _ _, _, List.mem_append_right _ (List.mem_singleton_self _), rfl, rfl⟩
  · exact ⟨_, rfl, sent _ _, _, List.mem_append_right _ (List.mem_singleton_self _), rfl, rfl⟩

theorem sendAll_changes (l : List Nat) (s : State) (m : FMsg) :
    ∃ g, l.foldl (fun s k => sendTo s k m) s = s.withFabric g ∧ Sends s.fabric g ∧
      ∀ k ∈ l, ∃ x ∈ g.out, x.dest = k ∧ x.msg = m := by
  induction l generalizing s with
  | nil => exact ⟨s.fabric, rfl, ⟨rfl, fun _ => id⟩, by simp⟩
  | cons k l ih =>
    obtain ⟨g, eg, hg, x, hx, hxk⟩ := sendTo_changes s k m
    obtain ⟨g', eg', hg', hl⟩ := ih (s.withFabric g)
    refine ⟨g', by rw [List.foldl_cons, eg, eg', State.withFabric_twice], ⟨hg'.member.trans hg.member,
      fun y hy => hg'.kept y (hg.kept y hy)⟩, ?_⟩
    rw [List.forall_mem_cons]
    exact ⟨⟨x, hg'.kept x hx, hxk⟩, hl⟩

/-- Every other member of a campaign is sent the message, and only the fabric changes. -/
theorem sendCamp_changes (s : State) (c : Camp) (m : FMsg) :
    ∃ g, sendCamp s c m = s.withFabric g ∧
      ∀ k ∈ c.p.positions, k ≠ s.fabric.member → ∃ x ∈ g.out, x.dest = k ∧ x.msg = m := by
  obtain ⟨g, eg, -, hg⟩ := sendAll_changes ((campMembers c).filter (fun k => k ≠ s.fabric.member)) s m
  exact ⟨g, eg, fun k hk hne => hg k (by simp [campMembers, hk, hne])⟩

/-! ### The end of a campaign (R355) -/

/-- A partition's record once its campaign is over: its open entries belong to the next one (R243, R355). -/
def leaveCampaign (x : Part) : Part := { x with camp := none, reqs := x.reqs.map (fun e => (e.1, detachReq e.2)) }

theorem beginStop_of_not_running {s : State} {p : Nat} (h : (partAt s p).st ≠ .running) : beginStop s p = s :=
  if_neg fun hr => h hr.1

/-- A campaign whose records all reached the host closes with the status and detail given. -/
theorem closeCampaign_of_good {s : State} {p : Nat} {c : Camp} (status d : Nat) (hc : (partAt s p).camp = some c)
    (hg : c.badRec = false) :
    closeCampaign s p status (some d) =
      beginStop (commitWhere (updPart (commitCmd s c.q status d) p leaveCampaign) (cmdOf p isCampStop) 0 none) p := by
  simp only [closeCampaign, hc, hg]
  rfl

theorem endCampaign_of_none {s : State} {p : Nat} (status : Nat) (d : Option Nat) (h : (partAt s p).camp = none) :
    endCampaign s p status d = s := by
  simp only [endCampaign, h]

theorem endCampaign_of_written {s : State} {p : Nat} {c : Camp} (status : Nat) (d : Option Nat)
    (hc : (partAt s p).camp = some c) (hf : c.fin = none) (hd : c.due = []) :
    endCampaign s p status d = closeCampaign s p status d := by
  simp [endCampaign, hc, hf, hd]

/-- A campaign that is over and waits for its last turn records to be written (R355). -/
def closingCamp (status : Nat) (d : Option Nat) (c : Camp) : Camp :=
  { c with phase := .closing, fin := some (status, d), sw := none, run := none }

/-- A campaign with records still on their way closes once they are in host memory. -/
theorem endCampaign_of_due {s : State} {p : Nat} {c : Camp} (status : Nat) (d : Option Nat)
    (hc : (partAt s p).camp = some c) (hf : c.fin = none) (hd : c.due ≠ []) :
    endCampaign s p status d = updCamp s p (closingCamp status d) := by
  simp only [endCampaign, hc, hf, hd, Option.isSome_none, Bool.false_eq_true, if_false]
  rfl

/-! ### The last steps of a fault (R46 steps 4 and 5, R361) -/

/-- A member's fault is told to the campaign's other members, unless it came from one (R344). -/
def tellPeers (s : State) (p : Nat) (f : PFault) : State :=
  match (partAt s p).camp with
  | some c => if f.peer then s else sendCamp s c (.peerFault c.p.id s.fabric.member (shardDetail (partAt s p) f))
  | none => s

/-- The record of a turn that the fault cuts off (R354). -/
def cutTurn (s : State) (p : Nat) (f : PFault) : State :=
  if ((partAt s p).camp.map (fun c => decide (c.phase = .turn))).getD false then turnRecord s p f.status else s

/-- The partition is FAULTED with its record complete (R344). -/
def markFaulted (s : State) (p : Nat) (f : PFault) : State :=
  setPState (updPart s p (fun x => { x with fault := some { f with completed := true } })) p .faulted

/-- The commands that a fault of partition p completes beside the campaign's (R46, R361). -/
def faultEnds (p : Nat) : JRec → Bool := cmdOf p (fun c => isStop c || isStart c || isDestroy c)

/-- What FAULT_RECORD_COMPLETE does at its time. -/
def completeFault (s : State) (p : Nat) (f : PFault) : State :=
  commitWhere (endCampaign (markFaulted (cutTurn (tellPeers (faultEvicts s p) p f) p f) p f) p f.status (some f.ix))
    (faultEnds p) f.status (some f.ix)

theorem exec_faultRecordComplete {s : State} {p : Fin 32} {t : Word64} {f : PFault} (now : s.time.now.ule t = true)
    (hf : (partAt s p).fault = some f) (hc : f.completed = false) :
    exec (.faultRecordComplete p t) s = .next (completeFault (tick s t) p f) := by
  show execFaultRecordComplete p t s = _
  simp only [execFaultRecordComplete, hf, hc, atTime_of_ule _ now, Bool.false_eq_true, if_false, ok]
  rfl

theorem partAt_markFaulted_self {s : State} {p : Nat} (f : PFault) (h : p < s.parts.length) :
    partAt (markFaulted s p f) p = { partAt s p with st := .faulted, fault := some { f with completed := true } } := by
  rw [markFaulted, partAt_setPState_self _ (by rwa [updPart_partsLength]), partAt_updPart_self _ h]

theorem partAt_markFaulted_ne (s : State) {p k : Nat} (f : PFault) (h : k ≠ p) :
    partAt (markFaulted s p f) k = partAt s k := by
  rw [markFaulted, partAt_setPState_ne _ _ h, partAt_updPart_ne _ _ h]

section
variable (s : State) (p : Nat) (f : PFault)
@[simp] theorem markFaulted_time : (markFaulted s p f).time = s.time := by simp [markFaulted]
@[simp] theorem markFaulted_journal : (markFaulted s p f).journal = s.journal := by simp [markFaulted]
@[simp] theorem markFaulted_fabric : (markFaulted s p f).fabric = s.fabric := by simp [markFaulted]
@[simp] theorem markFaulted_tiles : (markFaulted s p f).tiles = s.tiles := by simp [markFaulted]
@[simp] theorem markFaulted_t2 : (markFaulted s p f).t2 = s.t2 := by simp [markFaulted]
@[simp] theorem markFaulted_partsLength : (markFaulted s p f).parts.length = s.parts.length := by simp [markFaulted]
end

/-- Without a campaign nobody is told and no turn record is due. -/
theorem completeFault_of_idle {s : State} {p : Nat} {f : PFault} (hp : p < s.parts.length)
    (hc : (partAt s p).camp = none) :
    completeFault s p f = commitWhere (markFaulted (faultEvicts s p) p f) (faultEnds p) f.status (some f.ix) := by
  have served := faultEvicts_serves s p
  have camp := served.camp.trans hc
  have told : tellPeers (faultEvicts s p) p f = faultEvicts s p := by simp only [tellPeers, camp]
  have uncut : cutTurn (faultEvicts s p) p f = faultEvicts s p := by simp [cutTurn, camp]
  have left : (partAt (markFaulted (faultEvicts s p) p f) p).camp = none := by
    rw [partAt_markFaulted_self f (by rwa [served.size])]; exact camp
  rw [completeFault, told, uncut, endCampaign_of_none _ _ left]

section
variable {s : State} {p : Nat} {f : PFault} {c : Camp}

/-- The message that tells a campaign's members of a fault (R303, R305). -/
def faultMsg (s : State) (p : Nat) (f : PFault) (c : Camp) : FMsg :=
  .peerFault c.p.id s.fabric.member (shardDetail (partAt s p) f)

/-- From s to v partition p, bound to campaign c, is FAULTED with its record complete, and c's members have been told. -/
structure FaultTold (p : Nat) (f : PFault) (c : Camp) (s v : State) : Prop where
  size : v.parts.length = s.parts.length
  st : (partAt v p).st = .faulted
  camp : (partAt v p).camp = some c
  others : ∀ k, k ≠ p → partAt v k = partAt s k
  journal : v.journal = s.journal
  time : v.time = s.time
  told : ∀ m ∈ c.p.positions, m ≠ s.fabric.member → ∃ x ∈ v.fabric.out, x.dest = m ∧ x.msg = faultMsg s p f c

/-- Between turns a fault of the member's own is told to the campaign's members, and then the campaign ends. -/
theorem completeFault_of_camp (hp : p < s.parts.length) (hc : (partAt s p).camp = some c) (own : f.peer = false)
    (hphase : c.phase ≠ .turn) :
    ∃ v, FaultTold p f c s v ∧ completeFault s p f =
      commitWhere (endCampaign v p f.status (some f.ix)) (faultEnds p) f.status (some f.ix) := by
  have served := faultEvicts_serves s p
  have camp := served.camp.trans hc
  obtain ⟨g, eg, hg⟩ := sendCamp_changes (faultEvicts s p) c (faultMsg s p f c)
  have told : tellPeers (faultEvicts s p) p f = (faultEvicts s p).withFabric g := by
    rw [← eg]
    simp only [tellPeers, camp, own, faultMsg, shardDetail, served.fabric, served.flog, Bool.false_eq_true, if_false]
  have uncut : cutTurn ((faultEvicts s p).withFabric g) p f = (faultEvicts s p).withFabric g := by
    have : (partAt ((faultEvicts s p).withFabric g) p).camp = some c := camp
    simp [cutTurn, this, hphase]
  have self := partAt_markFaulted_self (s := (faultEvicts s p).withFabric g) f (served.size ▸ hp)
  rw [served.fabric] at hg
  refine ⟨markFaulted ((faultEvicts s p).withFabric g) p f, ?_, by rw [completeFault, told, uncut]⟩
  exact
    { size := by rw [markFaulted_partsLength]; exact served.size
      st := by rw [self]
      camp := by rw [self]; exact camp
      others := fun k hk => (partAt_markFaulted_ne _ f hk).trans (served.others k hk)
      journal := by rw [markFaulted_journal]; exact served.journal
      time := by rw [markFaulted_time]; exact served.time
      told := by rw [markFaulted_fabric]; exact hg }

theorem updCamp_self (g : Camp → Camp) (hp : p < s.parts.length) (hc : (partAt s p).camp = some c) :
    (partAt (updCamp s p g) p) = { partAt s p with camp := some (g c) } := by
  rw [updCamp, partAt_updPart_self _ hp, hc]; rfl

theorem updCamp_ne {k : Nat} (g : Camp → Camp) (h : k ≠ p) : partAt (updCamp s p g) k = partAt s k :=
  partAt_updPart_ne s _ h

/-- The campaign of a FAULTED partition whose turn records are written closes with the fault (R46, R355): its command completes, and
everything that the fabric sends is as before. -/
theorem endCampaign_of_faulted {r : JRec} {status d : Nat} (hp : p < s.parts.length) (hst : (partAt s p).st = .faulted)
    (hc : (partAt s p).camp = some c) (hf : c.fin = none) (hd : c.due = []) (hb : c.badRec = false)
    (hr : headRec s c.q = some r) :
    let t := endCampaign s p status (some d)
    (partAt t p).st = .faulted ∧ (partAt t p).camp = none ∧ CommittedIn t r status s.time.now ∧ t.fabric = s.fabric ∧
      ∀ k, k ≠ p → partAt t k = partAt s k := by
  have left : partAt (commitWhere (updPart (commitCmd s c.q status d) p leaveCampaign) (cmdOf p isCampStop) 0 none) p =
      leaveCampaign (partAt s p) := by
    rw [partAt_commitWhere, partAt_updPart_self _ (by rwa [commitCmd_parts]), partAt_commitCmd]
  have faulted : (leaveCampaign (partAt s p)).st = .faulted := hst
  rw [endCampaign_of_written _ _ hc hf hd, closeCampaign_of_good _ _ hc hb,
    beginStop_of_not_running (by rw [left, faulted]; decide)]
  refine ⟨by rw [left, faulted], by rw [left]; rfl, ?_, by simp, fun k hk => ?_⟩
  · exact (CommittedIn.congr (commitCmd_commits status d hr) (updPart_journal ..)).afterCommitWhere
  · rw [partAt_commitWhere, partAt_updPart_ne _ _ hk, partAt_commitCmd]

end

/-! ### Raising a fault (R46 steps 1 to 3) -/

/-- From s to t the partitions, module memory, the journal, the time and the fabric are as they were: what may have changed
tells the host or Utora of an event, or is a tile or a sampling request. -/
structure TellsOnly (s t : State) : Prop where
  parts : t.parts = s.parts
  t2 : t.t2 = s.t2
  journal : t.journal = s.journal
  time : t.time = s.time
  fabric : t.fabric = s.fabric

theorem TellsOnly.trans {s t u : State} (h : TellsOnly s t) (g : TellsOnly t u) : TellsOnly s u :=
  ⟨g.parts.trans h.parts, g.t2.trans h.t2, g.journal.trans h.journal, g.time.trans h.time, g.fabric.trans h.fabric⟩

theorem postEvent_tells (s : State) (src part body : Nat) : TellsOnly s (postEvent s src part body) := by
  obtain ⟨_, _, _, e⟩ := postEvent_changes s src part body
  rw [e]; exact ⟨rfl, rfl, rfl, rfl, rfl⟩

theorem addHist_tells (s : State) (cls kind unit : Nat) (d : Word64) (r : Bool) :
    TellsOnly s (addHist s cls kind unit d r) := by
  obtain ⟨_, e⟩ := addHist_changes s cls kind unit d r
  rw [e]; exact ⟨rfl, rfl, rfl, rfl, rfl⟩

theorem sweepInvals_tells (s : State) (p : Nat) : TellsOnly s (sweepInvals s p) := by
  obtain ⟨_, e⟩ := sweepInvals_changes s p
  rw [e]; exact ⟨rfl, rfl, rfl, rfl, rfl⟩

theorem updTiles_tells (s : State) (p : Nat) (f : Nat → Tile → Tile) : TellsOnly s (updTiles s p f) := by
  obtain ⟨_, e⟩ := updTiles_changes s p f
  rw [e]; exact ⟨rfl, rfl, rfl, rfl, rfl⟩

theorem withSamp_tells (s : State) (l : List SampReq) : TellsOnly s (s.withSamp l) := ⟨rfl, rfl, rfl, rfl, rfl⟩

/-- A fault in a partition without one: its record joins the log, and the partition has the fault. -/
theorem raiseFaults_tells {s : State} {p : Nat} (r : FaultRec) (h : (partAt s p).fault = none) :
    TellsOnly (setPart s p { partAt s p with
      flog := (partAt s p).flog ++ [r], fault := some ⟨(partAt s p).flog.length, r.status, false, false⟩ })
      (raiseFaults s p [r]) := by
  simp only [raiseFaults, h, List.foldl_cons, List.foldl_nil]
  refine TellsOnly.trans ?_ (postEvent_tells ..)
  refine TellsOnly.trans ?_ (addHist_tells ..)
  exact ((updTiles_tells ..).trans (sweepInvals_tells ..)).trans (withSamp_tells ..)

/-! ### Updates of one partition's record -/

/-- From s to t only partition p's record changes, and of that nothing that g shows. -/
structure PartOnly {β : Type} (g : Part → β) (p : Nat) (s t : State) : Prop where
  rest : t = s.withParts t.parts
  size : t.parts.length = s.parts.length
  others : ∀ k, k ≠ p → partAt t k = partAt s k
  own : g (partAt t p) = g (partAt s p)

theorem PartOnly.refl {β : Type} (g : Part → β) (p : Nat) (s : State) : PartOnly g p s s :=
  ⟨rfl, rfl, fun _ _ => rfl, rfl⟩

theorem PartOnly.trans {β : Type} {g : Part → β} {p : Nat} {s t u : State} (h : PartOnly g p s t)
    (h' : PartOnly g p t u) : PartOnly g p s u where
  rest := by rw [h'.rest, h.rest]; rfl
  size := h'.size.trans h.size
  others k hk := (h'.others k hk).trans (h.others k hk)
  own := h'.own.trans h.own

theorem PartOnly.foldl {β α : Type} {g : Part → β} {p : Nat} {f : State → α → State}
    (h : ∀ s a, PartOnly g p s (f s a)) (l : List α) (s : State) : PartOnly g p s (l.foldl f s) := by
  induction l generalizing s with
  | nil => exact .refl ..
  | cons a l ih => exact (h s a).trans (ih _)

theorem updPart_only {β : Type} (g : Part → β) (s : State) (p : Nat) (f : Part → Part) (h : ∀ x, g (f x) = g x) :
    PartOnly g p s (updPart s p f) where
  rest := rfl
  size := updPart_partsLength s p f
  others _ hk := partAt_updPart_ne s f hk
  own := by
    by_cases hp : p < s.parts.length
    · rw [partAt_updPart_self f hp, h]
    · rw [partAt_congr (t := updPart s p f) (List.set_eq_of_length_le (Nat.not_lt.1 hp))]

/-! ### A switch that fails (R305) -/

/-- What a failed switch leaves of a partition's record. -/
def Part.faultView (x : Part) : List FaultRec × Option PFault × Option Camp := (x.flog, x.fault, x.camp)

/-- A failed switch gives up the campaign's switch and its staging publications, and nothing else. -/
theorem abandonSwitch_changes {s : State} {p : Nat} {c : Camp} (hp : p < s.parts.length) (hc : (partAt s p).camp = some c) :
    let t := abandonSwitch s p
    t = s.withParts t.parts ∧ (partAt t p).flog = (partAt s p).flog ∧ (partAt t p).fault = (partAt s p).fault ∧
      (∃ c', (partAt t p).camp = some c' ∧ c'.sw = none) ∧ t.parts.length = s.parts.length ∧
      ∀ k, k ≠ p → partAt t k = partAt s k := by
  unfold abandonSwitch
  rw [hc]
  dsimp only
  split
  · rename_i hsw
    exact ⟨rfl, rfl, rfl, ⟨c, hc, hsw⟩, rfl, fun _ _ => rfl⟩
  · rename_i sw _
    generalize hu : List.foldl _ s _ = u
    have h : PartOnly Part.faultView p s u := by
      rw [← hu]
      refine PartOnly.foldl (fun v r => ?_) _ s
      split
      · exact updPart_only _ v p _ fun _ => rfl
      · exact .refl ..
    have hu : p < u.parts.length := by rwa [h.size]
    obtain ⟨hflog, hfault, hcamp⟩ : (partAt u p).flog = (partAt s p).flog ∧ (partAt u p).fault = (partAt s p).fault ∧
        (partAt u p).camp = some c := by simpa [Part.faultView, hc] using h.own
    have self := updCamp_self (fun c => { c with sw := none }) hu hcamp
    refine ⟨by rw [h.rest]; rfl, by rw [self]; exact hflog, by rw [self]; exact hfault,
      ⟨{ c with sw := none }, by rw [self], rfl⟩, (updPart_partsLength ..).trans h.size, fun k hk => ?_⟩
    rw [updCamp_ne _ hk, h.others k hk]

/-! ### Functions and events -/

theorem fnAt_setFn_ne (s : State) {f k : Nat} (x : Fn) (h : k ≠ f) : fnAt (setFn s f x) k = fnAt s k := by
  simp [fnAt, setFn, listSet, List.getElem?_set_ne h.symm]

theorem fnAt_congr {s t : State} (h : t.fns = s.fns) (k : Nat) : fnAt t k = fnAt s k := by
  rw [fnAt, fnAt, h]

theorem fnAt_raiseMsix_ne (s : State) {f k : Nat} (v : Nat) (h : k ≠ f) : fnAt (raiseMsix s f v) k = fnAt s k := by
  unfold raiseMsix
  dsimp only
  split
  · exact fnAt_setFn_ne s _ h
  · rfl

theorem fnAt_hostWrite (s : State) (space a : Nat) (b : List Byte) (k : Nat) :
    fnAt (hostWrite s space a b) k = fnAt s k := rfl

theorem fnAt_assertWake (s : State) (e : Bool) (k : Nat) : fnAt (assertWake s e) k = fnAt s k := by
  obtain ⟨_, e⟩ := assertWake_changes s e
  rw [e]; rfl

/-- An event entry of one function leaves the others. -/
theorem fnAt_postEventTo_ne (s : State) {f k : Nat} (src part body : Nat) (h : k ≠ f) :
    fnAt (postEventTo s f src part body) k = fnAt s k := by
  unfold postEventTo
  dsimp only
  split
  · exact fnAt_assertWake ..
  · split
    · rw [fnAt_setFn_ne _ _ h, fnAt_assertWake]
    · rw [pushEvent, fnAt_raiseMsix_ne _ _ h, fnAt_setFn_ne _ _ h, fnAt_hostWrite, fnAt_assertWake]

/-- A function whose event queue is disabled takes no event (R329). -/
theorem postEventTo_of_disabled {s : State} {f : Nat} (src part body : Nat) (h : (fnAt s f).even = false) :
    postEventTo s f src part body = s := by
  simp [postEventTo, assertWake, h]

theorem fnAt_postEvent_of_disabled {s : State} {p : Nat} (src body : Nat) (h : (fnAt s p).even = false) :
    fnAt (postEvent s src p body) p = fnAt s p := by
  unfold postEvent
  dsimp only
  split
  · rename_i hp
    subst hp
    rw [postEventTo_of_disabled _ _ _ h]
  · rename_i hp
    have same := fnAt_postEventTo_ne s src p body hp
    rw [postEventTo_of_disabled _ _ _ (by rwa [same]), same]

/-- A partition's change of state leaves a function of its own whose event queue is disabled. -/
theorem fnAt_setPState_of_disabled {s : State} {p : Nat} (st : PState) (h : (fnAt s p).even = false) :
    fnAt (setPState s p st) p = fnAt s p := by
  unfold setPState
  dsimp only
  split
  · rfl
  · exact fnAt_postEvent_of_disabled (s := updPart s p _) _ _ h

/-! ### Commands that a function's reset completes (R340, R345) -/

/-- What flushFn makes of record number e.2. -/
def flushOne (s : State) (f started accepted : Nat) (e : JRec × Nat) : JRec :=
  if e.1.q.fn.val = f ∧ (e.1.st = .started ∨ e.1.st = .accepted) then
    committed e.1 (if e.1.st = .started then started else accepted) (detailOr s none e.2) s.time.now
  else e.1

section
variable {s : State} {f a b : Nat} {r : JRec}

theorem flushFn_journal (s : State) (f a b : Nat) :
    (flushFn s f a b).journal = s.journal.zipIdx.map (flushOne s f a b) := rfl

/-- A command of the function that has not completed completes now, with the status of its state. -/
theorem flushFn_commits (hr : r ∈ s.journal) (hf : r.q.fn.val = f) (h : r.st = .started ∨ r.st = .accepted) :
    CommittedIn (flushFn s f a b) r (if r.st = .started then a else b) s.time.now := by
  obtain ⟨i, hi⟩ := mem_rewritten_of_mem (flushOne s f a b) hr
  rw [flushOne, if_pos ⟨hf, h⟩] at hi
  exact ⟨_, hi, rfl, rfl, rfl, rfl, rfl, rfl⟩

/-- A command of another function stays as it is. -/
theorem mem_flushFn (hr : r ∈ s.journal) (hf : r.q.fn.val ≠ f) : r ∈ (flushFn s f a b).journal := by
  obtain ⟨i, hi⟩ := mem_rewritten_of_mem (flushOne s f a b) hr
  rwa [flushOne, if_neg fun h => hf h.1] at hi

/-- No command of the function is left that has not completed. -/
theorem of_mem_flushFn (h : r ∈ (flushFn s f a b).journal) (hf : r.q.fn.val = f) : r.st ≠ .accepted ∧ r.st ≠ .started := by
  rw [flushFn_journal] at h
  obtain ⟨r0, -, i, rfl⟩ := of_mem_rewritten h
  rw [flushOne] at hf ⊢
  split
  · exact ⟨by simp [committed], by simp [committed]⟩
  · rename_i hopen
    rw [if_neg hopen] at hf
    exact ⟨fun h => hopen ⟨hf, .inr h⟩, fun h => hopen ⟨hf, .inl h⟩⟩

end

/-! ### Function-level reset (R345) -/

/-- A partition stops at once: its tiles halt, its sampling requests go, its campaign is over. -/
def quiet (s : State) (p : Nat) : State :=
  let u := updTiles s p (fun _ => haltTile)
  updPart (u.withSamp (u.samp.filter (fun y => y.part ≠ p))) p leaveCampaign

/-- The function's commands complete, its fields are cleared, and pending starts of its partition are cancelled. -/
def clearFn (s : State) (p : Nat) : State := cancelStart (setFn (flushFn s p 0x0206 0x0202) p Fn.reset) p

/-- Partition p is STOPPING if it was running, starting or to start. -/
def haltPart (s : State) (p : Nat) : State :=
  let st := (partAt s p).st
  if st = .running ∨ st = .starting ∨ st = .pendingEnable then setPState s p .stopping else s

/-- What FUNCTION_LEVEL_RESET does at its time. -/
def resetFunction (s : State) (p : Nat) : State :=
  let u := clearFn (quiet s p) p
  haltPart (if p = 0 then resetMailbox u else u) p

theorem exec_functionLevelReset {s : State} {p : Fin 32} {t : Word64} (now : s.time.now.ule t = true)
    (up : s.io.linkUp = true) (perst : s.io.perst = false) :
    exec (.functionLevelReset p t) s = .next (resetFunction (tick s t) p) := by
  show execFunctionLevelReset p t s = _
  simp only [execFunctionLevelReset, up, perst, atTime_of_ule _ now, Bool.not_true, Bool.false_eq_true, or_self, if_false, ok]
  rfl

/-! ### Function-level reset: what is left -/

theorem quiet_tells (s : State) (p : Nat) : TellsOnly (updPart s p leaveCampaign) (quiet s p) := by
  obtain ⟨_, e⟩ := updTiles_changes s p (fun _ => haltTile)
  rw [quiet, e]
  exact ⟨rfl, rfl, rfl, rfl, rfl⟩

theorem quiet_fns (s : State) (p : Nat) : (quiet s p).fns = s.fns := by
  obtain ⟨_, e⟩ := updTiles_changes s p (fun _ => haltTile)
  rw [quiet, e]; rfl

@[simp] theorem clearFn_parts (s : State) (p : Nat) : (clearFn s p).parts = s.parts := by
  rw [clearFn, cancelStart, commitWhere_parts]; rfl

@[simp] theorem clearFn_t2 (s : State) (p : Nat) : (clearFn s p).t2 = s.t2 := by
  rw [clearFn, cancelStart, commitWhere_t2]; rfl

theorem fnAt_clearFn {s : State} {p : Nat} (h : p < s.fns.length) : fnAt (clearFn s p) p = Fn.reset := by
  rw [clearFn, cancelStart, fnAt_congr (commitWhere_fns ..), fnAt_setFn (flushFn s p 0x0206 0x0202) p p Fn.reset h, if_pos rfl]

section
variable {s : State} {p : Nat} {r : JRec}

/-- A command of the function that was started completes with RESET, one that was accepted with ABORTED (R345). -/
theorem clearFn_commits (hr : r ∈ s.journal) (hf : r.q.fn.val = p) (h : r.st = .started ∨ r.st = .accepted) :
    CommittedIn (clearFn s p) r (if r.st = .started then 0x0206 else 0x0202) s.time.now :=
  CommittedIn.afterCommitWhere (CommittedIn.congr (flushFn_commits hr hf h) rfl)

/-- A pending start of the partition that another function gave is cancelled (R341). -/
theorem clearFn_cancels (hr : r ∈ s.journal) (hf : r.q.fn.val ≠ p) (hs : r.st = .started) (hc : cmdOf p isStart r = true) :
    CommittedIn (clearFn s p) r 0x0201 s.time.now :=
  commitWhere_commits (s := setFn (flushFn s p 0x0206 0x0202) p Fn.reset) (mem_flushFn hr hf) hs hc

theorem mem_clearFn (hr : r ∈ s.journal) (hf : r.q.fn.val ≠ p) (hc : cmdOf p isStart r = false) :
    r ∈ (clearFn s p).journal :=
  mem_commitWhere (s := setFn (flushFn s p 0x0206 0x0202) p Fn.reset) (mem_flushFn hr hf) (.inr hc)

theorem of_mem_clearFn (h : r ∈ (clearFn s p).journal) (hf : r.q.fn.val = p) : r.st ≠ .accepted ∧ r.st ≠ .started := by
  obtain h | h := of_mem_commitWhere (s := setFn (flushFn s p 0x0206 0x0202) p Fn.reset) h
  · exact of_mem_flushFn h hf
  · simp [h]

end

section
variable (s : State) (p : Nat)
@[simp] theorem haltPart_journal : (haltPart s p).journal = s.journal := by
  unfold haltPart; dsimp only; split <;> simp
@[simp] theorem haltPart_t2 : (haltPart s p).t2 = s.t2 := by
  unfold haltPart; dsimp only; split <;> simp
@[simp] theorem haltPart_boot : (haltPart s p).boot = s.boot := by
  unfold haltPart; dsimp only; split <;> simp
end

theorem partAt_haltPart_ne (s : State) {p k : Nat} (h : k ≠ p) : partAt (haltPart s p) k = partAt s k := by
  unfold haltPart
  dsimp only
  split
  · exact partAt_setPState_ne s _ h
  · rfl

/-- The halted partition keeps its record but for its state, which is STOPPING if it was RUNNING. -/
theorem partAt_haltPart_self {s : State} {p : Nat} (hp : p < s.parts.length) :
    ∃ st, partAt (haltPart s p) p = { partAt s p with st := st } ∧ ((partAt s p).st = .running → st = .stopping) := by
  unfold haltPart
  dsimp only
  split
  · exact ⟨.stopping, partAt_setPState_self _ hp, fun _ => rfl⟩
  · rename_i h
    exact ⟨(partAt s p).st, rfl, fun hr => absurd (.inl hr) h⟩

theorem fnAt_haltPart_of_disabled {s : State} {p : Nat} (h : (fnAt s p).even = false) :
    fnAt (haltPart s p) p = fnAt s p := by
  unfold haltPart
  dsimp only
  split
  · exact fnAt_setPState_of_disabled _ h
  · rfl

/-- For the PF the mailbox is cleared, and nothing else (R327, R345). -/
theorem resetMailbox_changes (s : State) :
    ∃ b, resetMailbox s = s.withBoot b ∧ b.mbState = 0 ∧ b.mbErr = 0 ∧ b.mbAddr = 0 ∧ b.mbLen = 0 :=
  ⟨_, rfl, rfl, rfl, rfl, rfl⟩

/-- A reset in terms of its stages: the function is cleared, the PF's mailbox with it, and the partition halts. -/
theorem resetFunction_changes (s : State) (p : Nat) :
    ∃ b, resetFunction s p = haltPart ((clearFn (quiet s p) p).withBoot b) p ∧
      (p = 0 → b.mbState = 0 ∧ b.mbErr = 0 ∧ b.mbAddr = 0 ∧ b.mbLen = 0) := by
  unfold resetFunction
  dsimp only
  split
  · obtain ⟨b, e, hb⟩ := resetMailbox_changes (clearFn (quiet s p) p)
    exact ⟨b, by rw [e], fun _ => hb⟩
  · rename_i hp
    exact ⟨_, rfl, fun h => absurd h hp⟩

section
variable {s : State} {p : Nat}

theorem quiet_journal : (quiet s p).journal = s.journal := (quiet_tells s p).journal

theorem quiet_time : (quiet s p).time = s.time := (quiet_tells s p).time

theorem partAt_cleared (b : BootU) (k : Nat) :
    partAt ((clearFn (quiet s p) p).withBoot b) k = partAt (updPart s p leaveCampaign) k := by
  refine partAt_congr ?_ k
  rw [State.withBoot_parts, clearFn_parts]
  exact (quiet_tells s p).parts

/-- After its function's reset a partition has no campaign, and is STOPPING if it was RUNNING (R345). -/
theorem partAt_resetFunction_self (hp : p < s.parts.length) :
    ∃ st, partAt (resetFunction s p) p = { leaveCampaign (partAt s p) with st := st } ∧
      ((partAt s p).st = .running → st = .stopping) := by
  obtain ⟨b, e, -⟩ := resetFunction_changes s p
  have hv : p < ((clearFn (quiet s p) p).withBoot b).parts.length := by
    rw [State.withBoot_parts, clearFn_parts, (quiet_tells s p).parts, updPart_partsLength]; exact hp
  obtain ⟨st, halted, stops⟩ := partAt_haltPart_self hv
  rw [partAt_cleared, partAt_updPart_self _ hp] at halted stops
  exact ⟨st, by rw [e, halted], stops⟩

theorem partAt_resetFunction_ne {k : Nat} (h : k ≠ p) : partAt (resetFunction s p) k = partAt s k := by
  obtain ⟨b, e, -⟩ := resetFunction_changes s p
  rw [e, partAt_haltPart_ne _ h, partAt_cleared, partAt_updPart_ne _ _ h]

theorem fnAt_resetFunction (h : p < s.fns.length) : fnAt (resetFunction s p) p = Fn.reset := by
  obtain ⟨b, e, -⟩ := resetFunction_changes s p
  have cleared : fnAt ((clearFn (quiet s p) p).withBoot b) p = Fn.reset := fnAt_clearFn (by rwa [quiet_fns])
  rw [e, fnAt_haltPart_of_disabled (by rw [cleared]; rfl), cleared]

theorem resetFunction_journal : (resetFunction s p).journal = (clearFn (quiet s p) p).journal := by
  obtain ⟨b, e, -⟩ := resetFunction_changes s p
  rw [e, haltPart_journal, State.withBoot_journal]

theorem resetFunction_t2 : (resetFunction s p).t2 = s.t2 := by
  obtain ⟨b, e, -⟩ := resetFunction_changes s p
  rw [e, haltPart_t2, State.withBoot_t2, clearFn_t2]
  exact (quiet_tells s p).t2

theorem resetFunction_mailbox (h : p = 0) :
    let b := (resetFunction s p).boot
    b.mbState = 0 ∧ b.mbErr = 0 ∧ b.mbAddr = 0 ∧ b.mbLen = 0 := by
  obtain ⟨b, e, cleared⟩ := resetFunction_changes s p
  rw [e, haltPart_boot]
  exact cleared h

end

/-! ### A fault that a member tells of (R305, R344) -/

/-- From s to t partition p has got the fault that record r tells of, and no other partition, no module memory and no command has
changed. -/
structure FaultRaised (p : Nat) (r : FaultRec) (s t : State) : Prop where
  size : t.parts.length = s.parts.length
  flog : (partAt t p).flog = (partAt s p).flog ++ [r]
  fault : (partAt t p).fault = some ⟨(partAt s p).flog.length, r.status, false, false⟩
  others : ∀ k, k ≠ p → partAt t k = partAt s k
  t2 : t.t2 = s.t2
  journal : t.journal = s.journal

/-- The record of a partition that a fault has just reached (R46 step 1). -/
theorem partAt_raiseFaults_self {s : State} {p : Nat} (r : FaultRec) (hp : p < s.parts.length)
    (h : (partAt s p).fault = none) :
    partAt (raiseFaults s p [r]) p = { partAt s p with
      flog := (partAt s p).flog ++ [r], fault := some ⟨(partAt s p).flog.length, r.status, false, false⟩ } := by
  rw [partAt_congr (raiseFaults_tells r h).parts, partAt_setPart _ _ _ _ hp, if_pos rfl]

theorem raiseFaults_raised {s : State} {p : Nat} (r : FaultRec) (hp : p < s.parts.length) (h : (partAt s p).fault = none) :
    FaultRaised p r s (raiseFaults s p [r]) := by
  have tells := raiseFaults_tells r h
  have self := partAt_raiseFaults_self r hp h
  exact ⟨by rw [tells.parts]; exact List.length_set, by rw [self], by rw [self],
    fun k hk => by rw [partAt_congr tells.parts, partAt_setPart_ne _ _ hk], tells.t2, tells.journal⟩

/-- A switch that fails with it keeps the fault (R305). -/
theorem FaultRaised.afterAbandonSwitch {s t : State} {p : Nat} {r : FaultRec} {c : Camp} (h : FaultRaised p r s t)
    (hp : p < s.parts.length) (hc : (partAt t p).camp = some c) :
    FaultRaised p r s (abandonSwitch t p) ∧ ∃ c', (partAt (abandonSwitch t p) p).camp = some c' ∧ c'.sw = none := by
  obtain ⟨rest, flog, fault, camp, size, others⟩ := abandonSwitch_changes (h.size ▸ hp) hc
  refine ⟨⟨size.trans h.size, flog.trans h.flog, fault.trans h.fault, fun k hk => (others k hk).trans (h.others k hk),
    ?_, ?_⟩, camp⟩
  · rw [rest]; exact h.t2
  · rw [rest]; exact h.journal

/-- A fault that came from a member is not told to the members again. -/
def fromPeer (x : Part) : Part := { x with fault := x.fault.map (fun f => { f with peer := true }) }

/-- What a fault that a member told of leaves. -/
theorem FaultRaised.marked {s t : State} {p : Nat} {r : FaultRec} (h : FaultRaised p r s t) (hp : p < s.parts.length) :
    let u := updPart t p fromPeer
    (partAt u p).flog = (partAt s p).flog ++ [r] ∧
      (partAt u p).fault = some ⟨(partAt s p).flog.length, r.status, false, true⟩ ∧
      (partAt u p).camp = (partAt t p).camp ∧ (∀ k, k ≠ p → partAt u k = partAt s k) ∧ u.t2 = s.t2 ∧
      u.journal = s.journal := by
  have self : partAt (updPart t p fromPeer) p = fromPeer (partAt t p) := partAt_updPart_self _ (h.size ▸ hp)
  refine ⟨by rw [self]; exact h.flog, by rw [self, fromPeer, h.fault]; rfl, by rw [self]; rfl, fun k hk => ?_, h.t2, h.journal⟩
  rw [partAt_updPart_ne _ _ hk, h.others k hk]

section
variable {s : State} {p : Nat}

/-- A member's message is noted, so that a duplicate is discarded (R298). -/
def hear (s : State) (m : MsgAt) : State :=
  s.withFabric { s.fabric with seen := (m.frm, m.seq) :: s.fabric.seen }

/-- A new message from a member that is bound to the same campaign is delivered (R298, R303). -/
theorem fromBound_of_bound {c : Camp} {m : MsgAt} (f : State → State) (hc : (partAt s p).camp = some c)
    (hnew : (m.frm, m.seq) ∉ s.fabric.seen) (hb : boundWith s c m.frm = true) : fromBound s p m f = f (hear s m) := by
  have hc : (partAt (hear s m) p).camp = some c := hc
  have hb : boundWith (hear s m) c m.frm = true := hb
  rw [fromBound, fromMember, if_neg (by simpa using hnew)]
  show (match (partAt (hear s m) p).camp with
    | some c => if boundWith (hear s m) c m.frm then f (hear s m) else dropChunk (hear s m)
    | none => dropChunk (hear s m)) = f (hear s m)
  rw [hc]
  exact if_pos hb

end

/-- The record of a fault that a member has told of (R45, R344). -/
def peerRec (s : State) (m : MsgAt) : FaultRec := { mkFault s 0x0340 255 with other := memberCode m.frm }

/-- The record of a shard that a switch has lost (R45, R305). -/
def shardRec (s : State) (d : Nat) : FaultRec := { mkFault s 0x0339 255 with detail := d }

/-- The fault that a member's message raises: SHARD_LOST where the switch has lost a shard there, PEER_FAULT otherwise. -/
def peerRaises (s : State) (p : Nat) (m : PeerMsg) : State :=
  match m.lost with
  | some d => abandonSwitch (raiseFaults s p [shardRec s d]) p
  | none => raiseFaults s p [peerRec s m.msg]

theorem exec_peerFaultReceive {s : State} {p : Fin 32} {t : Word64} {c : Camp} {m : PeerMsg}
    (now : s.time.now.ule t = true) (hc : (partAt s p).camp = some c) (hm : m.msg.frm ∈ c.p.positions)
    (hf : (partAt s p).fault = none) (hnew : (m.msg.frm, m.msg.seq) ∉ s.fabric.seen)
    (hb : boundWith s c m.msg.frm = true) :
    exec (.peerFaultReceive p m t) s = .next (updPart (peerRaises (hear (tick s t) m.msg) p m) p fromPeer) := by
  have member : (campMembers c).contains m.msg.frm = true := by simpa [campMembers] using hm
  have delivered := fromBound_of_bound (s := tick s t) (p := p)
    (fun u => updPart (peerRaises u p m) p fromPeer) hc hnew hb
  rw [← delivered]
  show execPeerFaultReceive p m t s = _
  simp only [execPeerFaultReceive, hc, hf, member, atTime_of_ule _ now, Bool.not_true, Option.isSome_none,
    Bool.false_eq_true, or_self, if_false, ok]
  rfl

/-- Settles O15, clause by clause: a fault without a campaign, one of a campaign whose turn records are written, one whose records
are on their way; a member's fault and a lost shard told by a member; a function's reset. -/
theorem faultsAndResetsComplete : Obligations.FaultsAndResetsComplete := by
  intro s p t hinv now
  obtain ⟨⟨nfns, nparts, -⟩, -⟩ := hinv
  have hp : p.val < (tick s t).parts.length := by rw [tick_parts, nparts]; exact p.isLt
  refine ⟨fun f hf hnew idle => ?idle, fun f c r hf hnew own hc hphase hfin hdue hgood hr _ => ?written,
    fun f c hf hnew own hc hphase hfin hdue => ?due, fun c m hc hm hf hseen hbound => ?peer,
    fun c m d hc hm hf hseen hbound => ?shard, fun up perst => ?reset⟩
  case idle =>
    have served := faultEvicts_serves (tick s t) p
    have hu : p.val < (faultEvicts (tick s t) p).parts.length := by rwa [served.size]
    obtain ⟨t2, tiles⟩ := served.idle idle
    refine ⟨_, exec_faultRecordComplete now hf hnew, ?_⟩
    rw [completeFault_of_idle hp idle, partAt_commitWhere, partAt_markFaulted_self f hu]
    refine ⟨rfl, rfl, fun r hr hst hcmd => ?_, fun r hr hout => ?_, fun k hk => ?_, ?_, ?_⟩
    · have := commitWhere_commits (s := markFaulted (faultEvicts (tick s t) p) p f) (c := faultEnds p) (status := f.status)
        (detail := some f.ix) (by rwa [markFaulted_journal, served.journal]) hst hcmd
      rwa [markFaulted_time, served.time] at this
    · refine mem_commitWhere (by rwa [markFaulted_journal, served.journal]) (hout.imp_right fun h => ?_)
      simp [faultEnds, cmdOf, h]
    · rw [partAt_commitWhere, partAt_markFaulted_ne _ f hk, served.others k hk, partAt_tick]
    · rw [commitWhere_tiles, markFaulted_tiles, tiles, tick_tiles]
    · rw [commitWhere_t2, markFaulted_t2, t2, tick_t2]
  case written =>
    obtain ⟨v, told, e⟩ := completeFault_of_camp hp hc own hphase
    obtain ⟨st, left, completes, fabric, others⟩ := endCampaign_of_faulted (status := f.status) (d := f.ix)
      (told.size ▸ hp) told.st told.camp hfin hdue hgood (r := r) (by rw [headRec, told.journal]; exact hr)
    refine ⟨_, exec_faultRecordComplete now hf hnew, ?_⟩
    rw [e, partAt_commitWhere]
    refine ⟨st, left, ?_, fun m hm hne => ?_, fun k hk => ?_⟩
    · rw [told.time] at completes
      exact completes.afterCommitWhere
    · rw [commitWhere_fabric, fabric]
      exact told.told m hm hne
    · rw [partAt_commitWhere, others k hk]
      exact told.others k hk
  case due =>
    obtain ⟨v, told, e⟩ := completeFault_of_camp hp hc own hphase
    refine ⟨_, closingCamp f.status (some f.ix) c, exec_faultRecordComplete now hf hnew, ?_⟩
    rw [e, endCampaign_of_due _ _ told.camp hfin hdue, partAt_commitWhere, updCamp_self _ (told.size ▸ hp) told.camp]
    refine ⟨told.st, rfl, rfl, rfl, fun k hk => ?_⟩
    rw [partAt_commitWhere, updCamp_ne _ hk]
    exact told.others k hk
  case peer =>
    have raised := raiseFaults_raised (s := hear (tick s t) m) (peerRec (hear (tick s t) m) m) hp hf
    obtain ⟨flog, fault, -, rest⟩ := raised.marked hp
    exact ⟨_, _, exec_peerFaultReceive now hc hm hf hseen hbound, flog, rfl, rfl, rfl, rfl, fault, rest⟩
  case shard =>
    have raised := raiseFaults_raised (s := hear (tick s t) m) (shardRec (hear (tick s t) m) d) hp hf
    have camp : (partAt (raiseFaults (hear (tick s t) m) p [shardRec (hear (tick s t) m) d]) p).camp = some c := by
      rw [partAt_raiseFaults_self (s := hear (tick s t) m) _ hp hf]; exact hc
    obtain ⟨raised, c', hc', hsw⟩ := raised.afterAbandonSwitch hp camp
    obtain ⟨flog, fault, kept, rest⟩ := raised.marked hp
    exact ⟨_, _, exec_peerFaultReceive now hc hm hf hseen hbound, flog, rfl, rfl, rfl, ⟨c', kept.trans hc', hsw⟩, fault, rest⟩
  case reset =>
    obtain ⟨st, self, stops⟩ := partAt_resetFunction_self hp
    have commits {r : JRec} (hr : r ∈ s.journal) (hfn : r.q.fn = p) (h : r.st = .started ∨ r.st = .accepted) :
        CommittedIn (resetFunction (tick s t) p) r (if r.st = .started then 0x0206 else 0x0202) t := by
      have := clearFn_commits (s := quiet (tick s t) p) (by rwa [quiet_journal]) (congrArg Fin.val hfn) h
      rw [quiet_time] at this
      exact this.congr resetFunction_journal
    refine ⟨_, exec_functionLevelReset now up perst, fnAt_resetFunction (by rw [tick_fns, nfns]; exact p.isLt), ?_⟩
    rw [self, resetFunction_journal]
    refine ⟨rfl, fun r hr hfn => of_mem_clearFn hr (congrArg Fin.val hfn), fun r hr hfn hst => ?started,
      fun r hr hfn hst => ?accepted, fun r hr hfn hother => ?_, fun r hr hfn hst hstart => ?_, stops, rfl,
      fun h => resetFunction_mailbox (congrArg Fin.val h), fun k hk => partAt_resetFunction_ne hk, resetFunction_t2⟩
    case started => simpa [hst] using commits hr hfn (.inl hst)
    case accepted => simpa [hst] using commits hr hfn (.inr hst)
    · exact mem_clearFn (by rwa [quiet_journal]) (Fin.val_ne_of_ne hfn) hother
    · have := clearFn_cancels (s := quiet (tick s t) p) (by rwa [quiet_journal]) (Fin.val_ne_of_ne hfn) hst hstart
      rw [quiet_time] at this
      exact this.congr resetFunction_journal

end Sys2Proof.Machine
end

section
/-! PROOFS. The statements of the family 01_the_turn_machine.md: how admissions open and close, and how turns end. What a start of
segments leaves of a partition's record, what an admission makes of an entry, and when a rollout turn goes on, are said once each. -/

namespace Sys2Proof.Machine

open Sys2Proof

/-! ### What changes outside the partitions' records -/

theorem TellsOnly.refl (s : State) : TellsOnly s s := ⟨rfl, rfl, rfl, rfl, rfl⟩

theorem TellsOnly.foldl {α : Type} {f : State → α → State} (h : ∀ s a, TellsOnly s (f s a)) (l : List α) (s : State) :
    TellsOnly s (l.foldl f s) := by
  induction l generalizing s with
  | nil => exact .refl s
  | cons a l ih => exact (h s a).trans (ih _)

theorem addCtr_tells (s : State) (k n : Nat) : TellsOnly s (addCtr s k n) := ⟨rfl, rfl, rfl, rfl, rfl⟩

theorem withFree_tells (s : State) (n : Nat) : TellsOnly s (s.withFree n) := ⟨rfl, rfl, rfl, rfl, rfl⟩

theorem setTile_tells (s : State) (p t : Nat) (x : Tile) : TellsOnly s (setTile s p t x) := by
  obtain ⟨_, e⟩ := setTile_changes s p t x
  rw [e]; exact ⟨rfl, rfl, rfl, rfl, rfl⟩

theorem updTile_tells (s : State) (p t : Nat) (f : Tile → Tile) : TellsOnly s (updTile s p t f) := setTile_tells ..

theorem regear_tells (s : State) : TellsOnly s (regear s) := ⟨rfl, rfl, rfl, rfl, rfl⟩

/-! ### Frames of the store memory (R197 to R201) -/

theorem withT1_tells (s : State) (x : T1U) : TellsOnly s (s.withT1 x) := ⟨rfl, rfl, rfl, rfl, rfl⟩

theorem setFrame_tells (s : State) (n : Nat) (f : Frame) : TellsOnly s (setFrame s n f) := withT1_tells ..

theorem giveFrame_tells (s : State) (n : Nat) (k : PageKey) (pin : Bool) (holds : List (Option Nat)) :
    TellsOnly s (giveFrame s n k pin holds) := (setFrame_tells ..).trans (withT1_tells ..)

theorem takeFrame_tells (s : State) (k : PageKey) (die : Nat) (h : Option Nat) (pin : Bool) (holds : List (Option Nat)) :
    TellsOnly s (takeFrame s k die h pin holds).1 := by
  unfold takeFrame
  dsimp only
  split
  · split
    · exact (withFree_tells ..).trans (giveFrame_tells ..)
    · exact .refl s
  · split
    · exact .refl s
    · split
      · exact .refl s
      · split
        · exact giveFrame_tells ..
        · exact setFrame_tells ..

theorem releaseFrames_tells (s : State) (c : Nat → Frame → Bool) : TellsOnly s (releaseFrames s c) := by
  refine TellsOnly.foldl (fun u e => ?_) _ s
  split
  · exact .refl u
  · split
    · exact setFrame_tells ..
    · split
      · exact giveFrame_tells ..
      · exact withT1_tells ..

theorem asksOther_tells (s : State) (die : Nat) (x : PageKey × Bool × List (Option Nat)) :
    TellsOnly s (asksOther s die x) := by
  have taken := takeFrame_tells s x.1 die none x.2.1 x.2.2
  unfold asksOther
  dsimp only
  split
  · exact taken
  · split
    · exact taken.trans (withT1_tells ..)
    · exact taken

theorem gainFrame_tells (s : State) (n : Nat) (f : Frame) (pin : Bool) (holds : List (Option Nat)) :
    TellsOnly s (gainFrame s n f pin holds).1 := by
  unfold gainFrame
  dsimp only
  split
  · exact setFrame_tells ..
  · split
    · exact (setFrame_tells ..).trans (asksOther_tells ..)
    · split
      · exact setFrame_tells ..
      · split
        · exact .refl s
        · dsimp only
          exact (setFrame_tells ..).trans (releaseFrames_tells ..)

theorem gainPage_tells (s : State) (k : PageKey) (n : Nat) (f : Frame) (pin : Bool) (holds : List (Option Nat)) :
    TellsOnly s (gainPage s k n f pin holds).1 := by
  unfold gainPage
  split
  · exact gainFrame_tells ..
  · exact setFrame_tells ..

/-- A fold whose state stands beside a mark changes what its steps change. -/
theorem TellsOnly.foldl_fst {α β : Type} {f : State × β → α → State × β} (h : ∀ x a, TellsOnly x.1 (f x a).1) (l : List α)
    (x : State × β) : TellsOnly x.1 (l.foldl f x).1 := by
  induction l generalizing x with
  | nil => exact .refl x.1
  | cons a l ih => exact (h x a).trans (ih _)

/-- What a page of a calendar entry gets: the frame that it has, or one that is to be found (R201). -/
def calFrame (s : State) (c : CalE) (k : PageKey) : State × Bool :=
  match frameOf s k with
  | some f => gainPage s k f.1 f.2 false (calHold c)
  | none => takeFrame s k (calDie c k.page) none false (calHold c)

theorem calFrame_tells (s : State) (c : CalE) (k : PageKey) : TellsOnly s (calFrame s c k).1 := by
  unfold calFrame
  split
  · exact gainPage_tells ..
  · exact takeFrame_tells ..

/-- Page j of a calendar entry: requested, unless an earlier one has found no frame; one that finds none drops the rest (R201). -/
def calPage (p : Nat) (c : CalE) (epoch : Nat) (acc : State × Bool) (j : Nat) : State × Bool :=
  let k : PageKey := ⟨p, c.region, epoch, c.page + j⟩
  let x := calFrame acc.1 c k
  if acc.2 then acc
  else if x.2 then (x.1, false)
  else (addCtr x.1 (ctrKey 0 4 (calDie c k.page) cCalDrop) (c.count - j), true)

theorem calPage_tells (p : Nat) (c : CalE) (epoch : Nat) (acc : State × Bool) (j : Nat) :
    TellsOnly acc.1 (calPage p c epoch acc j).1 := by
  have found := calFrame_tells acc.1 c ⟨p, c.region, epoch, c.page + j⟩
  unfold calPage
  dsimp only
  split
  · exact .refl acc.1
  · split
    · exact found
    · exact found.trans (addCtr_tells ..)

theorem calRequest_tells (s : State) (p : Nat) (c : CalE) : TellsOnly s (calRequest s p c) := by
  unfold calRequest
  split
  · exact .refl s
  · split
    · exact .refl s
    · exact TellsOnly.foldl_fst (fun x j => calPage_tells p c _ x j) _ (s, false)

theorem calTrigger_tells (s : State) (p : Nat) (pr : Program) (trig seg : Nat) : TellsOnly s (calTrigger s p pr trig seg) :=
  .foldl (fun s c => calRequest_tells s p c) _ s

/-! ### What an operation keeps of every partition's record -/

/-- From s to t the journal, the time and the fabric are as they were, and so is, of every partition's record, what g shows. -/
structure PartsKept {β : Type} (g : Part → β) (s t : State) : Prop where
  journal : t.journal = s.journal
  time : t.time = s.time
  fabric : t.fabric = s.fabric
  size : t.parts.length = s.parts.length
  own : ∀ k, g (partAt t k) = g (partAt s k)

namespace PartsKept
variable {β : Type} {g : Part → β} {s t u : State}

theorem refl (g : Part → β) (s : State) : PartsKept g s s := ⟨rfl, rfl, rfl, rfl, fun _ => rfl⟩

theorem trans (h : PartsKept g s t) (h' : PartsKept g t u) : PartsKept g s u :=
  ⟨h'.journal.trans h.journal, h'.time.trans h.time, h'.fabric.trans h.fabric, h'.size.trans h.size,
    fun k => (h'.own k).trans (h.own k)⟩

theorem foldl {α : Type} {f : State → α → State} (h : ∀ s a, PartsKept g s (f s a)) (l : List α) (s : State) :
    PartsKept g s (l.foldl f s) := by
  induction l generalizing s with
  | nil => exact refl g s
  | cons a l ih => exact (h s a).trans (ih _)

theorem ite {c : Prop} [Decidable c] (h : PartsKept g s t) (h' : PartsKept g s u) : PartsKept g s (if c then t else u) := by
  split
  · exact h
  · exact h'

theorem of_tells (h : TellsOnly s t) : PartsKept g s t :=
  ⟨h.journal, h.time, h.fabric, congrArg List.length h.parts, fun k => congrArg g (partAt_congr h.parts k)⟩

end PartsKept

theorem updPart_kept {β : Type} {g : Part → β} (s : State) (p : Nat) (f : Part → Part)
    (h : ∀ x, g (f x) = g x := by intro; rfl) : PartsKept g s (updPart s p f) := by
  obtain ⟨-, size, others, own⟩ := updPart_only g s p f h
  refine ⟨rfl, rfl, rfl, size, fun k => ?_⟩
  by_cases hk : k = p
  · rw [hk, own]
  · rw [others k hk]

/-- A write into a region changes module memory and tiles. -/
theorem writeRegion_kept {β : Type} (g : Part → β) (s : State) (p r off : Nat) (b : List Byte) :
    PartsKept g s (writeRegion s p r off b) := by
  unfold writeRegion
  split
  · rename_i x _
    obtain ⟨m, em⟩ : ∃ m, markStale (writePages s x.wpages off b) p r off b.length = (writePages s x.wpages off b).withTiles m :=
      updTiles_changes ..
    rw [em]
    exact ⟨rfl, rfl, rfl, rfl, fun _ => rfl⟩
  · exact .refl g s

/-! ### What a start of segments leaves (R33, R364, R372) -/

/-- A turn in progress but for its running segments, the triggers that have fired, and the gradient formats and statistics records of
its steps. -/
def Run.unstarted (r : Run) : Run := { r with live := [], trig := [], gsel := [], statOpen := [] }

/-- A campaign but for what starts of segments change of its turn. -/
def Camp.unstarted (c : Camp) : Camp := { c with run := c.run.map Run.unstarted }

/-- A partition's record but for what starts of segments change: its energy, its faults, and its running turn's segments. -/
def Part.unstarted (x : Part) : Part := { x with bal := 0, flog := [], fault := none, camp := x.camp.map Camp.unstarted }

theorem updRun_kept (s : State) (p : Nat) (f : Run → Run) (h : ∀ r, (f r).unstarted = r.unstarted := by intro; rfl) :
    PartsKept Part.unstarted s (updRun s p f) := by
  unfold updRun updCamp
  refine updPart_kept s p _ fun x => ?_
  have same : Run.unstarted ∘ f = Run.unstarted := funext h
  have run : (Camp.unstarted ∘ fun c => { c with run := c.run.map f }) = Camp.unstarted := by
    funext c
    simp [Camp.unstarted, Option.map_map, same]
  simp only [Part.unstarted, Option.map_map, run]

theorem raiseFaults_kept (s : State) (p : Nat) (rs : List FaultRec) : PartsKept Part.unstarted s (raiseFaults s p rs) := by
  unfold raiseFaults
  dsimp only
  split
  · refine PartsKept.trans ?_ (.of_tells (.foldl (fun u q => postEvent_tells u 3 p (faultBits q)) _ _))
    refine PartsKept.trans ?_ (.of_tells (addHist_tells ..))
    refine PartsKept.trans ?_ (.of_tells (((updTiles_tells ..).trans (sweepInvals_tells ..)).trans (withSamp_tells ..)))
    exact updPart_kept s p (fun x => { x with flog := _, fault := _ }) fun _ => rfl
  · exact .refl ..

theorem tileFault_kept (s : State) (a : TileAt) (q ix status addr detail : Nat) :
    PartsKept Part.unstarted s (tileFault s a q ix status addr detail) := raiseFaults_kept ..

theorem extentFault_kept (s : State) (a : TileAt) (q ix addr : Nat) (ext : Option Nat) :
    PartsKept Part.unstarted s (extentFault s a q ix addr ext) := by
  unfold extentFault
  split
  · exact tileFault_kept ..
  · exact (PartsKept.of_tells (withFree_tells ..)).trans (tileFault_kept ..)

/-- Arming a ring faults or changes its tile. -/
theorem armRing_kept (s : State) (a : TileAt) (ix n rcd : Nat) (bad : Tag) :
    PartsKept Part.unstarted s (armRing s a ix n rcd bad) := by
  unfold armRing
  split
  · refine .ite (.refl ..) (.ite (tileFault_kept ..) ?_)
    split
    · exact extentFault_kept ..
    · refine .ite (tileFault_kept ..) ?_
      split
      · exact extentFault_kept ..
      · exact .ite (tileFault_kept ..) (.of_tells (updTile_tells ..))
  · exact .refl ..

theorem armSegment_kept (s : State) (a : TileAt) (pr : Program) (seg : Nat) :
    PartsKept Part.unstarted s (armSegment s a pr seg) :=
  (PartsKept.of_tells ((updTile_tells ..).trans (sweepInvals_tells ..))).trans (.foldl (fun _ _ => armRing_kept ..) _ _)

theorem seqPass_kept (s : State) (a : TileAt) : PartsKept Part.unstarted s (seqPass s a) := by
  have passed (x : Tile) : PartsKept Part.unstarted s (setTile s a.part a.tile x) := .of_tells (setTile_tells ..)
  unfold seqPass
  dsimp only
  split
  · exact (passed _).trans (tileFault_kept ..)
  · exact .ite ((passed _).trans (tileFault_kept ..)) (passed _)

theorem startSeg_kept (s : State) (k : Cand1) (g : Nat) : PartsKept Part.unstarted s (startSeg s k g) := by
  cases ht : turnOf (partAt s k.part) with
  | none => simp only [startSeg, ht]; exact .refl ..
  | some t =>
    cases hp : progOf (partAt s k.part) with
    | none => simp only [startSeg, ht, hp]; exact .refl ..
    | some pr =>
      simp only [startSeg, ht, hp]
      refine PartsKept.trans ?_ (.of_tells (regear_tells _))
      refine PartsKept.trans ?_ (.foldl (fun u n => (armSegment_kept ..).trans (.ite (seqPass_kept ..) (.refl ..))) _ _)
      refine PartsKept.trans ?_ (.of_tells (calTrigger_tells ..))
      refine PartsKept.trans ?_ (.of_tells (.foldl (fun _ _ => updTile_tells ..) _ _))
      refine PartsKept.trans ?_ (.of_tells ((addCtr_tells ..).trans (withFree_tells ..)))
      refine PartsKept.trans ?_ (.ite (.of_tells (addCtr_tells ..)) (.refl ..))
      refine PartsKept.trans ?_ (.of_tells (addCtr_tells ..))
      refine PartsKept.trans ?_ (updPart_kept ..)
      refine PartsKept.trans ?_ (updRun_kept ..)
      refine PartsKept.trans ?_ (updRun_kept ..)
      exact .ite ((PartsKept.foldl (fun _ _ => writeRegion_kept ..) _ _).trans (updRun_kept ..)) (.refl ..)

theorem tryStart_kept (s : State) (k : Cand1) : PartsKept Part.unstarted s (tryStart s k) := by
  unfold tryStart
  dsimp only
  refine .ite (.refl ..) ?_
  split
  · exact startSeg_kept ..
  · exact .ite (.ite (startSeg_kept ..) (.refl ..)) (.ite (.of_tells (addCtr_tells ..)) (.refl ..))

theorem readyTriggers_kept (s : State) : PartsKept Part.unstarted s (readyTriggers s) := by
  refine PartsKept.foldl (fun u k => ?_) _ s
  dsimp only
  split
  · exact .ite (.refl ..) (.trans (updRun_kept ..) (.of_tells (calTrigger_tells ..)))
  · exact .refl ..

/-- GOVERNOR_SCHEDULE starts segments and does nothing else (R372). -/
theorem schedule_kept (s : State) : PartsKept Part.unstarted s (schedule s) :=
  (readyTriggers_kept s).trans (.foldl (fun u k => tryStart_kept u k) _ _)


/-- A campaign in a running turn is, after starts of segments, the same campaign in the same turn. -/
theorem PartsKept.campRun {s t : State} {p : Nat} {c : Camp} {r : Run} (h : PartsKept Part.unstarted s t)
    (hc : (partAt s p).camp = some c) (hr : c.run = some r) :
    ∃ c' r', (partAt t p).camp = some c' ∧ c'.run = some r' ∧ c'.unstarted = c.unstarted ∧ r'.unstarted = r.unstarted := by
  have camp : (partAt t p).camp.map Camp.unstarted = some c.unstarted :=
    (congrArg Part.camp (h.own p)).trans (congrArg (Option.map Camp.unstarted) hc)
  obtain ⟨c', hc', ec⟩ := Option.map_eq_some_iff.1 camp
  have run : c'.run.map Run.unstarted = some r.unstarted :=
    (congrArg Camp.run ec).trans (congrArg (Option.map Run.unstarted) hr)
  obtain ⟨r', hr', er⟩ := Option.map_eq_some_iff.1 run
  exact ⟨c', r', hc', hr', ec, er⟩

/-- Starts of segments leave the table of entries. -/
theorem PartsKept.reqs {s t : State} (h : PartsKept Part.unstarted s t) (p : Nat) : (partAt t p).reqs = (partAt s p).reqs :=
  (congrArg Part.reqs (h.own p) :)

/-! ### A module without campaigns -/

theorem readySegs_of_idle {s : State} {p : Nat} (h : (partAt s p).camp = none) : readySegs s p = [] := by
  simp only [readySegs, h]

/-- Where no partition has a campaign there is nothing to start. -/
theorem schedule_of_idle {s : State} (h : ∀ p, (partAt s p).camp = none) : schedule s = s := by
  have none_ready : ((List.range 32).map (readySegs s)).flatten = [] := by
    simp [readySegs_of_idle (h _)]
  have untriggered : readyTriggers s = s := by rw [readyTriggers, none_ready]; rfl
  simp [schedule, untriggered, none_ready, sortBy]

/-- If no listed partition has a campaign, none has. -/
theorem idle_of_all {s : State} (h : ∀ x ∈ s.parts, x.camp = none) (p : Nat) : (partAt s p).camp = none := by
  by_cases hp : p < s.parts.length
  · rw [partAt, List.getD_eq_getElem _ _ hp]
    exact h _ (List.getElem_mem hp)
  · rw [partAt, List.getD_eq_default _ _ (Nat.not_lt.1 hp)]; rfl

/-- A partition with a campaign is one of the listed ones. -/
theorem lt_of_camp {s : State} {p : Nat} {c : Camp} (h : (partAt s p).camp = some c) : p < s.parts.length := by
  by_contra hp
  rw [partAt, List.getD_eq_default _ _ (Nat.not_lt.1 hp)] at h
  cases h

theorem updRun_of_idle {s : State} {p : Nat} (f : Run → Run) (h : (partAt s p).camp = none) : updRun s p f = s := by
  have same : { partAt s p with camp := (partAt s p).camp.map fun c => { c with run := c.run.map f } } = partAt s p := by
    rw [h]; exact congrArg (fun c => { partAt s p with camp := c }) h.symm
  rw [updRun, updCamp, updPart, same]
  exact congrArg s.withParts (set_getD_self ..)

/-- A partition's record after an update of its running turn. -/
theorem partAt_updRun_self {s : State} {p : Nat} {c : Camp} {r : Run} (f : Run → Run) (hc : (partAt s p).camp = some c)
    (hr : c.run = some r) : partAt (updRun s p f) p = { partAt s p with camp := some { c with run := some (f r) } } := by
  rw [updRun, updCamp_self _ (lt_of_camp hc) hc, hr]; rfl

/-! ### A turn that goes on (R8) -/

/-- However often a turn that goes on is checked, it stays as it is. -/
theorem turnLoop_of_steady {s : State} {p : Nat} (h : turnCheck s p = s) : turnLoop s p = s := by
  unfold turnLoop
  generalize List.range _ = l
  induction l with
  | nil => rfl
  | cons a l ih => rw [List.foldl_cons, h, ih]

theorem turnLoop_of_idle {s : State} {p : Nat} (h : (partAt s p).camp = none) : turnLoop s p = s :=
  turnLoop_of_steady (by simp only [turnCheck, h])

/-- A turn that has not met its end condition goes on, unless the campaign stops. -/
theorem turnCheck_of_unmet {s : State} {p : Nat} {c : Camp} {r : Run} {tn : TurnP} (hc : (partAt s p).camp = some c)
    (hr : c.run = some r) (ht : c.p.turns[r.turn]? = some tn) (unmet : turnMet (partAt s p) r tn = false)
    (go : c.stop = false) : turnCheck s p = s := by
  have turn : turnOf (partAt s p) = some tn := by simp [turnOf, hc, hr, ht]
  simp [turnCheck, hc, turn, hr, unmet, stopReached, go]

/-- An open entry of the turn keeps a rollout turn from its end (R8). -/
theorem turnMet_of_open {x : Part} {r : Run} {tn : TurnP} {e : Nat} {y : Req} (hk : tn.kind = .rollout)
    (hy : mapFind x.reqs e = some y) (ho : reqOpen y = true) (ht : y.turn = some x.turnSeq) : turnMet x r tn = false := by
  have busy : (x.reqs.all fun e => !(decide (e.2.turn = some x.turnSeq)) || !reqOpen e.2) = false :=
    List.all_eq_false.2 ⟨(e, y), mapFind_mem hy, by simp [ht, ho]⟩
  simp [turnMet, hk, rolloutIdle, busy]

/-- Partition p runs the rollout turn tn of campaign c, in run r, without a stop, and entry e of the turn is open. -/
structure RolloutGoesOn (s : State) (p : Nat) (c : Camp) (r : Run) (tn : TurnP) (e : Nat) (y : Req) : Prop where
  camp : (partAt s p).camp = some c
  run : c.run = some r
  turn : c.p.turns[r.turn]? = some tn
  kind : tn.kind = .rollout
  go : c.stop = false
  req : reqAt s p e = some y
  isOpen : reqOpen y = true
  ofTurn : y.turn = some (partAt s p).turnSeq

/-- A change of the run that stays in its turn, and then what the governor starts: the campaign is in the same turn, and the entries
are as they were. -/
theorem RolloutGoesOn.rescheduled {s : State} {p : Nat} {c : Camp} {r : Run} {tn : TurnP} {e : Nat} {y : Req}
    (h : RolloutGoesOn s p c r tn e y) {f : Run → Run} (same : (f r).turn = r.turn) :
    let t := schedule (turnLoop (updRun s p f) p)
    t.journal = s.journal ∧ (partAt t p).reqs = (partAt s p).reqs ∧
      ∃ c' r', (partAt t p).camp = some c' ∧ c'.run = some r' ∧ c'.unstarted = { c with run := some (f r) }.unstarted ∧
        r'.unstarted = (f r).unstarted := by
  have self := partAt_updRun_self f h.camp h.run
  have camp : (partAt (updRun s p f) p).camp = some { c with run := some (f r) } := by rw [self]
  have unmet : turnMet (partAt (updRun s p f) p) (f r) tn = false := by
    rw [self]; exact turnMet_of_open h.kind h.req h.isOpen h.ofTurn
  have steady := turnLoop_of_steady (turnCheck_of_unmet camp rfl (by rw [same]; exact h.turn) unmet h.go)
  dsimp only
  rw [steady]
  have kept := schedule_kept (updRun s p f)
  exact ⟨kept.journal, by rw [kept.reqs, self], kept.campRun camp rfl⟩

/-! ### ADMIT_CLOSE (R243) -/

/-- What ADMIT_CLOSE makes of the running turn. -/
def closeAdmission (r : Run) : Run := { r with admOpen := r.admOpen && !decide (r.kind = .rollout) }

theorem exec_admitClose {s : State} {q : QId} {p : Nat} (h : hostReady s q .admitClose p = true) :
    exec (.admitClose q) s = .next (schedule (turnLoop (updRun (doneOk s q) p closeAdmission) p)) := by
  show execAdmitClose q s = _
  exact hostCmd_ready (fun s p => schedule (turnLoop (updRun (doneOk s q) p closeAdmission) p)) h

/-- A command that may start finds the link up (R323, R325). -/
theorem linkUp_of_hostReady {s : State} {q : QId} {c : HostCmd} {p : Nat} (h : hostReady s q c p = true) :
    s.io.linkUp = true := by
  unfold hostReady canStart at h
  split at h
  · rename_i hr
    split at hr
    · split at hr
      · rename_i up
        obtain ⟨-, -, up, -⟩ := up
        simp only [hubUp, Bool.and_eq_true] at up
        exact up.1.2
      · cases hr
    · cases hr
  · cases h

/-- With the link up a completion changes the journal and draws a free value. -/
theorem doneOk_of_linkUp {s : State} (q : QId) (h : s.io.linkUp = true) :
    ∃ d, doneOk s q = (s.withFree (s.free + 1)).withJournal (completedWith s q 0 d) := by
  refine ⟨(Config.free64 s.free).toNat % 2 ^ 32, ?_⟩
  rw [doneOk, endCmd, drawFree, commitCmd, assertWake, if_pos (by simp [updHead, h])]
  rfl

/-- ADMIT_CLOSE on an open rollout turn, and on a module without campaigns (R8, R243). -/
theorem admissionCloses : AdmissionCloses := by
  intro s q p _ ready
  obtain ⟨d, completes⟩ := doneOk_of_linkUp q (linkUp_of_hostReady ready)
  refine ⟨fun idle => ⟨_, exec_admitClose ready, ?idle⟩, fun c tn r e y hc go hr ht hk hrk hy ho hturn => ?running⟩
  case idle =>
    have idle' (k : Nat) : (partAt (doneOk s q) k).camp = none := by rw [completes]; exact idle_of_all idle k
    rw [updRun_of_idle _ (idle' p), turnLoop_of_idle (idle' p), schedule_of_idle idle', completes]
    exact ⟨⟨d, rfl⟩, rfl⟩
  case running =>
    have same (k : Nat) : partAt (doneOk s q) k = partAt s k := by rw [completes]; rfl
    have goesOn : RolloutGoesOn (doneOk s q) p c r tn e y :=
      { camp := by rwa [same], run := hr, turn := ht, kind := hk, go := go, req := by rwa [reqAt, same], isOpen := ho,
        ofTurn := by rwa [same] }
    obtain ⟨journal, reqs, c', r', hc', hr', ec, er⟩ := goesOn.rescheduled (f := closeAdmission) rfl
    refine ⟨_, c', r', exec_admitClose ready, ⟨d, by rw [journal, completes]; rfl⟩, hc', hr', ?_, (congrArg Run.turn er :),
      (congrArg Run.steps er :), (congrArg Camp.turnIx ec :), (congrArg Camp.phase ec :), by rw [reqs, same]⟩
    exact (congrArg Run.admOpen er :).trans (by simp [Run.unstarted, closeAdmission, hrk])

/-! ### A running rollout turn -/

/-- What it means that a partition runs a rollout turn. -/
theorem rollRun_eq_some {s : State} {p : Nat} {c : Camp} {r : Run} {rp : RollP} (h : rollRun s p = some (c, r, rp)) :
    ∃ tn, (partAt s p).camp = some c ∧ c.run = some r ∧ c.p.turns[r.turn]? = some tn ∧ tn.kind = .rollout ∧ tn.rp = rp := by
  unfold rollRun at h
  dsimp only at h
  split at h
  · rename_i c0 t hc ht
    split at h
    · rename_i r0 hr
      split at h
      · rename_i hk
        cases h
        refine ⟨t, hc, hr, ?_, hk.1, rfl⟩
        simpa [turnOf, hc, hr] using ht
      · cases h
    · cases h
  · cases h

/-! ### An admission (R248) -/

/-- A partition's record but for its handles, variants and drawers. -/
def Part.unbooked (x : Part) : Part := { x with handles := [], variants := [], drawers := [] }

theorem setRefs_kept (s : State) (p reg d n : Nat) : PartsKept Part.unbooked s (setRefs s p reg d n) := updPart_kept ..

theorem incRef_kept (s : State) (p reg d : Nat) : PartsKept Part.unbooked s (incRef s p reg d) := setRefs_kept ..

theorem setDrawerWord_kept (s : State) (p reg d w v : Nat) : PartsKept Part.unbooked s (setDrawerWord s p reg d w v) :=
  writeRegion_kept ..

theorem setMapEntry_kept (s : State) (p reg dhead ix v : Nat) :
    PartsKept Part.unbooked s (setMapEntry s p reg dhead ix v) := by
  unfold setMapEntry
  exact .ite (.refl ..) (setDrawerWord_kept ..)

theorem linkMaps_kept (s : State) (p reg : Nat) (drs : List Nat) : PartsKept Part.unbooked s (linkMaps s p reg drs).1 := by
  induction drs with
  | nil => exact .refl ..
  | cons d drs ih => exact (ih.trans ((writeRegion_kept ..).trans (incRef_kept ..))).trans (setDrawerWord_kept ..)

/-- A copied map takes drawers and changes their references (R252, R262). -/
theorem copyMap_kept (s : State) (p reg dhead n : Nat) (drs : List Nat) :
    PartsKept Part.unbooked s (copyMap s p reg dhead n drs).1 :=
  (linkMaps_kept ..).trans (.foldl (fun _ _ => .ite (.refl ..) ((setMapEntry_kept ..).trans (incRef_kept ..))) _ _)

theorem setVent_kept (s : State) (p v : Nat) (e : VEnt) : PartsKept Part.unbooked s (setVent s p v e) := updPart_kept ..

/-- What an admission makes of an entry (R248). -/
structure Admits (x : Part) (a : AdmitP) (list : Bool) (y : Req) : Prop where
  st : y.st = .admitted
  list : y.list = list
  turn : y.turn = admissionOpen x
  tag : y.tag = a.tag
  plen : y.plen = a.plen
  maxgen : y.maxgen = a.maxgen
  clen : y.clen = 0
  seq : y.seq = x.reqSeq

/-- A new entry takes its place and its number in the order of admissions. -/
def takeEntry (s : State) (p e : Nat) (y : Req) : State :=
  updPart (setReq s p e y) p (fun x => { x with reqSeq := x.reqSeq + 1 })

/-- An admission puts one entry into the table; beside that it changes handles, variants and drawers (R248, R262, R269). -/
theorem admitReq_changes (s : State) (p e : Nat) (a : AdmitP) (list : Bool) (drs : List Nat) :
    ∃ u y, PartsKept Part.unbooked s u ∧ Admits (partAt s p) a list y ∧
      PartsKept Part.unbooked (takeEntry u p e y) (admitReq s p e a list drs) := by
  have bound (v : State) : PartsKept Part.unbooked v (if a.ven then setVent v p a.variant
      { ventAt (partAt v p) a.variant with cur := (ventAt (partAt v p) a.variant).cur.map fun c => { c with refs := c.refs + 1 } }
      else v) := .ite (setVent_kept ..) (.refl ..)
  unfold admitReq
  dsimp only
  cases (if a.prefixH = 0xFFFF then none else mapFind (partAt s p).handles a.prefixH) with
  | none => exact ⟨s, _, .refl .., ⟨rfl, rfl, rfl, rfl, rfl, rfl, rfl, rfl⟩, bound _⟩
  | some h => exact ⟨_, _, copyMap_kept .., ⟨rfl, rfl, rfl, rfl, rfl, rfl, rfl, rfl⟩, (updPart_kept ..).trans (bound _)⟩

theorem partAt_takeEntry {s : State} {p : Nat} (e : Nat) (y : Req) (hp : p < s.parts.length) :
    partAt (takeEntry s p e y) p =
      { partAt s p with reqs := mapPut (partAt s p).reqs e y, reqSeq := (partAt s p).reqSeq + 1 } := by
  rw [takeEntry, partAt_updPart_self _ (by rwa [setReq, updPart_partsLength]), setReq, partAt_updPart_self _ hp]

/-- After an admission the table has the new entry, the others are as they were, and so are the campaign and the turn. -/
theorem admitReq_admits {s : State} {p : Nat} (e : Nat) (a : AdmitP) (list : Bool) (drs : List Nat) (hp : p < s.parts.length) :
    let t := admitReq s p e a list drs
    ∃ y, Admits (partAt s p) a list y ∧ reqAt t p e = some y ∧ (∀ k, k ≠ e → reqAt t p k = reqAt s p k) ∧
      (partAt t p).camp = (partAt s p).camp ∧ (partAt t p).turnSeq = (partAt s p).turnSeq ∧ t.journal = s.journal := by
  obtain ⟨u, y, before, admits, after⟩ := admitReq_changes s p e a list drs
  have own := after.own p
  rw [partAt_takeEntry e y (by rwa [before.size])] at own
  have was := before.own p
  have reqs : (partAt (admitReq s p e a list drs) p).reqs = mapPut (partAt s p).reqs e y :=
    (congrArg Part.reqs own :).trans (congrArg (fun x => mapPut x.reqs e y) was :)
  refine ⟨y, admits, ?_, fun k hk => ?_, (congrArg Part.camp own :).trans (congrArg Part.camp was :),
    (congrArg Part.turnSeq own :).trans (congrArg Part.turnSeq was :), after.journal.trans before.journal⟩
  · rw [reqAt, reqs, mapFind_mapPut, if_pos rfl]
  · rw [reqAt, reqs, mapFind_mapPut, if_neg hk]; rfl

/-! ### LIST_ADMISSION (R243, R244) -/

/-- The list's next entry has had its turn: with the last one admission closes, unless it stays open for the host. -/
def passListed (rp : RollP) (r : Run) : Run := { r with
  listNext := r.listNext + 1, admOpen := r.admOpen && !(decide (rp.close = 0) && decide (r.listNext + 1 = rp.nprompt)) }

/-- Is a the list's next entry? Where the list is not held in T2 the row brings the entry. -/
def isNextListed (s : State) (p : Nat) (rp : RollP) (r : Run) (a : AdmitP) : Bool :=
  match listEntry s p rp r.listNext with
  | some x => decide (x = a)
  | none => true

section
variable {s : State} {part : Fin 32} {c : Camp} {r : Run} {rp : RollP} {a : AdmitP} {e : Nat} {drs : List Nat} {t : Word64}

theorem isNextListed_of_eq {p : Nat} (h : ∀ x, listEntry s p rp r.listNext = some x → x = a) :
    isNextListed s p rp r a = true := by
  unfold isNextListed
  split
  · rename_i x hx
    exact decide_eq_true (h x hx)
  · rfl

/-- The list's next entry, once its row can act, is admitted or passed over. -/
theorem exec_listAdmission (now : s.time.now.ule t = true) (hroll : rollRun s part = some (c, r, rp))
    (opened : r.admOpen = true) (left : r.listNext < rp.nprompt) (next : ∀ x, listEntry s part rp r.listNext = some x → x = a)
    (room : admitStatus s part a ≠ 0x0108) (chosen : admitStatus s part a = 0 → admitChoice s part e a drs = true) :
    exec (.listAdmission part a e drs t) s = .next (schedule (turnLoop (updRun
      (if admitStatus s part a = 0 then admitReq (tick s t) part e a true drs else tick s t) part (passListed rp)) part)) := by
  have acts : ¬ ((!r.admOpen) = true ∨ rp.nprompt ≤ r.listNext ∨ (!isNextListed s part rp r a) = true ∨
      admitStatus s part a = 0x0108 ∨ (admitStatus s part a = 0 ∧ (!admitChoice s part e a drs) = true)) := by
    rintro (h | h | h | h | ⟨h, h'⟩)
    · simp [opened] at h
    · exact absurd left (Nat.not_lt.2 h)
    · simp [isNextListed_of_eq next] at h
    · exact room h
    · simp [chosen h] at h'
  show execListAdmission part a e drs t s = _
  unfold execListAdmission
  rw [hroll]
  exact congrArg ok ((if_neg acts).trans (atTime_of_ule _ now))

end

/-- Entries of the prompt list are admitted in turn, and one that is rejected is passed over (R243, R244, R248). -/
theorem promptListsAreAdmitted : PromptListsAreAdmitted := by
  intro s part c r rp a e drs t _ now hroll go hk opened left next
  obtain ⟨tn, hc, hr, ht, htn, -⟩ := rollRun_eq_some hroll
  refine ⟨fun accepted chosen => ?admitted, fun k y rejected room hy ho hturn => ?passed⟩
  case admitted =>
    have hexec := exec_listAdmission now hroll opened left next (by rw [accepted]; decide) fun _ => chosen
    rw [if_pos accepted] at hexec
    obtain ⟨y, admits, hy, others, camp, turnSeq, journal⟩ :=
      admitReq_admits (s := tick s t) e a true drs (lt_of_camp (s := tick s t) hc)
    have ofTurn : y.turn = some (partAt s part).turnSeq := by
      rw [admits.turn, partAt_tick]
      simp [admissionOpen, runOf, hc, hr, hk, opened]
    have goesOn : RolloutGoesOn (admitReq (tick s t) part e a true drs) part c r tn e y :=
      { camp := camp.trans hc, run := hr, turn := ht, kind := htn, go := go, req := hy, isOpen := by simp [reqOpen, admits.st],
        ofTurn := by rw [turnSeq]; exact ofTurn }
    obtain ⟨journal', reqs, c', r', hc', hr', -, er⟩ := goesOn.rescheduled (f := passListed rp) rfl
    refine ⟨_, y, r', hexec, by rw [reqAt, reqs]; exact hy, admits.st, admits.list, ofTurn, admits.tag, admits.plen,
      admits.maxgen, admits.clen, admits.seq, fun k hk => by rw [reqAt, reqs]; exact others k hk, ?_, (congrArg Run.listNext er :),
      ?_, journal'.trans journal⟩
    · rw [runOf, hc']; exact hr'
    · exact (congrArg Run.admOpen er :).trans (by simp [Run.unstarted, passListed, opened])
  case passed =>
    have hexec := exec_listAdmission (e := e) (drs := drs) now hroll opened left next room fun accepted => absurd accepted rejected
    rw [if_neg rejected] at hexec
    have goesOn : RolloutGoesOn (tick s t) part c r tn k y :=
      { camp := hc, run := hr, turn := ht, kind := htn, go := go, req := hy, isOpen := ho, ofTurn := hturn }
    obtain ⟨journal, reqs, c', r', hc', hr', -, er⟩ := goesOn.rescheduled (f := passListed rp) rfl
    exact ⟨_, r', hexec, reqs, by rw [runOf, hc']; exact hr', (congrArg Run.listNext er :), journal⟩

/-- Settles O54: an entry that is open keeps the turn from its end, and what the governor then starts leaves entries, run and
journal. -/
theorem admissionsOpenAndClose : Obligations.AdmissionsOpenAndClose := ⟨admissionCloses, promptListsAreAdmitted⟩

/-! ### TURN_END_TIME (R8, R274): a table that lists an entry number twice

The first clause of TurnsEndOnTime asks of no table of entries that its numbers are distinct, as the second does; Inv does not either.
Where a number is listed twice, reads and evictions reach its first listing alone. Below, the end time evicts it with reason 7, the turn
ends with it and the next one begins within the same event; its variant set evicts what is bound to a version that goes (R271), finds the
second listing, and so evicts the entry once more, with reason 9. -/

/-- An open entry of a turn that ends at its time: evicted, or where a step holds it marked for the step's commit. -/
def evictAtEnd (p : Nat) (r : Run) (s : State) (e : Nat × Req) : State :=
  if inFlight r e.1 then setReq s p e.1 { e.2 with due := 7 } else evictReq s p e.1 7

/-- Admission closes and the turn's open entries are evicted. -/
def closeAtEnd (s : State) (p : Nat) (r : Run) : State :=
  let u := updRun s p (fun r => { r with admOpen := false })
  ((partAt u p).reqs.filter (fun e => decide (e.2.turn = some (partAt u p).turnSeq) && reqOpen e.2)).foldl (evictAtEnd p r) u

theorem exec_turnEndTime {s : State} {part : Fin 32} {c : Camp} {r : Run} {rp : RollP} {t : Word64}
    (now : s.time.now.ule t = true) (hroll : rollRun s part = some (c, r, rp)) (limited : rp.endt ≠ 0)
    (due : t.ult rp.endt = false) :
    exec (.turnEndTime part t) s = .next (schedule (turnLoop (closeAtEnd (tick s t) part r) part)) := by
  have acts : ¬ (rp.endt = 0 ∨ t.ult rp.endt = true) := not_or.2 ⟨limited, by simp [due]⟩
  show execTurnEndTime part t s = _
  unfold execTurnEndTime
  rw [hroll]
  exact congrArg ok ((if_neg acts).trans (atTime_of_ule _ now))

/-- A rollout turn that ends at 5 ns or when the host closes admission. -/
def briefRoll : RollP :=
  { tokbudget := 0, maxdec := 0, chunk := 0, specmax := 0, vmax := 0, dposl := 0, dlanes := 0, dregion := 0, mregion := 0,
    mbufs := 0, sreg := 0, oregion := 0, pregion := 0, vclass := 0, maxlen := 0, nprompt := 0, listoff := 0, endt := 5, vstep := 0,
    close := 1 }

def briefTurn (vsets : List VSetP) : TurnP :=
  { kind := .rollout, prog := 0, pairs := [], vsets := vsets, ckpts := [], rp := briefRoll
    lt := { steps := 0, step0 := 0, deadline0 := 0, period := 0, mingap := 0, waitmax := 0, smax := 0, gbufs := 0, quorum := 0,
            replay := false, sreg := 0, readyseg := 0, clamp := 0, creg := 0, coll := 0, recaddr := 0, logaddr := 0, recslots := 0,
            logslots := 0 } }

/-- A campaign of this module alone in the first of two rollout turns; the second sets variant 0. -/
def briefCamp : Camp :=
  { p := { id := 0, fromTurn := 0, positions := [0], autoresume := false, rdvlimit := 0, recaddr := 0, recslots := 1, pasid := 0,
           turns := [briefTurn [], briefTurn [{ variant := 0, fmt := 0, cls := 0, region := 0, off := 0 }]] }
    q := ⟨1, 0⟩, phase := .turn, digest := 0, digests := [], rdv0 := 0, turnIx := 0, rerun := [], beacons := [], recs := 0, due := [],
    badRec := false, fin := none, back := [], stop := false, stops := [], epoch := 0, lastCkpt := none, sw := none, run := none }

def briefRun : Run := freshRun briefCamp 0 (briefTurn []) 0

/-- An ADMITTED entry of rollout turn run 0. -/
def waitingReq : Req :=
  { st := .admitted, prio := 0, keysrc := false, ven := false, list := false, reason := 0, variant := 0, version := 0,
    prefixH := 0xFFFF, tag := 0, plen := 0, klen := 0, clen := 0, tlen := 0, maxgen := 1, deadline := 0, dhead := drawerNone,
    outoff := 0, temp := 0, topk := 0, topp := 0, seq := 0, proff := 0, stops := [], bg := ⟨0, 0, 0⟩, draft := [], cancel := false,
    turn := some 0, dreg := 0, dposl := 0, dlanes := 0, due := 0, last := 0, seen := false }

/-- The partition that runs the campaign: entry 0 is listed twice, the second time bound to variant 0's previous version and waiting
for the next rollout turn. -/
def twiceListing : Part :=
  { Part.unused with
    st := .running, camp := some { briefCamp with run := some briefRun }
    variants := [(0, { cur := none, prv := some { ver := 1, region := 0, off := 0, epoch := 0, refs := 1 }, fmt := 0, cls := 0 })]
    reqs := [(0, waitingReq), (0, { waitingReq with ven := true, version := 1, turn := none })] }

/-- The module, member 0 of its group, with that partition as partition 1. -/
def twiceListed : State :=
  { State.reset with
    io := { IoU.reset with perst := false, linkUp := true, inputOn := true }
    boot := { BootU.reset with phase := .utora, fw := 2 }
    fabric := { FabricU.reset with member := 0 }
    parts := Part.zero :: twiceListing :: List.replicate 30 Part.unused }

theorem twiceListed_inv : Inv twiceListed := by
  obtain ⟨⟨-, -, -, -, fns⟩, canonical⟩ := reset_inv
  exact ⟨⟨rfl, rfl, rfl, rfl, fns⟩, canonical⟩

theorem rollRun_twiceListed : rollRun twiceListed 1 = some ({ briefCamp with run := some briefRun }, briefRun, briefRoll) := by
  decide +kernel

/-- The checks of the turn lead into the next one, whose variant set has evicted entry 0 again. -/
theorem turnLoop_twiceListed :
    (reqAt (turnLoop (closeAtEnd (tick twiceListed 5) 1 briefRun) 1) 1 0).map (fun y => y.reason) = some 9 := by decide +kernel

theorem exec_twiceListed : ∃ t, exec (.turnEndTime 1 5) twiceListed = .next t ∧
    (reqAt t (1 : Fin 32) 0).map (fun y => y.reason) = some 9 := by
  refine ⟨_, exec_turnEndTime (by decide) rollRun_twiceListed (by decide) (by decide), ?_⟩
  rw [reqAt, (schedule_kept _).reqs]
  exact turnLoop_twiceListed

/-- Refutes O55: the end time of a turn does not leave reason 7 with an entry whose number the table lists twice. -/
theorem not_turnsEndAndFollow : ¬ Obligations.TurnsEndAndFollow := by
  rintro ⟨-, onTime⟩
  obtain ⟨evicted, -⟩ := onTime twiceListed 1 _ briefRun briefRoll 0 waitingReq 5 twiceListed_inv (by decide)
    rollRun_twiceListed (by decide) (by decide) rfl rfl rfl rfl
  obtain ⟨s', y', hexec, hy, -, reason, -⟩ := evicted rfl
  obtain ⟨t, ht, again⟩ := exec_twiceListed
  cases hexec.symm.trans ht
  rw [hy, Option.map_some, reason] at again
  cases again

end Sys2Proof.Machine
end

section
/-! PROOFS. The 64-bit command words (R17 to R21, R75 to R81, R119 to R123, R131, R139, R141, R183): fields that share a word out spell it
exactly where each is in place, so each layout reads what it writes. -/

namespace Sys2Proof

open Sys2Proof.Machine

/-! ### Fields of a word -/

/-- Does bit i stand in the field? -/
def hasBit (f : FieldVal) (i : Nat) : Bool := decide (f.lo ≤ i) && decide (i < f.lo + f.w)

/-- The fields share the 64 bits of a word out among them: each bit stands in one of them. -/
def sharesOut (fs : List FieldVal) : Bool :=
  fs.all (fun f => decide (f.lo + f.w ≤ 64)) &&
    (List.range 64).all (fun i => decide ((fs.filter (fun f => hasBit f i)).length = 1))

/-- The word has the field's value in the field's bits. -/
def Spells (b : Word64) (f : FieldVal) : Prop := b.extractLsb' f.lo f.w = BitVec.ofNat f.w f.v

theorem spells_iff (b : Word64) (f : FieldVal) :
    Spells b f ↔ ∀ j, j < f.w → b.getLsbD (f.lo + j) = f.v.testBit j := by
  have bit (j : Nat) (hj : j < f.w) : (b.extractLsb' f.lo f.w).getLsbD j = b.getLsbD (f.lo + j) ∧
      (BitVec.ofNat f.w f.v).getLsbD j = f.v.testBit j := by
    simp [hj, BitVec.getLsbD_ofNat, - BitVec.getLsbD_eq_getElem]
  constructor
  · intro h j hj
    rw [← (bit j hj).1, ← (bit j hj).2, h]
  · intro h
    refine BitVec.eq_of_getLsbD_eq fun j hj => ?_
    rw [(bit j hj).1, (bit j hj).2, h j hj]

/-- A bit of a packed word is set where a field that has it sets it. -/
theorem testBit_packFields (fs : List FieldVal) (i : Nat) :
    (packFields fs).testBit i = fs.any (fun f => hasBit f i && f.v.testBit (i - f.lo)) := by
  have step (acc : Nat) : (fs.foldl (fun acc f => acc ||| ((f.v % 2 ^ f.w) <<< f.lo)) acc).testBit i =
      (acc.testBit i || fs.any (fun f => hasBit f i && f.v.testBit (i - f.lo))) := by
    induction fs generalizing acc with
    | nil => simp
    | cons f r ih =>
      rw [List.foldl_cons, ih, List.any_cons, Nat.testBit_or, Nat.testBit_shiftLeft, Nat.testBit_mod_two_pow, Bool.or_assoc]
      by_cases h : f.lo ≤ i
      · simp [hasBit, h, show (i - f.lo < f.w ↔ i < f.lo + f.w) by omega]
      · simp [hasBit, h]
  rw [packFields, step, Nat.zero_testBit, Bool.false_or]

theorem any_filter_singleton {α : Type} {l : List α} {c d : α → Bool} {a : α} (h : l.filter c = [a]) :
    l.any (fun x => c x && d x) = d a := by
  rw [← List.any_filter, h, List.any_cons, List.any_nil, Bool.or_false]

/-- Fields that share the word out spell it exactly where each of them is in place. -/
theorem ofNat_packFields_eq_iff {fs : List FieldVal} (h : sharesOut fs = true) (b : Word64) :
    BitVec.ofNat 64 (packFields fs) = b ↔ ∀ f ∈ fs, Spells b f := by
  simp only [sharesOut, Bool.and_eq_true, List.all_eq_true, decide_eq_true_eq, List.mem_range] at h
  obtain ⟨inside, one⟩ := h
  have bit {f : FieldVal} {i : Nat} (hi : i < 64) (hf : f ∈ fs) (hb : hasBit f i = true) :
      (packFields fs).testBit i = f.v.testBit (i - f.lo) := by
    obtain ⟨g, hg⟩ := List.length_eq_one_iff.1 (one i hi)
    obtain rfl : f = g := by simpa [hg] using (List.mem_filter (p := fun f => hasBit f i)).2 ⟨hf, hb⟩
    rw [testBit_packFields, any_filter_singleton hg]
  constructor
  · rintro rfl f hf
    refine (spells_iff _ f).2 fun j hj => ?_
    have hi : f.lo + j < 64 := by have := inside f hf; omega
    rw [BitVec.getLsbD_ofNat, bit hi hf (by simp [hasBit, hj]), Nat.add_sub_cancel_left]
    simp [hi]
  · intro hs
    refine BitVec.eq_of_getLsbD_eq fun i hi => ?_
    obtain ⟨g, hg⟩ := List.length_eq_one_iff.1 (one i hi)
    obtain ⟨hf, hb⟩ := List.mem_filter.1 (hg ▸ List.mem_singleton_self g)
    have hb' := hb
    simp only [hasBit, Bool.and_eq_true, decide_eq_true_eq] at hb'
    have := (spells_iff b g).1 (hs g hf) (i - g.lo) (by omega)
    rw [BitVec.getLsbD_ofNat, bit hi hf hb, ← this, Nat.add_sub_cancel' hb'.1]
    simp [hi]

/-- Reserved bits as fields: low bit and width of each, with the value 0. -/
def reserved (res : List (Nat × Nat)) : List FieldVal := res.map (fun r => ⟨r.1, r.2, 0⟩)

/-- Reserved bits add nothing to what is packed. -/
theorem packFields_append_reserved (fs : List FieldVal) (res : List (Nat × Nat)) :
    packFields (fs ++ reserved res) = packFields fs := by
  rw [packFields, List.foldl_append, ← packFields]
  induction res with
  | nil => rfl
  | cons r l ih => simpa [reserved] using ih

@[simp] theorem spells_toNat (b : Word64) (lo n : Nat) (v : BitVec n) :
    Spells b ⟨lo, n, v.toNat⟩ ↔ b.extractLsb' lo n = v := by
  rw [Spells, BitVec.ofNat_toNat, BitVec.setWidth_eq]

@[simp] theorem spells_zero (b : Word64) (lo n : Nat) : Spells b ⟨lo, n, 0⟩ ↔ b.extractLsb' lo n = 0 := Iff.rfl

@[simp] theorem spells_b2n (b : Word64) (lo : Nat) (v : Bool) : Spells b ⟨lo, 1, b2n v⟩ ↔ bitAt b lo = v := by
  rw [spells_iff]
  constructor
  · intro h
    have := h 0 Nat.one_pos
    cases v <;> simpa [b2n, bitAt] using this
  · rintro rfl j hj
    obtain rfl : j = 0 := Nat.lt_one_iff.1 hj
    cases h : bitAt b lo <;> simpa [b2n, bitAt] using h

theorem spells_opcode (b : Word64) {o : Nat} (h : o < 256) : Spells b ⟨56, 8, o⟩ ↔ opcOf b = o := by
  rw [Spells, opcOf, ← BitVec.toNat_inj, BitVec.toNat_ofNat]
  exact Eq.congr_right (Nat.mod_eq_of_lt h)

/-- A word whose fields and reserved bits share it out: it spells its opcode and its fields, and zeros elsewhere. -/
theorem wordOf_eq_iff {o : Nat} {fs : List FieldVal} (res : List (Nat × Nat)) (ho : o < 256)
    (h : sharesOut (⟨56, 8, o⟩ :: (fs ++ reserved res)) = true) (b : Word64) :
    wordOf o fs = b ↔ opcOf b = o ∧ (∀ r ∈ res, b.extractLsb' r.1 r.2 = 0) ∧ ∀ f ∈ fs, Spells b f := by
  have e : wordOf o fs = BitVec.ofNat 64 (packFields (⟨56, 8, o⟩ :: (fs ++ reserved res))) :=
    congrArg (BitVec.ofNat 64) (packFields_append_reserved (⟨56, 8, o⟩ :: fs) res).symm
  rw [e, ofNat_packFields_eq_iff h, List.forall_mem_cons, List.forall_mem_append, spells_opcode b ho, reserved,
    List.forall_mem_map]
  simp only [spells_zero]
  tauto

/-! ### The words of each layout -/

section
variable {o : Nat} (ho : o < 256) (b : Word64)
include ho

theorem encSq_eq_iff (w : SqW) : encSq o w = b ↔ opcOf b = o ∧ b.extractLsb' 32 6 = 0 ∧ sqOf b = w := by
  rw [encSq, wordOf_eq_iff [(32, 6)] ho rfl]
  cases w
  simp [sqOf]

theorem encSync_eq_iff (w : SyncW) : encSync o w = b ↔ opcOf b = o ∧ b.extractLsb' 32 8 = 0 ∧ syncOf b = w := by
  rw [encSync, wordOf_eq_iff [(32, 8)] ho rfl]
  cases w
  simp [syncOf]

theorem encSlot_eq_iff (w : MxSlotW) : encSlot o w = b ↔ opcOf b = o ∧ b.extractLsb' 0 10 = 0 ∧ mxSlotOf b = w := by
  rw [encSlot, wordOf_eq_iff [(0, 10)] ho rfl]
  cases w
  simp [mxSlotOf]

theorem encRing_eq_iff (w : RingW) : encRing o w = b ↔ opcOf b = o ∧ b.extractLsb' 0 34 = 0 ∧ ringOf b = w := by
  rw [encRing, wordOf_eq_iff [(0, 34)] ho rfl]
  cases w
  simp [ringOf]

end

section
variable (b : Word64)

theorem encode_mxsets_eq_iff (w : MxScaleW) :
    encodeWord (.mxsets w) = b ↔ opcOf b = 0x43 ∧ b.extractLsb' 0 25 = 0 ∧ mxScaleOf b = w := by
  rw [encodeWord, wordOf_eq_iff [(0, 25)] (by decide) rfl]
  cases w
  simp [mxScaleOf]

theorem encode_mxorg_eq_iff (w : MxOrgW) :
    encodeWord (.mxorg w) = b ↔ opcOf b = 0x44 ∧ b.extractLsb' 0 4 = 0 ∧ mxOrgOf b = w := by
  rw [encodeWord, wordOf_eq_iff [(0, 4)] (by decide) rfl]
  cases w
  simp [mxOrgOf]

theorem encode_mxmul_eq_iff (w : MxMulW) :
    encodeWord (.mxmul w) = b ↔ opcOf b = 0x48 ∧ b.extractLsb' 0 20 = 0 ∧ mxMulOf b = w := by
  rw [encodeWord, wordOf_eq_iff [(0, 20)] (by decide) rfl]
  cases w
  simp [mxMulOf]

theorem append_eq_zero_iff {m n : Nat} (x : BitVec m) (y : BitVec n) : x ++ y = 0 ↔ x = 0 ∧ y = 0 := by
  simp only [← BitVec.toNat_inj, BitVec.toNat_append, BitVec.ofNat_eq_ofNat, BitVec.toNat_ofNat, Nat.zero_mod,
    Nat.or_eq_zero_iff, Nat.shiftLeft_eq_zero_iff]

theorem encode_mxdelta_eq_iff (w : MxDeltaW) :
    encodeWord (.mxdelta w) = b ↔ opcOf b = 0x49 ∧ (b.extractLsb' 51 1 ++ b.extractLsb' 41 9 ++ b.extractLsb' 0 22) = 0 ∧ mxDeltaOf b = w := by
  rw [encodeWord, wordOf_eq_iff [(51, 1), (41, 9), (0, 22)] (by decide) rfl]
  rw [append_eq_zero_iff, append_eq_zero_iff]
  cases w
  simp [mxDeltaOf, and_assoc]

theorem encode_mxfin_eq_iff (w : MxFinW) :
    encodeWord (.mxfin w) = b ↔ opcOf b = 0x4C ∧ (b.extractLsb' 48 4 ++ b.extractLsb' 0 32) = 0 ∧ mxFinOf b = w := by
  rw [encodeWord, wordOf_eq_iff [(48, 4), (0, 32)] (by decide) rfl]
  rw [append_eq_zero_iff]
  cases w
  simp [mxFinOf, and_assoc]

theorem encode_ewhead_eq_iff (w : EwHeadW) :
    encodeWord (.ewhead w) = b ↔ opcOf b = 0x80 ∧ b.extractLsb' 0 21 = 0 ∧ ewHeadOf b = w := by
  rw [encodeWord, wordOf_eq_iff [(0, 21)] (by decide) rfl]
  cases w
  simp [ewHeadOf]

theorem encode_ewsrc_eq_iff (w : EwSrcW) :
    encodeWord (.ewsrc w) = b ↔ opcOf b = 0x81 ∧ b.extractLsb' 0 12 = 0 ∧ ewSrcOf b = w := by
  rw [encodeWord, wordOf_eq_iff [(0, 12)] (by decide) rfl]
  cases w
  simp [ewSrcOf]

theorem encode_ewop_eq_iff (w : EwOpW) :
    encodeWord (.ewop w) = b ↔ opcOf b = 0x82 ∧ b.extractLsb' 0 13 = 0 ∧ ewOpOf b = w := by
  rw [encodeWord, wordOf_eq_iff [(0, 13)] (by decide) rfl]
  cases w
  simp [ewOpOf]

theorem encode_ewdst_eq_iff (w : EwDstW) :
    encodeWord (.ewdst w) = b ↔ opcOf b = 0x83 ∧ ewDstOf b = w := by
  rw [encodeWord, wordOf_eq_iff [] (by decide) rfl]
  cases w
  simp [ewDstOf]

theorem encode_eworg_eq_iff (w : EwOrgW) :
    encodeWord (.eworg w) = b ↔ opcOf b = 0x84 ∧ b.extractLsb' 0 2 = 0 ∧ ewOrgOf b = w := by
  rw [encodeWord, wordOf_eq_iff [(0, 2)] (by decide) rfl]
  cases w
  simp [ewOrgOf]

theorem encode_ewflag_eq_iff (w : EwFlagW) :
    encodeWord (.ewflag w) = b ↔ opcOf b = 0x85 ∧ b.extractLsb' 0 38 = 0 ∧ ewFlagOf b = w := by
  rw [encodeWord, wordOf_eq_iff [(0, 38)] (by decide) rfl]
  cases w
  simp [ewFlagOf]

theorem encode_ewsamp_eq_iff (w : EwSampW) :
    encodeWord (.ewsamp w) = b ↔ opcOf b = 0x8C ∧ b.extractLsb' 0 39 = 0 ∧ ewSampOf b = w := by
  rw [encodeWord, wordOf_eq_iff [(0, 39)] (by decide) rfl]
  cases w
  simp [ewSampOf]

end

/-! ### Decoding -/

/-- A pattern that decodes to a word is that word's encoding: the opcode decides the layout, and each layout writes what it reads. -/
theorem encodeWord_decodeWord (b : Word64) (h : decodeWord b ≠ .illegal) :
    wordOk (decodeWord b) = true ∧ encodeWord (decodeWord b) = b := by
  revert h
  unfold decodeWord
  dsimp only
  split
  case h_39 => exact fun h => absurd rfl h
  all_goals
    simp only [ifZero, ifWf]
    split_ifs <;>
      simp_all [wordOk, encodeWord, encSq_eq_iff, encSync_eq_iff, encSlot_eq_iff, encRing_eq_iff, ↓encode_mxsets_eq_iff, ↓encode_mxorg_eq_iff,
      ↓encode_mxmul_eq_iff, ↓encode_mxdelta_eq_iff, ↓encode_mxfin_eq_iff, ↓encode_ewhead_eq_iff, ↓encode_eworg_eq_iff,
      ↓encode_ewsrc_eq_iff, ↓encode_ewop_eq_iff, ↓encode_ewdst_eq_iff, ↓encode_ewflag_eq_iff, ↓encode_ewsamp_eq_iff]

/-- A well-formed word is what its encoding decodes to: its opcode finds its layout, and each layout reads what it writes. -/
theorem decodeWord_encodeWord (w : TWord) (hw : wordOk w = true) : decodeWord (encodeWord w) = w := by
  generalize he : encodeWord w = b
  cases w
  case illegal => cases hw
  case li w | lih w | add w | sub w | mul w | and w | or w | xor w | shl w | shr w | loop w | qcnt w | tbase w |
      tileid w =>
    obtain ⟨hop, hres, rfl⟩ := (encSq_eq_iff (by decide) b w).1 he
    simp only [decodeWord, hop, ifZero, if_pos hres]
  case signal w | wait w | take w | mark w | segend w =>
    obtain ⟨hop, hres, rfl⟩ := (encSync_eq_iff (by decide) b w).1 he
    simp only [decodeWord, hop, ifZero, if_pos hres, ifWf, if_pos hw]
  case mxseta w | mxsetb w | mxsetd w =>
    obtain ⟨hop, hres, rfl⟩ := (encSlot_eq_iff (by decide) b w).1 he
    simp only [decodeWord, hop, ifZero, if_pos hres]
  case rarm w | rearm w | rsend w | rclose w =>
    obtain ⟨hop, hres, rfl⟩ := (encRing_eq_iff (by decide) b w).1 he
    simp only [decodeWord, hop, ifZero, if_pos hres, ifWf, if_pos hw]
  case mxsets w =>
    obtain ⟨hop, hres, rfl⟩ := (encode_mxsets_eq_iff b w).1 he
    simp only [decodeWord, hop, ifZero, if_pos hres, ifWf, if_pos hw]
  case mxorg w =>
    obtain ⟨hop, hres, rfl⟩ := (encode_mxorg_eq_iff b w).1 he
    simp only [decodeWord, hop, ifZero, if_pos hres]
  case mxmul w =>
    obtain ⟨hop, hres, rfl⟩ := (encode_mxmul_eq_iff b w).1 he
    simp only [decodeWord, hop, ifZero, if_pos hres, ifWf, if_pos hw]
  case mxdelta w =>
    obtain ⟨hop, hres, rfl⟩ := (encode_mxdelta_eq_iff b w).1 he
    simp only [decodeWord, hop, ifZero, if_pos hres]
  case mxfin w =>
    obtain ⟨hop, hres, rfl⟩ := (encode_mxfin_eq_iff b w).1 he
    simp only [decodeWord, hop, ifZero, if_pos hres]
  case ewhead w =>
    obtain ⟨hop, hres, rfl⟩ := (encode_ewhead_eq_iff b w).1 he
    simp only [decodeWord, hop, ifZero, if_pos hres]
  case eworg w =>
    obtain ⟨hop, hres, rfl⟩ := (encode_eworg_eq_iff b w).1 he
    simp only [decodeWord, hop, ifZero, if_pos hres]
  case ewsrc w =>
    obtain ⟨hop, hres, rfl⟩ := (encode_ewsrc_eq_iff b w).1 he
    simp only [decodeWord, hop, ifZero, if_pos hres]
  case ewop w =>
    obtain ⟨hop, hres, rfl⟩ := (encode_ewop_eq_iff b w).1 he
    simp only [decodeWord, hop, ifZero, if_pos hres, ifWf, if_pos hw]
  case ewflag w =>
    obtain ⟨hop, hres, rfl⟩ := (encode_ewflag_eq_iff b w).1 he
    simp only [decodeWord, hop, ifZero, if_pos hres]
  case ewsamp w =>
    obtain ⟨hop, hres, rfl⟩ := (encode_ewsamp_eq_iff b w).1 he
    simp only [decodeWord, hop, ifZero, if_pos hres]
  case ewdst w =>
    obtain ⟨hop, rfl⟩ := (encode_ewdst_eq_iff b w).1 he
    simp only [decodeWord, hop, ifWf, if_pos hw]

/-- Settles O30: each layout reads what it writes and writes what it reads, reserved bits being fields that hold zeros. -/
theorem wordsRoundTrip : Obligations.WordsRoundTrip := ⟨decodeWord_encodeWord, encodeWord_decodeWord⟩

end Sys2Proof
end

section
/-! PROOFS. Words of a tile (R17 to R37): when a word is at its queue's head, what passing words and halting leave of a tile, how the end
of a word acts, and what a fault at a word records. -/

namespace Sys2Proof.Machine

open Sys2Proof

/-! ### Tiles under updates -/

theorem tileIx_congr {s t : State} {p : Nat} (h : (partAt t p).groups = (partAt s p).groups) (k : Nat) :
    tileIx t p k = tileIx s p k := by
  rw [tileIx, tileIx, h]

@[simp] theorem tileIx_setTile (s : State) (p k q j : Nat) (x : Tile) : tileIx (setTile s p k x) q j = tileIx s q j := by
  obtain ⟨_, e⟩ := setTile_changes s p k x
  rw [e]; rfl

/-- A tile of a partition has a place among the module's tiles. -/
theorem tileIx_of_lt {s : State} {p k : Nat} (h : k < nTiles s p) : ∃ n, tileIx s p k = some n := by
  have : k / 8 < (partAt s p).groups.length := by rw [nTiles] at h; omega
  exact ⟨_, by rw [tileIx, List.getElem?_eq_getElem this]; rfl⟩

theorem tileAt_of_tileIx {s : State} {p k n : Nat} (h : tileIx s p k = some n) : tileAt s p k = tileRaw s n := by
  rw [tileAt, h]

theorem tileAt_congr {s t : State} (p k : Nat) (hi : tileIx t p k = tileIx s p k) (h : t.tiles = s.tiles) :
    tileAt t p k = tileAt s p k := by
  rw [tileAt, tileAt, hi]
  simp only [tileRaw, h]

theorem tileRaw_setTile {s : State} {p k n : Nat} (x : Tile) (h : tileIx s p k = some n) (j : Nat) :
    tileRaw (setTile s p k x) j = if j = n then x else tileRaw s j := by
  rw [setTile, h]
  exact tileRaw_setTileRaw s n j x

/-- The second of two writes to a tile is what stays. -/
@[simp] theorem mapPut_twice {α : Type} (m : Map α) (i : Nat) (v w : α) : mapPut (mapPut m i v) i w = mapPut m i w := by
  induction m with
  | nil => simp [mapPut]
  | cons a r ih =>
    obtain ⟨k, u⟩ := a
    by_cases h1 : k = i
    · simp [mapPut, h1]
    · by_cases h2 : i < k
      · simp [mapPut, h1, h2]
      · simp [mapPut, h1, h2, ih]

@[simp] theorem setTile_twice (s : State) (p k : Nat) (x y : Tile) : setTile (setTile s p k x) p k y = setTile s p k y := by
  rw [setTile, tileIx_setTile, setTile, setTile]
  cases tileIx s p k with
  | none => rfl
  | some n => simp [setTileRaw]

@[simp] theorem setTile_withTiles (s : State) (p k : Nat) (x : Tile) : (setTile s p k x).withTiles s.tiles = s := by
  obtain ⟨_, e⟩ := setTile_changes s p k x
  rw [e]; rfl

section
variable (s : State) (p k : Nat) (x : Tile)
@[simp] theorem setTile_parts : (setTile s p k x).parts = s.parts := (setTile_tells s p k x).parts
@[simp] theorem setTile_t2 : (setTile s p k x).t2 = s.t2 := (setTile_tells s p k x).t2
@[simp] theorem setTile_journal : (setTile s p k x).journal = s.journal := (setTile_tells s p k x).journal
@[simp] theorem setTile_time : (setTile s p k x).time = s.time := (setTile_tells s p k x).time
@[simp] theorem partAt_setTile (j : Nat) : partAt (setTile s p k x) j = partAt s j := partAt_congr (setTile_parts s p k x) j
end

/-! ### Units that a word leaves -/

/-- From s to t no memory of the module, group, command, port or clock changes, and of the partitions' records only partition p's, which
keeps its groups. -/
structure UnitsKept (p : Nat) (s t : State) : Prop where
  t2 : t.t2 = s.t2
  t1 : t.t1 = s.t1
  groups : t.groups = s.groups
  journal : t.journal = s.journal
  fabric : t.fabric = s.fabric
  power : t.power = s.power
  time : t.time = s.time
  others : ∀ k, k ≠ p → partAt t k = partAt s k
  own : (partAt t p).groups = (partAt s p).groups

namespace UnitsKept
variable {p : Nat} {s t u : State}

theorem refl (p : Nat) (s : State) : UnitsKept p s s := ⟨rfl, rfl, rfl, rfl, rfl, rfl, rfl, fun _ _ => rfl, rfl⟩

theorem trans (h : UnitsKept p s t) (g : UnitsKept p t u) : UnitsKept p s u :=
  ⟨g.t2.trans h.t2, g.t1.trans h.t1, g.groups.trans h.groups, g.journal.trans h.journal, g.fabric.trans h.fabric,
    g.power.trans h.power, g.time.trans h.time, fun k hk => (g.others k hk).trans (h.others k hk), g.own.trans h.own⟩

theorem tileIx (h : UnitsKept p s t) (q k : Nat) : tileIx t q k = tileIx s q k := by
  refine tileIx_congr ?_ k
  by_cases hq : q = p
  · rw [hq, h.own]
  · rw [h.others q hq]

end UnitsKept

theorem withTiles_units (p : Nat) (s : State) (m : Map Tile) : UnitsKept p s (s.withTiles m) :=
  ⟨rfl, rfl, rfl, rfl, rfl, rfl, rfl, fun _ _ => rfl, rfl⟩

theorem setTile_units (p : Nat) (s : State) (q k : Nat) (x : Tile) : UnitsKept p s (setTile s q k x) := by
  obtain ⟨_, e⟩ := setTile_changes s q k x
  rw [e]; exact withTiles_units ..

theorem withFree_units (p : Nat) (s : State) (n : Nat) : UnitsKept p s (s.withFree n) :=
  ⟨rfl, rfl, rfl, rfl, rfl, rfl, rfl, fun _ _ => rfl, rfl⟩

theorem addCtr_units (p : Nat) (s : State) (k n : Nat) : UnitsKept p s (addCtr s k n) :=
  ⟨rfl, rfl, rfl, rfl, rfl, rfl, rfl, fun _ _ => rfl, rfl⟩

theorem updPart_units (s : State) (p : Nat) (f : Part → Part) (h : ∀ x, (f x).groups = x.groups := by intro; rfl) :
    UnitsKept p s (updPart s p f) :=
  ⟨rfl, rfl, rfl, rfl, rfl, rfl, rfl, fun _ hk => partAt_updPart_ne s f hk, (updPart_only Part.groups s p f h).own⟩

theorem postEvent_units (p : Nat) (s : State) (src part body : Nat) : UnitsKept p s (postEvent s src part body) := by
  obtain ⟨_, _, _, e⟩ := postEvent_changes s src part body
  rw [e]; exact ⟨rfl, rfl, rfl, rfl, rfl, rfl, rfl, fun _ _ => rfl, rfl⟩

theorem addHist_units (p : Nat) (s : State) (cls kind unit : Nat) (d : Word64) (r : Bool) :
    UnitsKept p s (addHist s cls kind unit d r) := by
  obtain ⟨_, e⟩ := addHist_changes s cls kind unit d r
  rw [e]; exact ⟨rfl, rfl, rfl, rfl, rfl, rfl, rfl, fun _ _ => rfl, rfl⟩

theorem sweepInvals_units (p : Nat) (s : State) (q : Nat) : UnitsKept p s (sweepInvals s q) := by
  obtain ⟨_, e⟩ := sweepInvals_changes s q
  rw [e]; exact ⟨rfl, rfl, rfl, rfl, rfl, rfl, rfl, fun _ _ => rfl, rfl⟩

/-! ### Halting tiles (R46 steps 2 and 3) -/

section
variable (x : Tile)
@[simp] theorem dataOf_haltTile : dataOf (haltTile x) = dataOf x := rfl
@[simp] theorem queueAt_haltTile (q : Nat) : queueAt (haltTile x) q = queueAt x q := rfl
@[simp] theorem haltTile_pc : (haltTile x).pc = x.pc := rfl
@[simp] theorem haltTile_loops : (haltTile x).loops = x.loops := rfl

theorem haltTile_twice : haltTile (haltTile x) = haltTile x := by
  have sent (b : Bobbin) : (if (if b.st = .sending then { b with st := .free } else b).st = .sending
      then { (if b.st = .sending then { b with st := BState.free } else b) with st := .free }
      else (if b.st = .sending then { b with st := .free } else b)) = (if b.st = .sending then { b with st := .free } else b) := by
    by_cases h : b.st = .sending <;> simp [h]
  simp only [haltTile, List.map_map]
  congr 1
  refine List.map_congr_left fun e _ => ?_
  simp [sent, Function.comp_def]
end

/-- An update that is at rest after one application, over a partition's tiles: each of the module's tiles is as before, or updated. -/
theorem tileRaw_updTiles {f : Tile → Tile} (hf : ∀ x, f (f x) = f x) (s : State) (p n : Nat) :
    tileRaw (updTiles s p (fun _ => f)) n = tileRaw s n ∨ tileRaw (updTiles s p (fun _ => f)) n = f (tileRaw s n) := by
  unfold updTiles
  generalize List.range (nTiles s p) = l
  induction l generalizing s with
  | nil => exact .inl rfl
  | cons k r ih =>
    have first : tileRaw (updTile s p k f) n = tileRaw s n ∨ tileRaw (updTile s p k f) n = f (tileRaw s n) := by
      cases hk : tileIx s p k with
      | none => left; rw [updTile, setTile, hk]
      | some m =>
        rw [updTile, tileRaw_setTile _ hk, tileAt_of_tileIx hk]
        split
        · subst_vars; exact .inr rfl
        · exact .inl rfl
    rw [List.foldl_cons]
    obtain h | h := ih (updTile s p k f) <;> obtain g | g := first
    · exact .inl (h.trans g)
    · exact .inr (h.trans g)
    · exact .inr (by rw [h, g])
    · exact .inr (by rw [h, g, hf])

/-- From s to t tiles halt, and partition p's record may change. -/
structure HaltsOnly (p : Nat) (s t : State) : Prop where
  units : UnitsKept p s t
  tiles : ∀ n, tileRaw t n = tileRaw s n ∨ tileRaw t n = haltTile (tileRaw s n)

namespace HaltsOnly
variable {p : Nat} {s t : State}

theorem refl (p : Nat) (s : State) : HaltsOnly p s s := ⟨.refl p s, fun _ => .inl rfl⟩

theorem raw {β : Type} (h : HaltsOnly p s t) (g : Tile → β) (hg : ∀ x, g (haltTile x) = g x) (n : Nat) :
    g (tileRaw t n) = g (tileRaw s n) := by
  obtain e | e := h.tiles n
  · rw [e]
  · rw [e, hg]

/-- What halting leaves of a tile is left. -/
theorem tile {β : Type} (h : HaltsOnly p s t) (g : Tile → β) (hg : ∀ x, g (haltTile x) = g x) (q k : Nat) :
    g (tileAt t q k) = g (tileAt s q k) := by
  rw [tileAt, tileAt, h.units.tileIx q k]
  cases tileIx s q k with
  | none => rfl
  | some n => exact h.raw g hg n

end HaltsOnly

theorem raiseFaults_halts (s : State) (p : Nat) (rs : List FaultRec) : HaltsOnly p s (raiseFaults s p rs) := by
  have events (l : List FaultRec) (u : State) : UnitsKept p u (l.foldl (fun acc q => postEvent acc 3 p (faultBits q)) u) ∧
      (l.foldl (fun acc q => postEvent acc 3 p (faultBits q)) u).tiles = u.tiles := by
    induction l generalizing u with
    | nil => exact ⟨.refl p u, rfl⟩
    | cons r l ih =>
      obtain ⟨units, tiles⟩ := ih (postEvent u 3 p (faultBits r))
      obtain ⟨_, _, _, e⟩ := postEvent_changes u 3 p (faultBits r)
      exact ⟨(postEvent_units ..).trans units, tiles.trans (by rw [e]; rfl)⟩
  unfold raiseFaults
  dsimp only
  split
  · rename_i r l _
    generalize hx : ({ partAt s p with flog := _, fault := _ } : Part) = x
    have recorded : UnitsKept p s (setPart s p x) := by
      subst hx; exact updPart_units s p (fun y => { y with flog := _, fault := _ })
    generalize 1 + Config.faultKind r.status % 14 = kind
    obtain ⟨fns, ef⟩ := sweepInvals_changes (updTiles (setPart s p x) p (fun _ => haltTile)) p
    obtain ⟨m, em⟩ := updTiles_changes (setPart s p x) p (fun _ => haltTile)
    generalize hv : (sweepInvals (updTiles (setPart s p x) p (fun _ => haltTile)) p).withSamp _ = v
    obtain ⟨b, eb⟩ := addHist_changes v 1 kind (ctrKey 0 2 p 0) (BitVec.ofNat 64 r.status) false
    obtain ⟨units, tiles⟩ := events (r :: l) (addHist v 1 kind (ctrKey 0 2 p 0) (BitVec.ofNat 64 r.status) false)
    refine ⟨recorded.trans (UnitsKept.trans ?_ units), fun n => ?_⟩
    · refine UnitsKept.trans ?_ (addHist_units ..)
      rw [← hv, ef, em]
      exact ⟨rfl, rfl, rfl, rfl, rfl, rfl, rfl, fun _ _ => rfl, rfl⟩
    · have same : tileRaw ((r :: l).foldl (fun acc q => postEvent acc 3 p (faultBits q))
          (addHist v 1 kind (ctrKey 0 2 p 0) (BitVec.ofNat 64 r.status) false)) n =
          tileRaw (updTiles (setPart s p x) p (fun _ => haltTile)) n := by
        rw [tileRaw, tileRaw, tiles, eb, ← hv, ef]; rfl
      rw [same]
      exact tileRaw_updTiles haltTile_twice (setPart s p x) p n
  · exact .refl p s

theorem tileFaultSem_halts (s : State) (a : TileAt) (q ix status semn addr detail : Nat) :
    HaltsOnly a.part s (tileFaultSem s a q ix status semn addr detail) := raiseFaults_halts ..

theorem tileFault_halts (s : State) (a : TileAt) (q ix status addr detail : Nat) :
    HaltsOnly a.part s (tileFault s a q ix status addr detail) := raiseFaults_halts ..

end Sys2Proof.Machine
end

section
/-! PROOFS. Passing words, the end of a word, and a fault at a word (R17 to R20, R36, R37, R45, R46). -/

namespace Sys2Proof.Machine

open Sys2Proof

/-! ### A word at its queue's head -/

/-- What a word at the head of queue q of a tile says of the state: the partition issues, the tile runs a segment, and the queue gives its
next word. -/
structure Fronts (s : State) (a : TileAt) (q : Nat) (w : TWord) (h : QWord) : Prop where
  issues : issues s a.part = true
  inPart : a.tile.val < nTiles s a.part
  runs : (tileOf s a).seg.isSome = true
  open_ : q ∉ (tileOf s a).ended
  free : semBlocked (tileOf s a) q = false
  idle : engineBusy (tileOf s a) q = false
  word : headWord (tileOf s a) q = some h
  spells : decodeWord h.raw = w

theorem atHead_eq_some_iff {s : State} {a : TileAt} {q : Nat} {w : TWord} {h : QWord} :
    atHead s a q w = some h ↔ Fronts s a q w h := by
  unfold atHead
  dsimp only
  constructor
  · intro e
    split at e
    · rename_i c
      simp only [Bool.and_eq_true, decide_eq_true_eq, Bool.not_eq_true', List.contains_eq_mem, decide_eq_false_iff_not] at c
      obtain ⟨⟨⟨⟨⟨hi, hn⟩, hs⟩, he⟩, hb⟩, hg⟩ := c
      obtain ⟨v, hv, e⟩ := Option.bind_eq_some_iff.1 e
      split at e
      · cases e
        exact ⟨hi, hn, hs, he, hb, hg, hv, ‹_›⟩
      · cases e
    · cases e
  · rintro ⟨hi, hn, hs, he, hb, hg, hv, hw⟩
    rw [tileOf] at hs he hb hg hv
    rw [hv]
    simp [hi, hn, hs, he, hb, hg, hw]

theorem no_fault_of_issues {s : State} {p : Nat} (h : issues s p = true) : (partAt s p).fault = none := by
  simp only [issues, Bool.and_eq_true, Option.isNone_iff_eq_none] at h
  exact h.1.1.1.2

theorem lt_of_inv {s : State} (h : Inv s) (p : Fin 32) : p.val < s.parts.length := by
  obtain ⟨⟨-, hp, -⟩, -⟩ := h
  rw [hp]; exact p.isLt

/-! ### Passing words to the engines -/

/-- From x to y a tile's sequencer has passed words: the engine queues may have grown at their ends, and beside them only the sequencer's
place, its loops and the closed queues may have changed. -/
structure Passes (x y : Tile) : Prop where
  rest : y = { x with q1 := y.q1, q2 := y.q2, q3 := y.q3, closed := y.closed, pc := y.pc, loops := y.loops }
  grows : ∀ q, queueAt x q <+: queueAt y q

namespace Passes
variable {x y z : Tile}

theorem refl (x : Tile) : Passes x x := ⟨rfl, fun _ => List.prefix_rfl⟩

theorem trans (h : Passes x y) (g : Passes y z) : Passes x z :=
  ⟨by rw [g.rest, h.rest], fun q => (h.grows q).trans (g.grows q)⟩

theorem data (h : Passes x y) : dataOf y = dataOf x := by rw [h.rest]; rfl

end Passes

theorem stepPc_passes (x : Tile) (n : Nat) : Passes x (stepPc x n) := ⟨rfl, fun _ => List.prefix_rfl⟩

/-- A word joins the end of its queue. -/
theorem setQueue_append_passes (x : Tile) (q : Nat) (l : List QWord) : Passes x (setQueue x q (queueAt x q ++ l)) := by
  refine ⟨?_, fun k => ?_⟩
  · unfold setQueue
    split_ifs <;> rfl
  · unfold setQueue queueAt
    split_ifs <;> simp_all

theorem passWords_passes (depth : Nat → Nat) (fuel : Nat) (x : Tile) : Passes x (passWords depth fuel x).1 := by
  induction fuel generalizing x with
  | zero => exact .refl x
  | succ n ih =>
    unfold passWords
    split
    · exact .refl x
    · rename_i w _
      dsimp only
      split_ifs
      · exact .refl x
      · exact .refl x
      · exact .refl x
      · refine Passes.trans ?_ ((stepPc_passes _ _).trans (ih _))
        have joined := setQueue_append_passes x (queueOf w) [⟨w, x.pc, capture x (decodeWord w), 0⟩]
        split
        · exact joined.trans ⟨rfl, fun _ => List.prefix_rfl⟩
        · exact joined

/-- The sequencer passes nothing where a word of its own is next. -/
theorem passWords_of_own {depth : Nat → Nat} {fuel : Nat} {x : Tile} {w : Word64} (h : x.words[x.pc]? = some w)
    (hq : queueOf w = 0) : passWords depth (fuel + 1) x = (x, none) := by
  rw [passWords, h]
  simp [hq]

/-- What letting the sequencer pass leaves: the tile with words passed, and tiles that halt where a word or the list breaks a rule. -/
theorem seqPass_changes (s : State) (a : TileAt) :
    ∃ y, Passes (tileOf s a) y ∧ HaltsOnly a.part (setTile s a.part a.tile y) (seqPass s a) := by
  refine ⟨(passWords (queueDepth s a) 3100 (tileOf s a)).1, passWords_passes .., ?_⟩
  unfold seqPass
  dsimp only
  rw [tileOf]
  split
  · exact tileFault_halts ..
  · split
    · exact tileFault_halts ..
    · exact .refl ..

/-- A word of the sequencer's own at its place: nothing is passed. -/
theorem seqPass_of_own {s : State} {a : TileAt} {w : Word64} (h : (tileOf s a).words[(tileOf s a).pc]? = some w)
    (hq : queueOf w = 0) : seqPass s a = setTile s a.part a.tile (tileOf s a) := by
  have inside : ¬ (tileAt s a.part a.tile).words.length ≤ (tileAt s a.part a.tile).pc :=
    Nat.not_le.2 (List.getElem?_eq_some_iff.1 h).1
  have own : passWords (queueDepth s a) 3100 (tileAt s a.part a.tile) = (tileAt s a.part a.tile, none) := passWords_of_own h hq
  rw [seqPass, own]
  simp [inside, tileOf]

/-! ### The end of a word -/

section
variable {s : State} {a : TileAt} {q n : Nat} {y : Tile}

@[simp] theorem dataOf_popWord (x : Tile) (q : Nat) : dataOf (popWord x q) = dataOf x := by
  unfold popWord setQueue
  dsimp only
  split_ifs <;> rfl

/-- The engine queue whose head word is done loses it. -/
theorem queueAt_popWord (x : Tile) (hq : q ≠ 0) : queueAt (popWord x q) q = (queueAt x q).tail := by
  unfold popWord setQueue queueAt
  simp only [hq, if_false]
  split_ifs <;> simp_all

theorem tileOf_setTile (x : Tile) (h : tileIx s a.part a.tile = some n) : tileOf (setTile s a.part a.tile x) a = x :=
  tileAt_setTile s x h

/-- What the end of a word leaves of its tile: the tile y without the word, with words passed and perhaps halted; the other tiles may
halt. -/
theorem finishWord_changes (h : tileIx s a.part a.tile = some n) :
    ∃ z, Passes (popWord y q) z ∧ HaltsOnly a.part (setTile s a.part a.tile z) (finishWord s a q y) := by
  obtain ⟨z, passes, halts⟩ := seqPass_changes (setTile s a.part a.tile (popWord y q)) a
  rw [tileOf_setTile _ h] at passes
  rw [setTile_twice] at halts
  exact ⟨z, passes, halts⟩

/-- A tile is replaced by one whose sequencer stands at a word of its own. -/
theorem seqPass_setTile {w : Word64} (h : tileIx s a.part a.tile = some n) (hw : y.words[y.pc]? = some w) (hq : queueOf w = 0) :
    seqPass (setTile s a.part a.tile y) a = setTile s a.part a.tile y := by
  rw [seqPass_of_own (w := w) (by rwa [tileOf_setTile _ h]) hq, tileOf_setTile _ h, setTile_twice]

/-- Where the sequencer rests, the end of a word changes its tile alone. -/
theorem finishWord_of_rest (h : tileIx s a.part a.tile = some n) (rest : seqRests y q) :
    finishWord s a q y = setTile s a.part a.tile (popWord y q) := by
  obtain ⟨w, hw, hq⟩ := rest
  rw [finishWord, seqPass_setTile h hw hq]

/-- The word at the head of queue q is done once its tile is replaced and the sequencer has passed what it can. -/
theorem finishWord_done (h : tileIx s a.part a.tile = some n) (hq : q ≠ 0 → queueAt y q = queueAt (tileOf s a) q) :
    WordDone s a q (.next (finishWord s a q y)) y := by
  obtain ⟨z, passes, halts⟩ := finishWord_changes (q := q) (y := y) h
  have kept := (setTile_units a.part s a.part a.tile z).trans halts.units
  refine ⟨_, rfl, ?data, fun hq0 => ?queue, fun k hk => ?tiles, kept.t2, kept.t1, kept.groups, kept.journal, kept.fabric,
    kept.power, kept.time, kept.others⟩
  case data =>
    rw [tileOf, halts.tile dataOf dataOf_haltTile, tileAt_setTile _ _ h, passes.data, dataOf_popWord]
  case queue =>
    rw [tileOf, tileOf, halts.tile (queueAt · q) (fun x => queueAt_haltTile x q), tileAt_setTile _ _ h, ← tileOf, ← hq hq0,
      ← queueAt_popWord y hq0]
    exact passes.grows q
  case tiles =>
    rw [halts.raw dataOf dataOf_haltTile, tileRaw_setTile _ h, if_neg]
    rintro rfl
    exact hk h

/-- What has changed before the end of a word, and is none of what the word's end speaks of. -/
theorem wordDone_of_before {u : State} {o : Out} {z : Tile} (h : WordDone u a q o y) (units : UnitsKept a.part s u)
    (tiles : ∀ k, dataOf (tileRaw u k) = dataOf (tileRaw s k)) (queue : queueAt (tileOf u a) q = queueAt (tileOf s a) q)
    (hy : dataOf y = dataOf z) : WordDone s a q o z := by
  obtain ⟨t, ht, data, grows, others, t2, t1, groups, journal, fabric, power, time, parts⟩ := h
  exact ⟨t, ht, data.trans hy, fun hq => queue ▸ grows hq, fun k hk => (others k (by rwa [units.tileIx])).trans (tiles k),
    t2.trans units.t2, t1.trans units.t1, groups.trans units.groups, journal.trans units.journal, fabric.trans units.fabric,
    power.trans units.power, time.trans units.time, fun k hk => (parts k hk).trans (units.others k hk)⟩

/-- The word is done after an update of other units than the tiles. -/
theorem finishWord_done_after {u : State} (h : tileIx s a.part a.tile = some n)
    (hq : q ≠ 0 → queueAt y q = queueAt (tileOf s a) q) (units : UnitsKept a.part s u) (tiles : u.tiles = s.tiles) :
    WordDone s a q (.next (finishWord u a q y)) y := by
  have same : tileOf u a = tileOf s a := tileAt_congr _ _ (units.tileIx _ _) tiles
  refine wordDone_of_before (finishWord_done (n := n) (by rwa [units.tileIx]) (by rwa [same])) units (fun k => ?_) (by rw [same]) rfl
  rw [tileRaw, tileRaw, tiles]

end

/-! ### A fault at a word -/

theorem faultAt_imp {s t : State} {a : TileAt} {q ix status : Nat} {m m' : FaultRec → Prop} (h : FaultAt s t a q ix status m)
    (f : ∀ r, m r → m' r) : FaultAt s t a q ix status m' := by
  obtain ⟨r, flog, status, tile, queue, word, time, more, fault⟩ := h
  exact ⟨r, flog, status, tile, queue, word, time, f r more, fault⟩

/-- What has changed before the fault, and is neither the partitions nor the time. -/
theorem faultAt_of_before {s u t : State} {a : TileAt} {q ix status : Nat} {m : FaultRec → Prop}
    (h : FaultAt u t a q ix status m) (parts : u.parts = s.parts) (time : u.time = s.time) : FaultAt s t a q ix status m := by
  simp only [FaultAt, partAt_congr parts, time] at h
  exact h

/-- A fault at a word of a partition without one: its record joins the log, and the partition has the fault. -/
theorem tileFaultSem_faultAt {s : State} {a : TileAt} (q ix status semn addr detail : Nat) (hp : a.part.val < s.parts.length)
    (hf : (partAt s a.part).fault = none) :
    FaultAt s (tileFaultSem s a q ix status semn addr detail) a q ix status
      (fun r => r.sem = semn ∧ r.addr = addr ∧ r.detail = detail) := by
  refine ⟨_, by rw [tileFaultSem, partAt_raiseFaults_self _ hp hf], rfl, rfl, rfl, rfl, rfl, ⟨rfl, rfl, rfl⟩, ?_⟩
  rw [tileFaultSem, partAt_raiseFaults_self _ hp hf]
  rfl

theorem tileFault_faultAt {s : State} {a : TileAt} (q ix status addr detail : Nat) (hp : a.part.val < s.parts.length)
    (hf : (partAt s a.part).fault = none) :
    FaultAt s (tileFault s a q ix status addr detail) a q ix status (fun r => r.addr = addr ∧ r.detail = detail) :=
  faultAt_imp (tileFaultSem_faultAt q ix status 0 addr detail hp hf) fun _ => And.right

/-- A fault at a word that stands at its queue's head. -/
theorem Fronts.tileFault {s : State} {a : TileAt} {q : Nat} {w : TWord} {h : QWord} (front : Fronts s a q w h) (hs : Inv s)
    (k ix status addr detail : Nat) :
    FaultAt s (tileFault s a k ix status addr detail) a k ix status (fun r => r.addr = addr ∧ r.detail = detail) :=
  tileFault_faultAt k ix status addr detail (lt_of_inv hs a.part) (no_fault_of_issues front.issues)

end Sys2Proof.Machine
end

section
/-! PROOFS. Scalar words and loops (R19, R20). -/

namespace Sys2Proof.Machine

open Sys2Proof

/-! ### Scalar words (R19) -/

/-- A scalar word at the sequencer's place is done with its destination written, and its row answers so. -/
theorem scalarWord_done {s : State} {a : TileAt} {c : TWord} (dst : Nat) (v : Tile → Word64) (h : (atHead s a 0 c).isSome = true) :
    WordDone s a 0 (ok (scalarWord s a c dst v)) (setSreg (tileOf s a) dst (v (tileOf s a))) := by
  obtain ⟨w, hw⟩ := Option.isSome_iff_exists.1 h
  obtain ⟨n, hn⟩ := tileIx_of_lt (atHead_eq_some_iff.1 hw).inPart
  rw [ok, scalarWord, hw]
  exact finishWord_done hn (fun h0 => absurd rfl h0)

/-- LIH keeps the low half of its register and puts the immediate above it. -/
theorem lih_value (x : Word64) (i : BitVec 32) :
    (x &&& 0xFFFFFFFF#64) ||| (i.setWidth 64 <<< 32) = BitVec.append i (x.extractLsb' 0 32) := by
  refine BitVec.eq_of_getLsbD_eq fun k hk => ?_
  show _ = (i ++ x.extractLsb' 0 32).getLsbD k
  have mask : (0xFFFFFFFF#64).getLsbD k = decide (k < 32) := by
    rw [show (0xFFFFFFFF#64) = BitVec.ofNat 64 (2 ^ 32 - 1) from rfl, BitVec.getLsbD_ofNat, Nat.testBit_two_pow_sub_one]
    simp [hk]
  rw [BitVec.getLsbD_append, BitVec.getLsbD_or, BitVec.getLsbD_and, mask]
  by_cases low : k < 32
  · simp [low, hk]
  · simp [low, hk]

theorem queueCount_eq (x : Tile) (n : Nat) :
    queueCount x n = if n = 1 then x.q1.length else if n = 2 then x.q2.length else if n = 3 then x.q3.length
      else if n = 4 then x.sigin.length else if n = 5 then x.ftq.length else 0 := by
  unfold queueCount queueAt
  split_ifs <;> simp_all

/-- Settles O17: each word's row is the shared form of a scalar word with the value of R19's table. -/
theorem scalarWordsCompute : Obligations.ScalarWordsCompute := by
  intro s a w hs x ra rb ext sh
  have rise : keysRise x.sregs = true := ((mapWf_iff _ _).1 (tileAt_ok hs a.part a.tile).1.1).1
  intro gives
  have computes {c : TWord} {i : Instr} {v : Tile → Word64} {u : Word64}
      (hi : exec i s = ok (scalarWord s a c w.dst.toNat v)) (hu : v x = u) : gives c i u := fun head =>
    ⟨hi ▸ hu ▸ scalarWord_done w.dst.toNat v head, fun r => by
      rw [sreg_setSreg x _ r _ rise]
      by_cases e : r = w.dst.toNat
      · simp [e]
      · simp [e]⟩
  refine ⟨computes rfl rfl, ?lih, computes rfl rfl, computes rfl rfl, computes rfl rfl, computes rfl rfl, computes rfl rfl, computes rfl rfl, computes rfl rfl,
    computes rfl rfl, ?qcnt, computes rfl rfl, computes rfl rfl⟩
  case lih => exact computes rfl (lih_value ..)
  case qcnt => exact computes rfl (congrArg (BitVec.ofNat 64) (queueCount_eq ..))

/-! ### Loops (R20) -/

/-- The rule of R20: a body that is too deep, empty, or past the list or the body around it. -/
theorem loopBad_iff (x : Tile) (k : Nat) :
    loopBad x k = true ↔ 4 ≤ x.loops.length ∨ k = 0 ∨ x.words.length < x.pc + 1 + k ∨
      ∃ f, x.loops.head? = some f ∧ f.start + f.len < x.pc + 1 + k := by
  cases h : x.loops with
  | nil => simp [loopBad, h]
  | cons f l => simp [loopBad, h, or_assoc]

/-- Settles O18: a LOOP that breaks a rule faults at its place; another one opens a frame, or passes its body. -/
theorem loopsNestFourDeep : Obligations.LoopsNestFourDeep := by
  intro s a h hs x
  refine ⟨fun w k head few hk hk0 inList inBody => ⟨fun some_ next => ?opens, fun zero flat next => ?passes⟩, fun w head bad => ?faults⟩
  case faults =>
    have front := atHead_eq_some_iff.1 head
    have halts := tileFault_halts s a 0 h.ix 0x0308 0 0
    refine ⟨tileFault s a 0 h.ix 0x0308 0 0, ?_, faultAt_imp (front.tileFault hs ..) fun _ _ => trivial, halts.tile Tile.pc haltTile_pc _ _,
      halts.tile Tile.loops haltTile_loops _ _⟩
    show execLoop a w s = _
    rw [execLoop, head]
    exact congrArg ok (if_pos ((loopBad_iff x _).2 bad))
  all_goals
    subst hk
    obtain ⟨n, hn⟩ := tileIx_of_lt (atHead_eq_some_iff.1 head).inPart
    have good : ¬ loopBad x (w.imm.toNat % 65536) = true := by
      rw [loopBad_iff]
      rintro (deep | empty | beyond | ⟨f, hf, past⟩)
      · omega
      · exact hk0 empty
      · omega
      · have := inBody f hf; omega
    obtain ⟨v, hv, own⟩ := next
    show execLoop a w s = _
    rw [execLoop, head]
    refine congrArg ok ((if_neg good).trans ?_)
  case opens => exact (if_neg some_).trans (seqPass_setTile hn hv own)
  case passes =>
    refine (if_pos zero).trans ?_
    have step : stepPc x (x.pc + 1 + w.imm.toNat % 65536) = { x with pc := x.pc + 1 + w.imm.toNat % 65536, loops := [] } := by
      rw [stepPc, flat]; rfl
    show seqPass (setTile s a.part a.tile (stepPc x (x.pc + 1 + w.imm.toNat % 65536))) a = _
    rw [step]
    exact seqPass_setTile hn hv own

end Sys2Proof.Machine
end

section
/-! PROOFS. Synchronisation words, their signals and waits, and reserved words (R17, R21 to R24, R36, R37, R44, R387). -/

namespace Sys2Proof.Machine

open Sys2Proof

/-! ### Updates before a word's end -/

theorem setFrame_changes (s : State) (n : Nat) (f : Frame) : ∃ x, setFrame s n f = s.withT1 x := ⟨_, rfl⟩

/-- The end of a fetch's reads changes the frames alone. -/
theorem readersDone_changes (s : State) (l : List Nat) : ∃ x, readersDone s l = s.withT1 x := by
  unfold readersDone
  induction l generalizing s with
  | nil => exact ⟨s.t1, rfl⟩
  | cons n l ih =>
    rw [List.foldl_cons]
    split
    · rename_i f _
      obtain ⟨x, e⟩ := ih (setFrame s n { f with readers := f.readers - 1 })
      exact ⟨x, e.trans rfl⟩
    · exact ih s

/-- The count that a semaphore fault records is the one held or the one asked, and drawing it changes nothing else. -/
theorem eitherOf_cases (s : State) (held asked : Nat) :
    ((eitherOf s held asked).1 = held ∨ (eitherOf s held asked).1 = asked) ∧
      (eitherOf s held asked).2 = s.withFree (s.free + 1) := by
  refine ⟨?_, rfl⟩
  unfold eitherOf
  dsimp only
  split
  · exact .inl rfl
  · exact .inr rfl

/-! ### The head of a queue -/

section
variable {s : State} {a : TileAt} {w : SyncW} {h : QWord} {c : TWord}

/-- A synchronisation word at its queue's head, outside a chain, does what its row says. -/
theorem syncWord_of_head (f : QWord → State) (head : atHead s a w.q.toNat c = some h)
    (hc : chainOpen (tileOf s a) w.q.toNat = false) : syncWord s a w c f = f h := by
  rw [tileOf] at hc
  simp [syncWord, syncQ, head, hc]

end

section
variable {s : State} {a : TileAt} {q : Nat} {x y : Tile}

@[simp] theorem popWord_sigin (x : Tile) (q : Nat) : (popWord x q).sigin = x.sigin := by
  unfold popWord setQueue
  dsimp only
  split_ifs <;> rfl

theorem seqRests_congr (h : popWord y q = { popWord x q with sigin := y.sigin }) (rest : seqRests x q) : seqRests y q := by
  rw [seqRests, h]; exact rest

theorem popWord_withSigin (l : List Sig) : popWord { x with sigin := l } q = { popWord x q with sigin := l } := by
  unfold popWord setQueue
  dsimp only
  split_ifs <;> rfl

end

/-! ### SIGNAL (R22, R25, R26) -/

/-- A tile with one signal more in its inbound queue. -/
def withSignal (x : Tile) (g : Sig) : Tile := { x with sigin := x.sigin ++ [g] }

@[simp] theorem dataOf_withSignal (x : Tile) (g : Sig) : dataOf (withSignal x g) = dataOf x := rfl
@[simp] theorem queueAt_withSignal (x : Tile) (g : Sig) (q : Nat) : queueAt (withSignal x g) q = queueAt x q := rfl

/-- A signal into the queue of tile n of the partition: what any function of a tile that does not look at the inbound queue shows is as
before. -/
theorem tileRaw_signalled {β : Type} {s : State} {p n : Nat} (g : Sig) (f : Tile → β) (hf : ∀ x, f (withSignal x g) = f x) (k : Nat) :
    f (tileRaw (updTile s p n (withSignal · g)) k) = f (tileRaw s k) := by
  cases hn : tileIx s p n with
  | none => rw [updTile, setTile, hn]
  | some m =>
    rw [updTile, tileRaw_setTile _ hn, tileAt_of_tileIx hn]
    split
    · subst_vars; exact hf _
    · rfl

theorem signal_done {s : State} {a : TileAt} {w : SyncW} {h : QWord} (head : atHead s a w.q.toNat (.signal w) = some h)
    (hc : chainOpen (tileOf s a) w.q.toNat = false) (rest : seqRests (tileOf s a) w.q.toNat)
    (seg : ((tileSeg s a).map (fun d => segHasTile d (signalTarget a w))).getD false = true)
    (target : signalTarget a w < nTiles s a.part) (visible : owesStores (tileOf s a) w.q.toNat = false)
    (room : (tileAt s a.part (signalTarget a w)).sigin.length < 256) :
    ∃ t, exec (.signal a w) s = .next t ∧ (tileAt t a.part (signalTarget a w)).sigin =
        (tileAt s a.part (signalTarget a w)).sigin ++ [⟨w.sem.toNat, w.arg.toNat, a.tile.val, w.q.toNat⟩] ∧
      WordDone s a w.q.toNat (exec (.signal a w) s) (tileOf s a) ∧ t.parts = s.parts := by
  generalize hg : (⟨w.sem.toNat, w.arg.toNat, a.tile.val, w.q.toNat⟩ : Sig) = g
  generalize hk : signalTarget a w = k at *
  generalize hu : updTile s a.part k (withSignal · g) = u
  have hexec : exec (.signal a w) s = .next (finishWord u a w.q.toNat (tileOf u a)) := by
    show execSignal a w s = _
    rw [execSignal, syncWord_of_head _ head hc]
    rw [tileOf] at visible
    simp only [hk, seg, target, syncQ, visible, inboundCap, Nat.not_le.2 room, decide_true, decide_false, Bool.and_true, Bool.not_true,
      Bool.or_false, Bool.false_eq_true, if_false, ok]
    rw [← hu, ← hg]
    rfl
  obtain ⟨n, hn⟩ := tileIx_of_lt (atHead_eq_some_iff.1 head).inPart
  obtain ⟨m, hm⟩ := tileIx_of_lt target
  have units : UnitsKept a.part s u := hu ▸ setTile_units ..
  have hn' : tileIx u a.part a.tile = some n := by rwa [units.tileIx]
  have hm' : tileIx u a.part k = some m := by rwa [units.tileIx]
  have raw (j : Nat) : tileRaw u j = if j = m then withSignal (tileRaw s m) g else tileRaw s j := by
    rw [← hu, updTile, tileRaw_setTile _ hm, tileAt_of_tileIx hm]
  have own : tileOf u a = { tileOf s a with sigin := (tileOf u a).sigin } := by
    rw [tileOf, tileOf, tileAt_of_tileIx hn', tileAt_of_tileIx hn, raw]
    split
    · subst_vars; rfl
    · rfl
  have rest' : seqRests (tileOf u a) w.q.toNat :=
    seqRests_congr (by rw [own, popWord_withSigin]) rest
  refine ⟨_, hexec, ?lands, ?done, ?parts⟩
  case lands =>
    rw [finishWord_of_rest hn' rest', tileAt_of_tileIx (n := m) (by rwa [tileIx_setTile]), tileRaw_setTile _ hn', tileAt_of_tileIx hm]
    split
    · rename_i same
      rw [popWord_sigin, tileOf, tileAt_of_tileIx hn', ← same, raw, if_pos rfl]
      rfl
    · rw [raw, if_pos rfl]; rfl
  case done =>
    rw [hexec]
    refine wordDone_of_before (finishWord_done hn' fun _ => rfl) units (fun j => ?_) ?_ ?_
    · rw [← hu]; exact tileRaw_signalled g dataOf (fun x => dataOf_withSignal x g) j
    · rw [own]; rfl
    · rw [own]; rfl
  case parts =>
    rw [finishWord_of_rest hn' rest', setTile_parts, ← hu]
    exact setTile_parts ..

/-! ### The arrival of a signal (R22 to R24) -/

theorem exec_signalArrival {s : State} {a : TileAt} {n : Nat} {g : Sig} (hg : (tileOf s a).sigin[n]? = some g)
    (run : issues s a.part = true) (turn : arrivalOk (tileOf s a).sigin n g = true) :
    exec (.signalArrival a n) s = .next (if 65535 < sem (tileOf s a) g.sem + g.count then
      raiseFaults (eitherOf s (sem (tileOf s a) g.sem) g.count).2 a.part [{ mkFault s 0x0302 a.tile with
        q := g.q, sem := g.sem, seg := ((tileOf s a).seg.map (fun r => r.seg)).getD 0, other := g.tile,
        detail := (eitherOf s (sem (tileOf s a) g.sem) g.count).1 }]
      else setTile s a.part a.tile (setSem { tileOf s a with sigin := (tileOf s a).sigin.eraseIdx n } g.sem
        (sem (tileOf s a) g.sem + g.count))) := by
  rw [tileOf] at *
  show execSignalArrival a n s = _
  simp only [execSignalArrival, hg, run, turn, ok, Bool.and_self, Bool.not_true, Bool.false_eq_true, if_false]

/-- A signal whose sum fits is added to its semaphore. -/
theorem signalArrival_adds {s : State} {a : TileAt} {n : Nat} {g : Sig} (ok : TilesOk s) (hg : (tileOf s a).sigin[n]? = some g)
    (run : issues s a.part = true) (turn : arrivalOk (tileOf s a).sigin n g = true) (inPart : a.tile.val < nTiles s a.part)
    (fits : sem (tileOf s a) g.sem + g.count ≤ 65535) :
    ∃ t, exec (.signalArrival a n) s = .next t ∧ (tileOf t a).sigin = (tileOf s a).sigin.eraseIdx n ∧
      sem (tileOf t a) g.sem = sem (tileOf s a) g.sem + g.count ∧
      (∀ m, m ≠ g.sem → sem (tileOf t a) m = sem (tileOf s a) m) ∧ t.withTiles s.tiles = s := by
  obtain ⟨k, hk⟩ := tileIx_of_lt inPart
  have rise : keysRise (tileOf s a).sems = true := ((mapWf_iff _ _).1 (tileAt_ok ok a.part a.tile).2.1).1
  have sems (m : Nat) : sem (setSem { tileOf s a with sigin := (tileOf s a).sigin.eraseIdx n } g.sem
      (sem (tileOf s a) g.sem + g.count)) m = if m = g.sem then sem (tileOf s a) g.sem + g.count else sem (tileOf s a) m :=
    sem_setSem { tileOf s a with sigin := _ } g.sem m _ rise
  refine ⟨_, by rw [exec_signalArrival hg run turn, if_neg (Nat.not_lt.2 fits)], ?_⟩
  rw [tileOf_setTile _ hk]
  exact ⟨rfl, by rw [sems, if_pos rfl], fun m hm => by rw [sems, if_neg hm], setTile_withTiles ..⟩

/-- A signal whose sum does not fit raises SEM_OVERFLOW. -/
theorem signalArrival_overflows {s : State} {a : TileAt} {n : Nat} {g : Sig} (hs : Inv s) (hg : (tileOf s a).sigin[n]? = some g)
    (run : issues s a.part = true) (turn : arrivalOk (tileOf s a).sigin n g = true)
    (above : 65535 < sem (tileOf s a) g.sem + g.count) :
    ∃ t r, exec (.signalArrival a n) s = .next t ∧ (partAt t a.part).flog = (partAt s a.part).flog ++ [r] ∧ r.status = 0x0302 ∧
      r.sem = g.sem ∧ r.tile = a.tile.val ∧ r.other = g.tile ∧ (r.detail = sem (tileOf s a) g.sem ∨ r.detail = g.count) := by
  obtain ⟨detail, drawn⟩ := eitherOf_cases s (sem (tileOf s a) g.sem) g.count
  have hp : a.part.val < (s.withFree (s.free + 1)).parts.length := lt_of_inv hs a.part
  have hf : (partAt (s.withFree (s.free + 1)) a.part).fault = none := no_fault_of_issues run
  have raised := raiseFaults_raised { mkFault s 0x0302 a.tile with
    q := g.q, sem := g.sem, seg := ((tileOf s a).seg.map (fun r => r.seg)).getD 0, other := g.tile,
    detail := (eitherOf s (sem (tileOf s a) g.sem) g.count).1 } hp hf
  exact ⟨_, _, by rw [exec_signalArrival hg run turn, if_pos above, drawn], raised.flog, rfl, rfl, rfl, rfl, detail⟩

/-! ### WAIT (R22, R24) -/

section
variable {s : State} {a : TileAt} {w : SyncW} {h : QWord}

theorem exec_wait (head : atHead s a w.q.toNat (.wait w) = some h) (hc : chainOpen (tileOf s a) w.q.toNat = false) :
    exec (.wait a w) s = .next (if w.arg.toNat ≤ sem (tileOf s a) w.sem.toNat
      then finishWord s a w.q.toNat (setSem (tileOf s a) w.sem.toNat (sem (tileOf s a) w.sem.toNat - w.arg.toNat))
      else setTile s a.part a.tile { tileOf s a with
        blocked := ⟨w.q.toNat, none, w.sem.toNat, w.arg.toNat, s.time.wait, tileWork s (tileOf s a)⟩ :: (tileOf s a).blocked }) := by
  show execWait a w s = _
  rw [execWait, syncWord_of_head _ head hc]
  rfl

theorem wait_done (head : atHead s a w.q.toNat (.wait w) = some h) (hc : chainOpen (tileOf s a) w.q.toNat = false)
    (there : w.arg.toNat ≤ sem (tileOf s a) w.sem.toNat) : WordDone s a w.q.toNat (exec (.wait a w) s)
      (setSem (tileOf s a) w.sem.toNat (sem (tileOf s a) w.sem.toNat - w.arg.toNat)) := by
  obtain ⟨n, hn⟩ := tileIx_of_lt (atHead_eq_some_iff.1 head).inPart
  rw [exec_wait head hc, if_pos there]
  exact finishWord_done hn fun _ => rfl

theorem wait_blocks (head : atHead s a w.q.toNat (.wait w) = some h) (hc : chainOpen (tileOf s a) w.q.toNat = false)
    (short : sem (tileOf s a) w.sem.toNat < w.arg.toNat) : ∃ t, exec (.wait a w) s = .next t ∧
      (tileOf t a).blocked =
        ⟨w.q.toNat, none, w.sem.toNat, w.arg.toNat, s.time.wait, tileWork s (tileOf s a)⟩ :: (tileOf s a).blocked ∧
      dataOf (tileOf t a) = dataOf (tileOf s a) ∧ t.withTiles s.tiles = s := by
  obtain ⟨n, hn⟩ := tileIx_of_lt (atHead_eq_some_iff.1 head).inPart
  refine ⟨_, by rw [exec_wait head hc, if_neg (Nat.not_le.2 short)], ?_⟩
  rw [tileOf_setTile _ hn]
  exact ⟨rfl, rfl, setTile_withTiles ..⟩

/-- A blocked WAIT whose count has come goes on. -/
theorem waitSatisfied_done {k : Nat} {b : Blocked} (run : issues s a.part = true) (inPart : a.tile.val < nTiles s a.part)
    (hb : (tileOf s a).blocked.find? (fun b => decide (b.q = k) && b.ring.isNone) = some b) (hk : k < 4)
    (there : b.count ≤ sem (tileOf s a) b.sem) : WordDone s a k (exec (.waitSatisfied a (Fin.ofNat 4 k)) s)
      (setSem (tileOf s a) b.sem (sem (tileOf s a) b.sem - b.count)) := by
  obtain ⟨n, hn⟩ := tileIx_of_lt inPart
  have hq : (Fin.ofNat 4 k).val = k := Nat.mod_eq_of_lt hk
  have hexec : exec (.waitSatisfied a (Fin.ofNat 4 k)) s = .next (finishWord (countWait s a b) a k
      (setSem (tileOf s a) b.sem (sem (tileOf s a) b.sem - b.count))) := by
    rw [tileOf] at *
    show execWaitSatisfied a _ s = _
    simp only [execWaitSatisfied, hq, hb, run, there, decide_true, Bool.and_self, if_true, ok]
  rw [hexec]
  exact finishWord_done_after hn (fun _ => rfl) (addCtr_units ..) rfl

/-- The first wait of a queue, where it is on a semaphore whose count has not come in time, is the one that times out. -/
theorem find_timedOut {k : Nat} {b : Blocked} (sem_ : (tileOf s a).blocked.find? (fun b => decide (b.q = k) && b.ring.isNone) = some b)
    (first : (tileOf s a).blocked.find? (fun b => decide (b.q = k)) = some b) (short : sem (tileOf s a) b.sem < b.count)
    (late : waitLimit s a.part < (s.time.wait - b.since).toNat) :
    b.ring = none ∧ (tileOf s a).blocked.find? (fun b => decide (b.q = k) &&
      decide (waitLimit s a.part < (s.time.wait - b.since).toNat) && stillWaits s a b) = some b := by
  have hb := List.find?_some sem_
  simp only [Bool.and_eq_true, decide_eq_true_eq, Option.isNone_iff_eq_none] at hb
  obtain ⟨hq, ring⟩ := hb
  refine ⟨ring, ?_⟩
  rw [List.find?_eq_some_iff_append] at first ⊢
  obtain ⟨-, l, r, hl, hn⟩ := first
  refine ⟨?_, l, r, hl, fun c hc => ?_⟩
  · rw [tileOf] at short
    simp only [hq, late, stillWaits, ring, short, decide_true, Bool.and_self]
  · have := hn c hc
    simp only [Bool.not_eq_true', decide_eq_false_iff_not] at this
    simp [this]

/-- A WAIT that has waited too long times out. -/
theorem waitTimeout_faults {k : Nat} {b : Blocked} (hs : Inv s) (run : issues s a.part = true) (hk : k < 4)
    (sem_ : (tileOf s a).blocked.find? (fun b => decide (b.q = k) && b.ring.isNone) = some b)
    (first : (tileOf s a).blocked.find? (fun b => decide (b.q = k)) = some b) (short : sem (tileOf s a) b.sem < b.count)
    (late : waitLimit s a.part < (s.time.wait - b.since).toNat) :
    ∃ t r, exec (.waitTimeout a (Fin.ofNat 4 k)) s = .next t ∧ (partAt t a.part).flog = (partAt s a.part).flog ++ [r] ∧
      r.status = 0x0303 ∧ r.tile = a.tile.val ∧ r.q = k ∧ r.sem = b.sem ∧
      (r.detail = sem (tileOf s a) b.sem ∨ r.detail = b.count) := by
  have hq : (Fin.ofNat 4 k).val = k := Nat.mod_eq_of_lt hk
  obtain ⟨ring, found⟩ := find_timedOut sem_ first short late
  obtain ⟨detail, drawn⟩ := eitherOf_cases (countWait s a b) (sem (tileOf s a) b.sem) b.count
  obtain ⟨r, flog, status, tile, queue, -, -, ⟨hsem, -, hdet⟩, -⟩ := tileFaultSem_faultAt (s := (countWait s a b).withFree
    ((countWait s a b).free + 1)) (a := a) k (((headWord (tileOf s a) k).map (fun h => h.ix)).getD 0) 0x0303 b.sem 0
    (eitherOf (countWait s a b) (sem (tileOf s a) b.sem) b.count).1 (lt_of_inv hs a.part) (no_fault_of_issues run)
  refine ⟨_, r, ?_, flog, status, tile, queue, hsem, by rw [hdet]; exact detail⟩
  rw [tileOf] at found
  show execWaitTimeout a _ s = _
  simp only [execWaitTimeout, hq, run, found, ring, Bool.not_true, Bool.false_eq_true, if_false, ok, tileOf]
  rfl

/-! ### TAKE (R22, R24) -/

theorem exec_take (head : atHead s a w.q.toNat (.take w) = some h) (hc : chainOpen (tileOf s a) w.q.toNat = false) :
    exec (.take a w) s = .next (if sem (tileOf s a) w.sem.toNat < w.arg.toNat
      then tileFaultSem (eitherOf s (sem (tileOf s a) w.sem.toNat) w.arg.toNat).2 a w.q.toNat h.ix 0x0301 w.sem.toNat 0
        (eitherOf s (sem (tileOf s a) w.sem.toNat) w.arg.toNat).1
      else finishWord s a w.q.toNat (setSem (tileOf s a) w.sem.toNat (sem (tileOf s a) w.sem.toNat - w.arg.toNat))) := by
  show execTake a w s = _
  rw [execTake, syncWord_of_head _ head hc]
  rfl

theorem take_done (head : atHead s a w.q.toNat (.take w) = some h) (hc : chainOpen (tileOf s a) w.q.toNat = false)
    (there : w.arg.toNat ≤ sem (tileOf s a) w.sem.toNat) : WordDone s a w.q.toNat (exec (.take a w) s)
      (setSem (tileOf s a) w.sem.toNat (sem (tileOf s a) w.sem.toNat - w.arg.toNat)) := by
  obtain ⟨n, hn⟩ := tileIx_of_lt (atHead_eq_some_iff.1 head).inPart
  rw [exec_take head hc, if_neg (Nat.not_lt.2 there)]
  exact finishWord_done hn fun _ => rfl

theorem take_underflows (hs : Inv s) (head : atHead s a w.q.toNat (.take w) = some h)
    (hc : chainOpen (tileOf s a) w.q.toNat = false) (short : sem (tileOf s a) w.sem.toNat < w.arg.toNat) :
    ∃ t, exec (.take a w) s = .next t ∧ FaultAt s t a w.q.toNat h.ix 0x0301 (fun r => r.sem = w.sem.toNat ∧
      (r.detail = sem (tileOf s a) w.sem.toNat ∨ r.detail = w.arg.toNat)) := by
  obtain ⟨detail, drawn⟩ := eitherOf_cases s (sem (tileOf s a) w.sem.toNat) w.arg.toNat
  refine ⟨_, by rw [exec_take head hc, if_pos short, drawn], ?_⟩
  refine faultAt_of_before (u := s.withFree (s.free + 1)) (faultAt_imp (tileFaultSem_faultAt _ _ _ _ _ _ (lt_of_inv hs a.part)
    (no_fault_of_issues (atHead_eq_some_iff.1 head).issues)) ?_) rfl rfl
  rintro r ⟨hsem, -, hdet⟩
  exact ⟨hsem, by rw [hdet]; exact detail⟩

/-! ### MARK (R21, R387) -/

theorem mark_done (head : atHead s a w.q.toNat (.mark w) = some h) (hc : chainOpen (tileOf s a) w.q.toNat = false) :
    WordDone s a w.q.toNat (exec (.mark a w) s) { tileOf s a with
      marks := (w.q.toNat, h.ix) :: (tileOf s a).marks.filter (fun e => e.1 ≠ w.q.toNat) } := by
  obtain ⟨n, hn⟩ := tileIx_of_lt (atHead_eq_some_iff.1 head).inPart
  have hexec : exec (.mark a w) s = .next (finishWord (markHit s a w.q.toNat w.arg.toNat) a w.q.toNat { tileOf s a with
      marks := (w.q.toNat, h.ix) :: (tileOf s a).marks.filter (fun e => e.1 ≠ w.q.toNat) }) := by
    show execMark a w s = _
    rw [execMark, syncWord_of_head _ head hc]
    rfl
  rw [hexec]
  exact finishWord_done_after hn (fun _ => rfl) (updPart_units ..) rfl

/-! ### SEGEND (R36, R37) -/

/-- A tile whose queue has met its SEGEND. -/
def endQueue (x : Tile) (q : Nat) : Tile :=
  { x with ended := q :: x.ended, blocked := x.blocked.filter (fun b => b.q ≠ q) }

@[simp] theorem dataOf_setQueue (x : Tile) (q : Nat) (l : List QWord) : dataOf (setQueue x q l) = dataOf x := by
  unfold setQueue
  split_ifs <;> rfl

@[simp] theorem setQueue_ended (x : Tile) (q : Nat) (l : List QWord) : (setQueue x q l).ended = x.ended := by
  unfold setQueue
  split_ifs <;> rfl

theorem Passes.ended {x y : Tile} (h : Passes x y) : y.ended = x.ended := by rw [h.rest]

/-- Queue q of a tile is over: the sequencer's stops at the list's end, an engine's loses its SEGEND, and then words are passed. -/
def closeQueue (s : State) (a : TileAt) (q : Nat) (x : Tile) : State :=
  let s := if q = 3 then readersDone s (tileFrames (tileOf s a)) else s
  if q = 0 then setTile s a.part a.tile { endQueue x q with pc := (endQueue x q).pc + 1, closed := 0 :: (endQueue x q).closed }
  else seqPass (setTile s a.part a.tile (setQueue (endQueue x q) q (queueAt (endQueue x q) q).tail)) a

theorem closeQueue_leaves {n : Nat} (q : Nat) (x : Tile) (hn : tileIx s a.part a.tile = some n) :
    (tileOf (closeQueue s a q x) a).ended = q :: x.ended ∧ dataOf (tileOf (closeQueue s a q x) a) = dataOf x ∧
      (closeQueue s a q x).t2 = s.t2 := by
  unfold closeQueue
  dsimp only
  obtain ⟨f, ef⟩ : ∃ f, (if q = 3 then readersDone s (tileFrames (tileOf s a)) else s) = s.withT1 f := by
    split
    · exact readersDone_changes ..
    · exact ⟨s.t1, rfl⟩
  rw [ef]
  have hf : tileIx (s.withT1 f) a.part a.tile = some n := hn
  split
  · rw [tileOf_setTile _ hf]
    exact ⟨rfl, rfl, by rw [setTile_t2]; rfl⟩
  · obtain ⟨z, passes, halts⟩ :=
      seqPass_changes (setTile (s.withT1 f) a.part a.tile (setQueue (endQueue x q) q (queueAt (endQueue x q) q).tail)) a
    rw [tileOf_setTile _ hf] at passes
    rw [setTile_twice] at halts
    refine ⟨?_, ?_, halts.units.t2.trans (setTile_t2 ..)⟩
    · rw [tileOf, halts.tile Tile.ended fun _ => rfl, ← tileOf, tileOf_setTile _ hf, passes.ended, setQueue_ended]
      rfl
    · rw [tileOf, halts.tile dataOf dataOf_haltTile, ← tileOf, tileOf_setTile _ hf, passes.data, dataOf_setQueue]
      rfl

/-- SEGEND of the segment that the tile runs, at the head of its queue. -/
theorem exec_segend (head : atHead s a w.q.toNat (.segend w) = some h) (hc : chainOpen (tileOf s a) w.q.toNat = false)
    (here : (tileOf s a).seg.map (fun r => r.seg) = some (w.arg.toNat % 65536)) :
    exec (.segend a w) s = .next (
      if w.q.toNat = 0 then
        if (tileOf s a).pc + 1 = (tileOf s a).words.length ∧ [1, 2, 3].all (tileOf s a).closed.contains
        then closeQueue s a w.q.toNat (tileOf s a) else tileFault s a w.q.toNat h.ix 0x030B 0 0
      else if w.q.toNat = 1 then
        match (tileOf s a).held with
        | some g => tileFault s a w.q.toNat h.ix 0x0310 0
            ((treg (tileOf s a) g.dst).nextk + 65536 * (((treg (tileOf s a) g.dst).nextk + 65535) % 65536))
        | none => closeQueue s a w.q.toNat (tileOf s a)
      else if w.q.toNat = 3 then
        if (tileOf s a).rings.any (fun e => e.2.bobs.any (fun b => decide (b.st = .sending))) then s
        else match residueRing (tileOf s a) with
          | some r => tileFault s a w.q.toNat h.ix 0x0322 0 r
          | none => sweepInvals (closeQueue s a w.q.toNat (closeRings (tileOf s a))) a.part
      else closeQueue s a w.q.toNat (tileOf s a)) := by
  have row : exec (.segend a w) s = ok (syncWord s a w (.segend w) _) := rfl
  rw [row, syncWord_of_head _ head hc]
  have same : w.arg.toNat % 65536 = ((tileOf s a).seg.map (fun r => r.seg)).getD 0 := by rw [here]; rfl
  exact congrArg ok (if_neg (not_not_intro same))

theorem segend_done (head : atHead s a w.q.toNat (.segend w) = some h) (hc : chainOpen (tileOf s a) w.q.toNat = false)
    (here : (tileOf s a).seg.map (fun r => r.seg) = some (w.arg.toNat % 65536))
    (last : w.q.toNat = 0 → (tileOf s a).pc + 1 = (tileOf s a).words.length ∧ 1 ∈ (tileOf s a).closed ∧ 2 ∈ (tileOf s a).closed ∧
      3 ∈ (tileOf s a).closed)
    (window : w.q.toNat = 1 → (tileOf s a).held = none)
    (sent : w.q.toNat = 3 → (∀ e ∈ (tileOf s a).rings, ∀ b ∈ e.2.bobs, b.st ≠ .sending) ∧ residueRing (tileOf s a) = none) :
    ∃ t, exec (.segend a w) s = .next t ∧ (tileOf t a).ended = w.q.toNat :: (tileOf s a).ended ∧
      dataOf (tileOf t a) = dataOf (tileOf s a) ∧ t.t2 = s.t2 := by
  obtain ⟨n, hn⟩ := tileIx_of_lt (atHead_eq_some_iff.1 head).inPart
  refine ⟨_, exec_segend head hc here, ?_⟩
  split
  · obtain ⟨pc, c1, c2, c3⟩ := last ‹_›
    rw [if_pos ⟨pc, by simp [c1, c2, c3]⟩]
    exact closeQueue_leaves _ _ hn
  · split
    · rw [window ‹_›]
      exact closeQueue_leaves _ _ hn
    · split
      · obtain ⟨visible, residue⟩ := sent ‹_›
        rw [if_neg (by simpa using visible), residue]
        obtain ⟨fns, e⟩ := sweepInvals_changes (closeQueue s a w.q.toNat (closeRings (tileOf s a))) a.part
        exact e ▸ closeQueue_leaves w.q.toNat (closeRings (tileOf s a)) hn
      · exact closeQueue_leaves _ _ hn

end

/-- A word that its opcode, its fields or its reserved bits rule out. -/
theorem reservedWordsFault : ReservedWordsFault := by
  intro s a h raw hs head hraw
  have front := atHead_eq_some_iff.1 head
  have units := (tileFault_halts s a (queueOf raw) h.ix 0x0308 0 0).units
  refine ⟨_, ?_, faultAt_imp (front.tileFault hs (queueOf raw) h.ix 0x0308 0 0) fun _ _ => trivial, units.t2, units.others⟩
  show execReservedOpcodeWord a raw s = _
  rw [execReservedOpcodeWord, head]
  exact congrArg ok (if_pos hraw)

theorem synchronisationWords : SynchronisationWords := by
  intro s a w h hs ok x q
  refine ⟨signal_done, fun n g hg run inPart turn => ⟨signalArrival_adds ok hg run turn inPart, signalArrival_overflows hs hg run turn⟩,
    fun head hc => ⟨wait_done head hc, wait_blocks head hc⟩,
    fun k b run inPart hb hk => ⟨waitSatisfied_done run inPart hb hk, waitTimeout_faults hs run hk hb⟩,
    fun head hc => ⟨take_done head hc, take_underflows hs head hc⟩, mark_done, segend_done⟩

/-- Settles O60, word by word. -/
theorem wordsSynchronise : Obligations.WordsSynchronise := ⟨synchronisationWords, reservedWordsFault⟩

end Sys2Proof.Machine
end

section
/-! PROOFS. Matrix words (R61 to R83): slots, groups into a register, multiply words and their completion, origins and finished tiles. -/

namespace Sys2Proof.Machine

open Sys2Proof

/-! ### Rings under reads and pops -/

/-- From x to y a tile's rings alone may change. -/
abbrev RingsOnly (x y : Tile) : Prop := y = { x with rings := y.rings }

theorem RingsOnly.trans {x y z : Tile} (h : RingsOnly x y) (g : RingsOnly y z) : RingsOnly x z := by rw [g, h]

theorem RingsOnly.data {x y : Tile} (h : RingsOnly x y) : dataOf y = dataOf x := by rw [h]; rfl

theorem RingsOnly.queue {x y : Tile} (h : RingsOnly x y) (q : Nat) : queueAt y q = queueAt x q := by rw [h]; rfl

theorem useHead_rings (x : Tile) (r : Nat) : RingsOnly x (useHead x r) := by
  unfold useHead
  dsimp only
  split <;> rfl

theorem useSlot_rings (x : Tile) (m : MxSlot) : RingsOnly x (useSlot x m) := by
  unfold useSlot
  split
  · exact useHead_rings ..
  · rfl

theorem popHead_rings (x : Tile) (r : Nat) : RingsOnly x (popHead x r) := rfl

theorem popHeads_rings (l : List Nat) (x : Tile) : RingsOnly x (l.foldl popHead x) := by
  induction l generalizing x with
  | nil => rfl
  | cons r l ih => exact RingsOnly.trans (popHead_rings x r) (ih _)

/-! ### Groups into a register (R61, R66) -/

section
variable (fmode sr1 : Bool) (w : Whorl) (bad : Map Tag) (r g : Nat) (start : Bool) (sel : Nat → Bool)
  (pairs : Nat → List (Opnd × Opnd))

/-- The group sum of element n. -/
def sumAt (n : Nat) : Word32F := groupSum fmode ((pairs n).map (fun e => (e.1.v, e.2.v)))

/-- One element's step of groupInto. -/
def elemInto (x : TReg) (n : Nat) : TReg :=
  if sel n then
    let u := addGroup sr1 w bad x n g start (tregElem r x n) (tagGet x.pois n) (sumAt fmode pairs n)
      (tagAll ((pairs n).map (fun e => tagOr e.1.pois e.2.pois)))
    { x with elems := mapPut x.elems n u.v, pois := tagPut x.pois n u.pois,
             flags := x.flags ||| u.fl ||| flagIf u.pz flagPZ }
  else x

theorem groupInto_eq (x : TReg) : groupInto fmode sr1 w bad r g start sel pairs x =
    (List.range 4096).foldl (elemInto fmode sr1 w bad r g start sel pairs) x := rfl

/-- An element that is not selected, or not the step's, is kept. -/
theorem tregElem_elemInto_of_not {n k : Nat} (x : TReg) (h : k ≠ n ∨ sel k = false) :
    tregElem r (elemInto fmode sr1 w bad r g start sel pairs x n) k = tregElem r x k := by
  unfold elemInto
  split
  · rename_i hn
    have : k ≠ n := by
      rintro rfl
      simp [hn] at h
    simp only [tregElem, mapFind_mapPut, if_neg this]
  · rfl

/-- Where the group starts a run, a selected element becomes the group's sum. -/
theorem tregElem_elemInto_start {n : Nat} (x : TReg) (hn : sel n = true) :
    tregElem r (elemInto fmode sr1 w bad r g true sel pairs x n) n = (sumAt fmode pairs n).x := by
  simp only [elemInto, hn, if_true, tregElem, mapFind_mapPut, addGroup]

theorem tregElem_fold_of_not {k : Nat} (l : List Nat) (x : TReg) (h : k ∉ l ∨ sel k = false) :
    tregElem r (l.foldl (elemInto fmode sr1 w bad r g start sel pairs) x) k = tregElem r x k := by
  induction l generalizing x with
  | nil => rfl
  | cons n l ih =>
    rw [List.foldl_cons, ih]
    · exact tregElem_elemInto_of_not _ _ _ _ _ _ _ _ _ x (h.imp_left fun hk e => hk (e ▸ List.mem_cons_self ..))
    · exact h.imp_left fun hk => fun hm => hk (List.mem_cons_of_mem _ hm)

theorem tregElem_fold_start {k : Nat} (l : List Nat) (x : TReg) (hk : k ∈ l) (hs : sel k = true) :
    tregElem r (l.foldl (elemInto fmode sr1 w bad r g true sel pairs) x) k = (sumAt fmode pairs k).x := by
  induction l generalizing x with
  | nil => cases hk
  | cons n l ih =>
    rw [List.foldl_cons]
    by_cases later : k ∈ l
    · exact ih _ later
    · obtain rfl : k = n := (List.mem_cons.1 hk).resolve_right later
      rw [tregElem_fold_of_not _ _ _ _ _ _ _ _ _ _ _ (.inl later), tregElem_elemInto_start _ _ _ _ _ _ _ _ x hs]

theorem tregElem_groupInto_of_not {k : Nat} (x : TReg) (h : sel k = false) :
    tregElem r (groupInto fmode sr1 w bad r g start sel pairs x) k = tregElem r x k :=
  tregElem_fold_of_not _ _ _ _ _ _ _ _ _ _ x (.inr h)

theorem tregElem_groupInto_start {k : Nat} (x : TReg) (hk : k < 4096) (h : sel k = true) :
    tregElem r (groupInto fmode sr1 w bad r g true sel pairs x) k = (sumAt fmode pairs k).x :=
  tregElem_fold_start _ _ _ _ _ _ _ _ _ x (List.mem_range.2 hk) h

end

/-! ### The register of a multiply word -/

section
variable (sh : NShape) (wh : Whorl) (t : Tile) (fmode : Bool) (w : MxMulW) (ba bb : Nat)

/-- The register that the groups of an MXMUL go into, its flags cleared where it starts a run. -/
def mulBase : TReg := if w.acc then treg t w.dst.toNat else { treg t w.dst.toNat with flags := 0 }

/-- Group g of an MXMUL into a register. -/
def mulGroup (x : TReg) (g : Nat) : TReg :=
  groupInto fmode sh.sr1 wh t.whorlBad w.dst.toNat (w.kidx.toNat + g) (decide (g = 0) && !w.acc)
    (fun e => selected t w.pm.toNat w.pred.toNat e)
    (fun e => pairsAt (slotBlock t t.slotA false ba g) (slotBlock t t.slotB false bb g) (e / 64) (e % 64)) x

theorem mulReg_eq : mulReg sh wh t fmode w ba bb =
    { (List.range (if w.hold then w.nk.toNat - 1 else w.nk.toNat)).foldl (mulGroup sh wh t fmode w ba bb) (mulBase t w) with
      run := true, nextk := (w.kidx.toNat + w.nk.toNat) % 65536, held := w.hold, holdn := 0, dmask := [] } := rfl

theorem tregElem_mulBase (n : Nat) : tregElem w.dst.toNat (mulBase t w) n = tregElem w.dst.toNat (treg t w.dst.toNat) n := by
  unfold mulBase
  split <;> rfl

/-- The marks of a register's run and window are none of its elements. -/
theorem tregElem_withRun (r : Nat) (x : TReg) (run held : Bool) (nextk holdn : Nat) (dmask : NSet) (n : Nat) :
    tregElem r { x with run := run, nextk := nextk, held := held, holdn := holdn, dmask := dmask } n = tregElem r x n := rfl

/-- Elements outside the selection are kept. -/
theorem tregElem_mulReg_of_not {n : Nat} (h : selected t w.pm.toNat w.pred.toNat n = false) :
    tregElem w.dst.toNat (mulReg sh wh t fmode w ba bb) n = tregElem w.dst.toNat (treg t w.dst.toNat) n := by
  have groups (l : List Nat) (x : TReg) :
      tregElem w.dst.toNat (l.foldl (mulGroup sh wh t fmode w ba bb) x) n = tregElem w.dst.toNat x n := by
    induction l generalizing x with
    | nil => rfl
    | cons g l ih => rw [List.foldl_cons, ih, mulGroup, tregElem_groupInto_of_not _ _ _ _ _ _ _ _ _ _ h]
  rw [mulReg_eq, ← tregElem_mulBase]
  exact groups _ _

/-- A word of one group that starts a run: each selected element is the sum of that group. -/
theorem tregElem_mulReg_start {n : Nat} (acc : w.acc = false) (hold : w.hold = false) (one : w.nk = 1) (hn : n < 4096)
    (h : selected t w.pm.toNat w.pred.toNat n = true) :
    tregElem w.dst.toNat (mulReg sh wh t fmode w ba bb) n = (sumAt fmode
      (fun e => pairsAt (slotBlock t t.slotA false ba 0) (slotBlock t t.slotB false bb 0) (e / 64) (e % 64)) n).x := by
  have groups : List.range (if w.hold then w.nk.toNat - 1 else w.nk.toNat) = [0] := by rw [hold, one]; rfl
  have group : tregElem w.dst.toNat (mulGroup sh wh t fmode w ba bb (mulBase t w) 0) n = (sumAt fmode
      (fun e => pairsAt (slotBlock t t.slotA false ba 0) (slotBlock t t.slotB false bb 0) (e / 64) (e % 64)) n).x := by
    have start : (decide (0 = 0) && !w.acc) = true := by rw [acc]; rfl
    rw [mulGroup, start, tregElem_groupInto_start _ _ _ _ _ _ _ _ _ hn h]
  rw [mulReg_eq, groups, List.foldl_cons, List.foldl_nil, tregElem_withRun, group]

end

/-- A slot that has met a parity error reads the same values. -/
theorem pairsAt_taint (x : Tile) (p : Tag) (a : MxSlot) (b : List Opnd) (base g i j : Nat) :
    (pairsAt (slotBlock x (taintSlot p a) false base g) b i j).map (fun e => (e.1.v, e.2.v)) =
      (pairsAt (slotBlock x a false base g) b i j).map (fun e => (e.1.v, e.2.v)) := by
  have value (n : Nat) (d : Opnd) : ((slotBlock x (taintSlot p a) false base g).getD n d).v =
      ((slotBlock x a false base g).getD n d).v := by
    simp only [slotBlock, List.getD_eq_getElem?_getD, List.getElem?_map]
    cases (List.range 4096)[n]? <;> rfl
  simp only [pairsAt, List.map_map, Function.comp_def, value]

theorem slotBlock_withSlotA (x : Tile) (m : MxSlot) : slotBlock { x with slotA := m } = slotBlock x := rfl

theorem sumAt_taint (x : Tile) (p : Tag) (fmode : Bool) (ba bb n : Nat) :
    sumAt fmode (fun e => pairsAt (slotBlock { x with slotA := taintSlot p x.slotA } (taintSlot p x.slotA) false ba 0)
      (slotBlock { x with slotA := taintSlot p x.slotA } x.slotB false bb 0) (e / 64) (e % 64)) n =
    groupSum fmode ((pairsAt (slotBlock x x.slotA false ba 0) (slotBlock x x.slotB false bb 0) (n / 64) (n % 64)).map
      (fun e => (e.1.v, e.2.v))) := by
  rw [sumAt, slotBlock_withSlotA, pairsAt_taint]

/-! ### Words that end at once -/

section
variable {s : State} {a : TileAt} {h : QWord}

theorem mxWord_of_head {c : TWord} (head : atHead s a 1 c = some h) (f : QWord → State) : mxWord s a c f = f h := by
  rw [mxWord, head]

/-- A matrix word that replaces its tile's state by y and is done. -/
theorem mxWord_done {c : TWord} {f : QWord → State} {y : Tile} (head : atHead s a 1 c = some h)
    (hf : f h = finishWord s a 1 y) (hq : queueAt y 1 = queueAt (tileOf s a) 1) :
    WordDone s a 1 (ok (mxWord s a c f)) y := by
  obtain ⟨n, hn⟩ := tileIx_of_lt (atHead_eq_some_iff.1 head).inPart
  rw [mxWord_of_head head, hf]
  exact finishWord_done hn fun _ => hq

/-- A matrix word that raises CANON_ORDER. -/
theorem mxWord_canon {c : TWord} {f : QWord → State} {r hi : Nat} (hs : Inv s) (head : atHead s a 1 c = some h)
    (hf : f h = canonFault s a h.ix r hi) :
    ∃ t, ok (mxWord s a c f) = .next t ∧ FaultAt s t a 1 h.ix 0x0310 (fun _ => True) := by
  refine ⟨_, by rw [mxWord_of_head head, hf]; rfl, ?_⟩
  exact faultAt_imp ((atHead_eq_some_iff.1 head).tileFault hs ..) fun _ _ => trivial

/-- A tile whose multiply word has started: the waits of its queue are over, and the word's result is pending. -/
def startMul (x : Tile) (p : MxPend) : Tile :=
  { x with blocked := x.blocked.filter (fun b => b.q ≠ 1), mxPend := some p }

/-- A multiply word that starts reads its rings and leaves its result pending; nothing else changes. -/
theorem startMul_leaves {n : Nat} {y : Tile} (p : MxPend) (hn : tileIx s a.part a.tile = some n) (rings : RingsOnly (tileOf s a) y) :
    let t := setTile s a.part a.tile (startMul y p)
    (tileOf t a).mxPend = some p ∧ dataOf (tileOf t a) = dataOf (tileOf s a) ∧ t.withTiles s.tiles = s := by
  intro t
  rw [tileOf_setTile _ hn]
  exact ⟨rfl, rings.data, setTile_withTiles ..⟩

/-! ### MXMUL (R61, R66, R79) -/

section
variable {w : MxMulW} {ba bb : Nat}

/-- The group index of the held window, the last of an MXMUL that holds. -/
def mulHeld (x : Tile) (w : MxMulW) (p : Tag) (ba bb : Nat) : Option Held :=
  if w.hold then some ⟨w.dst.toNat, w.kidx.toNat + (w.nk.toNat - 1), decide (w.nk.toNat - 1 = 0) && !w.acc,
    slotBlock x (taintSlot p x.slotA) false ba (w.nk.toNat - 1),
    [⟨slotBlock x x.slotB false bb (w.nk.toNat - 1), (List.range 4096).filterMap (fun e =>
      if selected x w.pm.toNat w.pred.toNat e then some (e, true) else none)⟩]⟩
  else none

/-- Does either slot hold F32? -/
def fmodeOf (x : Tile) : Bool := decide (x.slotA.w.fmt = 0) || decide (x.slotB.w.fmt = 0)

/-- What an MXMUL leaves to be done at its completion. -/
def mulPend (s : State) (a : TileAt) (w : MxMulW) (p : Tag) (ba bb : Nat) : MxPend :=
  let x := tileOf s a
  let y := useSlot (useSlot x x.slotA) x.slotB
  { dst := w.dst.toNat
    reg := mulReg (shapeOf s a.part) (whorlOf s a.part) { x with slotA := taintSlot p x.slotA } (fmodeOf x) w ba bb
    sel := if w.hold && decide (w.nk.toNat - 1 = 0) then some [] else selectedSet y w.pm.toNat w.pred.toNat
    pops := slotPops y.slotA ++ slotPops y.slotB
    held := mulHeld x w p ba bb
    slots := [advSlot y.slotA w.nk.toNat, advSlot y.slotB w.nk.toNat, y.slotD]
    kgroups := w.nk.toNat }

/-- An MXMUL that passes every check starts. -/
theorem exec_mxmul_starts (head : atHead s a 1 (.mxmul w) = some h) (free : (tileOf s a).held = none)
    (run : runOk (shapeOf s a.part).run (treg (tileOf s a) w.dst.toNat) w = true)
    (formats : w.hold = true → (tileOf s a).slotA.w.fmt ≠ 0 ∧ (tileOf s a).slotB.w.fmt ≠ 0)
    (useA : slotUse s a (tileOf s a).slotA false w.nk.toNat = .ok ba)
    (useB : slotUse s a (tileOf s a).slotB false w.nk.toNat = .ok bb) (clear : braked s.power = false) :
    exec (.mxmul a w) s = .next (setTile s a.part a.tile
      (startMul (useSlot (useSlot (tileOf s a) (tileOf s a).slotA) (tileOf s a).slotB) (mulPend s a w h.bad ba bb))) := by
  have mode : (fmodeOf (tileOf s a) && w.hold) = false := by
    cases hold : w.hold with
    | false => exact Bool.and_false _
    | true => simpa [fmodeOf] using formats hold
  show execMxmul a w s = _
  rw [execMxmul, mxWord_of_head head]
  rw [tileOf] at *
  simp only [free, run, useA, useB, clear, Bool.not_true, Bool.false_eq_true, if_false, ok]
  exact congrArg Host.Outcome.next (if_neg (by rw [Bool.not_eq_true]; exact mode))

theorem mulHeld_isSome (x : Tile) (p : Tag) : (mulHeld x w p ba bb).isSome = true ↔ w.hold = true := by
  unfold mulHeld
  split <;> simp_all

theorem mxmul_starts (head : atHead s a 1 (.mxmul w) = some h) (free : (tileOf s a).held = none)
    (run : runOk (shapeOf s a.part).run (treg (tileOf s a) w.dst.toNat) w = true)
    (formats : w.hold = true → (tileOf s a).slotA.w.fmt ≠ 0 ∧ (tileOf s a).slotB.w.fmt ≠ 0)
    (useA : slotUse s a (tileOf s a).slotA false w.nk.toNat = .ok ba)
    (useB : slotUse s a (tileOf s a).slotB false w.nk.toNat = .ok bb) (clear : braked s.power = false) :
    ∃ t, exec (.mxmul a w) s = .next t ∧ (tileOf t a).mxPend = some (mulPend s a w h.bad ba bb) ∧
      dataOf (tileOf t a) = dataOf (tileOf s a) ∧ t.withTiles s.tiles = s := by
  obtain ⟨n, hn⟩ := tileIx_of_lt (atHead_eq_some_iff.1 head).inPart
  exact ⟨_, exec_mxmul_starts head free run formats useA useB clear,
    startMul_leaves _ hn (RingsOnly.trans (useSlot_rings _ _) (useSlot_rings _ _))⟩

/-- An MXMUL while a window is held, or off its run's boundaries, raises CANON_ORDER. -/
theorem mxmul_canon (hs : Inv s) (head : atHead s a 1 (.mxmul w) = some h)
    (bad : (tileOf s a).held.isSome = true ∨ runOk (shapeOf s a.part).run (treg (tileOf s a) w.dst.toNat) w = false) :
    ∃ t, exec (.mxmul a w) s = .next t ∧ FaultAt s t a 1 h.ix 0x0310 (fun _ => True) := by
  rw [tileOf] at bad
  cases hg : (tileAt s a.part a.tile).held with
  | some g => exact mxWord_canon (r := g.dst) (hi := w.kidx.toNat) hs head (by simp only [hg])
  | none =>
    have run : runOk (shapeOf s a.part).run (treg (tileAt s a.part a.tile) w.dst.toNat) w = false :=
      bad.resolve_left (by simp [hg])
    exact mxWord_canon (r := w.dst.toNat) (hi := w.kidx.toNat) hs head (by simp only [hg, run]; rfl)

end

/-! ### MXDELTA (R67 to R71, R80) -/

section
variable {w : MxDeltaW} {g : Held} {bd : Nat}

/-- The rows of an MXDELTA's mask. -/
def deltaRows (x : Tile) (w : MxDeltaW) : List Nat := (List.range 64).filter (fun i => predAt x w.pred.toNat i 0)

/-- The pass of an MXDELTA: slot D's block and the elements of its rows. -/
def deltaPass (x : Tile) (w : MxDeltaW) (p : Tag) (bd : Nat) : HoldPass where
  b := slotBlock x (taintSlot p x.slotD) true bd 0
  sel := ((List.range 4096).filter (fun e => (deltaRows x w).contains (e / 64))).map (fun e => (e, true))

/-- The held window with the pass of an MXDELTA. -/
def deltaHeld (x : Tile) (w : MxDeltaW) (p : Tag) (g : Held) (bd : Nat) : Held :=
  { g with passes := g.passes ++ [deltaPass x w p bd] }

/-- The held register with the pass counted and its rows marked. -/
def deltaReg (x : Tile) (w : MxDeltaW) (g : Held) : TReg := { treg x g.dst with
  holdn := (treg x g.dst).holdn + 1
  dmask := (deltaRows x w).foldl (fun m i => setPut m i true) (treg x g.dst).dmask }

/-- What an MXDELTA leaves to be done at its completion. -/
def deltaPend (s : State) (a : TileAt) (w : MxDeltaW) (p : Tag) (g : Held) (bd : Nat) : MxPend :=
  let x := tileOf s a
  let y := useSlot x x.slotD
  { dst := w.dst.toNat
    reg := if w.hold then deltaReg x w g
      else { closeHeld (shapeOf s a.part) (whorlOf s a.part) x.whorlBad (deltaHeld x w p g bd) (deltaReg x w g) with
        held := false, holdn := 0, dmask := [] }
    sel := some (if w.hold then [] else (deltaHeld x w p g bd).selected)
    pops := slotPops y.slotD
    held := if w.hold then some (deltaHeld x w p g bd) else none
    slots := [y.slotA, y.slotB, { y.slotD with w := { y.slotD.w with pop := false } }]
    kgroups := 0 }

theorem mem_deltaRows (x : Tile) (i : Nat) : i ∈ deltaRows x w ↔ i < 64 ∧ predAt x w.pred.toNat i 0 = true := by
  simp [deltaRows]

/-- MXDELTA of the held register and group, with passes left: what it does depends on its row mask and on slot D. -/
theorem exec_mxdelta (head : atHead s a 1 (.mxdelta w) = some h) (hg : (tileOf s a).held = some g) (dst : g.dst = w.dst.toNat)
    (kidx : g.kidx = w.kidx.toNat) (left : (treg (tileOf s a) g.dst).holdn ≠ 15) :
    exec (.mxdelta a w) s = .next (match (deltaRows (tileOf s a) w).find? (fun i => setHas (treg (tileOf s a) g.dst).dmask i) with
      | some i => tileFault s a 1 h.ix 0x0311 0 i
      | none => match slotUse s a (tileOf s a).slotD true 1 with
        | .ok bd => if braked s.power then s
          else setTile s a.part a.tile (startMul (useSlot (tileOf s a) (tileOf s a).slotD) (deltaPend s a w h.bad g bd))
        | u => slotFault s a h.ix 2 (tileOf s a).slotD u) := by
  show execMxdelta a w s = _
  rw [execMxdelta, mxWord_of_head head]
  rw [tileOf] at *
  have own : ¬(g.dst ≠ w.dst.toNat ∨ g.kidx ≠ w.kidx.toNat ∨ (treg (tileAt s a.part a.tile) g.dst).holdn = 15) := by
    rintro (e | e | e)
    · exact e dst
    · exact e kidx
    · exact left e
  simp only [hg, if_neg own, ok]
  rfl

theorem mxdelta_starts (head : atHead s a 1 (.mxdelta w) = some h) (hg : (tileOf s a).held = some g) (dst : g.dst = w.dst.toNat)
    (kidx : g.kidx = w.kidx.toNat) (left : (treg (tileOf s a) g.dst).holdn ≠ 15)
    (apart : ∀ i, i < 64 → predAt (tileOf s a) w.pred.toNat i 0 = true → setHas (treg (tileOf s a) g.dst).dmask i = false)
    (use_ : slotUse s a (tileOf s a).slotD true 1 = .ok bd) (clear : braked s.power = false) :
    ∃ t, exec (.mxdelta a w) s = .next t ∧ (tileOf t a).mxPend = some (deltaPend s a w h.bad g bd) ∧
      dataOf (tileOf t a) = dataOf (tileOf s a) ∧ t.withTiles s.tiles = s := by
  obtain ⟨n, hn⟩ := tileIx_of_lt (atHead_eq_some_iff.1 head).inPart
  have none_ : (deltaRows (tileOf s a) w).find? (fun i => setHas (treg (tileOf s a) g.dst).dmask i) = none := by
    rw [List.find?_eq_none]
    intro i hi
    obtain ⟨hi, hp⟩ := (mem_deltaRows _ _).1 hi
    simp [apart i hi hp]
  have hexec := exec_mxdelta head hg dst kidx left
  simp only [none_, use_, clear, Bool.false_eq_true, if_false] at hexec
  exact ⟨_, hexec, startMul_leaves _ hn (useSlot_rings _ _)⟩

theorem mxdelta_overlaps (hs : Inv s) (head : atHead s a 1 (.mxdelta w) = some h) (hg : (tileOf s a).held = some g)
    (dst : g.dst = w.dst.toNat) (kidx : g.kidx = w.kidx.toNat) (left : (treg (tileOf s a) g.dst).holdn ≠ 15) {i : Nat} (hi : i < 64)
    (row : predAt (tileOf s a) w.pred.toNat i 0 = true) (met : setHas (treg (tileOf s a) g.dst).dmask i = true) :
    ∃ t, exec (.mxdelta a w) s = .next t ∧ FaultAt s t a 1 h.ix 0x0311 (fun _ => True) := by
  obtain ⟨j, hj⟩ : ∃ j, (deltaRows (tileOf s a) w).find? (fun i => setHas (treg (tileOf s a) g.dst).dmask i) = some j := by
    rw [← Option.isSome_iff_exists, List.find?_isSome]
    exact ⟨i, (mem_deltaRows _ _).2 ⟨hi, row⟩, met⟩
  refine ⟨_, by rw [exec_mxdelta head hg dst kidx left, hj], ?_⟩
  exact faultAt_imp ((atHead_eq_some_iff.1 head).tileFault hs ..) fun _ _ => trivial

end

/-! ### MULTIPLY_WORD_COMPLETE (R18, R66, R70, R82) -/

/-- Elements that no entry of the selection names are kept. -/
theorem tregElem_takeElems_of_not (r : Nat) (sel : NSet) (x y : TReg) {n : Nat} (h : ∀ e ∈ sel, e.1 ≠ n) :
    tregElem r (takeElems r sel x y) n = tregElem r x n := by
  unfold takeElems
  induction sel generalizing x with
  | nil => rfl
  | cons e l ih =>
    rw [List.foldl_cons, ih _ fun e he => h e (List.mem_cons_of_mem _ he)]
    simp only [tregElem, mapFind_mapPut, if_neg (h e (List.mem_cons_self ..)).symm]

theorem takeElems_gen (r : Nat) (sel : NSet) (x y : TReg) : (takeElems r sel x y).gen = x.gen := by
  unfold takeElems
  induction sel generalizing x with
  | nil => rfl
  | cons e l ih => rw [List.foldl_cons, ih]

theorem tregElem_writeBack_of_not {x : TReg} {p : MxPend} {sel : NSet} {n : Nat} (hp : p.sel = some sel) (h : ∀ e ∈ sel, e.1 ≠ n) :
    tregElem p.dst (writeBack x p) n = tregElem p.dst x n := by
  rw [← tregElem_takeElems_of_not p.dst sel x p.reg h, tregElem, tregElem, takeElems_gen]
  simp only [writeBack, hp]

/-- A tile whose pending multiply word has taken effect, but for the pops that it owes. -/
def mulDone (x : Tile) (p : MxPend) : Tile :=
  setTreg { x with
    mxPend := none, held := p.held, slotA := p.slots.getD 0 x.slotA, slotB := p.slots.getD 1 x.slotB,
    slotD := p.slots.getD 2 x.slotD } p.dst (writeBack (treg x p.dst) p)

theorem multiplyWordComplete_done {p : MxPend} (hp : (tileOf s a).mxPend = some p) (run : issues s a.part = true)
    (inPart : a.tile.val < nTiles s a.part) : WordDone s a 1 (exec (.multiplyWordComplete a) s)
      { setTreg (tileOf s a) p.dst (writeBack (treg (tileOf s a) p.dst) p) with
        held := p.held, slotA := p.slots.getD 0 (tileOf s a).slotA, slotB := p.slots.getD 1 (tileOf s a).slotB,
        slotD := p.slots.getD 2 (tileOf s a).slotD } := by
  obtain ⟨n, hn⟩ := tileIx_of_lt inPart
  have rings := popHeads_rings p.pops (mulDone (tileOf s a) p)
  have hexec : exec (.multiplyWordComplete a) s = .next (finishWord (addCtr s (ctrKey a.part 1 a.tile cKgroups) p.kgroups) a 1
      (p.pops.foldl popHead (mulDone (tileOf s a) p))) := by
    rw [tileOf] at *
    show execMultiplyWordComplete a s = _
    simp only [execMultiplyWordComplete, hp, run, Bool.not_true, Bool.false_eq_true, if_false, ok]
    rfl
  rw [hexec]
  have done := finishWord_done_after hn (fun _ => rings.queue 1) (addCtr_units a.part s (ctrKey a.part 1 a.tile cKgroups) p.kgroups) rfl
  exact wordDone_of_before done (.refl ..) (fun _ => rfl) rfl rings.data

end

/-! ### MXFIN (R68, R73, R81) -/

section
variable {s : State} {a : TileAt} {h : QWord} {w : MxFinW}

/-- A tile whose register stands at the end of the finished-tile queue. -/
def withFinished (x : Tile) (w : MxFinW) (bad : Tag) : Tile := { x with
  ftq := x.ftq ++ [taintFtq bad {
    elems := (List.range 4096).map (tregElem w.dst.toNat (treg x w.dst.toNat))
    pois := (treg x w.dst.toNat).pois, flags := (treg x w.dst.toNat).flags
    rowb := (treg x w.dst.toNat).rowb, colb := (treg x w.dst.toNat).colb
    stream := (treg x w.dst.toNat).stream, obad := (treg x w.dst.toNat).obad
    reg := w.dst.toNat, tag := w.tag.toNat }] }

/-- What MXFIN does while a window is held, and where none is. -/
def finish (s : State) (a : TileAt) (w : MxFinW) (h : QWord) : State :=
  match (tileOf s a).held with
  | some g => heldFault s a h.ix g.dst
  | none => if ftqCap ≤ (tileOf s a).ftq.length then s else finishWord s a 1 (withFinished (tileOf s a) w h.bad)

theorem exec_mxfin (a : TileAt) (w : MxFinW) (s : State) : exec (.mxfin a w) s = ok (mxWord s a (.mxfin w) (finish s a w)) := rfl

theorem finish_free (free : (tileOf s a).held = none) (room : (tileOf s a).ftq.length < 4) :
    finish s a w h = finishWord s a 1 (withFinished (tileOf s a) w h.bad) := by
  rw [finish, free]
  exact if_neg (Nat.not_le.2 room)

theorem finish_held {g : Held} (held : (tileOf s a).held = some g) : finish s a w h = heldFault s a h.ix g.dst := by
  rw [finish, held]

end

/-- Settles O19, word by word. -/
theorem matrixWords : Obligations.MatrixWords := by
  intro s a h hs ok x
  refine ⟨fun w head => mxWord_done head rfl rfl, fun w head => mxWord_done head rfl rfl, fun w head => mxWord_done head rfl rfl,
    fun w head => ⟨fun e => ?scaleA, fun e => ?scaleB, fun e => ?scaleD⟩, fun w head => ⟨fun free => ?origin, fun held => ?heldOrigin⟩,
    fun w ba bb head free run formats useA useB clear => ?mul, fun w head bad => mxmul_canon hs head bad,
    fun w g bd head hg dst kidx left => ⟨fun apart use_ clear => ?delta, fun i hi row met => mxdelta_overlaps hs head hg dst kidx left hi row met⟩,
    fun p hp run inPart => ⟨multiplyWordComplete_done hp run inPart, fun all => ?wholeReg, fun sel n hsel out => tregElem_writeBack_of_not hsel out⟩,
    fun w head => ⟨fun free room => ?finish, fun held => ?heldFinish⟩⟩
  case scaleA => exact mxWord_done head (by simp only [e, if_true]; rfl) rfl
  case scaleB => exact mxWord_done head (by simp only [e]; rfl) rfl
  case scaleD => exact mxWord_done head (by simp only [e]; rfl) rfl
  case origin => exact mxWord_done head (if_neg free) rfl
  case heldOrigin => exact mxWord_canon hs head (if_pos held)
  case mul =>
    obtain ⟨t, ht, pend, data, rest⟩ := mxmul_starts head free run formats useA useB clear
    refine ⟨t, _, ht, pend, data, rest, rfl, rfl, rfl, rfl, rfl, mulHeld_isSome _ _, fun n hn out => ?out, fun acc hold one n hn sel => ?start⟩
    case out => exact tregElem_mulReg_of_not _ _ _ _ _ _ _ out
    case start =>
      exact (tregElem_mulReg_start (shapeOf s a.part) (whorlOf s a.part) { x with slotA := taintSlot h.bad x.slotA } (fmodeOf x) w ba bb
        acc hold one hn sel).trans (congrArg Word32F.x (sumAt_taint x h.bad (fmodeOf x) ba bb n))
  case delta =>
    obtain ⟨t, ht, pend, data, rest⟩ := mxdelta_starts head hg dst kidx left apart use_ clear
    refine ⟨t, _, ht, pend, data, rest, rfl, rfl, fun hold => ?_, fun hold => ?_⟩
    · simp only [deltaPend, hold, if_true]
      refine ⟨rfl, deltaHeld x w h.bad g bd, deltaPass x w h.bad bd, rfl, rfl, ?_⟩
      rw [deltaPass]
    · simp [deltaPend, hold]
  case wholeReg => simp only [writeBack, all]
  case finish => rw [exec_mxfin]; exact mxWord_done head (finish_free free room) rfl
  case heldFinish =>
    obtain ⟨g, hg⟩ := Option.isSome_iff_exists.1 held
    rw [exec_mxfin]
    exact mxWord_canon hs head (finish_held hg)

end Sys2Proof.Machine
end

section
/-! PROOFS. Chains of the element-wise engine (R117 to R140): their words, their start, their completion, and EWFLAG. -/

namespace Sys2Proof.Machine

open Sys2Proof

/-! ### Chain words (R118, R125, R146) -/

section
variable {s : State} {a : TileAt} {h : QWord} {c : ChainAsm}

theorem seqRests_withChain {x : Tile} {q : Nat} (o : Option ChainAsm) (rest : seqRests x q) : seqRests { x with chain := o } q := by
  obtain ⟨w, hw, hq⟩ := rest
  refine ⟨w, ?_, hq⟩
  rw [← hw]
  unfold popWord setQueue
  dsimp only
  split_ifs <;> rfl

/-- A word of a chain that is in its order: the chain stands with it, and the word has left the queue. -/
theorem chain_takes (d : ChainAsm) (head : ∃ w, atHead s a 2 w = some h) (rest : seqRests (tileOf s a) 2) :
    let t := finishWord s a 2 { tileOf s a with chain := some d }
    (tileOf t a).chain = some d ∧ (tileOf t a).q2 = (tileOf s a).q2.tail ∧ dataOf (tileOf t a) = dataOf (tileOf s a) ∧
      t.withTiles s.tiles = s := by
  obtain ⟨w, hw⟩ := head
  obtain ⟨n, hn⟩ := tileIx_of_lt (atHead_eq_some_iff.1 hw).inPart
  intro t
  have ht : t = setTile s a.part a.tile (popWord { tileOf s a with chain := some d } 2) :=
    finishWord_of_rest hn (seqRests_withChain _ rest)
  rw [ht, tileOf_setTile _ hn, dataOf_popWord]
  exact ⟨rfl, rfl, rfl, setTile_withTiles ..⟩

/-- A word that is out of order breaks its chain. -/
theorem chain_breaks {w : TWord} (hs : Inv s) (head : atHead s a 2 w = some h) (n : Nat) :
    FaultAt s (chainFault s a h.ix n 1) a 2 h.ix 0x031A (fun r => r.detail = n + 256) :=
  faultAt_imp ((atHead_eq_some_iff.1 head).tileFault hs ..) fun _ => And.right

/-- The chain with one word more. -/
def ChainAsm.next (c d : ChainAsm) (h : QWord) : ChainAsm :=
  { d with n := c.n + 1, ixs := c.ixs ++ [h.ix], bad := tagOr c.bad h.bad }

theorem ewPart_takes {w : TWord} {f : QWord → ChainAsm → Option ChainAsm} {d : ChainAsm} (head : atHead s a 2 w = some h)
    (hc : (tileOf s a).chain = some c) (hf : f h c = some d) :
    ewPart s a w f = finishWord s a 2 { tileOf s a with chain := some (c.next d h) } := by
  rw [tileOf] at hc
  simp only [ewPart, head, hc, hf]
  rfl

theorem ewPart_breaks {w : TWord} {f : QWord → ChainAsm → Option ChainAsm} (head : atHead s a 2 w = some h)
    (hc : (tileOf s a).chain = some c) (hf : f h c = none) : ewPart s a w f = chainFault s a h.ix c.n 1 := by
  rw [tileOf] at hc
  simp only [ewPart, head, hc, hf]

theorem orgDone_iff (c : ChainAsm) : orgDone c = true ↔ c.head.org = false ∨ c.org.isSome = true := by
  simp [orgDone]

end

theorem chainWordsAssemble : ChainWordsAssemble := by
  intro s a h hs x takes breaks
  have fits {i : Instr} {w : TWord} {f : QWord → ChainAsm → Option ChainAsm} {c d : ChainAsm} (hi : exec i s = ok (ewPart s a w f))
      (head : atHead s a 2 w = some h) (hc : x.chain = some c) (hf : f h c = some d) (rest : seqRests x 2) :
      ∃ t, exec i s = .next t ∧ takes t (c.next d h) :=
    ⟨_, by rw [hi, ewPart_takes head hc hf]; rfl, chain_takes _ ⟨w, head⟩ rest⟩
  have fails {i : Instr} {w : TWord} {f : QWord → ChainAsm → Option ChainAsm} {c : ChainAsm} (hi : exec i s = ok (ewPart s a w f))
      (head : atHead s a 2 w = some h) (hc : x.chain = some c) (hf : f h c = none) : ∃ t, exec i s = .next t ∧ breaks t c.n :=
    ⟨_, by rw [hi, ewPart_breaks head hc hf]; rfl, chain_breaks hs head _⟩
  refine ⟨fun w head hc few dsts rest => ?open_, fun w c head hc => ?second, fun w c head hc org none_ rest => ?org,
    fun w c head hc bad => ?orgBad, fun w c head hc done few rest => ?src, fun w c head hc many => ?srcBad,
    fun w c head hc done all few rest => ?op, fun w c head hc few => ?opBad, fun w c head hc all few rest => ?dst,
    fun w c head hc few => ?dstBad⟩
  case open_ =>
    refine ⟨_, ?_, chain_takes _ ⟨_, head⟩ rest⟩
    show execEwhead a w s = _
    have good : ¬(4 < w.nsrc.toNat ∨ w.ndst = 0 ∨ w.ndst = 3) := by
      rintro (e | e | e)
      · omega
      · rw [e] at dsts; exact absurd dsts (by decide)
      · rw [e] at dsts; exact absurd dsts (by decide)
    simp only [x, tileOf] at hc
    simp only [execEwhead, head, hc, if_neg good, ok]
    rfl
  case second =>
    refine ⟨chainFault s a h.ix c.n 1, ?_, chain_breaks hs head _⟩
    show execEwhead a w s = _
    simp only [x, tileOf] at hc
    simp only [execEwhead, head, hc, ok]
  case org => 
    have good : (c.head.org && c.org.isNone) = true := by simp [org, none_]
    exact fits (d := { c with org := some (w, val0 h) }) rfl head hc (by exact if_pos good) rest
  case orgBad =>
    refine fails rfl head hc (if_neg ?_)
    obtain e | e := bad
    · simp [e]
    · simp [Option.isSome_iff_ne_none.1 e]
  case src => 
    have good : (orgDone c && decide (c.srcs.length < c.head.nsrc.toNat)) = true := by simp [(orgDone_iff c).2 done, few]
    exact fits (d := { c with srcs := c.srcs ++ [(w, (val0 h).toNat % 16)] }) rfl head hc (by exact if_pos good) rest
  case srcBad => exact fails rfl head hc (if_neg (by simp [Nat.not_lt.2 many]))
  case op => 
    have good : (orgDone c && decide (c.srcs.length = c.head.nsrc.toNat) && decide (c.ops.length < c.head.nst.toNat + 1)) = true := by
      simp [(orgDone_iff c).2 done, all, Nat.lt_succ_of_le few]
    exact fits (d := { c with ops := c.ops ++ [(w, (val0 h).setWidth 32)] }) rfl head hc (by exact if_pos good) rest
  case opBad => exact fails rfl head hc (if_neg (by simp [few.ne]))
  case dst => 
    have good : (decide (c.ops.length = c.head.nst.toNat + 1) && decide (c.dsts.length < c.head.ndst.toNat)) = true := by
      simp [all, few]
    exact fits (d := { c with dsts := c.dsts ++ [(w, (val0 h).toNat % 16)] }) rfl head hc (by exact if_pos good) rest
  case dstBad => exact fails rfl head hc (if_neg (by simp [(Nat.lt_succ_of_le few).ne]))

/-! ### The start of a chain (R118, R122, R133) -/

section
variable {s : State} {a : TileAt} {c : ChainAsm}

/-- The T0 bases of a chain's sources and destinations. -/
def srcBases (s : State) (a : TileAt) (c : ChainAsm) : List Nat := c.srcs.zipIdx.map fun e => (srcBase s a c e.2 e.1).2
def dstBases (s : State) (a : TileAt) (c : ChainAsm) : List Nat := c.dsts.zipIdx.map fun e => (dstBase s a c e.2 e.1).2

/-- The tile with a chain's bobbins in use. -/
def useRings (x : Tile) (c : ChainAsm) : Tile :=
  (c.srcs.filter fun e => decide (e.1.kind = 3)).foldl (fun t e => useHead t e.1.idx.toNat) x

theorem useRings_rings (x : Tile) (c : ChainAsm) : RingsOnly x (useRings x c) := by
  unfold useRings
  generalize c.srcs.filter _ = l
  induction l generalizing x with
  | nil => rfl
  | cons e l ih => exact RingsOnly.trans (useHead_rings ..) (ih _)

/-- A tile whose chain has started. -/
def started (y : Tile) (p : ChainPend) : Tile :=
  { y with chain := none, chPend := some p, blocked := y.blocked.filter fun b => b.q ≠ 2 }

theorem exec_chainStart (ready : ewReady s a = true) (hc : (tileOf s a).chain = some c) (full : chainFull c = true)
    (form : formFaults (((progOf (partAt s a.part)).map (fun p => p.tables)).getD []) c = [])
    (srcs : ∀ e ∈ c.srcs.zipIdx, (srcBase s a c e.2 e.1).1 = []) (dsts : ∀ e ∈ c.dsts.zipIdx, (dstBase s a c e.2 e.1).1 = []) :
    exec (.chainStart a) s = .next (setTile s a.part a.tile
      (started (useRings (tileOf s a) c) (chainPend s a c (srcBases s a c) (dstBases s a c)))) := by
  have clear : (((c.srcs.zipIdx.map fun e => srcBase s a c e.2 e.1) ++
      (c.dsts.zipIdx.map fun e => dstBase s a c e.2 e.1)).map fun x => x.1).flatten = [] := by
    simp only [List.map_append, List.map_map, List.flatten_append, List.append_eq_nil_iff, List.flatten_eq_nil_iff, List.mem_map]
    exact ⟨fun l ⟨e, he, hl⟩ => hl ▸ srcs e he, fun l ⟨e, he, hl⟩ => hl ▸ dsts e he⟩
  rw [tileOf] at *
  show execChainStart a s = _
  simp only [execChainStart, hc, ready, full, form, clear, lowestBar, ok, List.map_nil, List.map_map, List.foldl_nil, ne_eq,
    not_true_eq_false, Bool.and_self, Bool.not_true, Bool.false_eq_true, if_false]
  rfl

theorem chainStart_starts (inPart : a.tile.val < nTiles s a.part) (ready : ewReady s a = true)
    (hc : (tileOf s a).chain = some c) (full : chainFull c = true)
    (form : formFaults (((progOf (partAt s a.part)).map (fun p => p.tables)).getD []) c = [])
    (srcs : ∀ e ∈ c.srcs.zipIdx, (srcBase s a c e.2 e.1).1 = []) (dsts : ∀ e ∈ c.dsts.zipIdx, (dstBase s a c e.2 e.1).1 = []) :
    ∃ t p, exec (.chainStart a) s = .next t ∧ (tileOf t a).chPend = some p ∧ (tileOf t a).chain = none ∧
      p.quiet = c.head.fquiet ∧ p.mask = (partAt s a.part).flagmask ∧
      p.ftqPop = (c.srcs.filter (fun e => decide (e.1.kind = 0) && e.1.pop)).length ∧
      dataOf (tileOf t a) = dataOf (tileOf s a) ∧ t.withTiles s.tiles = s := by
  obtain ⟨n, hn⟩ := tileIx_of_lt inPart
  refine ⟨_, chainPend s a c (srcBases s a c) (dstBases s a c), exec_chainStart ready hc full form srcs dsts, ?_⟩
  rw [tileOf_setTile _ hn]
  refine ⟨rfl, rfl, rfl, rfl, ?_, (useRings_rings (tileOf s a) c).data, setTile_withTiles ..⟩
  simp only [chainPend, List.filter_filter, Bool.and_comm]

end

/-! ### The completion of a chain (R133, R138, R140, R178) -/

/-- A chain's write changes T0 and its poison, registers and predicates. -/
theorem applyWrite_changes (x : Tile) (w : EWrite) : ∃ m p r g, applyWrite x w = { x with t0 := m, pois := p, tregs := r, preds := g } := by
  cases w <;> exact ⟨_, _, _, _, rfl⟩

theorem applyWrites_changes (l : List EWrite) (x : Tile) :
    ∃ m p r g, l.foldl applyWrite x = { x with t0 := m, pois := p, tregs := r, preds := g } := by
  induction l generalizing x with
  | nil => exact ⟨x.t0, x.pois, x.tregs, x.preds, rfl⟩
  | cons w l ih =>
    obtain ⟨_, _, _, _, e⟩ := applyWrite_changes x w
    obtain ⟨m, p, r, g, f⟩ := ih (applyWrite x w)
    exact ⟨m, p, r, g, by rw [List.foldl_cons, f, e]⟩

/-- A tile with a chain's writes, finished tiles, flags, statistics and count applied. -/
def chainApplied (x : Tile) (p : ChainPend) : Tile :=
  let y := p.writes.foldl applyWrite { x with chPend := none }
  { y with ftq := y.ftq.drop p.ftqPop, ewf := y.ewf ||| p.flags, chains := y.chains + 1, stats := y.stats ++ p.stats }

/-- The head bobbin of a ring whose tail a chain has written. -/
def markWritten (x : Tile) (r : Nat) : Tile :=
  setRing x r (setBob (ringAt x r) (ringAt x r).head { bobAt (ringAt x r) (ringAt x r).head with wrote := true })

/-- The rings' part of a chain's completion. -/
def chainRings (y : Tile) (p : ChainPend) : Tile := p.tails.foldl (fun t e => markWritten t e.1) (p.ringPops.foldl popHead y)

theorem markWrittens_rings (l : List (Nat × Nat × Nat)) (x : Tile) : RingsOnly x (l.foldl (fun t e => markWritten t e.1) x) := by
  induction l generalizing x with
  | nil => rfl
  | cons e l ih => exact RingsOnly.trans rfl (ih (markWritten x e.1))

theorem chainRings_rings (y : Tile) (p : ChainPend) : RingsOnly y (chainRings y p) :=
  RingsOnly.trans (popHeads_rings ..) (markWrittens_rings ..)

/-- Writing a bobbin leaves its ring's walks. -/
theorem sendWalk_markWrittens (l : List (Nat × Nat × Nat)) {x : Tile} (h : TileOk x) (r : Nat) :
    sendWalk (ringAt (l.foldl (fun t e => markWritten t e.1) x) r) = sendWalk (ringAt x r) := by
  induction l generalizing x with
  | nil => rfl
  | cons e l ih =>
    obtain ⟨-, -, -, -, -, -, rings⟩ := id h
    rw [List.foldl_cons, ih (x := markWritten x e.1) (setRing_ok h _ _), markWritten, ringAt_setRing _ _ _ _ ((mapWf_iff _ _).1 rings).1]
    split
    · subst_vars; rfl
    · rfl

theorem chainApplied_ok {x : Tile} (h : TileOk x) (p : ChainPend) : TileOk (chainApplied x p) := by
  have writes (l : List EWrite) (y : Tile) (hy : TileOk y) : TileOk (l.foldl applyWrite y) := by
    induction l generalizing y with
    | nil => exact hy
    | cons w l ih => exact ih _ (applyWrite_ok hy w)
  exact writes p.writes { x with chPend := none } h

theorem popHeads_ok {x : Tile} (h : TileOk x) (l : List Nat) : TileOk (l.foldl popHead x) := by
  induction l generalizing x with
  | nil => exact h
  | cons r l ih => exact ih (setRing_ok h _ _)

/-- What a chain sends depends on the walks of its rings. -/
theorem autoSends_congr {x y : Tile} (h : ∀ r, sendWalk (ringAt y r) = sendWalk (ringAt x r)) (l : List (Nat × Nat × Nat)) :
    autoSends y l = autoSends x l := by
  simp only [autoSends, h]

theorem autoSends_chainRings {y : Tile} (h : TileOk y) (p : ChainPend) :
    autoSends (chainRings y p) p.tails = autoSends (p.ringPops.foldl popHead y) p.tails :=
  autoSends_congr (sendWalk_markWrittens _ (popHeads_ok h _)) _

section
variable {s : State} {a : TileAt} {p : ChainPend}

/-- The state with a chain's effects on its tile and its count. -/
def chainDone (s : State) (a : TileAt) (p : ChainPend) : State :=
  addCtr (setTile s a.part a.tile (chainRings (chainApplied (tileOf s a) p) p)) (ctrKey a.part 1 a.tile cChains) 1

theorem issues_congr {s t : State} (p : Nat) (parts : t.parts = s.parts) (io : t.io = s.io) (boot : t.boot = s.boot)
    (power : t.power = s.power) : issues t p = issues s p := by
  simp only [issues, partAt_congr parts, io, boot, power]

theorem issues_setTile (s : State) (p k : Nat) (x : Tile) (q : Nat) : issues (setTile s p k x) q = issues s q := by
  obtain ⟨_, e⟩ := setTile_changes s p k x
  rw [e]; rfl

/-- A chain that sends nothing completes: its effects, and a fault where one of its flags is selected. -/
theorem exec_chainComplete (ok : TilesOk s) (run : issues s a.part = true) (hp : (tileOf s a).chPend = some p) (clean : p.poisonAt = none)
    (still : autoSends (p.ringPops.foldl popHead (chainApplied (tileOf s a) p)) p.tails = []) :
    exec (.chainComplete a) s = .next (if p.quiet = false ∧ p.flags &&& p.mask ≠ 0
      then tileFault (chainDone s a p) a 2 p.ix 0x030A 0 p.flags.toNat else chainDone s a p) := by
  have none_ : autoSends (chainRings (chainApplied (tileOf s a) p) p) p.tails = [] :=
    (autoSends_chainRings (chainApplied_ok (tileAt_ok ok a.part a.tile) p) p).trans still
  have run' : issues (chainDone s a p) a.part = true := (issues_setTile ..).trans run
  have sent : exec (.chainComplete a) s = Machine.ok (
      let u := (autoSends (chainRings (chainApplied (tileOf s a) p) p) p.tails).foldl
        (fun s n => if issues s a.part then sendTail s a 2 p.ix n else s) (chainDone s a p)
      if !issues u a.part then u
      else if !p.quiet && decide (p.flags &&& p.mask ≠ 0) then tileFault u a 2 p.ix 0x030A 0 p.flags.toNat
      else u) := by
    rw [tileOf] at hp
    show execChainComplete a s = _
    simp only [execChainComplete, hp, run, clean, Bool.not_true, Bool.false_eq_true, if_false]
    rfl
  rw [sent, none_]
  simp only [List.foldl_nil, run', Bool.not_true, Bool.false_eq_true, if_false, Bool.and_eq_true, decide_eq_true_eq,
    Bool.not_eq_true', Machine.ok]

theorem chainDone_parts : (chainDone s a p).parts = s.parts := setTile_parts ..
theorem chainDone_time : (chainDone s a p).time = s.time := setTile_time ..
theorem chainDone_t2 : (chainDone s a p).t2 = s.t2 := setTile_t2 ..

theorem tileOf_chainDone {n : Nat} (hn : tileIx s a.part a.tile = some n) :
    tileOf (chainDone s a p) a = chainRings (chainApplied (tileOf s a) p) p := tileOf_setTile _ hn

/-- The tile with a chain's effects, as the statement of the chain's completion writes it. -/
theorem chainApplied_eq (x : Tile) (p : ChainPend) : chainApplied x p = { p.writes.foldl applyWrite { x with chPend := none } with
    ftq := x.ftq.drop p.ftqPop, ewf := x.ewf ||| p.flags, stats := x.stats ++ p.stats, chains := x.chains + 1 } := by
  obtain ⟨_, _, _, _, e⟩ := applyWrites_changes p.writes { x with chPend := none }
  simp only [chainApplied, e]

theorem chainApplied_chPend (x : Tile) (p : ChainPend) : (chainApplied x p).chPend = none := by
  obtain ⟨_, _, _, _, e⟩ := applyWrites_changes p.writes { x with chPend := none }
  simp only [chainApplied, e]

theorem chainComplete_done (hs : Inv s) (ok : TilesOk s) (run : issues s a.part = true) (inPart : a.tile.val < nTiles s a.part)
    (hp : (tileOf s a).chPend = some p) (clean : p.poisonAt = none)
    (still : autoSends (p.ringPops.foldl popHead (chainApplied (tileOf s a) p)) p.tails = []) :
    ∃ t, exec (.chainComplete a) s = .next t ∧ dataOf (tileOf t a) = dataOf (chainApplied (tileOf s a) p) ∧
      (tileOf t a).chains = (tileOf s a).chains + 1 ∧ (tileOf t a).chPend = none ∧ t.t2 = s.t2 ∧
      (p.quiet = true ∨ p.flags &&& p.mask = 0 → t.parts = s.parts) ∧
      (p.quiet = false → p.flags &&& p.mask ≠ 0 → FaultAt s t a 2 p.ix 0x030A (fun r => r.detail = p.flags.toNat)) := by
  obtain ⟨n, hn⟩ := tileIx_of_lt inPart
  have rings := chainRings_rings (chainApplied (tileOf s a) p) p
  have count : (chainApplied (tileOf s a) p).chains = (tileOf s a).chains + 1 := by rw [chainApplied_eq]
  have halts : HaltsOnly a.part (chainDone s a p) (if p.quiet = false ∧ p.flags &&& p.mask ≠ 0
      then tileFault (chainDone s a p) a 2 p.ix 0x030A 0 p.flags.toNat else chainDone s a p) := by
    split
    · exact tileFault_halts ..
    · exact .refl ..
  refine ⟨_, exec_chainComplete ok run hp clean still, ?data, ?count, ?over_, ?t2, fun quiet => ?quiet, fun loud flagged => ?flagged⟩
  case data =>
    rw [tileOf, halts.tile dataOf dataOf_haltTile, ← tileOf, tileOf_chainDone hn, rings.data]
  case count =>
    rw [tileOf, halts.tile (·.chains) fun _ => rfl, ← tileOf, tileOf_chainDone hn, rings, count]
  case over_ =>
    have own : (tileOf (chainDone s a p) a).chPend = none := by rw [tileOf_chainDone hn, rings, chainApplied_chPend]
    have hn' : tileIx (chainDone s a p) a.part a.tile = some n := (tileIx_setTile ..).trans hn
    rw [tileOf, tileAt_of_tileIx hn'] at own
    rw [tileOf, tileAt_of_tileIx (n := n) (by rwa [halts.units.tileIx])]
    obtain e | e := halts.tiles n
    · rw [e, own]
    · rw [e]; rfl
  case t2 => exact halts.units.t2.trans chainDone_t2
  case quiet =>
    rw [if_neg]
    · exact chainDone_parts
    · rintro ⟨loud, flagged⟩
      obtain q | q := quiet
      · rw [q] at loud; cases loud
      · exact flagged q
  case flagged =>
    rw [if_pos ⟨loud, flagged⟩]
    refine faultAt_of_before (faultAt_imp (tileFault_faultAt 2 p.ix 0x030A 0 p.flags.toNat ?_ ?_) fun _ => And.right)
      chainDone_parts chainDone_time
    · rw [chainDone_parts]; exact lt_of_inv hs a.part
    · rw [partAt_congr chainDone_parts]; exact no_fault_of_issues run

/-- A chain whose poison meets a predicate register raises POISON. -/
theorem chainComplete_poisons {e : Nat × Tag} (hs : Inv s) (run : issues s a.part = true) (hp : (tileOf s a).chPend = some p)
    (he : p.poisonAt = some e) :
    ∃ t, exec (.chainComplete a) s = .next t ∧ FaultAt s t a 2 e.1 0x0309 (fun r => r.addr = e.2 - 1) ∧ t.t2 = s.t2 := by
  refine ⟨poisonFault s a 2 e.1 0 e.2, ?_, ?_, (tileFault_halts ..).units.t2⟩
  · rw [tileOf] at hp
    show execChainComplete a s = _
    simp only [execChainComplete, hp, run, he, Bool.not_true, Bool.false_eq_true, if_false]
    rfl
  · exact faultAt_imp (tileFault_faultAt 2 e.1 0x0309 (e.2 - 1) 0 (lt_of_inv hs a.part) (no_fault_of_issues run)) fun _ => And.left

/-! ### EWFLAG (R139) -/

theorem leBytes_add (m n v : Nat) : leBytes (m + n) v = leBytes m v ++ leBytes n (v >>> (8 * m)) := by
  simp only [leBytes, List.range_add, List.map_append, List.map_map, Function.comp_def, Nat.mul_add, Nat.shiftRight_add]

/-- A number's low bytes do not see what stands above them. -/
theorem leBytes_low (n v u : Nat) : leBytes n (v + 2 ^ (8 * n) * u) = leBytes n v := by
  refine List.map_congr_left fun k hk => BitVec.eq_of_toNat_eq ?_
  have split : 2 ^ (8 * n) = 2 ^ (8 * k) * (2 ^ 8 * 2 ^ (8 * (n - k - 1))) := by
    rw [← Nat.pow_add, ← Nat.pow_add]
    congr 1
    have := List.mem_range.1 hk
    omega
  rw [BitVec.toNat_ofNat, BitVec.toNat_ofNat, Nat.shiftRight_eq_div_pow, Nat.shiftRight_eq_div_pow, split, Nat.mul_assoc,
    Nat.add_mul_div_left _ _ (Nat.two_pow_pos _), Nat.mul_assoc, Nat.add_mul_mod_self_left]

/-- The flags and the count of chains, as EWFLAG stores them. -/
theorem leBytes_flags (f : FlagWord) (u : Nat) : leBytes 8 (f.toNat + 2 ^ 32 * u) = leBytes 4 f.toNat ++ leBytes 4 u := by
  have high : (f.toNat + 2 ^ 32 * u) >>> 32 = u := by
    rw [Nat.shiftRight_eq_div_pow, Nat.add_mul_div_left _ _ (by decide), Nat.div_eq_of_lt (by omega), Nat.zero_add]
  rw [show (8 : Nat) = 4 + 4 from rfl, leBytes_add, leBytes_low 4, high]

theorem ewflag_done {h : QWord} {w : EwFlagW} (head : atHead s a 2 (.ewflag w) = some h) (hc : (tileOf s a).chain = none)
    (fits : t0Ok s a true (64 * w.addr.toNat) 8 = true) : ∃ t, exec (.ewflag a w) s = .next t ∧ WordDone s a 2 (.next t)
      { tileOf s a with
        t0 := memWrite (tileOf s a).t0 (64 * w.addr.toNat)
          (leBytes 4 (tileOf s a).ewf.toNat ++ leBytes 4 ((tileOf s a).chains % 2 ^ 32))
        pois := tagRange (tileOf s a).pois (64 * w.addr.toNat) 8 h.bad
        ewf := if w.clr then 0 else (tileOf s a).ewf } := by
  obtain ⟨n, hn⟩ := tileIx_of_lt (atHead_eq_some_iff.1 head).inPart
  refine ⟨_, ?_, finishWord_done hn fun _ => rfl⟩
  rw [tileOf] at *
  show execEwflag a w s = _
  simp only [execEwflag, head, hc, fits, leBytes_flags, t0Write, ok, Bool.not_true, Bool.false_eq_true, if_false]
  cases w.clr <;> rfl

end

theorem chainsRun : ChainsRun := by
  intro s a h hs ok run inPart x
  refine ⟨fun c hc free seg clear full form srcs dsts => ?start, fun p y hp clean hy still => ?complete,
    fun p e hp he => chainComplete_poisons hs run hp he, fun w head hc fits => ewflag_done head hc fits⟩
  case start =>
    refine chainStart_starts inPart ?_ hc full form srcs dsts
    simp only [x, tileOf] at free seg
    simp [ewReady, run, inPart, free, seg, clear]
  case complete =>
    rw [hy.trans (chainApplied_eq x p).symm] at still ⊢
    exact chainComplete_done hs ok run inPart hp clean still

/-- Settles O52. -/
theorem chainsAssembleAndRun : Obligations.ChainsAssembleAndRun := ⟨chainWordsAssemble, chainsRun⟩

end Sys2Proof.Machine
end

section
/-! PROOFS. Ring words (R30, R172, R178, R180 to R183). -/

namespace Sys2Proof.Machine

open Sys2Proof

/-! ### Rings of a tile -/

theorem mapGet_map {α : Type} (d : α) (f : α → α) (hf : f d = d) (m : Map α) (i : Nat) :
    mapGet d (m.map fun e => (e.1, f e.2)) i = f (mapGet d m i) := by
  induction m with
  | nil => exact hf.symm
  | cons e m ih =>
    simp only [List.map_cons, mapGet]
    split
    · rfl
    · exact ih

theorem TileOk.rings_rise {x : Tile} (h : TileOk x) : keysRise x.rings = true := by
  obtain ⟨-, -, -, -, -, -, rings⟩ := h
  exact ((mapWf_iff _ _).1 rings).1

theorem tileOf_ok {s : State} (h : TilesOk s) (a : TileAt) : TileOk (tileOf s a) := tileAt_ok h a.part a.tile

/-- A ring of a halted tile: what was being sent is dropped (R46). -/
def haltRing (r : Ring) : Ring := { r with bobs := r.bobs.map fun b => if b.st = .sending then { b with st := .free } else b }

theorem ringAt_haltTile (x : Tile) (n : Nat) : ringAt (haltTile x) n = haltRing (ringAt x n) :=
  mapGet_map Ring.closed haltRing rfl x.rings n

theorem haltRing_of_still {r : Ring} (h : ∀ b ∈ r.bobs, b.st ≠ .sending) : haltRing r = r := by
  have same : r.bobs.map (fun b => if b.st = .sending then { b with st := .free } else b) = r.bobs :=
    (List.map_congr_left fun b hb => if_neg (h b hb)).trans (List.map_id _)
  rw [haltRing, same]

theorem Passes.rings {x y : Tile} (h : Passes x y) : y.rings = x.rings := by rw [h.rest]

@[simp] theorem popWord_rings (x : Tile) (q : Nat) : (popWord x q).rings = x.rings := by
  unfold popWord setQueue
  dsimp only
  split_ifs <;> rfl

theorem bobAt_setBob_self {r : Ring} {n : Nat} (b : Bobbin) (h : n < r.bobs.length) : bobAt (setBob r n b) n = b := by
  simp [bobAt, setBob, listSet, List.getD_eq_getElem?_getD, h]

theorem bobAt_setBob_ne (r : Ring) {n k : Nat} (b : Bobbin) (h : k ≠ n) : bobAt (setBob r n b) k = bobAt r k := by
  simp [bobAt, setBob, listSet, List.getD_eq_getElem?_getD, List.getElem?_set_ne (Ne.symm h)]

section
variable {s : State} {a : TileAt} {n : Nat}

/-- After the end of a word, a ring of its tile is as the word left it, or that ring halted. -/
theorem ringAt_finishWord {y : Tile} (q k : Nat) (hn : tileIx s a.part a.tile = some n) :
    ringAt (tileOf (finishWord s a q y) a) k = ringAt y k ∨ ringAt (tileOf (finishWord s a q y) a) k = haltRing (ringAt y k) := by
  obtain ⟨z, passes, halts⟩ := finishWord_changes (q := q) (y := y) hn
  have same : ringAt z k = ringAt y k := by rw [ringAt, passes.rings, popWord_rings, ringAt]
  have hz : tileRaw (setTile s a.part a.tile z) n = z := by rw [tileRaw_setTile _ hn, if_pos rfl]
  rw [tileOf, tileAt_of_tileIx (n := n) (by rwa [halts.units.tileIx, tileIx_setTile]), ← same]
  obtain e | e := halts.tiles n
  · left; rw [e, hz]
  · right; rw [e, hz, ringAt_haltTile]

theorem finishWord_setTile (y z : Tile) (q : Nat) : finishWord (setTile s a.part a.tile y) a q z = finishWord s a q z := by
  rw [finishWord, setTile_twice, ← finishWord]

/-- The end of a word that has replaced its tile, in a partition that issues. -/
theorem finishIfOk_setTile (y : Tile) (q : Nat) (run : issues s a.part = true) (hn : tileIx s a.part a.tile = some n) :
    finishIfOk (setTile s a.part a.tile y) a q = finishWord s a q y := by
  rw [finishIfOk, issues_setTile, if_pos run, ← tileOf, tileOf_setTile _ hn, finishWord_setTile]

theorem seqRests_setRing {x : Tile} {q : Nat} (k : Nat) (r : Ring) (rest : seqRests x q) : seqRests (setRing x k r) q := by
  obtain ⟨w, hw, hq⟩ := rest
  refine ⟨w, ?_, hq⟩
  rw [← hw]
  unfold popWord setQueue
  dsimp only
  split_ifs <;> rfl

end

section
variable {s : State} {a : TileAt} {w : RingW} {h : QWord}

/-! ### RARM (R172, R177, R180) -/

theorem still_armedRing (v : Walk) (ix : Nat) : ∀ b ∈ (armedRing v ix).bobs, b.st ≠ .sending := by
  intro b hb
  unfold armedRing at hb
  dsimp only at hb
  split at hb
  · obtain hb | rfl := List.mem_or_eq_of_mem_set hb
    · rw [List.eq_of_mem_replicate hb]; decide
    · exact nofun
  · rw [List.eq_of_mem_replicate hb]; decide

/-- A record that passes every check arms its ring. -/
theorem armRing_arms {ix n rcd : Nat} {bad : Tag} {p : Program} {d : SegD} {v : Walk} (hp : progOf (partAt s a.part) = some p)
    (hd : tileSeg s a = some d) (closed : (ringAt (tileOf s a) n).dir = 0) (dir : (ringRecOf rcd).dir ≠ 0)
    (hv : walkAt s a p rcd bad = some v) (form : armForm v = false) (inside : armExtent s a p d v = none)
    (early : lateMember s a.part n a.tile v = false) :
    armRing s a ix n rcd bad = setTile s a.part a.tile (setRing (tileOf s a) n (armedRing v ix)) := by
  rw [tileOf] at *
  simp only [armRing, hp, hd, closed, dir, hv, form, inside, early, ne_eq, not_true_eq_false, Bool.false_eq_true, if_false, updTile]

theorem exec_rarm {rcd : Nat} (head : atHead s a 3 (.rarm w) = some h) (hr : recordOf s a w = some rcd) :
    exec (.rarm a w) s = .next (if (ringAt (tileOf s a) w.ring.toNat).dir ≠ 0 then ringForm s a 3 h.ix w.ring.toNat 0
      else finishIfOk (armRing s a h.ix w.ring.toNat rcd (recordTag s a w h)) a 3) := by
  show execRarm a w s = _
  simp only [execRarm, head, hr, ok]
  rfl

theorem rarm_arms {p : Program} {d : SegD} {rcd : Nat} {v : Walk} (ok : TilesOk s) (head : atHead s a 3 (.rarm w) = some h)
    (hp : progOf (partAt s a.part) = some p) (hd : tileSeg s a = some d) (hr : recordOf s a w = some rcd)
    (closed : (ringAt (tileOf s a) w.ring.toNat).dir = 0) (dir : (ringRecOf rcd).dir ≠ 0)
    (hv : walkAt s a p rcd (recordTag s a w h) = some v) (form : armForm v = false) (inside : armExtent s a p d v = none)
    (early : lateMember s a.part w.ring.toNat a.tile v = false) :
    ∃ t, exec (.rarm a w) s = .next t ∧ ringAt (tileOf t a) w.ring.toNat = armedRing v h.ix ∧
      (∀ k, k ≠ w.ring.toNat → (ringAt (tileOf t a) k).walk = (ringAt (tileOf s a) k).walk) ∧
      WordDone s a 3 (exec (.rarm a w) s) (tileOf s a) := by
  have front := atHead_eq_some_iff.1 head
  obtain ⟨n, hn⟩ := tileIx_of_lt front.inPart
  have hexec : exec (.rarm a w) s =
      .next (finishWord s a 3 (setRing (tileOf s a) w.ring.toNat (armedRing v h.ix))) := by
    rw [exec_rarm head hr, if_neg (not_not.2 closed), armRing_arms hp hd closed dir hv form inside early,
      finishIfOk_setTile _ _ front.issues hn]
  have rings (k : Nat) := ringAt_setRing (tileOf s a) w.ring.toNat k (armedRing v h.ix) (tileOf_ok ok a).rings_rise
  refine ⟨_, hexec, ?_, fun k hk => ?_, ?_⟩
  · obtain e | e := ringAt_finishWord 3 w.ring.toNat hn
    · rw [e, rings, if_pos rfl]
    · rw [e, rings, if_pos rfl, haltRing_of_still (still_armedRing v h.ix)]
  · obtain e | e := ringAt_finishWord 3 k hn
    · rw [e, rings, if_neg hk]
    · rw [e, rings, if_neg hk]; rfl
  · rw [hexec]
    exact finishWord_done (y := setRing _ _ _) hn fun _ => rfl

/-- RING_FORM at a word at its queue's head. -/
theorem Fronts.ringForm {c : TWord} (front : Fronts s a 3 c h) (hs : Inv s) (n : Nat) :
    FaultAt s (Machine.ringForm s a 3 h.ix n 0) a 3 h.ix 0x0323 (fun f => f.detail = n) :=
  faultAt_imp (front.tileFault hs ..) fun _ => And.right

theorem rarm_armed {rcd : Nat} (hs : Inv s) (head : atHead s a 3 (.rarm w) = some h) (hr : recordOf s a w = some rcd)
    (armed : (ringAt (tileOf s a) w.ring.toNat).dir ≠ 0) :
    ∃ t, exec (.rarm a w) s = .next t ∧ FaultAt s t a 3 h.ix 0x0323 (fun f => f.detail = w.ring.toNat) :=
  ⟨_, by rw [exec_rarm head hr, if_pos armed], (atHead_eq_some_iff.1 head).ringForm hs _⟩

/-! ### REARM (R181) -/

theorem rearm_form {p : Program} {d : SegD} {rcd : Nat} (hs : Inv s) (head : atHead s a 3 (.rearm w) = some h)
    (hp : progOf (partAt s a.part) = some p) (hd : tileSeg s a = some d) (hr : recordOf s a w = some rcd)
    (bad : (ringAt (tileOf s a) w.ring.toNat).walk = none ∨
      ∃ cur, (ringAt (tileOf s a) w.ring.toNat).walk = some cur ∧ rearmOk (ringRecOf rcd) cur.r = false) :
    ∃ t, exec (.rearm a w) s = .next t ∧ FaultAt s t a 3 h.ix 0x0323 (fun f => f.detail = w.ring.toNat) := by
  refine ⟨_, ?_, (atHead_eq_some_iff.1 head).ringForm hs _⟩
  rw [tileOf] at bad
  show execRearm a w s = _
  obtain none_ | ⟨cur, some_, differs⟩ := bad
  · simp only [execRearm, head, hp, hd, hr, none_, ok]
  · simp only [execRearm, head, hp, hd, hr, some_, differs, ok, Bool.not_false, if_true]

theorem rearm_queues {p : Program} {d : SegD} {rcd : Nat} {v cur : Walk} (ok : TilesOk s)
    (head : atHead s a 3 (.rearm w) = some h) (hp : progOf (partAt s a.part) = some p) (hd : tileSeg s a = some d)
    (hr : recordOf s a w = some rcd) (hw : (ringAt (tileOf s a) w.ring.toNat).walk = some cur)
    (agrees : rearmOk (ringRecOf rcd) cur.r = true) (free : (ringAt (tileOf s a) w.ring.toNat).pend = none)
    (hv : walkAt s a p rcd (recordTag s a w h) = some v) (form : armForm (keepFan cur v) = false)
    (inside : armExtent s a p d (keepFan cur v) = none) :
    ∃ t, exec (.rearm a w) s = .next t ∧ (ringAt (tileOf t a) w.ring.toNat).pend = some (keepFan cur v) ∧
      (ringAt (tileOf t a) w.ring.toNat).walk = some cur ∧ WordDone s a 3 (exec (.rearm a w) s) (tileOf s a) := by
  obtain ⟨n, hn⟩ := tileIx_of_lt (atHead_eq_some_iff.1 head).inPart
  generalize hy : ({ ringAt (tileOf s a) w.ring.toNat with pend := some (keepFan cur v) } : Ring) = y
  have hexec : exec (.rearm a w) s = .next (finishWord s a 3 (setRing (tileOf s a) w.ring.toNat y)) := by
    rw [← hy]
    rw [tileOf] at *
    show execRearm a w s = _
    simp only [execRearm, head, hp, hd, hr, hw, agrees, free, hv, form, inside, Machine.ok, Option.map_some, Option.isSome_none,
      Bool.not_true, Bool.false_eq_true, if_false]
  have pend : y.pend = some (keepFan cur v) := by rw [← hy]
  have walk : y.walk = some cur := by rw [← hy]; exact hw
  have rings := ringAt_setRing (tileOf s a) w.ring.toNat w.ring.toNat y (tileOf_ok ok a).rings_rise
  rw [if_pos rfl] at rings
  refine ⟨_, hexec, ?_, ?_, ?_⟩
  · obtain e | e := ringAt_finishWord 3 w.ring.toNat hn
    · rw [e, rings, pend]
    · rw [e, rings]; exact pend
  · obtain e | e := ringAt_finishWord 3 w.ring.toNat hn
    · rw [e, rings, walk]
    · rw [e, rings]; exact walk
  · rw [hexec]
    exact finishWord_done (y := setRing _ _ _) hn fun _ => rfl

/-! ### Sending the tail (R178, R181) -/

/-- A bobbin that goes out as bobbin nx of its walk. -/
def sentBob (s : State) (p : Nat) (x : Ring) (w : Walk) (nx : Nat) : Bobbin := { bobAt x x.head with
  st := .sending, w := some w, k := if w.r.ptile = 255 then nx else x.total
  reqs := if w.r.ptile = 255 then queueLines s (spanLines (sendPages s p w) (bobSpans w nx)) else [] }

/-- A ring after the tail has gone out and, where it is free, the next slot is the tail. -/
def passTail (y : Ring) (w : Walk) (hd : Nat) : Ring :=
  if (bobAt y hd).st = .free then setBob y hd { Bobbin.free with st := .tail, w := some w } else y

/-- A ring whose tail has been sent. -/
def sentRing (s : State) (p : Nat) (x : Ring) (w : Walk) (moved : Bool) : Ring :=
  let nx := if moved then 0 else x.next
  { passTail (setBob x x.head (sentBob s p x w nx)) w ((x.head + 1) % w.r.nslots) with
    walk := some w, pend := if moved then none else x.pend, head := (x.head + 1) % w.r.nslots, next := nx + 1, total := x.total + 1 }

theorem bobAt_passTail {y : Ring} {w : Walk} {hd k : Nat} (busy : (bobAt y k).st ≠ .free) : bobAt (passTail y w hd) k = bobAt y k := by
  unfold passTail
  split
  · refine bobAt_setBob_ne y _ ?_
    rintro rfl
    exact busy ‹_›
  · rfl

theorem sentRing_head {x : Ring} {v : Walk} {moved : Bool} (p : Nat) (hh : x.head < x.bobs.length) :
    (bobAt (sentRing s p x v moved) x.head).st = .sending := by
  have sent := bobAt_setBob_self (sentBob s p x v (if moved then 0 else x.next)) hh
  have kept := bobAt_passTail (w := v) (hd := (x.head + 1) % v.r.nslots)
    (y := setBob x x.head (sentBob s p x v (if moved then 0 else x.next))) (k := x.head) (by rw [sent]; exact nofun)
  exact (congrArg Bobbin.st (kept.trans sent)).trans rfl

/-- A tail that may go out goes out. -/
theorem sendTail_sends {q ix n : Nat} {w0 v : Walk} {moved : Bool} (hw : (ringAt (tileOf s a) n).walk = some w0)
    (hm : walkOver (ringAt (tileOf s a) n) w0 = moved) (hv : sendWalk (ringAt (tileOf s a) n) = some v)
    (still : (bobAt (ringAt (tileOf s a) n) (ringAt (tileOf s a) n).head).st ≠ .sending)
    (room : (if moved then 0 else (ringAt (tileOf s a) n).next) < v.bobs)
    (clean : bobPoison (tileOf s a) v (bobBase v (ringAt (tileOf s a) n).head) = 0) :
    sendTail s a q ix n =
      setTile s a.part a.tile (setRing (tileOf s a) n (sentRing s a.part (ringAt (tileOf s a) n) v moved)) := by
  rw [tileOf] at *
  simp only [sendTail, hw, hm, hv, still, Nat.not_le.2 room, clean, Option.getD_some, decide_false, Bool.false_and, Bool.false_eq_true,
    ne_eq, not_true_eq_false, if_false]
  rfl

theorem exec_rsend (head : atHead s a 3 (.rsend w) = some h) {v : Walk} (dir : (ringAt (tileOf s a) w.ring.toNat).dir = 2)
    (hw : (ringAt (tileOf s a) w.ring.toNat).walk = some v) (manual : v.r.auto = false) :
    exec (.rsend a w) s = .next (if h.bad ≠ 0 then poisonFault s a 3 h.ix w.ring.toNat h.bad
      else finishIfOk (sendTail s a 3 h.ix w.ring.toNat) a 3) := by
  rw [tileOf] at *
  show execRsend a w s = _
  simp only [execRsend, head, dir, hw, manual, ok, ne_eq, not_true_eq_false, decide_false, Option.map_some, Option.getD_some, Bool.or_self,
    Bool.false_eq_true, if_false]

/-- RSEND of a ring that is not outbound, or is sent automatically, raises RING_FORM. -/
theorem rsend_form (hs : Inv s) (head : atHead s a 3 (.rsend w) = some h)
    (bad : (ringAt (tileOf s a) w.ring.toNat).dir ≠ 2 ∨ ∃ v, (ringAt (tileOf s a) w.ring.toNat).walk = some v ∧ v.r.auto = true) :
    ∃ t, exec (.rsend a w) s = .next t ∧ FaultAt s t a 3 h.ix 0x0323 (fun f => f.detail = w.ring.toNat) := by
  refine ⟨_, ?_, (atHead_eq_some_iff.1 head).ringForm hs _⟩
  rw [tileOf] at bad
  show execRsend a w s = _
  simp only [execRsend, head, ok]
  refine congrArg Host.Outcome.next (if_pos ?_)
  obtain dir | ⟨v, hv, auto⟩ := bad
  · simp [dir]
  · simp [hv, auto]

/-- A fault that the send of a tail raises is not followed by the word's end. -/
theorem finishIfOk_of_fault {t : State} {q k ix status : Nat} {m : FaultRec → Prop} (f : FaultAt s t a k ix status m) :
    finishIfOk t a q = t := by
  obtain ⟨r, -, -, -, -, -, -, -, fault⟩ := f
  have : issues t a.part = false := by simp [issues, fault]
  rw [finishIfOk, this]
  rfl

/-- RSEND whose tail cannot go out: the fault that sending it raises. -/
theorem rsend_faults {v : Walk} {status : Nat} {m : FaultRec → Prop} (head : atHead s a 3 (.rsend w) = some h) (sound : h.bad = 0)
    (dir : (ringAt (tileOf s a) w.ring.toNat).dir = 2) (hw : (ringAt (tileOf s a) w.ring.toNat).walk = some v)
    (manual : v.r.auto = false) (f : FaultAt s (sendTail s a 3 h.ix w.ring.toNat) a 3 h.ix status m) :
    ∃ t, exec (.rsend a w) s = .next t ∧ FaultAt s t a 3 h.ix status m :=
  ⟨_, by rw [exec_rsend head dir hw manual, if_neg (not_not.2 sound), finishIfOk_of_fault f], f⟩

/-- RSEND of a tail that may go out. -/
theorem rsend_sends {w0 v : Walk} {moved : Bool} (ok : TilesOk s) (head : atHead s a 3 (.rsend w) = some h) (sound : h.bad = 0)
    (rest : seqRests (tileOf s a) 3) (dir : (ringAt (tileOf s a) w.ring.toNat).dir = 2)
    (hw : (ringAt (tileOf s a) w.ring.toNat).walk = some w0) (manual : w0.r.auto = false)
    (hm : walkOver (ringAt (tileOf s a) w.ring.toNat) w0 = moved) (hv : sendWalk (ringAt (tileOf s a) w.ring.toNat) = some v)
    (tail : (bobAt (ringAt (tileOf s a) w.ring.toNat) (ringAt (tileOf s a) w.ring.toNat).head).st = .tail)
    (room : (if moved then 0 else (ringAt (tileOf s a) w.ring.toNat).next) < v.bobs)
    (clean : bobPoison (tileOf s a) v (bobBase v (ringAt (tileOf s a) w.ring.toNat).head) = 0) :
    ∃ t, exec (.rsend a w) s = .next t ∧
      ringAt (tileOf t a) w.ring.toNat = sentRing s a.part (ringAt (tileOf s a) w.ring.toNat) v moved ∧
      dataOf (tileOf t a) = dataOf (tileOf s a) ∧ t.withTiles s.tiles = s := by
  have front := atHead_eq_some_iff.1 head
  obtain ⟨n, hn⟩ := tileIx_of_lt front.inPart
  have hexec : exec (.rsend a w) s = .next (setTile s a.part a.tile (popWord (setRing (tileOf s a) w.ring.toNat
      (sentRing s a.part (ringAt (tileOf s a) w.ring.toNat) v moved)) 3)) := by
    rw [exec_rsend head dir hw manual, if_neg (not_not.2 sound), sendTail_sends hw hm hv (by rw [tail]; exact nofun) room clean,
      finishIfOk_setTile _ _ front.issues hn, finishWord_of_rest hn (seqRests_setRing _ _ rest)]
  refine ⟨_, hexec, ?_⟩
  rw [tileOf_setTile _ hn, dataOf_popWord]
  refine ⟨?_, rfl, setTile_withTiles ..⟩
  rw [ringAt, popWord_rings, ← ringAt, ringAt_setRing _ _ _ _ (tileOf_ok ok a).rings_rise, if_pos rfl]

theorem sendWalk_of_current {x : Ring} {v : Walk} (hw : x.walk = some v) (free : x.pend = none) :
    walkOver x v = false ∧ sendWalk x = some v := by
  have over_ : walkOver x v = false := by simp [walkOver, free]
  exact ⟨over_, by simp [sendWalk, hw, over_]⟩

theorem sendWalk_of_pend {x : Ring} {v0 v : Walk} (hw : x.walk = some v0) (hv : x.pend = some v) (done : v0.bobs ≤ x.next) :
    walkOver x v0 = true ∧ sendWalk x = some v := by
  have over_ : walkOver x v0 = true := by simp [walkOver, hv, done]
  exact ⟨over_, by simp [sendWalk, hw, hv, over_]⟩

/-- The send of a bobbin that is still being sent raises 0x0306, and that of a poisoned one POISON. -/
theorem sendTail_sending {q ix n : Nat} {v : Walk} (hw : (ringAt (tileOf s a) n).walk = some v)
    (sending : (bobAt (ringAt (tileOf s a) n) (ringAt (tileOf s a) n).head).st = .sending) :
    sendTail s a q ix n = tileFault s a q ix 0x0306 0 n := by
  rw [tileOf] at *
  simp only [sendTail, hw, sending, if_true]

theorem sendTail_poison {q ix n : Nat} {v : Walk} (hw : (ringAt (tileOf s a) n).walk = some v)
    (free : (ringAt (tileOf s a) n).pend = none)
    (still : (bobAt (ringAt (tileOf s a) n) (ringAt (tileOf s a) n).head).st ≠ .sending)
    (room : v.bobs ≤ (ringAt (tileOf s a) n).next → v.r.ptile ≠ 255)
    (bad : bobPoison (tileOf s a) v (bobBase v (ringAt (tileOf s a) n).head) ≠ 0) :
    sendTail s a q ix n = poisonFault s a q ix n (bobPoison (tileOf s a) v (bobBase v (ringAt (tileOf s a) n).head)) := by
  obtain ⟨over_, walk⟩ := sendWalk_of_current hw free
  have open_ : (decide (v.bobs ≤ (ringAt (tileOf s a) n).next) && decide (v.r.ptile = 255)) = false := by
    simpa using room
  rw [tileOf] at *
  simp only [sendTail, hw, over_, walk, still, Option.getD_some, Bool.false_eq_true, if_false, open_, bad, ne_eq, not_false_eq_true,
    if_true]

/-! ### RCLOSE (R182) -/

theorem exec_rclose (head : atHead s a 3 (.rclose w) = some h)
    (still : ∀ b ∈ (ringAt (tileOf s a) w.ring.toNat).bobs, b.st ≠ .sending) :
    exec (.rclose a w) s = .next (if (ringAt (tileOf s a) w.ring.toNat).dir = 2 ∧
        (bobAt (ringAt (tileOf s a) w.ring.toNat) (ringAt (tileOf s a) w.ring.toNat).head).st = .tail ∧
        (bobAt (ringAt (tileOf s a) w.ring.toNat) (ringAt (tileOf s a) w.ring.toNat).head).wrote
      then tileFault s a 3 h.ix 0x0322 0 w.ring.toNat
      else sweepInvals (finishWord (readersDone s (((ringAt (tileOf s a) w.ring.toNat).bobs.map (fun b => b.frs)).flatten)) a 3
        (setRing (tileOf s a) w.ring.toNat (shutRing (ringAt (tileOf s a) w.ring.toNat)))) a.part) := by
  have none_ : (ringAt (tileOf s a) w.ring.toNat).bobs.any (fun b => decide (b.st = .sending)) = false := by simpa using still
  rw [tileOf] at *
  show execRclose a w s = _
  simp only [execRclose, head, none_, ok, Bool.false_eq_true, if_false]

theorem rclose_closes (ok : TilesOk s) (head : atHead s a 3 (.rclose w) = some h)
    (still : ∀ b ∈ (ringAt (tileOf s a) w.ring.toNat).bobs, b.st ≠ .sending)
    (unwritten : (ringAt (tileOf s a) w.ring.toNat).dir ≠ 2 ∨
      (bobAt (ringAt (tileOf s a) w.ring.toNat) (ringAt (tileOf s a) w.ring.toNat).head).wrote = false) :
    ∃ t, exec (.rclose a w) s = .next t ∧ ringAt (tileOf t a) w.ring.toNat = { Ring.closed with
        head := (ringAt (tileOf s a) w.ring.toNat).head, next := (ringAt (tileOf s a) w.ring.toNat).next } ∧
      dataOf (tileOf t a) = dataOf (tileOf s a) ∧
      t.t1 = (readersDone s (((ringAt (tileOf s a) w.ring.toNat).bobs.map (fun b => b.frs)).flatten)).t1 ∧ t.t2 = s.t2 ∧
      t.groups = s.groups ∧ t.journal = s.journal := by
  obtain ⟨n, hn⟩ := tileIx_of_lt (atHead_eq_some_iff.1 head).inPart
  have open_ : ¬((ringAt (tileOf s a) w.ring.toNat).dir = 2 ∧
      (bobAt (ringAt (tileOf s a) w.ring.toNat) (ringAt (tileOf s a) w.ring.toNat).head).st = .tail ∧
      (bobAt (ringAt (tileOf s a) w.ring.toNat) (ringAt (tileOf s a) w.ring.toNat).head).wrote = true) := by
    rintro ⟨dir, -, wrote⟩
    obtain e | e := unwritten
    · exact e dir
    · rw [e] at wrote; cases wrote
  refine ⟨_, by rw [exec_rclose head still, if_neg open_], ?_⟩
  generalize hx : ringAt (tileOf s a) w.ring.toNat = x
  generalize hy : setRing (tileOf s a) w.ring.toNat (shutRing x) = y
  have shut : ringAt y w.ring.toNat = shutRing x := by
    rw [← hy, ringAt_setRing _ _ _ _ (tileOf_ok ok a).rings_rise, if_pos rfl]
  have data : dataOf y = dataOf (tileOf s a) := by rw [← hy]; rfl
  obtain ⟨t1, ht⟩ := readersDone_changes s ((x.bobs.map (fun b => b.frs)).flatten)
  generalize hu : readersDone s ((x.bobs.map (fun b => b.frs)).flatten) = u at *
  have hn' : tileIx u a.part a.tile = some n := by rw [ht]; exact hn
  obtain ⟨_, e, done, -, -, kt2, kt1, groups, journal, -⟩ := finishWord_done (y := y) (q := 3) hn' fun _ => by rw [← hy, ht]; rfl
  cases e
  obtain ⟨fns, ef⟩ := sweepInvals_changes (finishWord u a 3 y) a.part
  have same : tileOf (sweepInvals (finishWord u a 3 y) a.part) a = tileOf (finishWord u a 3 y) a := by rw [ef]; rfl
  rw [same, ef]
  refine ⟨?_, done.trans data, kt1, ?_, ?_, ?_⟩
  · obtain e | e := ringAt_finishWord (y := y) 3 w.ring.toNat hn'
    · rw [e, shut]; rfl
    · rw [e, shut]; rfl
  · exact kt2.trans (by rw [ht]; rfl)
  · exact groups.trans (by rw [ht]; rfl)
  · exact journal.trans (by rw [ht]; rfl)

end

theorem ringWords : RingWords := by
  intro s a w h hs ok x n r
  refine ⟨fun p d rcd v head hp hd hr closed dir hv form inside early => rarm_arms ok head hp hd hr closed dir hv form inside early,
    fun rcd head hr armed => rarm_armed hs head hr armed, fun p d rcd head hp hd hr bad => rearm_form hs head hp hd hr bad,
    fun head bad => rsend_form hs head bad, fun v head bad dir hw manual => ?badWord,
    fun p d rcd v cur head hp hd hr hw agrees free hv form inside => rearm_queues ok head hp hd hr hw agrees free hv form inside,
    fun v head sound rest dir hw manual free more tail clean len slot => ?sends,
    fun v0 v head sound rest dir hw manual hv done more tail clean => ?moves,
    fun v head sound dir hw manual free still room bad => ?badBobbin,
    fun v head sound dir hw manual sending => ?sending,
    fun head still unwritten => rclose_closes ok head still unwritten, fun head still dir tail wrote => ?written⟩
  case badWord =>
    refine ⟨_, by rw [exec_rsend head dir hw manual, if_pos bad], ?_⟩
    exact faultAt_imp ((atHead_eq_some_iff.1 head).tileFault hs ..) fun _ => And.symm
  case sends =>
    obtain ⟨over_, walk⟩ := sendWalk_of_current hw free
    obtain ⟨t, ht, ring, data, rest⟩ := rsend_sends ok head sound rest dir hw manual over_ walk tail more clean
    refine ⟨t, ht, ?_, ?_, ?_, ?_, data, rest⟩
    · rw [ring]; exact sentRing_head a.part (len.symm ▸ slot)
    · rw [ring]; rfl
    · rw [ring]; rfl
    · rw [ring]; rfl
  case moves =>
    obtain ⟨over_, walk⟩ := sendWalk_of_pend hw hv done
    obtain ⟨t, ht, ring, data, rest⟩ := rsend_sends ok head sound rest dir hw manual over_ walk tail more clean
    refine ⟨t, ht, ?_, ?_, ?_, ?_, rest⟩
    · rw [ring]; rfl
    · rw [ring]; rfl
    · rw [ring]; rfl
    · rw [ring]; rfl
  case badBobbin =>
    refine rsend_faults head sound dir hw manual ?_
    rw [sendTail_poison hw free still room bad]
    exact faultAt_imp ((atHead_eq_some_iff.1 head).tileFault hs ..) fun _ => And.symm
  case sending =>
    refine rsend_faults head sound dir hw manual ?_
    rw [sendTail_sending hw sending]
    exact faultAt_imp ((atHead_eq_some_iff.1 head).tileFault hs ..) fun _ => And.right
  case written =>
    refine ⟨_, by rw [exec_rclose head still, if_pos ⟨dir, tail, wrote⟩], ?_⟩
    exact faultAt_imp ((atHead_eq_some_iff.1 head).tileFault hs ..) fun _ => And.right

end Sys2Proof.Machine
end

section
/-! PROOFS. Bobbins: their fetch, landing and sending, and the start of a fan (R166, R173 to R178, R195, R210). -/

namespace Sys2Proof.Machine

open Sys2Proof

/-! ### What fetches leave -/

/-- What every step of a fold leaves, the fold leaves. -/
theorem foldl_keeps {α β : Type} (f : State → β) {g : State → α → State} (h : ∀ s e, f (g s e) = f s) (l : List α) (s : State) :
    f (l.foldl g s) = f s := by
  induction l generalizing s with
  | nil => rfl
  | cons e l ih => rw [List.foldl_cons, ih, h]

/-- From s to t frames, heat, counters and translations may have changed: the tiles, module memory, the journal, host memory and the
partitions' groups have not. -/
structure FetchKept (s t : State) : Prop where
  tiles : t.tiles = s.tiles
  t2 : t.t2 = s.t2
  journal : t.journal = s.journal
  host : t.host = s.host
  groups : ∀ p, (partAt t p).groups = (partAt s p).groups

namespace FetchKept
variable {s t u : State}

theorem refl (s : State) : FetchKept s s := ⟨rfl, rfl, rfl, rfl, fun _ => rfl⟩

theorem trans (h : FetchKept s t) (g : FetchKept t u) : FetchKept s u :=
  ⟨g.tiles.trans h.tiles, g.t2.trans h.t2, g.journal.trans h.journal, g.host.trans h.host, fun p => (g.groups p).trans (h.groups p)⟩

theorem foldl {α : Type} {f : State → α → State} (h : ∀ s e, FetchKept s (f s e)) (l : List α) (s : State) :
    FetchKept s (l.foldl f s) := by
  induction l generalizing s with
  | nil => exact .refl s
  | cons e l ih => exact (h s e).trans (ih _)

theorem foldl_fst {α β : Type} {f : State × β → α → State × β} (h : ∀ x e, FetchKept x.1 (f x e).1) (l : List α) (x : State × β) :
    FetchKept x.1 (l.foldl f x).1 := by
  induction l generalizing x with
  | nil => exact .refl x.1
  | cons e l ih => exact (h x e).trans (ih _)

theorem tileIx (h : FetchKept s t) (p k : Nat) : tileIx t p k = tileIx s p k := tileIx_congr (h.groups p) k

theorem tileAt (h : FetchKept s t) (p k : Nat) : tileAt t p k = tileAt s p k := tileAt_congr p k (h.tileIx p k) h.tiles

end FetchKept

theorem addCtr_fetchKept (s : State) (k n : Nat) : FetchKept s (addCtr s k n) := ⟨rfl, rfl, rfl, rfl, fun _ => rfl⟩

theorem setFrame_fetchKept (s : State) (n : Nat) (f : Frame) : FetchKept s (setFrame s n f) := ⟨rfl, rfl, rfl, rfl, fun _ => rfl⟩

theorem giveFrame_fetchKept (s : State) (n : Nat) (k : PageKey) (pin : Bool) (holds : List (Option Nat)) :
    FetchKept s (giveFrame s n k pin holds) := ⟨rfl, rfl, rfl, rfl, fun _ => rfl⟩

theorem takeFrame_fetchKept (s : State) (k : PageKey) (die : Nat) (h : Option Nat) (pin : Bool) (holds : List (Option Nat)) :
    FetchKept s (takeFrame s k die h pin holds).1 := by
  have drawn : FetchKept s (s.withFree (s.free + 1)) := ⟨rfl, rfl, rfl, rfl, fun _ => rfl⟩
  unfold takeFrame
  split
  · dsimp only
    split
    · exact drawn.trans (giveFrame_fetchKept ..)
    · exact .refl s
  · split
    · exact .refl s
    · split
      · exact .refl s
      · split
        · exact giveFrame_fetchKept ..
        · exact setFrame_fetchKept ..

theorem setRegion_fetchKept (s : State) (p r : Nat) (x : Region) : FetchKept s (setRegion s p r x) :=
  ⟨rfl, rfl, rfl, rfl, (updPart_kept (g := Part.groups) s p _).own⟩

theorem heatPage_fetchKept (s : State) (p r page units die : Nat) : FetchKept s (heatPage s p r page units die) := by
  unfold heatPage
  split
  · exact .refl s
  · split
    · exact .refl s
    · split
      · exact .refl s
      · split
        · exact .refl s
        · dsimp only
          split
          · exact ((setRegion_fetchKept ..).trans (takeFrame_fetchKept ..)).trans (addCtr_fetchKept ..)
          · exact setRegion_fetchKept ..

theorem fetchHeat_fetchKept (s : State) (p r n die : Nat) (l : List (Nat × Nat)) : FetchKept s (fetchHeat s p r n die l).1 := by
  unfold fetchHeat
  split
  · exact .refl s
  · split
    · exact .refl s
    · refine FetchKept.foldl_fst (fun x e => ?_) _ (s, [])
      dsimp only
      split
      · exact ((setFrame_fetchKept ..).trans (addCtr_fetchKept ..)).trans (heatPage_fetchKept ..)
      · exact (addCtr_fetchKept ..).trans (heatPage_fetchKept ..)

theorem fillAtc_fetchKept (s : State) (f : Nat) (l : List (Nat × Nat)) : FetchKept s (fillAtc s f l) := by
  refine FetchKept.foldl (fun s e => ?_) l s
  dsimp only
  split
  · exact .refl s
  · exact ⟨rfl, rfl, rfl, rfl, fun _ => rfl⟩

/-! ### The slots of a ring -/

/-- A tile with a bobbin in a slot of a ring. -/
def putBob (x : Tile) (n slot : Nat) (b : Bobbin) : Tile := setRing x n (setBob (ringAt x n) slot b)

section
variable {x : Tile} {n slot : Nat}

theorem setTile_host (s : State) (p k : Nat) (x : Tile) : (setTile s p k x).host = s.host := by
  obtain ⟨_, e⟩ := setTile_changes s p k x
  rw [e]; rfl

theorem putBob_ok (h : TileOk x) (b : Bobbin) : TileOk (putBob x n slot b) := setRing_ok h _ _

theorem ringAt_setRing_self (h : keysRise x.rings = true) (r : Ring) : ringAt (setRing x n r) n = r := by
  rw [ringAt_setRing _ _ _ _ h, if_pos rfl]

theorem ringAt_putBob (h : keysRise x.rings = true) (b : Bobbin) : ringAt (putBob x n slot b) n = setBob (ringAt x n) slot b :=
  ringAt_setRing_self h _

/-- The bobbin that was put stands in its slot. -/
theorem bobAt_putBob (h : keysRise x.rings = true) (b : Bobbin) (hs : slot < (ringAt x n).bobs.length) :
    bobAt (ringAt (putBob x n slot b) n) slot = b := by
  rw [ringAt_putBob h, bobAt_setBob_self b hs]

@[simp] theorem setBob_length (r : Ring) (k : Nat) (b : Bobbin) : (setBob r k b).bobs.length = r.bobs.length := by
  simp [setBob, listSet]

@[simp] theorem dataOf_putBob (b : Bobbin) : dataOf (putBob x n slot b) = dataOf x := rfl

end

theorem updTile_twice {s : State} {p k m : Nat} (f g : Tile → Tile) (h : tileIx s p k = some m) :
    updTile (updTile s p k f) p k g = setTile s p k (g (f (tileAt s p k))) := by
  rw [updTile, updTile, tileAt_setTile _ _ h, setTile_twice]

/-! ### FETCH_ISSUE (R173) -/

section
variable {s : State} {r : RingAt} {w : Walk}

/-- A bobbin whose fetch goes out. -/
def issuedBob (w : Walk) (k : Nat) (demand : Option Nat) (frs reqs : List Nat) : Bobbin :=
  { st := .issued, k := k, w := some w, lo := ((bobRange w k).getD (0, 0)).1, hi := ((bobRange w k).getD (0, 0)).2
    demand := demand, wrote := false, frs := frs, reqs := reqs }

/-- A fetch within its epoch into a slot of one tile's ring. -/
theorem issueInto_issues {a : TileAt} (n slot k : Nat) (demand : Option Nat) (fresh : epochOk s a.part w = true) :
    ∃ u frs reqs, FetchKept s u ∧ issueInto s a n slot k w [a.tile.val] demand =
      updTile (updTile u a.part a.tile (putBob · n slot (issuedBob w k demand frs []))) a.part a.tile
        (putBob · n slot (issuedBob w k demand frs reqs)) := by
  obtain ⟨g, hg⟩ : ∃ g, regionAt s a.part w.td.region = some g := by
    unfold epochOk at fresh
    split at fresh
    · exact ⟨_, ‹_›⟩
    · cases fresh
  simp only [issueInto, fresh, hg, Bool.not_true, Bool.false_eq_true, if_false]
  refine ⟨_, _, _, ?_, rfl⟩
  exact (fetchHeat_fetchKept ..).trans (fillAtc_fetchKept ..)

/-- The ring of a fetch's tile with the walk one bobbin further. -/
def advanced (y : Ring) : Ring := { y with next := y.next + 1, total := y.total + 1 }

theorem exec_fetchIssue (hw : (ringAt (tileAt s r.part r.tile) r.ring).walk = some w) (run : issues s r.part = true)
    (dir : (ringAt (tileAt s r.part r.tile) r.ring).dir = 1) (alone : w.r.fan = 0)
    (begun : (ringAt (tileAt s r.part r.tile) r.ring).started = true)
    (more : (ringAt (tileAt s r.part r.tile) r.ring).next < w.bobs)
    (free : (bobAt (ringAt (tileAt s r.part r.tile) r.ring)
      ((ringAt (tileAt s r.part r.tile) r.ring).total % w.r.nslots)).st = .free)
    (few : ((ringAt (tileAt s r.part r.tile) r.ring).bobs.filter (fun b => decide (b.st = .issued))).length ≤ w.r.outst)
    (dropped : (bobAt (ringAt (tileAt s r.part r.tile) r.ring) (ringAt (tileAt s r.part r.tile) r.ring).head).st ≠ .deferred)
    (old : (bobAt (ringAt (tileAt s r.part r.tile) r.ring) (ringAt (tileAt s r.part r.tile) r.ring).head).st ≠ .stale) :
    exec (.fetchIssue r) s = .next (issueInto
      (updTile s r.part r.tile fun u => setRing u r.ring (advanced (ringAt u r.ring))) ⟨r.part, r.tile⟩ r.ring
      ((ringAt (tileAt s r.part r.tile) r.ring).total % w.r.nslots) (ringAt (tileAt s r.part r.tile) r.ring).next w [r.tile.val]
      (firstWaiting s r.part r.ring ((ringAt (tileAt s r.part r.tile) r.ring).total % w.r.nslots) [r.tile.val])) := by
  have tiles : fanTiles s r.part r.ring r.tile w = [r.tile.val] := if_pos alone
  have next_ : nextBob (ringAt (tileAt s r.part r.tile) r.ring) w = some (w, (ringAt (tileAt s r.part r.tile) r.ring).next, false) :=
    if_pos more
  have two : (w.r.fan = 2) = False := by rw [alone]; decide
  show execFetchIssue r s = _
  simp only [execFetchIssue, hw, run, dir, begun, tiles, next_, free, dropped, old, Nat.lt_succ_of_le few, ok,
    List.all_cons, List.all_nil, List.foldl_cons, List.foldl_nil, ne_eq, not_true_eq_false, Bool.not_true, Bool.not_false,
    Bool.false_eq_true, Bool.true_or, or_self, false_and, two, decide_true, Bool.and_self, if_false]
  rfl

/-- What the issue of the next bobbin leaves: it stands issued in its slot, and its ring has counted it. -/
theorem fetchIssue_issues (ok : TilesOk s) (inPart : r.tile.val < nTiles s r.part)
    (hw : (ringAt (tileAt s r.part r.tile) r.ring).walk = some w) (run : issues s r.part = true)
    (dir : (ringAt (tileAt s r.part r.tile) r.ring).dir = 1) (alone : w.r.fan = 0)
    (begun : (ringAt (tileAt s r.part r.tile) r.ring).started = true)
    (more : (ringAt (tileAt s r.part r.tile) r.ring).next < w.bobs) {slot : Nat}
    (hslot : slot = (ringAt (tileAt s r.part r.tile) r.ring).total % w.r.nslots)
    (len : (ringAt (tileAt s r.part r.tile) r.ring).bobs.length = w.r.nslots)
    (free : (bobAt (ringAt (tileAt s r.part r.tile) r.ring) slot).st = .free)
    (few : ((ringAt (tileAt s r.part r.tile) r.ring).bobs.filter (fun b => decide (b.st = .issued))).length ≤ w.r.outst)
    (dropped : (bobAt (ringAt (tileAt s r.part r.tile) r.ring) (ringAt (tileAt s r.part r.tile) r.ring).head).st ≠ .deferred)
    (old : (bobAt (ringAt (tileAt s r.part r.tile) r.ring) (ringAt (tileAt s r.part r.tile) r.ring).head).st ≠ .stale)
    (fresh : epochOk s r.part w = true) :
    ∃ t frs reqs, exec (.fetchIssue r) s = .next t ∧ bobAt (ringAt (tileAt t r.part r.tile) r.ring) slot =
        issuedBob w (ringAt (tileAt s r.part r.tile) r.ring).next (firstWaiting s r.part r.ring slot [r.tile.val]) frs reqs ∧
      (ringAt (tileAt t r.part r.tile) r.ring).next = (ringAt (tileAt s r.part r.tile) r.ring).next + 1 ∧
      (ringAt (tileAt t r.part r.tile) r.ring).total = (ringAt (tileAt s r.part r.tile) r.ring).total + 1 ∧
      dataOf (tileAt t r.part r.tile) = dataOf (tileAt s r.part r.tile) ∧ t.t2 = s.t2 ∧ t.journal = s.journal ∧ t.host = s.host := by
  obtain ⟨m, hm⟩ := tileIx_of_lt inPart
  generalize hx : tileAt s r.part r.tile = x at *
  have hok : TileOk x := hx ▸ tileAt_ok ok r.part r.tile
  generalize hz : setRing x r.ring (advanced (ringAt x r.ring)) = z
  have zok : TileOk z := hz ▸ setRing_ok hok _ _
  have zring : ringAt z r.ring = advanced (ringAt x r.ring) := hz ▸ ringAt_setRing_self hok.rings_rise _
  generalize hv : setTile s r.part r.tile z = v
  have hexec := exec_fetchIssue (s := s) (r := r) (w := w) (by rwa [hx]) run (by rwa [hx]) alone (by rwa [hx]) (by rwa [hx])
    (by rwa [hx, ← hslot]) (by rwa [hx]) (by rwa [hx]) (by rwa [hx])
  rw [updTile, hx, hz, hv, ← hslot] at hexec
  have vfresh : epochOk v r.part w = true := by rw [← hv, epochOk, regionAt, partAt_setTile]; exact fresh
  obtain ⟨u, frs, reqs, kept, e⟩ := issueInto_issues (s := v) (a := ⟨r.part, r.tile⟩) (w := w) r.ring slot (ringAt x r.ring).next
    (firstWaiting s r.part r.ring slot [r.tile.val]) vfresh
  dsimp only at e kept
  have vm : tileIx v r.part r.tile = some m := by rw [← hv, tileIx_setTile]; exact hm
  have um : tileIx u r.part r.tile = some m := (kept.tileIx ..).trans vm
  have uz : tileAt u r.part r.tile = z := (kept.tileAt ..).trans (hv ▸ tileAt_setTile _ _ hm)
  rw [updTile_twice _ _ um, uz] at e
  have inRing : slot < (ringAt z r.ring).bobs.length := by
    rw [zring, hslot]
    exact len.symm ▸ Nat.mod_lt _ (Nat.succ_pos _)
  refine ⟨_, frs, reqs, hexec.trans (congrArg _ e), ?_⟩
  rw [tileAt_setTile _ _ um, setTile_t2]
  have again := putBob_ok (n := r.ring) (slot := slot) zok (issuedBob w (ringAt x r.ring).next
    (firstWaiting s r.part r.ring slot [r.tile.val]) frs [])
  refine ⟨bobAt_putBob again.rings_rise _ (by rw [ringAt_putBob zok.rings_rise, setBob_length]; exact inRing), ?_, ?_, ?_, ?_, ?_, ?_⟩
  · rw [ringAt_putBob again.rings_rise, setBob, ringAt_putBob zok.rings_rise, setBob, zring]; rfl
  · rw [ringAt_putBob again.rings_rise, setBob, ringAt_putBob zok.rings_rise, setBob, zring]; rfl
  · rw [dataOf_putBob, dataOf_putBob, ← hz]; rfl
  · rw [kept.t2, ← hv, setTile_t2]
  · rw [setTile_journal, kept.journal, ← hv, setTile_journal]
  · rw [setTile_host, kept.host, ← hv, setTile_host]


/-! ### What reads' errors leave (R208, R401) -/

/-- The tiles and the partitions of a state. -/
def tilesParts (s : State) : Map Tile × List Part := (s.tiles, s.parts)

theorem sectorFixed_keeps (s : State) (k : Nat) : tilesParts (sectorFixed s k) = tilesParts s := by
  unfold sectorFixed
  dsimp only
  obtain ⟨_, e⟩ := addHist_changes (addCtr (s.withT2 { s.t2 with fixed := s.t2.fixed ++ [⟨pkgOf s (32 * k), Config.dramRow k, s.time.now⟩] })
    (ctrKey 0 3 (chanOf (32 * k)) 0 + cSectors) 1) 0 2 (ctrKey 0 3 (chanOf (32 * k)) 0) (BitVec.ofNat 64 (32 * k)) false
  rw [e]
  rfl

theorem meetErrs_keeps (s : State) (lines : List Nat) (e : ReadErrs) : tilesParts (meetErrs s lines e) = tilesParts s := by
  unfold meetErrs
  dsimp only
  have broken (u : State) (k : Nat) : tilesParts (sectorBroken u k) = tilesParts u := rfl
  have counted (num : Nat) (u : State) (k : Nat) : tilesParts (eccFixed num u k) = tilesParts u := rfl
  rw [foldl_keeps tilesParts broken, foldl_keeps tilesParts sectorFixed_keeps, foldl_keeps tilesParts (counted _),
    foldl_keeps tilesParts (counted _)]

theorem linesBroken_keeps (s : State) (l : List (Nat × Nat)) : tilesParts (linesBroken s l) = tilesParts s := by
  refine foldl_keeps tilesParts (fun u e => ?_) l s
  split <;> rfl

theorem readErrors_keeps (s : State) (p : Nat) (g : Region) (w : Walk) (b : Bobbin) (e : ReadErrs) :
    tilesParts (readErrors s p g w b e) = tilesParts s :=
  (linesBroken_keeps ..).trans (meetErrs_keeps ..)

theorem readersDone_keeps (s : State) (l : List Nat) : tilesParts (readersDone s l) = tilesParts s := by
  obtain ⟨_, e⟩ := readersDone_changes s l
  rw [e]; rfl

theorem tileIx_of_keeps {s t : State} (h : tilesParts t = tilesParts s) (p k : Nat) : tileIx t p k = tileIx s p k :=
  tileIx_congr (congrArg Part.groups (partAt_congr (congrArg Prod.snd h) p)) k

theorem tileAt_of_keeps {s t : State} (h : tilesParts t = tilesParts s) (p k : Nat) : tileAt t p k = tileAt s p k :=
  tileAt_congr p k (tileIx_of_keeps h p k) (congrArg Prod.fst h)

/-! ### FETCH_LAND (R166, R174, R208, R210) -/

/-- What every step of a fold over a tile changes of T0 and its poison alone, the fold changes of them alone. -/
theorem foldl_t0 {α : Type} {f : Tile → α → Tile} (h : ∀ x e, ∃ m p, f x e = { x with t0 := m, pois := p }) (l : List α) (x : Tile) :
    ∃ m p, l.foldl f x = { x with t0 := m, pois := p } := by
  induction l generalizing x with
  | nil => exact ⟨x.t0, x.pois, rfl⟩
  | cons e l ih =>
    obtain ⟨_, _, first⟩ := h x e
    obtain ⟨m, p, rest⟩ := ih (f x e)
    exact ⟨m, p, by rw [List.foldl_cons, rest, first]⟩

/-- Landing a bobbin changes T0 and its poison. -/
theorem landBob_changes (x : Tile) (w : Walk) (src : Nat → PByte) (k base : Nat) :
    ∃ m p, landBob x w src k base = { x with t0 := m, pois := p } := by
  refine foldl_t0 (fun y j => ?_) _ x
  dsimp only
  obtain ⟨m, p, elems⟩ := foldl_t0 (f := fun t n => { t with
    t0 := memPutElem t.t0 (base + j * w.pitch) w.fmt n (srcElem w src (k * w.r.bpb + j) n).1
    pois := tagRange t.pois (base + j * w.pitch + elemBit w.fmt n / 8) ((elemBit w.fmt n % 8 + w.fmt.bits + 7) / 8)
      (srcElem w src (k * w.r.bpb + j) n).2 }) (fun _ _ => ⟨_, _, rfl⟩) (List.range w.r.elems) y
  split
  · obtain ⟨m', p', scales⟩ := foldl_t0 (f := fun t q => t0Write t (base + j * w.pitch + packedBytes w.fmt w.r.elems + q)
      [(srcScale w src (k * w.r.bpb + j) q).1] (srcScale w src (k * w.r.bpb + j) q).2) (fun _ _ => ⟨_, _, rfl⟩)
      (List.range (w.r.elems / sblkLen w.td.sblk)) { y with t0 := m, pois := p }
    exact ⟨m', p', by rw [elems, scales]⟩
  · exact ⟨m, p, elems⟩

section
variable {slot : Fin 16} {data : List Byte} {v : Walk} {g : Region}

/-- The tile into which a bobbin has landed. -/
def landTile (s : State) (r : RingAt) (slot : Nat) (w v : Walk) (g : Region) (e : ReadErrs) (data : List Byte) : Tile :=
  let b := bobAt (ringAt (tileAt s r.part r.tile) r.ring) slot
  landBob (tileAt s r.part r.tile) { v with bad := tagOr v.bad w.bad }
    (fetchByte (readErrors s r.part g v b e) r.part g v b.frs b.lo data) b.k (bobBase w slot)

/-- The state in which a bobbin has landed, but for its tile and the invalidations that waited for its reads. -/
def landReads (s : State) (r : RingAt) (slot : Nat) (v : Walk) (g : Region) (e : ReadErrs) : State :=
  let b := bobAt (ringAt (tileAt s r.part r.tile) r.ring) slot
  readersDone (addCtr (readErrors s r.part g v b e) (ctrKey r.part 1 r.tile cStreamIn) (v.r.bpb * v.pitch)) b.frs

theorem landReads_keeps (s : State) (r : RingAt) (slot : Nat) (v : Walk) (g : Region) (e : ReadErrs) :
    tilesParts (landReads s r slot v g e) = tilesParts s :=
  (readersDone_keeps ..).trans ((show tilesParts (addCtr ..) = tilesParts _ from rfl).trans (readErrors_keeps ..))

/-- A bobbin whose reads are over. -/
def settledBob (b : Bobbin) (st : BState) : Bobbin := { b with st := st, frs := [], reqs := [] }

theorem exec_fetchLand_ok {e : ReadErrs} (hw : (ringAt (tileAt s r.part r.tile) r.ring).walk = some w)
    (sound : (partAt s r.part).fault = none) (issued : (bobAt (ringAt (tileAt s r.part r.tile) r.ring) slot).st = .issued)
    (hv : (bobAt (ringAt (tileAt s r.part r.tile) r.ring) slot).w = some v) (hg : regionAt s r.part v.td.region = some g)
    (whole : g.p.hostback = true →
      homeSpans s r.part v (bobAt (ringAt (tileAt s r.part r.tile) r.ring) slot).frs
        (bobSpans v (bobAt (ringAt (tileAt s r.part r.tile) r.ring) slot).k) ≠ [] →
      (bobAt (ringAt (tileAt s r.part r.tile) r.ring) slot).hi - (bobAt (ringAt (tileAt s r.part r.tile) r.ring) slot).lo ≤
        data.length) :
    exec (.fetchLand r slot (.ok e) data) s = .next (sweepInvals (setTile (landReads s r slot v g e) r.part r.tile
      (putBob (landTile s r slot w v g e data) r.ring slot
        (settledBob (bobAt (ringAt (tileAt s r.part r.tile) r.ring) slot) .filled))) r.part) := by
  have there : (g.p.hostback && decide (homeSpans s r.part v (bobAt (ringAt (tileAt s r.part r.tile) r.ring) slot).frs
        (bobSpans v (bobAt (ringAt (tileAt s r.part r.tile) r.ring) slot).k) ≠ []) &&
      decide (data.length < (bobAt (ringAt (tileAt s r.part r.tile) r.ring) slot).hi -
        (bobAt (ringAt (tileAt s r.part r.tile) r.ring) slot).lo)) = false := by
    rw [Bool.eq_false_iff]
    intro h
    simp only [Bool.and_eq_true, decide_eq_true_eq] at h
    obtain ⟨⟨host, home⟩, short⟩ := h
    exact absurd short (Nat.not_lt.2 (whole host home))
  show execFetchLand r slot (.ok e) data s = _
  simp only [execFetchLand, hv, hg, hw, issued, sound, there, ok, Option.bind_some, Option.getD_some, Option.isSome_none, ne_eq,
    not_true_eq_false, Bool.false_eq_true, or_self, if_false]
  rw [tileAt_of_keeps (s := s) (t := addCtr _ _ _) (readErrors_keeps ..), settledBob, hv]
  rfl

theorem tileAt_sweepInvals (s : State) (p q k : Nat) : tileAt (sweepInvals s p) q k = tileAt s q k := by
  obtain ⟨_, e⟩ := sweepInvals_changes s p
  rw [e]; rfl

theorem fetchLand_fills {e : ReadErrs} (ok : TilesOk s) (inPart : r.tile.val < nTiles s r.part)
    (hw : (ringAt (tileAt s r.part r.tile) r.ring).walk = some w)
    (sound : (partAt s r.part).fault = none) (inRing : slot.val < (ringAt (tileAt s r.part r.tile) r.ring).bobs.length)
    (issued : (bobAt (ringAt (tileAt s r.part r.tile) r.ring) slot).st = .issued)
    (hv : (bobAt (ringAt (tileAt s r.part r.tile) r.ring) slot).w = some v) (hg : regionAt s r.part v.td.region = some g)
    (whole : g.p.hostback = true →
      homeSpans s r.part v (bobAt (ringAt (tileAt s r.part r.tile) r.ring) slot).frs
        (bobSpans v (bobAt (ringAt (tileAt s r.part r.tile) r.ring) slot).k) ≠ [] →
      (bobAt (ringAt (tileAt s r.part r.tile) r.ring) slot).hi - (bobAt (ringAt (tileAt s r.part r.tile) r.ring) slot).lo ≤
        data.length) :
    ∃ t, exec (.fetchLand r slot (.ok e) data) s = .next t ∧
      bobAt (ringAt (tileAt t r.part r.tile) r.ring) slot =
        settledBob (bobAt (ringAt (tileAt s r.part r.tile) r.ring) slot) .filled ∧
      (tileAt t r.part r.tile).t0 = (landTile s r slot w v g e data).t0 ∧
      (tileAt t r.part r.tile).sregs = (tileAt s r.part r.tile).sregs ∧ t.parts = s.parts ∧
      t.t2 = (readErrors s r.part g v (bobAt (ringAt (tileAt s r.part r.tile) r.ring) slot) e).t2 := by
  obtain ⟨n, hn⟩ := tileIx_of_lt inPart
  refine ⟨_, exec_fetchLand_ok hw sound issued hv hg whole, ?_⟩
  have kept := landReads_keeps s r slot v g e
  have hn' : tileIx (landReads s r slot v g e) r.part r.tile = some n := (tileIx_of_keeps kept ..).trans hn
  have parts : (landReads s r slot v g e).parts = s.parts := congrArg Prod.snd kept
  have t2 : (landReads s r slot v g e).t2 = (readErrors s r.part g v (bobAt (ringAt (tileAt s r.part r.tile) r.ring) slot) e).t2 := by
    unfold landReads
    obtain ⟨_, e⟩ := readersDone_changes (addCtr (readErrors s r.part g v (bobAt (ringAt (tileAt s r.part r.tile) r.ring) slot) e)
      (ctrKey r.part 1 r.tile cStreamIn) (v.r.bpb * v.pitch)) (bobAt (ringAt (tileAt s r.part r.tile) r.ring) slot).frs
    exact (congrArg State.t2 e).trans rfl
  generalize landReads s r slot v g e = u at *
  obtain ⟨m, p, land⟩ : ∃ m p, landTile s r slot w v g e data = { tileAt s r.part r.tile with t0 := m, pois := p } := landBob_changes ..
  generalize hz : landTile s r slot w v g e data = z at *
  have rise : keysRise z.rings = true := land ▸ (tileAt_ok ok r.part r.tile).rings_rise
  have inRing' : slot.val < (ringAt z r.ring).bobs.length := land ▸ inRing
  obtain ⟨fns, e⟩ := sweepInvals_changes (setTile u r.part r.tile (putBob z r.ring slot
    (settledBob (bobAt (ringAt (tileAt s r.part r.tile) r.ring) slot) .filled))) r.part
  rw [tileAt_sweepInvals, tileAt_setTile _ _ hn', bobAt_putBob rise _ inRing', e]
  refine ⟨rfl, rfl, ?_, (setTile_parts ..).trans parts, (setTile_t2 ..).trans t2⟩
  exact land ▸ rfl

/-! ### A fetch whose host read fails (R174, R210) -/

theorem hostReadFails_changes (s : State) (f : Nat) (g : Region) (addr : Word64) (why : TransWhy) :
    ∃ x, hostReadFails s f g addr why = s.withFns x := by
  unfold hostReadFails
  dsimp only
  split <;> exact ⟨_, rfl⟩

/-- A failure other than a missing permission is reported through AER. -/
theorem hostReadFails_reports {f : Nat} (g : Region) (addr : Word64) {why : TransWhy} (hf : f < s.fns.length) (h : why ≠ .noPermission) :
    why ∈ (fnAt (hostReadFails s f g addr why) f).aer := by
  rw [hostReadFails, if_neg h, fnAt_setFn _ _ _ _ hf, if_pos rfl]
  exact List.mem_cons_self ..

theorem sweepInvals_aer (s : State) (p : Nat) : (fnAt (sweepInvals s p) p).aer = (fnAt s p).aer := by
  unfold sweepInvals
  dsimp only
  split
  · rfl
  · by_cases h : p < s.fns.length
    · rw [fnAt_setFn _ _ _ _ h, if_pos rfl]
    · rw [setFn, listSet, List.set_eq_of_length_le (Nat.not_lt.1 h)]
      rfl

/-- The fetch whose host read fails: a demand fetch faults at its consumer, a prefetch is deferred. -/
theorem exec_fetchLand_fails {addr : Word64} {why : TransWhy} (hw : (ringAt (tileAt s r.part r.tile) r.ring).walk = some w)
    (sound : (partAt s r.part).fault = none) (issued : (bobAt (ringAt (tileAt s r.part r.tile) r.ring) slot).st = .issued)
    (hv : (bobAt (ringAt (tileAt s r.part r.tile) r.ring) slot).w = some v) (hg : regionAt s r.part v.td.region = some g)
    (host : g.p.hostback = true) (home : homeSpans s r.part v (bobAt (ringAt (tileAt s r.part r.tile) r.ring) slot).frs
        (bobSpans v (bobAt (ringAt (tileAt s r.part r.tile) r.ring) slot).k) ≠ []) :
    exec (.fetchLand r slot (.translation addr why) data) s = .next (
      match (bobAt (ringAt (tileAt s r.part r.tile) r.ring) slot).demand with
      | some k => tileFault (hostReadFails s r.part g addr why) ⟨r.part, Fin.ofNat 192 k⟩
          (consumerWord s ⟨r.part, Fin.ofNat 192 k⟩ r.ring).1 (consumerWord s ⟨r.part, Fin.ofNat 192 k⟩ r.ring).2 0x0320 addr.toNat
          (r.ring + 256 * ((bobAt (ringAt (tileAt s r.part r.tile) r.ring) slot).k % 2 ^ 24))
      | none => sweepInvals (deferBob (hostReadFails s r.part g addr why) r.part r.ring slot
          (fanTiles (hostReadFails s r.part g addr why) r.part r.ring r.tile w)
          (bobAt (ringAt (tileAt s r.part r.tile) r.ring) slot)) r.part) := by
  obtain ⟨_, e⟩ := hostReadFails_changes s r.part g addr why
  show execFetchLand r slot (.translation addr why) data s = _
  simp only [execFetchLand, hv, hg, hw, issued, sound, host, home, ok, Option.bind_some, Option.getD_some, Option.isSome_none, ne_eq,
    not_true_eq_false, not_false_eq_true, decide_true, Bool.and_self, Bool.not_true, Bool.false_eq_true, or_self, if_false]
  rw [e]
  rfl

/-- A prefetch outside a fan is deferred in its slot. -/
theorem deferBob_alone (u : State) {a : RingAt} {b : Bobbin} (slot : Nat) (st : b.st = .issued)
    (hb : bobAt (ringAt (tileAt u a.part a.tile) a.ring) slot = b) :
    deferBob u a.part a.ring slot [a.tile.val] b =
      updTile (readersDone u b.frs) a.part a.tile (putBob · a.ring slot (settledBob b .deferred)) := by
  have own : tilesWith u a.part a.ring slot b.k .issued [a.tile.val] = [a.tile.val] := by simp [tilesWith, hb, st]
  simp only [deferBob, own, List.foldl_cons, List.foldl_nil, hb, putBobs]
  rfl

theorem fetchLand_defers {addr : Word64} {why : TransWhy} (hs : Inv s) (ok : TilesOk s) (inPart : r.tile.val < nTiles s r.part)
    (hw : (ringAt (tileAt s r.part r.tile) r.ring).walk = some w) (sound : (partAt s r.part).fault = none)
    (inRing : slot.val < (ringAt (tileAt s r.part r.tile) r.ring).bobs.length)
    (issued : (bobAt (ringAt (tileAt s r.part r.tile) r.ring) slot).st = .issued)
    (hv : (bobAt (ringAt (tileAt s r.part r.tile) r.ring) slot).w = some v) (hg : regionAt s r.part v.td.region = some g)
    (host : g.p.hostback = true) (home : homeSpans s r.part v (bobAt (ringAt (tileAt s r.part r.tile) r.ring) slot).frs
      (bobSpans v (bobAt (ringAt (tileAt s r.part r.tile) r.ring) slot).k) ≠ [])
    (early : (bobAt (ringAt (tileAt s r.part r.tile) r.ring) slot).demand = none) (alone : w.r.fan = 0) :
    ∃ t, exec (.fetchLand r slot (.translation addr why) data) s = .next t ∧
      bobAt (ringAt (tileAt t r.part r.tile) r.ring) slot =
        settledBob (bobAt (ringAt (tileAt s r.part r.tile) r.ring) slot) .deferred ∧
      (why ≠ .noPermission → why ∈ (fnAt t r.part).aer) ∧
      dataOf (tileAt t r.part r.tile) = dataOf (tileAt s r.part r.tile) ∧ t.parts = s.parts ∧ t.t2 = s.t2 := by
  obtain ⟨n, hn⟩ := tileIx_of_lt inPart
  obtain ⟨⟨hfns, -⟩, -⟩ := hs
  obtain ⟨fns, fails⟩ := hostReadFails_changes s r.part g addr why
  have reports := hostReadFails_reports (s := s) g addr (why := why) (by rw [hfns]; exact r.part.isLt)
  have hexec := exec_fetchLand_fails (data := data) (addr := addr) (why := why) hw sound issued hv hg host home
  generalize hx : tileAt s r.part r.tile = x at *
  generalize hb : bobAt (ringAt x r.ring) slot = b at *
  generalize hu : hostReadFails s r.part g addr why = u at *
  have ux : tileAt u r.part r.tile = x := by rw [fails]; exact hx
  have tiles : fanTiles u r.part r.ring r.tile w = [r.tile.val] := if_pos alone
  rw [early, tiles] at hexec
  dsimp only at hexec
  rw [deferBob_alone u slot issued (by rw [ux, hb])] at hexec
  obtain ⟨t1, done⟩ := readersDone_changes u b.frs
  have dx : tileAt (readersDone u b.frs) r.part r.tile = x := by rw [done]; exact ux
  have dn : tileIx (readersDone u b.frs) r.part r.tile = some n := by rw [done, fails]; exact hn
  rw [updTile, dx] at hexec
  have rise : keysRise x.rings = true := hx ▸ (tileAt_ok ok r.part r.tile).rings_rise
  refine ⟨_, hexec, ?_⟩
  obtain ⟨swept, e⟩ := sweepInvals_changes (setTile (readersDone u b.frs) r.part r.tile
    (putBob x r.ring slot (settledBob b .deferred))) r.part
  rw [tileAt_sweepInvals, tileAt_setTile _ _ dn, bobAt_putBob rise _ inRing]
  refine ⟨rfl, fun h => ?_, rfl, ?_, ?_⟩
  · rw [sweepInvals_aer]
    obtain ⟨_, e⟩ := setTile_changes (readersDone u b.frs) r.part r.tile (putBob x r.ring slot (settledBob b .deferred))
    rw [e, done]
    exact reports h
  · rw [e]; exact (setTile_parts ..).trans (by rw [done, fails]; rfl)
  · rw [e]; exact (setTile_t2 ..).trans (by rw [done, fails]; rfl)

theorem fetchLand_faults {addr : Word64} {why : TransWhy} {k : Fin 192} (hs : Inv s)
    (hw : (ringAt (tileAt s r.part r.tile) r.ring).walk = some w) (sound : (partAt s r.part).fault = none)
    (issued : (bobAt (ringAt (tileAt s r.part r.tile) r.ring) slot).st = .issued)
    (hv : (bobAt (ringAt (tileAt s r.part r.tile) r.ring) slot).w = some v) (hg : regionAt s r.part v.td.region = some g)
    (host : g.p.hostback = true) (home : homeSpans s r.part v (bobAt (ringAt (tileAt s r.part r.tile) r.ring) slot).frs
      (bobSpans v (bobAt (ringAt (tileAt s r.part r.tile) r.ring) slot).k) ≠ [])
    (demanded : (bobAt (ringAt (tileAt s r.part r.tile) r.ring) slot).demand = some k.val) :
    ∃ t, exec (.fetchLand r slot (.translation addr why) data) s = .next t ∧
      FaultAt s t ⟨r.part, k⟩ (consumerWord s ⟨r.part, k⟩ r.ring).1 (consumerWord s ⟨r.part, k⟩ r.ring).2 0x0320
        (fun f => f.addr = addr.toNat ∧
          f.detail = r.ring.val + 256 * ((bobAt (ringAt (tileAt s r.part r.tile) r.ring) slot).k % 2 ^ 24)) := by
  have hexec := exec_fetchLand_fails (data := data) (addr := addr) (why := why) hw sound issued hv hg host home
  have hk : Fin.ofNat 192 k.val = k := Fin.ext (Nat.mod_eq_of_lt k.isLt)
  rw [demanded] at hexec
  dsimp only at hexec
  rw [hk] at hexec
  obtain ⟨_, fails⟩ := hostReadFails_changes s r.part g addr why
  refine ⟨_, hexec, ?_⟩
  rw [fails]
  exact faultAt_of_before (tileFault_faultAt _ _ 0x0320 _ _ (lt_of_inv hs r.part) sound) rfl rfl

/-! ### The start of a fan (R177) -/

theorem fanStart_starts (ok : TilesOk s) (inPart : r.tile.val < nTiles s r.part)
    (hw : (ringAt (tileAt s r.part r.tile) r.ring).walk = some w) (lead : w.r.fan = 1)
    (waits : (ringAt (tileAt s r.part r.tile) r.ring).started = false) (run : issues s r.part = true)
    (all : (fanMembers s r.part r.ring r.tile).length = w.r.fanarg)
    (fit : ∀ k ∈ fanMembers s r.part r.ring r.tile, ∀ v, (ringAt (tileAt s r.part k) r.ring).walk = some v → fanMatch w v = true) :
    ∃ t, exec (.fanStart r) s = .next t ∧ ringAt (tileAt t r.part r.tile) r.ring =
        { ringAt (tileAt s r.part r.tile) r.ring with started := true } ∧ t.withTiles s.tiles = s := by
  obtain ⟨n, hn⟩ := tileIx_of_lt inPart
  have hexec : exec (.fanStart r) s = .next (setTile s r.part r.tile (setRing (tileAt s r.part r.tile) r.ring
      { ringAt (tileAt s r.part r.tile) r.ring with started := true })) := by
    show execFanStart r s = _
    simp only [execFanStart, hw, lead, waits, run, all, Nat.lt_irrefl, Machine.ok, ne_eq, not_true_eq_false, Bool.not_true,
      Bool.false_eq_true, or_self, if_false]
    split
    · rename_i k hk
      have differs := List.find?_some hk
      split at differs
      · simp [fit k (List.mem_of_find?_eq_some hk) _ ‹_›] at differs
      · cases differs
    · rfl
  refine ⟨_, hexec, ?_, setTile_withTiles ..⟩
  rw [tileAt_setTile _ _ hn, ringAt_setRing_self (tileAt_ok ok r.part r.tile).rings_rise]

/-! ### A sent bobbin becomes visible (R166, R176, R178) -/

/-- The slot of a bobbin that was sent: the tail of the current walk where the head has come round to it, or free. -/
def visibleBob (y : Ring) (slot : Nat) : Bobbin := if y.head = slot then { Bobbin.free with st := .tail, w := y.walk } else Bobbin.free

theorem visibleBob_still (y : Ring) (slot : Nat) : (visibleBob y slot).st ≠ .sending := by
  unfold visibleBob
  split <;> exact nofun

/-- The state in which the slot of a sent bobbin is given back. -/
def sentOff (s : State) (r : RingAt) (slot : Nat) (v : Walk) : State :=
  let x := tileAt s r.part r.tile
  addCtr (setTile s r.part r.tile (putBob x r.ring slot (visibleBob (ringAt x r.ring) slot))) (ctrKey r.part 1 r.tile cStreamOut)
    (v.r.bpb * v.pitch)

theorem exec_sendVisible (sound : (partAt s r.part).fault = none)
    (sending : (bobAt (ringAt (tileAt s r.part r.tile) r.ring) slot).st = .sending)
    (hv : (bobAt (ringAt (tileAt s r.part r.tile) r.ring) slot).w = some v) :
    exec (.sendVisible r slot) s = .next (
      let x := tileAt s r.part r.tile
      let b := bobAt (ringAt x r.ring) slot
      if v.r.ptile = 255 then
        markSpans (clearBob (storeBob (sentOff s r slot v) x v (sendPages (sentOff s r slot v) r.part v) b.k (bobBase v slot)) v
          (sendPages (sentOff s r slot v) r.part v) b.k) r.part v.td.region (bobSpans v b.k)
      else updTile (sentOff s r slot v) r.part v.r.ptile fun u =>
        t0Write u (64 * (v.r.paddr + (b.k % (v.r.pwrap + 1)) * v.r.pstride)) (memRead x.t0 (bobBase v slot) (v.r.bpb * v.pitch)) 0) := by
  show execSendVisible r slot s = _
  simp only [execSendVisible, hv, sending, sound, ok, Option.isSome_none, ne_eq, not_true_eq_false, Bool.false_eq_true, or_self, if_false]
  rfl

theorem tileAt_setTile_ne {u : State} {p j k : Nat} (x : Tile) (h : tileIx u p j ≠ tileIx u p k) :
    tileAt (setTile u p k x) p j = tileAt u p j := by
  rw [tileAt, tileIx_setTile, tileAt]
  cases hj : tileIx u p j with
  | none => rfl
  | some m =>
    cases hk : tileIx u p k with
    | none => rw [setTile, hk]
    | some n =>
      dsimp only
      rw [tileRaw_setTile _ hk, if_neg]
      rintro rfl
      exact h (hj.trans hk.symm)

section
variable {n : Nat}

theorem sentOff_parts : (sentOff s r slot v).parts = s.parts := setTile_parts ..
theorem sentOff_t2 : (sentOff s r slot v).t2 = s.t2 := setTile_t2 ..
theorem sentOff_tileIx (k : Nat) : tileIx (sentOff s r slot v) r.part k = tileIx s r.part k := tileIx_setTile ..

theorem sentOff_own (hn : tileIx s r.part r.tile = some n) : tileAt (sentOff s r slot v) r.part r.tile =
    putBob (tileAt s r.part r.tile) r.ring slot (visibleBob (ringAt (tileAt s r.part r.tile) r.ring) slot) :=
  tileAt_setTile s _ hn

theorem sentOff_other {k : Nat} (h : tileIx s r.part k ≠ tileIx s r.part r.tile) :
    tileAt (sentOff s r slot v) r.part k = tileAt s r.part k := tileAt_setTile_ne _ h

/-- A bobbin sent to another tile of the partition is in its T0. -/
theorem sendVisible_peer (ok : TilesOk s) (inPart : r.tile.val < nTiles s r.part) (sound : (partAt s r.part).fault = none)
    (inRing : slot.val < (ringAt (tileAt s r.part r.tile) r.ring).bobs.length)
    (sending : (bobAt (ringAt (tileAt s r.part r.tile) r.ring) slot).st = .sending)
    (hv : (bobAt (ringAt (tileAt s r.part r.tile) r.ring) slot).w = some v) (peer : v.r.ptile ≠ 255)
    (there : v.r.ptile < nTiles s r.part) (apart : tileIx s r.part v.r.ptile ≠ tileIx s r.part r.tile) :
    ∃ t, exec (.sendVisible r slot) s = .next t ∧ (bobAt (ringAt (tileAt t r.part r.tile) r.ring) slot).st ≠ .sending ∧
      (tileAt t r.part v.r.ptile).t0 = memWrite (tileAt s r.part v.r.ptile).t0
        (64 * (v.r.paddr + ((bobAt (ringAt (tileAt s r.part r.tile) r.ring) slot).k % (v.r.pwrap + 1)) * v.r.pstride))
        (memRead (tileAt s r.part r.tile).t0 (bobBase v slot) (v.r.bpb * v.pitch)) ∧
      dataOf (tileAt t r.part r.tile) = dataOf (tileAt s r.part r.tile) ∧ t.t2 = s.t2 ∧ t.parts = s.parts := by
  obtain ⟨n, hn⟩ := tileIx_of_lt inPart
  obtain ⟨m, hm⟩ := tileIx_of_lt there
  have hexec := exec_sendVisible sound sending hv
  dsimp only at hexec
  rw [if_neg peer, updTile, sentOff_other apart] at hexec
  refine ⟨_, hexec, ?_⟩
  have apart' : tileIx (sentOff s r slot v) r.part r.tile ≠ tileIx (sentOff s r slot v) r.part v.r.ptile := by
    rw [sentOff_tileIx, sentOff_tileIx]; exact apart.symm
  rw [tileAt_setTile_ne _ apart', sentOff_own hn, tileAt_setTile _ _ ((sentOff_tileIx _).trans hm), setTile_t2, setTile_parts,
    sentOff_t2, sentOff_parts, bobAt_putBob (tileAt_ok ok r.part r.tile).rings_rise _ inRing]
  exact ⟨visibleBob_still _ _, rfl, rfl, rfl, rfl⟩

end

/-- What every step of a fold does to module memory alone, and from module memory alone, so does the fold. -/
structure MemoryStep (f : State → State) : Prop where
  changes : ∀ u, ∃ x, f u = u.withT2 x
  reads : ∀ u u', u.t2 = u'.t2 → (f u).t2 = (f u').t2

namespace MemoryStep

theorem id : MemoryStep fun u => u := ⟨fun u => ⟨u.t2, rfl⟩, fun _ _ h => h⟩

theorem comp {f g : State → State} (hg : MemoryStep g) (hf : MemoryStep f) : MemoryStep fun u => g (f u) where
  changes u := by
    obtain ⟨x, e⟩ := hf.changes u
    obtain ⟨y, e'⟩ := hg.changes (f u)
    exact ⟨y, by rw [e', e]; rfl⟩
  reads u u' h := hg.reads _ _ (hf.reads u u' h)

theorem foldl {α : Type} {f : State → α → State} (h : ∀ e, MemoryStep (f · e)) (l : List α) : MemoryStep fun u => l.foldl f u := by
  induction l with
  | nil => exact id
  | cons e l ih => exact ih.comp (h e)

theorem ite (c : Prop) [Decidable c] {f g : State → State} (hf : MemoryStep f) (hg : MemoryStep g) :
    MemoryStep fun u => if c then f u else g u := by
  split
  · exact hf
  · exact hg

end MemoryStep

theorem writePages_step (pages : List Nat) (off : Nat) (b : List Byte) : MemoryStep (writePages · pages off b) where
  changes _ := ⟨_, rfl⟩
  reads u u' h := by simp only [writePages, h, State.withT2_t2]

theorem putElem_step (pages : List Nat) (base : Nat) (f : Fmt) (n c : Nat) : MemoryStep (putElem · pages base f n c) where
  changes _ := ⟨_, rfl⟩
  reads u u' h := by
    have old (k : Nat) : readBytes u pages (base + elemBit f n / 8) k = readBytes u' pages (base + elemBit f n / 8) k := by
      simp only [readBytes, readByte, h]
    simp only [putElem, old]
    exact (writePages_step ..).reads u u' h

theorem storeBob_step (x : Tile) (w : Walk) (pages : List Nat) (k base : Nat) : MemoryStep (storeBob · x w pages k base) := by
  refine MemoryStep.foldl (fun j => ?_) _
  have elems := MemoryStep.foldl (f := fun (s : State) n =>
      let ij := blockPos w.r n
      if elemExists w (k * w.r.bpb + j) ij.1 ij.2 then
        let c := coords w (k * w.r.bpb + j) ij.1 ij.2
        putElem s pages (rowOff w c) w.fmt (c 0) (memElem x.t0 (base + j * w.pitch) w.fmt n)
      else s) (fun n => MemoryStep.ite _ (putElem_step ..) .id) (List.range w.r.elems)
  refine MemoryStep.ite _ (MemoryStep.comp (MemoryStep.foldl (fun q => ?_) _) elems) elems
  cases scaleSpot w (k * w.r.bpb + j) q with
  | none => exact .id
  | some o => exact writePages_step ..

theorem clearBob_step (w : Walk) (pages : List Nat) (k : Nat) : MemoryStep (clearBob · w pages k) where
  changes _ := ⟨_, rfl⟩
  reads u u' h := by simp only [clearBob, h, State.withT2_t2]

/-! ### Guard marks (R176) -/

/-- From x to y a tile's data has stayed, and no bobbin has begun to be sent. -/
structure MarksOnly (x y : Tile) : Prop where
  data : dataOf y = dataOf x
  still : ∀ n k, (bobAt (ringAt x n) k).st ≠ .sending → (bobAt (ringAt y n) k).st ≠ .sending

namespace MarksOnly
variable {x y z : Tile}

theorem refl (x : Tile) : MarksOnly x x := ⟨rfl, fun _ _ h => h⟩

theorem trans (h : MarksOnly x y) (g : MarksOnly y z) : MarksOnly x z :=
  ⟨g.data.trans h.data, fun n k e => g.still n k (h.still n k e)⟩

end MarksOnly

/-- The bobbins of an inbound ring that a write meets are stale. -/
def staleRing (hit : Bobbin → Bool) (y : Ring) : Ring :=
  if y.dir = 1 then { y with bobs := y.bobs.map fun b => if hit b then { b with st := .stale } else b } else y

/-- A tile with the bobbins that a write meets marked. -/
def staleTile (hit : Bobbin → Bool) (x : Tile) : Tile := { x with rings := x.rings.map fun e => (e.1, staleRing hit e.2) }

theorem bobAt_staleRing (hit : Bobbin → Bool) (y : Ring) (k : Nat) :
    bobAt (staleRing hit y) k = bobAt y k ∨ (bobAt (staleRing hit y) k).st = .stale := by
  unfold staleRing
  split
  · rw [bobAt, bobAt, List.getD_eq_getElem?_getD, List.getD_eq_getElem?_getD, List.getElem?_map]
    cases y.bobs[k]? with
    | none => exact .inl rfl
    | some b =>
      by_cases h : hit b = true
      · right; simp [h]
      · left; simp [h]
  · exact .inl rfl

theorem staleTile_marks (hit : Bobbin → Bool) (x : Tile) : MarksOnly x (staleTile hit x) where
  data := rfl
  still n k h := by
    have ring : ringAt (staleTile hit x) n = staleRing hit (ringAt x n) := mapGet_map Ring.closed (staleRing hit) rfl x.rings n
    rw [ring]
    obtain e | e := bobAt_staleRing hit (ringAt x n) k
    · rw [e]; exact h
    · rw [e]; exact nofun

/-- The bobbins that a write to a range of a region meets. -/
def meets (reg off n : Nat) (b : Bobbin) : Bool := decide ((b.w.map (fun w => w.td.region)) = some reg) &&
  overlap off n b.lo (b.hi - b.lo) && (b.st = .issued || b.st = .filled)

theorem markStale_eq (s : State) (p reg off n : Nat) :
    markStale s p reg off n = updTiles s p fun _ => staleTile (meets reg off n) := by
  refine congrArg (updTiles s p) (funext fun _ => funext fun x => ?_)
  have map : (x.rings.map fun e => if e.2.dir = 1 then (e.1, { e.2 with bobs := e.2.bobs.map (fun b =>
      if meets reg off n b then { b with st := .stale } else b) }) else e) =
      x.rings.map fun e => (e.1, staleRing (meets reg off n) e.2) := by
    refine List.map_congr_left fun e _ => ?_
    unfold staleRing
    split <;> rfl
  exact congrArg (fun l => { x with rings := l }) map

/-- An update of a partition's tiles that marks bobbins. -/
theorem updTiles_marks {f : Tile → Tile} (hf : ∀ x, MarksOnly x (f x)) (s : State) (p n : Nat) :
    MarksOnly (tileRaw s n) (tileRaw (updTiles s p fun _ => f) n) := by
  unfold updTiles
  generalize List.range (nTiles s p) = l
  induction l generalizing s with
  | nil => exact .refl _
  | cons k l ih =>
    refine MarksOnly.trans ?_ (ih (updTile s p k f))
    cases hk : tileIx s p k with
    | none => rw [updTile, setTile, hk]; exact .refl _
    | some m =>
      rw [updTile, tileRaw_setTile _ hk, tileAt_of_tileIx hk]
      split
      · subst_vars; exact hf _
      · exact .refl _

theorem markSpans_marks (s : State) (p reg : Nat) (l : List (Nat × Nat)) :
    (∃ m, markSpans s p reg l = s.withTiles m) ∧ ∀ n, MarksOnly (tileRaw s n) (tileRaw (markSpans s p reg l) n) := by
  unfold markSpans
  induction l generalizing s with
  | nil => exact ⟨⟨s.tiles, rfl⟩, fun _ => .refl _⟩
  | cons e l ih =>
    obtain ⟨⟨m, rest⟩, marks⟩ := ih (markStale s p reg e.1 (e.2 - e.1))
    have first (n : Nat) : MarksOnly (tileRaw s n) (tileRaw (markStale s p reg e.1 (e.2 - e.1)) n) := by
      rw [markStale_eq]
      exact updTiles_marks (staleTile_marks _) s p n
    obtain ⟨m', changed⟩ : ∃ m', markStale s p reg e.1 (e.2 - e.1) = s.withTiles m' := updTiles_changes ..
    exact ⟨⟨m, by rw [List.foldl_cons, rest, changed]; rfl⟩, fun n => (first n).trans (marks n)⟩

/-- A bobbin sent to a region is in its pages. -/
theorem sendVisible_region (ok : TilesOk s) (inPart : r.tile.val < nTiles s r.part) (sound : (partAt s r.part).fault = none)
    (inRing : slot.val < (ringAt (tileAt s r.part r.tile) r.ring).bobs.length)
    (sending : (bobAt (ringAt (tileAt s r.part r.tile) r.ring) slot).st = .sending)
    (hv : (bobAt (ringAt (tileAt s r.part r.tile) r.ring) slot).w = some v) (home : v.r.ptile = 255)
    (hg : regionAt s r.part v.td.region = some g) :
    ∃ t, exec (.sendVisible r slot) s = .next t ∧
      t.t2 = (clearBob (storeBob s (tileAt s r.part r.tile) v g.wpages (bobAt (ringAt (tileAt s r.part r.tile) r.ring) slot).k
        (bobBase v slot)) v g.wpages (bobAt (ringAt (tileAt s r.part r.tile) r.ring) slot).k).t2 ∧
      (bobAt (ringAt (tileAt t r.part r.tile) r.ring) slot).st ≠ .sending ∧
      dataOf (tileAt t r.part r.tile) = dataOf (tileAt s r.part r.tile) ∧ t.parts = s.parts := by
  obtain ⟨n, hn⟩ := tileIx_of_lt inPart
  have pages : sendPages (sentOff s r slot v) r.part v = g.wpages := by
    rw [sendPages, regionAt, partAt_congr sentOff_parts, ← regionAt, hg]; rfl
  have hexec := exec_sendVisible sound sending hv
  dsimp only at hexec
  rw [if_pos home, pages] at hexec
  refine ⟨_, hexec, ?_⟩
  generalize hk : (bobAt (ringAt (tileAt s r.part r.tile) r.ring) slot).k = k
  have stored := (clearBob_step v g.wpages k).comp (storeBob_step (tileAt s r.part r.tile) v g.wpages k (bobBase v slot))
  have t2 := stored.reads _ _ (sentOff_t2 (s := s) (r := r) (slot := slot) (v := v))
  obtain ⟨x, changed⟩ := stored.changes (sentOff s r slot v)
  generalize clearBob (storeBob (sentOff s r slot v) (tileAt s r.part r.tile) v g.wpages k (bobBase v slot)) v g.wpages k = u at *
  obtain ⟨⟨m, marked⟩, marks⟩ := markSpans_marks u r.part v.td.region (bobSpans v k)
  have un : tileIx u r.part r.tile = some n := by rw [changed]; exact (sentOff_tileIx (v := v) _).trans hn
  have own : tileRaw u n = putBob (tileAt s r.part r.tile) r.ring slot (visibleBob (ringAt (tileAt s r.part r.tile) r.ring) slot) := by
    rw [← tileAt_of_tileIx un, changed]
    exact sentOff_own (v := v) hn
  have marks := marks n
  have tn : tileIx (markSpans u r.part v.td.region (bobSpans v k)) r.part r.tile = some n := by rw [marked]; exact un
  rw [own] at marks
  rw [tileAt_of_tileIx tn]
  refine ⟨by rw [marked]; exact t2, marks.still _ _ ?_, marks.data, by rw [marked, changed]; exact sentOff_parts (slot := slot) (v := v)⟩
  rw [bobAt_putBob (tileAt_ok ok r.part r.tile).rings_rise _ inRing]
  exact visibleBob_still _ _

end

end

theorem bobbinsMove : BobbinsMove := by
  intro s r w hs ok inPart x y hw sound
  refine ⟨fun slot run dir alone begun more hslot len free few dropped old fresh => ?issue,
    fun slot data v g e inRing issued hv hg whole => fetchLand_fills ok inPart hw sound inRing issued hv hg whole,
    fun slot data v g addr why inRing issued hv hg host home => ⟨fun early alone => ?defer, fun k demanded => ?demand⟩,
    fun lead waits run all fit => fanStart_starts ok inPart hw lead waits run all fit,
    fun slot v inRing sending hv peer _ there apart => sendVisible_peer ok inPart sound inRing sending hv peer there apart,
    fun slot v g inRing sending hv home hg => sendVisible_region ok inPart sound inRing sending hv home hg⟩
  case issue =>
    obtain ⟨t, frs, reqs, ht, bob, next_, total, data, t2, journal, host⟩ :=
      fetchIssue_issues ok inPart hw run dir alone begun more hslot len free few dropped old fresh
    refine ⟨t, _, ht, bob, rfl, rfl, rfl, rfl, ?_, next_, total, data, t2, journal, host⟩
    simp only [issuedBob]
    cases bobRange w y.next <;> rfl
  case defer => exact fetchLand_defers hs ok inPart hw sound inRing issued hv hg host home early alone
  case demand => exact fetchLand_faults hs hw sound issued hv hg host home demanded

/-- Settles O53. -/
theorem ringsAndBobbins : Obligations.RingsAndBobbins := ⟨ringWords, bobbinsMove⟩

end Sys2Proof.Machine
end

section
/-! PROOFS. The commit of a segment: what settling and sending leave of a turn, residues and poison (R30, R36, R46). -/

namespace Sys2Proof.Machine

open Sys2Proof

/-! ### What the fabric's sends change -/

/-- From s to t the fabric alone may have changed. -/
def SendsOnly (s t : State) : Prop := ∃ x, t = s.withFabric x

namespace SendsOnly
variable {s t u : State}

theorem refl (s : State) : SendsOnly s s := ⟨s.fabric, rfl⟩

theorem trans (h : SendsOnly s t) (g : SendsOnly t u) : SendsOnly s u := by
  obtain ⟨x, rfl⟩ := h
  obtain ⟨y, rfl⟩ := g
  exact ⟨y, rfl⟩

theorem foldl {α : Type} {f : State → α → State} (h : ∀ s e, SendsOnly s (f s e)) (l : List α) (s : State) :
    SendsOnly s (l.foldl f s) := by
  induction l generalizing s with
  | nil => exact .refl s
  | cons e l ih => exact (h s e).trans (ih _)

end SendsOnly

theorem queueTx_sends (s : State) (n : Nat) (x : TxItem) : SendsOnly s (queueTx s n x) := ⟨_, rfl⟩
theorem setBuf_sends (s : State) (n : Nat) (b : ChunkBuf) : SendsOnly s (setBuf s n b) := ⟨_, rfl⟩

theorem routeMsg_sends (s : State) (dst seq : Nat) (m : FMsg) : SendsOnly s (routeMsg s dst seq m) := by
  unfold routeMsg
  split
  · exact queueTx_sends ..
  · exact .refl s

theorem sendTo_sends (s : State) (dst : Nat) (m : FMsg) : SendsOnly s (sendTo s dst m) := by
  have noted (x : FabricU) : SendsOnly s (s.withFabric x) := ⟨x, rfl⟩
  exact (noted _).trans (routeMsg_sends ..)

theorem sendCamp_sends (s : State) (c : Camp) (m : FMsg) : SendsOnly s (sendCamp s c m) := .foldl (fun s k => sendTo_sends s k m) _ s

theorem fillBuf_sends (s : State) (n c : Nat) : SendsOnly s (fillBuf s n c) := by
  unfold fillBuf
  split
  · exact .refl s
  · exact ⟨_, rfl⟩

theorem forwardFrom_sends (s : State) (n : Nat) (x : Chunk) (r : Nat × Nat) : SendsOnly s (forwardFrom s n x r) := by
  unfold forwardFrom
  dsimp only
  split
  · exact (setBuf_sends ..).trans (queueTx_sends ..)
  · exact queueTx_sends ..

theorem grant_sends (s : State) (n : Nat) (c : Claim) : SendsOnly s (grant s n c) := by
  unfold grant
  split
  · exact (setBuf_sends ..).trans (fillBuf_sends ..)
  · split
    · exact .refl s
    · split
      · exact .refl s
      · have taken (x : FabricU) : SendsOnly s (s.withFabric x) := ⟨x, rfl⟩
        exact ((taken _).trans (setBuf_sends ..)).trans (forwardFrom_sends ..)

theorem serveClaims_sends (s : State) : SendsOnly s (serveClaims s) := by
  refine .foldl (fun u _ => ?_) _ s
  split
  · exact grant_sends ..
  · exact .refl u

theorem sendChunk_sends (s : State) (x : Chunk) : SendsOnly s (sendChunk s x) := by
  have joined (x : FabricU) : SendsOnly s (s.withFabric x) := ⟨x, rfl⟩
  exact (joined _).trans (serveClaims_sends _)

/-! ### What settling a step and committing a segment leave of a turn -/

/-- A turn in progress but for its running segments and triggers and what collectives, records and statistics keep of it. -/
def Run.onward (r : Run) : Run := { r with
  live := [], trig := [], gsel := [], statOpen := [], arrivals := [], closes := [], recs := 0, collLand := [], owed := [], phases := [] }

/-- A campaign but for what its turn's collectives and starts of segments change. -/
def Camp.onward (c : Camp) : Camp := { c with run := c.run.map Run.onward }

/-- A partition's record but for its energy, its faults, the durations of its segments and what its turn's collectives change. -/
def Part.onward (x : Part) : Part := { x with bal := 0, flog := [], fault := none, lastDur := [], camp := x.camp.map Camp.onward }

/-- From s to t the journal is as it was, and so is, of every partition's record, its onward part. -/
structure StaysOn (s t : State) : Prop where
  journal : t.journal = s.journal
  own : ∀ k, (partAt t k).onward = (partAt s k).onward

namespace StaysOn
variable {s t u : State}

theorem refl (s : State) : StaysOn s s := ⟨rfl, fun _ => rfl⟩

theorem trans (h : StaysOn s t) (g : StaysOn t u) : StaysOn s u :=
  ⟨g.journal.trans h.journal, fun k => (g.own k).trans (h.own k)⟩

theorem foldl {α : Type} {f : State → α → State} (h : ∀ s e, StaysOn s (f s e)) (l : List α) (s : State) : StaysOn s (l.foldl f s) := by
  induction l generalizing s with
  | nil => exact .refl s
  | cons e l ih => exact (h s e).trans (ih _)

theorem ite {c : Prop} [Decidable c] (h : StaysOn s t) (g : StaysOn s u) : StaysOn s (if c then t else u) := by
  split
  · exact h
  · exact g

theorem of_parts (parts : t.parts = s.parts) (journal : t.journal = s.journal) : StaysOn s t :=
  ⟨journal, fun k => by rw [partAt_congr parts]⟩

theorem of_tells (h : TellsOnly s t) : StaysOn s t := .of_parts h.parts h.journal

theorem of_sends (h : SendsOnly s t) : StaysOn s t := by
  obtain ⟨x, rfl⟩ := h
  exact .of_parts rfl rfl

/-- Starts of segments change less. -/
theorem of_kept (h : PartsKept Part.unstarted s t) : StaysOn s t := by
  refine ⟨h.journal, fun k => ?_⟩
  have factor (x : Part) : x.onward = x.unstarted.onward := by
    have run : Run.onward ∘ Run.unstarted = Run.onward := rfl
    have camp : Camp.onward ∘ Camp.unstarted = Camp.onward := by
      funext c
      simp [Camp.onward, Camp.unstarted, Option.map_map, run]
    simp [Part.onward, Part.unstarted, Option.map_map, camp]
  rw [factor, factor (partAt s k), h.own]

theorem reqs (h : StaysOn s t) (p : Nat) : (partAt t p).reqs = (partAt s p).reqs := (congrArg Part.reqs (h.own p) :)

/-- A campaign in a running turn is the same campaign in the same turn. -/
theorem campRun {p : Nat} {c : Camp} {r : Run} (h : StaysOn s t) (hc : (partAt s p).camp = some c) (hr : c.run = some r) :
    ∃ c' r', (partAt t p).camp = some c' ∧ c'.run = some r' ∧ c'.onward = c.onward ∧ r'.onward = r.onward := by
  have camp : (partAt t p).camp.map Camp.onward = some c.onward :=
    (congrArg Part.camp (h.own p)).trans (congrArg (Option.map Camp.onward) hc)
  obtain ⟨c', hc', ec⟩ := Option.map_eq_some_iff.1 camp
  have run : c'.run.map Run.onward = some r.onward := (congrArg Camp.run ec).trans (congrArg (Option.map Run.onward) hr)
  obtain ⟨r', hr', er⟩ := Option.map_eq_some_iff.1 run
  exact ⟨c', r', hc', hr', ec, er⟩

end StaysOn

theorem updRun_staysOn (s : State) (p : Nat) (f : Run → Run) (h : ∀ r, (f r).onward = r.onward := by intro; rfl) :
    StaysOn s (updRun s p f) := by
  have kept : PartsKept Part.onward s (updRun s p f) := by
    unfold updRun updCamp
    refine updPart_kept s p _ fun x => ?_
    have run : Run.onward ∘ f = Run.onward := funext h
    have camp : (Camp.onward ∘ fun c => { c with run := c.run.map f }) = Camp.onward := by
      funext c
      simp [Camp.onward, Option.map_map, run]
    simp only [Part.onward, Option.map_map, camp]
  exact ⟨kept.journal, kept.own⟩

theorem raiseFaults_staysOn (s : State) (p : Nat) (rs : List FaultRec) : StaysOn s (raiseFaults s p rs) := .of_kept (raiseFaults_kept ..)

theorem writeRegion_staysOn (s : State) (p r off : Nat) (b : List Byte) : StaysOn s (writeRegion s p r off b) :=
  .of_kept (writeRegion_kept ..)

theorem hostWrite_staysOn (s : State) (space a : Nat) (b : List Byte) : StaysOn s (hostWrite s space a b) := .of_parts rfl rfl

/-! ### Settling (R230 to R238) -/

theorem stepRecord_staysOn (s : State) (p : Nat) (t : TurnP) (rank : Nat) (c : CloseP) : StaysOn s (stepRecord s p t rank c) := by
  unfold stepRecord
  split
  · exact .refl s
  · dsimp only
    refine StaysOn.trans ?_ (updRun_staysOn ..)
    refine StaysOn.trans ?_ (.foldl (fun _ _ => hostWrite_staysOn ..) _ _)
    split
    · exact updRun_staysOn ..
    · exact .refl s

theorem applyClose_staysOn (s : State) (p : Nat) (c : CloseP) : StaysOn s (applyClose s p c) := by
  unfold applyClose
  dsimp only
  split
  · split
    · exact .refl s
    · refine .ite (.refl s) (StaysOn.trans ?_ (writeRegion_staysOn ..))
      refine StaysOn.trans ?_ (.ite (stepRecord_staysOn ..) (.refl _))
      exact updRun_staysOn ..
  · exact .refl s

theorem refuseClose_staysOn (s : State) (p : Nat) (cp : Camp) (d : Coll) (step bad : Nat) :
    StaysOn s (refuseClose s p cp d step bad) :=
  (StaysOn.of_sends (sendCamp_sends ..)).trans (raiseFaults_staysOn ..)

theorem settleStep_staysOn (s : State) (p : Nat) (d : Coll) : StaysOn s (settleStep s p d) := by
  have closes (cp : Camp) (c : CloseP) (m : FMsg) (o : Option Nat) : StaysOn s (match o with
      | some j => hubFault (sendCamp s cp m) p 0x032A j
      | none => applyClose (sendCamp s cp m) p c) := by
    cases o with
    | some j => exact (StaysOn.of_sends (sendCamp_sends ..)).trans (raiseFaults_staysOn ..)
    | none => exact (StaysOn.of_sends (sendCamp_sends ..)).trans (applyClose_staysOn ..)
  unfold settleStep
  dsimp only
  split
  · refine .ite (.refl s) (.ite (.refl s) (.ite ?_ ?_))
    · split
      · exact .refl s
      · exact refuseClose_staysOn ..
      · refine .ite (refuseClose_staysOn ..) ?_
        split
        · exact closes ..
        · exact .refl s
    · split
      · exact closes ..
      · exact .refl s
  · exact .refl s

theorem settleTry_staysOn (s : State) (p : Nat) : StaysOn s (settleTry s p) :=
  .foldl (fun _ d => .foldl (fun u _ => settleStep_staysOn u p d) _ _) _ s

/-! ### What a commit sends (R229, R312, R313) -/

theorem withFabric_staysOn (s : State) (x : FabricU) : StaysOn s (s.withFabric x) := .of_sends ⟨x, rfl⟩

theorem landBytes_staysOn (s : State) (p : Nat) (d : Coll) (l : CollLand) (b : List Byte) : StaysOn s (landBytes s p d l b) := by
  unfold landBytes
  refine .ite (.refl s) (StaysOn.trans (writeRegion_staysOn s p d.region l.off b) ?_)
  exact updRun_staysOn ..

theorem foldl_sendChunk_staysOn (f : Nat → Nat × List Byte → Chunk) (l : List (Nat × List Byte)) (acc : State × Nat) :
    StaysOn acc.1 (l.foldl (fun (acc : State × Nat) e => (sendChunk acc.1 (f acc.2 e), acc.2 + 1)) acc).1 := by
  induction l generalizing acc with
  | nil => exact .refl _
  | cons e l ih =>
    rw [List.foldl_cons]
    generalize hs : sendChunk acc.1 (f acc.2 e) = s
    have sent : StaysOn acc.1 s := by rw [← hs]; exact .of_sends (sendChunk_sends ..)
    exact sent.trans (ih (s, acc.2 + 1))

theorem collGive_staysOn (s : State) (p : Nat) (c : Camp) (d : Coll) (j k step fmt tokens off : Nat) (b : List Byte) :
    StaysOn s (collGive s p c d j k step fmt tokens off b) := by
  unfold collGive
  refine .ite (.refl s) (.ite (landBytes_staysOn ..) ?_)
  exact StaysOn.trans (foldl_sendChunk_staysOn (fun n e =>
      { xfer := s.fabric.xfer, index := n, spos := d.members.getD j 0, dpos := d.members.getD k 0, part := Fin.ofNat 32 p, kind := 2,
        region := d.region, hops := 0, off := e.1, fmt := fmt, epoch := step, tokens := tokens, dmem := rankMember c d k, data := e.2 })
    _ (s, 0)) (withFabric_staysOn ..)

theorem shardGive_staysOn (s : State) (p : Nat) (c : Camp) (d : Coll) (j k step fmt tokens off n : Nat) (b : List Byte) :
    StaysOn s (shardGive s p c d j k step fmt tokens off n b) := by
  unfold shardGive
  exact .ite (withFabric_staysOn ..) (collGive_staysOn ..)

theorem collTrigger_staysOn (s : State) (p : Nat) (c : Camp) (r : Run) (t : TurnP) (pr : Program) (d : Coll) (step : Nat) :
    StaysOn s (collTrigger s p c r t pr d step) := by
  refine .foldl (fun u j => ?_) _ s
  dsimp only
  refine .ite (.foldl (fun v i => ?_) _ u) (.ite (.ite (collGive_staysOn ..) (.refl u)) (.ite (.foldl (fun _ _ => collGive_staysOn ..) _ u)
    (.ite (.ite (.foldl (fun _ _ => collGive_staysOn ..) _ u) (.refl u)) (.foldl (fun _ _ => collGive_staysOn ..) _ u))))
  exact .ite ((shardGive_staysOn ..).trans (shardGive_staysOn ..)) (shardGive_staysOn ..)

theorem collGather_staysOn (s : State) (p : Nat) (c : Camp) (r : Run) (d : Coll) (step : Nat) :
    StaysOn s (collGather s p c r d step) := by
  unfold collGather
  refine StaysOn.trans ?_ (writeRegion_staysOn ..)
  exact .foldl (fun u i => .foldl (fun v k => collGive_staysOn ..) _ u) _ s

theorem beaconsDue_staysOn (s : State) (p : Nat) : StaysOn s (beaconsDue s p) := by
  unfold beaconsDue
  split
  · refine .ite (.refl s) (StaysOn.trans ?_ (.foldl (fun u o => ?_) _ _))
    · exact updRun_staysOn ..
    · split
      · exact .of_sends (sendTo_sends ..)
      · exact .refl u
  · exact .refl s

theorem readyBeacon_staysOn (s : State) (p : Nat) (c : Camp) (pr : Program) (d : Coll) (step : Nat) :
    StaysOn s (readyBeacon s p c pr d step) := by
  refine StaysOn.trans (.foldl (fun u j => updRun_staysOn u p _ fun r => ?_) _ s) (beaconsDue_staysOn ..)
  split <;> rfl

theorem startPhase_staysOn (s : State) (p : Nat) (c : Camp) (r : Run) (t : TurnP) (pr : Program) (d : Coll) (step : Nat) :
    StaysOn s (startPhase s p c r t pr d step) := by
  unfold startPhase
  refine StaysOn.trans (collTrigger_staysOn s p c r t pr d step) ?_
  exact updRun_staysOn ..

/-- What a segment's commit sends of one collective. -/
def commitSend (p : Nat) (t : TurnP) (pr : Program) (seg step : Nat) (s : State) (d : Coll) : State :=
  match (partAt s p).camp, runOf (partAt s p) with
  | some c, some r =>
    let s := if d.trigseg = seg then startPhase s p c r t pr d step else s
    let s := if d.kind = 0 ∧ d.sumseg = seg then collGather s p c r d step else s
    if d.kind = 0 ∧ d.trigseg = seg ∧ (domainColl t pr).map (fun x => x.id) ≠ some d.id then readyBeacon s p c pr d step else s
  | _, _ => s

theorem commitSend_staysOn (p : Nat) (t : TurnP) (pr : Program) (seg step : Nat) (s : State) (d : Coll) :
    StaysOn s (commitSend p t pr seg step s d) := by
  unfold commitSend
  split
  · rename_i c r _ _
    have started := StaysOn.ite (c := d.trigseg = seg) (startPhase_staysOn s p c r t pr d step) (.refl s)
    have gathered (v : State) := StaysOn.ite (c := d.kind = 0 ∧ d.sumseg = seg) (collGather_staysOn v p c r d step) (.refl v)
    exact (started.trans (gathered _)).trans (.ite (readyBeacon_staysOn ..) (.refl _))
  · exact .refl s

theorem commitSends_staysOn (s : State) (p : Nat) (t : TurnP) (pr : Program) (seg step : Nat) :
    StaysOn s (commitSends s p t pr seg step) := by
  have sent : StaysOn s (pr.colls.foldl (commitSend p t pr seg step) s) := .foldl (commitSend_staysOn p t pr seg step) _ s
  refine sent.trans ?_
  show StaysOn _ (match (partAt (pr.colls.foldl (commitSend p t pr seg step) s) p).camp, domainColl t pr with
    | some c, some d => if t.lt.readyseg = seg then readyBeacon (pr.colls.foldl (commitSend p t pr seg step) s) p c pr d step
        else beaconsDue (pr.colls.foldl (commitSend p t pr seg step) s) p
    | _, _ => pr.colls.foldl (commitSend p t pr seg step) s)
  split
  · exact .ite (readyBeacon_staysOn ..) (beaconsDue_staysOn ..)
  · exact .refl _

/-! ### The commit (R36) -/

theorem servePins_tells (s : State) : TellsOnly s (servePins s) := by
  refine .foldl (fun u e => ?_) _ s
  have dropped (v : State) : TellsOnly v (v.withT1 { v.t1 with pins := v.t1.pins.filter fun x => x ≠ e }) := withT1_tells ..
  dsimp only
  split
  · exact dropped u
  · split
    · split
      · exact (gainPage_tells ..).trans (dropped _)
      · exact gainPage_tells ..
    · split
      · exact (takeFrame_tells ..).trans (dropped _)
      · exact takeFrame_tells ..

theorem endHolds_tells (s : State) (p : Nat) (h : Option Nat) : TellsOnly s (endHolds s p h) :=
  (withT1_tells ..).trans (servePins_tells _)

theorem refit_tells (s : State) (gs : List Nat) : TellsOnly s (refit s gs) := ⟨rfl, rfl, rfl, rfl, rfl⟩

theorem statMerge_staysOn (s : State) (p : Nat) (g : GSel) (x : StatAdd) : StaysOn s (statMerge s p g x) := writeRegion_staysOn ..

theorem plainStep_staysOn (s : State) (p : Nat) (t : TurnP) (pr : Program) (step : Nat) : StaysOn s (plainStep s p t pr step) := by
  unfold plainStep
  split
  · exact .refl s
  · refine .ite ?_ (.refl s)
    refine StaysOn.trans ?_ (updRun_staysOn ..)
    exact .foldl (fun u k => hostWrite_staysOn ..) _ s

/-- A turn whose segment is done. -/
def segDone (l : SegRun) (r : Run) : Run :=
  { r with live := r.live.filter (fun y => decide (y.seg ≠ l.seg)), done := r.done ++ [⟨l.seg, l.step⟩] }

/-- The state of a commit with its tiles' statistics merged and its tiles idle. -/
def tilesIdled (s : State) (p : Nat) (pr : Program) (d : SegD) : State :=
  let tiles := segTiles s p d
  tiles.foldl (fun s n => updTile s p n idleTile) (regear (tiles.foldl (fun s n => (tileAt s p n).stats.foldl (fun s x =>
    match pr.gsels[x.gsel]? with
    | some g => statMerge s p g x
    | none => s) s) s))

theorem tilesIdled_staysOn (s : State) (p : Nat) (pr : Program) (d : SegD) : StaysOn s (tilesIdled s p pr d) := by
  unfold tilesIdled
  dsimp only
  refine StaysOn.trans ?_ (.foldl (fun u n => .of_tells (updTile_tells ..)) _ _)
  refine StaysOn.trans ?_ (.of_tells (regear_tells _))
  refine .foldl (fun u n => .foldl (fun v x => ?_) _ u) _ s
  split
  · exact statMerge_staysOn ..
  · exact .refl v

/-- A commit notes that its segment is done; what comes before and after in it leaves the turn. -/
theorem commitSeg_segDone (s : State) (p : Nat) (t : TurnP) (pr : Program) (d : SegD) (l : SegRun) :
    StaysOn (updRun (tilesIdled s p pr d) p (segDone l)) (commitSeg s p t pr d l) := by
  have timed (u : State) (f : Part → Part) (h : ∀ x, (f x).onward = x.onward) : StaysOn u (updPart u p f) :=
    ⟨rfl, (updPart_kept u p f h).own⟩
  unfold commitSeg
  dsimp only
  refine StaysOn.trans ?_ (plainStep_staysOn ..)
  refine StaysOn.trans ?_ (commitSends_staysOn ..)
  refine StaysOn.trans ?_ (.of_tells (refit_tells ..))
  refine StaysOn.trans ?_ (.of_tells (endHolds_tells ..))
  refine StaysOn.trans ?_ (.ite (.of_tells (addCtr_tells ..)) (.refl _))
  exact timed _ _ fun _ => rfl

/-! ### The turn after a commit (R8) -/

/-- Whether a turn has met its end does not depend on what collectives and starts of segments change, but for running segments. -/
theorem turnMet_onward (x : Part) (r : Run) (tn : TurnP) :
    turnMet x { r with live := [] } tn = turnMet { x.onward with camp := none } r.onward tn := by
  unfold turnMet
  cases tn.kind <;> rfl

/-- A running segment keeps a rollout turn from its end, and no other. -/
theorem turnMet_of_live {x : Part} {r : Run} {tn : TurnP} (h : turnMet x { r with live := [] } tn = false) :
    turnMet x r tn = false := by
  unfold turnMet at h ⊢
  cases hk : tn.kind with
  | rollout =>
    rw [hk] at h
    have idle : rolloutIdle x r = false := by
      rw [show rolloutIdle x r = rolloutIdle x { r with live := [] } from rfl]
      simpa using h
    simp [idle]
  | reward => rw [hk] at h; exact h
  | learning => rw [hk] at h; exact h
  | checkpoint => rw [hk] at h; exact h

section
variable {s : State} {part : Fin 32} {c : Camp} {tn : TurnP} {pr : Program} {r : Run} {seg step : Nat} {l : SegRun} {d : SegD} {t : Word64}

/-- What SEGMENT_COMMIT does at its time, once its tiles have ended. -/
def commitAt (part : Nat) (tn : TurnP) (pr : Program) (seg : Nat) (d : SegD) (l : SegRun) (s : State) : State :=
  match (segTiles s part d).findSome? (fun n => (windowPoison pr seg n (tileAt s part n)).map (fun w => (n, w))) with
  | some e => commitPoison s part e.1 e.2
  | none =>
    let bad := (segTiles s part d).filterMap (fun n => ((tileAt s part n).sems.head?).map (fun e => (n, e)))
    if bad ≠ [] then
      raiseFaults s part (bad.map (fun b => { mkFault s 0x0304 b.1 with sem := b.2.1, seg := seg, detail := b.2.2 }))
    else
      let s := settleTry s part
      if !issues s part then s else schedule (turnLoop (settleTry (commitSeg s part tn pr d l) part) part)

theorem exec_segmentCommit (time : s.time.now.ule t = true) (turn : RunsTurn s part c tn pr r) (hl : l ∈ r.live) (hseg : l.seg = seg)
    (hstep : l.step = step) (hd : segDesc pr seg = some d) (ended : ∀ n ∈ segTiles s part d, tileEnded (tileAt s part n) = true) :
    ∃ l', l'.seg = seg ∧ l'.step = step ∧
      exec (.segmentCommit part seg step t) s = .next (commitAt part tn pr seg d l' (tick s t)) := by
  obtain ⟨hc, hr, phase, ht, hp, -, -, run⟩ := turn
  obtain ⟨l', hl'⟩ : ∃ l', r.live.find? (fun l => decide (l.seg = seg) && decide (l.step = step)) = some l' := by
    rw [← Option.isSome_iff_exists, List.find?_isSome]
    exact ⟨l, hl, by simp [hseg, hstep]⟩
  have this := List.find?_some hl'
  simp only [Bool.and_eq_true, decide_eq_true_eq] at this
  refine ⟨l', this.1, this.2, ?_⟩
  have turn : turnOf (partAt s part) = some tn := by simp [turnOf, hc, hr, ht]
  have prog : progOf (partAt s part) = some pr := by simp [progOf, runOf, hc, hr, hp]
  have run_ : runOf (partAt s part) = some r := by simp [runOf, hc, hr]
  have all : (segTiles s part d).all (fun n => tileEnded (tileAt s part n)) = true := by simpa using ended
  show execSegmentCommit part seg step t s = _
  simp only [execSegmentCommit, turn, prog, run_, hl', hd, run, all, Bool.not_true, Bool.false_eq_true, or_self, if_false,
    atTime_of_ule _ time, ok]
  rfl

theorem commitAt_clean (clean : ∀ n ∈ segTiles s part d, windowPoison pr seg n (tileAt s part n) = none ∧ (tileAt s part n).sems = [])
    (run : issues (settleTry s part) part = true) :
    commitAt part tn pr seg d l s = schedule (turnLoop (settleTry (commitSeg (settleTry s part) part tn pr d l) part) part) := by
  have pure : (segTiles s part d).findSome? (fun n => (windowPoison pr seg n (tileAt s part n)).map (fun w => (n, w))) = none := by
    rw [List.findSome?_eq_none_iff]
    intro n hn
    rw [(clean n hn).1]; rfl
  have none_ : (segTiles s part d).filterMap (fun n => ((tileAt s part n).sems.head?).map (fun e => (n, e))) = [] := by
    rw [List.filterMap_eq_nil_iff]
    intro n hn
    rw [(clean n hn).2]; rfl
  simp only [commitAt, pure, none_, run, ne_eq, not_true_eq_false, Bool.not_true, Bool.false_eq_true, if_false]

/-- A turn whose segment is done, once settled and scheduled: the same turn with one segment more done. -/
theorem commitSeg_goesOn {u : State} {l : SegRun} (before : StaysOn s u) (turn : RunsTurn s part c tn pr r)
    (unmet : turnMet (partAt s part) { r with done := r.done ++ [⟨l.seg, l.step⟩], live := [] } tn = false) :
    let v := schedule (turnLoop (settleTry (commitSeg u part tn pr d l) part) part)
    v.journal = s.journal ∧ (partAt v part).reqs = (partAt s part).reqs ∧
      ∃ r', runOf (partAt v part) = some r' ∧ r'.onward = ({ r with done := r.done ++ [⟨l.seg, l.step⟩] } : Run).onward := by
  obtain ⟨hc, hr, -, ht, -, -, go, -⟩ := turn
  generalize ha : tilesIdled u part pr d = a
  have idled : StaysOn s a := ha ▸ before.trans (tilesIdled_staysOn ..)
  obtain ⟨c1, r1, hc1, hr1, ec1, er1⟩ := idled.campRun hc hr
  have self := partAt_updRun_self (segDone l) hc1 hr1
  generalize hb : updRun a part (segDone l) = b at self
  have after : StaysOn b (settleTry (commitSeg u part tn pr d l) part) := by
    rw [← hb, ← ha]
    exact (commitSeg_segDone ..).trans (settleTry_staysOn ..)
  have journal : b.journal = a.journal := by rw [← hb]; rfl
  have reqs : (partAt b part).reqs = (partAt a part).reqs := by rw [self]
  have rest : { (partAt b part).onward with camp := none } = { (partAt a part).onward with camp := none } := by rw [self]; rfl
  have runDone : (segDone l r1).onward = ({ r with done := r.done ++ [⟨l.seg, l.step⟩] } : Run).onward :=
    congrArg (fun x : Run => { x with done := x.done ++ [SegDone.mk l.seg l.step] }) er1
  have hcb : (partAt b part).camp = some { c1 with run := some (segDone l r1) } := by rw [self]
  generalize settleTry (commitSeg u part tn pr d l) part = e at *
  obtain ⟨c3, r3, hc3, hr3, ec3, er3⟩ := after.campRun hcb rfl
  have onward : r3.onward = ({ r with done := r.done ++ [⟨l.seg, l.step⟩] } : Run).onward := er3.trans runDone
  have unmet3 : turnMet (partAt e part) r3 tn = false := by
    refine turnMet_of_live ?_
    rw [turnMet_onward, onward, after.own, rest, idled.own, ← turnMet_onward]
    exact unmet
  have steady := turnLoop_of_steady (turnCheck_of_unmet hc3 hr3 ?turn unmet3 ?go)
  case turn =>
    have p3 : c3.p = c.p := (congrArg Camp.p ec3 :).trans (congrArg Camp.p ec1 :)
    have t3 : r3.turn = r.turn := (congrArg Run.turn onward :)
    rw [p3, t3, ht]
  case go => exact ((congrArg Camp.stop ec3 :).trans (congrArg Camp.stop ec1 :)).trans go
  dsimp only
  rw [steady]
  have kept := StaysOn.of_kept (schedule_kept e)
  obtain ⟨c4, r4, hc4, hr4, -, er4⟩ := kept.campRun hc3 hr3
  refine ⟨?_, ?_, r4, by simp [runOf, hc4, hr4], er4.trans onward⟩
  · rw [kept.journal, after.journal, journal, idled.journal]
  · exact (kept.reqs part).trans ((after.reqs part).trans (reqs.trans (idled.reqs part)))

/-! ### Residues and poison (R30, R36) -/

/-- Faults in a partition without one: their records join the log, and the first is the one that holds. -/
theorem raiseFaults_all {s : State} {p : Nat} {r : FaultRec} {rs : List FaultRec} (hp : p < s.parts.length)
    (h : (partAt s p).fault = none) :
    let t := raiseFaults s p (r :: rs)
    (partAt t p).flog = (partAt s p).flog ++ r :: rs ∧ (partAt t p).fault = some ⟨(partAt s p).flog.length, r.status, false, false⟩ ∧
      (∀ k, k ≠ p → partAt t k = partAt s k) ∧ t.t2 = s.t2 ∧ t.journal = s.journal := by
  have tells : TellsOnly (setPart s p { partAt s p with
      flog := (partAt s p).flog ++ r :: rs, fault := some ⟨(partAt s p).flog.length, r.status, false, false⟩ })
      (raiseFaults s p (r :: rs)) := by
    simp only [raiseFaults, h]
    refine TellsOnly.trans ?_ (.foldl (fun u q => postEvent_tells u 3 p (faultBits q)) _ _)
    refine TellsOnly.trans ?_ (addHist_tells ..)
    exact ((updTiles_tells ..).trans (sweepInvals_tells ..)).trans (withSamp_tells ..)
  have self := partAt_congr tells.parts p
  rw [partAt_setPart _ _ _ _ hp, if_pos rfl] at self
  exact ⟨by rw [self], by rw [self], fun k hk => by rw [partAt_congr tells.parts, partAt_setPart_ne _ _ hk], tells.t2, tells.journal⟩

/-- The record of a semaphore that is not zero at a commit. -/
def residueRec (s : State) (seg : Nat) (b : Nat × Nat × Nat) : FaultRec :=
  { mkFault s 0x0304 b.1 with sem := b.2.1, seg := seg, detail := b.2.2 }

/-- The tiles of a segment with a semaphore that is not zero, each with its first. -/
def residues (s : State) (part : Nat) (d : SegD) : List (Nat × Nat × Nat) :=
  (segTiles s part d).filterMap fun n => ((tileAt s part n).sems.head?).map fun e => (n, e)

theorem mem_residues {b : Nat × Nat × Nat} (h : b ∈ residues s part d) :
    b.1 ∈ segTiles s part d ∧ (tileAt s part b.1).sems.head? = some b.2 := by
  obtain ⟨n, hn, e⟩ := List.mem_filterMap.1 h
  obtain ⟨x, hx, rfl⟩ := Option.map_eq_some_iff.1 e
  exact ⟨hn, hx⟩

theorem residues_tiles : (residues s part d).map (fun b => b.1) =
    (segTiles s part d).filter (fun n => decide ((tileAt s part n).sems ≠ [])) := by
  unfold residues
  induction segTiles s part d with
  | nil => rfl
  | cons n l ih =>
    cases hs : (tileAt s part n).sems with
    | nil => simp [hs, ih]
    | cons x y => simp [hs, ih]

theorem commitAt_residues (pure : ∀ n ∈ segTiles s part d, windowPoison pr seg n (tileAt s part n) = none)
    (left : residues s part d ≠ []) :
    commitAt part tn pr seg d l s = raiseFaults s part ((residues s part d).map (residueRec s seg)) := by
  have clean : (segTiles s part d).findSome? (fun n => (windowPoison pr seg n (tileAt s part n)).map (fun w => (n, w))) = none := by
    rw [List.findSome?_eq_none_iff]
    intro n hn
    rw [pure n hn]; rfl
  unfold residues at left
  simp only [commitAt, clean, left, ne_eq, not_false_eq_true, if_true]
  rfl

/-- Poison in a write window of a segment's tile: the first such tile faults. -/
theorem commitAt_poison (bad : ∃ n ∈ segTiles s part d, windowPoison pr seg n (tileAt s part n) ≠ none) :
    ∃ n w, n ∈ segTiles s part d ∧ windowPoison pr seg n (tileAt s part n) = some w ∧
      commitAt part tn pr seg d l s = commitPoison s part n w := by
  obtain ⟨n, hn, hw⟩ := bad
  have some_ : ((segTiles s part d).findSome? (fun n => (windowPoison pr seg n (tileAt s part n)).map (fun w => (n, w)))).isSome := by
    rw [List.findSome?_isSome_iff]
    exact ⟨n, hn, by simpa [Option.isSome_iff_ne_none] using hw⟩
  obtain ⟨e, he⟩ := Option.isSome_iff_exists.1 some_
  obtain ⟨k, hk, e'⟩ := List.exists_of_findSome?_eq_some he
  obtain ⟨w, hw, rfl⟩ := Option.map_eq_some_iff.1 e'
  exact ⟨k, w, hk, hw, by simp only [commitAt, he]⟩

end

/-- Settles O23. -/
theorem segmentsCommit : Obligations.SegmentsCommit := by
  intro s part c tn pr r seg step l d t hs time turn hl hseg hstep hd ended
  obtain ⟨l', rfl, rfl, hexec⟩ := exec_segmentCommit time turn hl hseg hstep hd ended
  have hp := lt_of_inv hs part
  have sound : (partAt s part).fault = none := by
    obtain ⟨-, -, -, -, -, -, -, run⟩ := turn
    exact no_fault_of_issues run
  refine ⟨fun clean unmet run => ?commits, fun pure left => ?residue, fun few bad => ?poison⟩
  case commits =>
    rw [commitAt_clean (s := tick s t) clean run] at hexec
    have stays : StaysOn s (settleTry (tick s t) part) := (StaysOn.of_parts (s := s) (t := tick s t) rfl rfl).trans (settleTry_staysOn ..)
    obtain ⟨journal, reqs, r', hr', onward⟩ := commitSeg_goesOn (d := d) stays turn unmet
    exact ⟨_, r', hexec, hr', (congrArg Run.done onward :), (congrArg Run.turn onward :), (congrArg Run.steps onward :),
      (congrArg Run.nextStep onward :), journal, reqs⟩
  case residue =>
    have tiles : (residues s part d).map (fun b => b.1) = _ := residues_tiles
    have some_ : residues s part d ≠ [] := by
      obtain ⟨n, hn, hsem⟩ := left
      intro none_
      rw [none_] at tiles
      exact List.filter_eq_nil_iff.1 tiles.symm n hn (by simpa using hsem)
    obtain ⟨b, bs, hb⟩ := List.exists_cons_of_ne_nil some_
    rw [commitAt_residues (s := tick s t) pure some_] at hexec
    have raised := raiseFaults_all (s := tick s t) (p := part) (r := residueRec (tick s t) l'.seg b)
      (rs := bs.map (residueRec (tick s t) l'.seg)) hp sound
    rw [← List.map_cons, ← hb] at raised
    obtain ⟨flog, fault, others, t2, journal⟩ := raised
    refine ⟨_, _, hexec, flog, ?_, fun x hx => ?_, fault, others, t2, journal⟩
    · rw [List.map_map]; exact tiles
    · obtain ⟨b, hb, rfl⟩ := List.mem_map.1 hx
      exact ⟨rfl, rfl, rfl, (mem_residues hb).2⟩
  case poison =>
    obtain ⟨n, w, hn, hw, e⟩ := commitAt_poison (s := tick s t) (tn := tn) (l := l') bad
    rw [e] at hexec
    have hn192 : n < 192 := by
      have : n < nTiles s part := List.mem_range.1 (List.mem_of_mem_filter hn)
      rw [nTiles] at this
      omega
    have tile : (Fin.ofNat 192 n).val = n := Nat.mod_eq_of_lt hn192
    have part_ : Fin.ofNat 32 part.val = part := Fin.ext (Nat.mod_eq_of_lt part.isLt)
    rw [commitPoison, part_, poisonFault, tileFault, tileFaultSem] at hexec
    obtain ⟨flog, fault, others, t2, journal⟩ := raiseFaults_all (s := tick s t) (p := part) (rs := []) hp sound
    refine ⟨_, _, w, hexec, flog, rfl, rfl, ?_, ?_, rfl, rfl, fault, others, t2, journal⟩
    · exact tile.symm ▸ hn
    · exact tile.symm ▸ hw

end Sys2Proof.Machine
end

section
/-! PROOFS. Loading and unloading programs (R15, R16, R336, R349). -/

namespace Sys2Proof.Machine

open Sys2Proof

/-- A partition that is not as an unused one is one of the listed ones. -/
theorem lt_of_partAt_ne {s : State} {p : Nat} (h : partAt s p ≠ Part.unused) : p < s.parts.length := by
  by_contra hp
  exact h (by rw [partAt, List.getD_eq_default _ _ (Nat.not_lt.1 hp)])

theorem lt_of_regionAt {s : State} {p r : Nat} {g : Region} (h : regionAt s p r = some g) : p < s.parts.length := by
  refine lt_of_partAt_ne fun e => ?_
  rw [regionAt, e] at h
  cases h

theorem lt_of_prog {s : State} {p slot : Nat} (h : (mapFind (partAt s p).progs slot).isSome) : p < s.parts.length := by
  refine lt_of_partAt_ne fun e => ?_
  rw [e] at h
  cases h

/-- A completion with a detail of its own changes the journal alone, where the link is up. -/
theorem done_of_linkUp {s : State} (q : QId) (d : Nat) (h : s.io.linkUp = true) :
    done s q d = s.withJournal (completedWith s q 0 d) := by
  rw [done, commitCmd, assertWake, if_pos (by simp [updHead, h])]
  rfl

/-! ### What a load leaves -/

/-- The record of a partition with a program in a slot. -/
def withProg (slot : Nat) (pr : Program) (x : Part) : Part :=
  { x with progs := mapPut x.progs slot pr, lastDur := x.lastDur.filter (fun e => decide (e.1 / 65536 ≠ slot)) }

/-- The record of a partition without a program in a slot. -/
def withoutProg (slot : Nat) (x : Part) : Part := { x with progs := mapDel x.progs slot }

theorem writeRegion_host (s : State) (p r off : Nat) (b : List Byte) :
    ((writeRegion s p r off b).host, (writeRegion s p r off b).io) = (s.host, s.io) := by
  unfold writeRegion
  split
  · obtain ⟨m, e⟩ := updTiles_changes (writePages s (by assumption : Region).wpages off b) p fun _ => staleTile (meets r off b.length)
    rw [markStale_eq, e]
    rfl
  · rfl

/-- What writing expert tables leaves, beside what a write into a region leaves. -/
theorem loadProg_kept (s : State) (p slot : Nat) (b : List Byte) (pr : Program) :
    PartsKept id (updPart s p (withProg slot pr)) (loadProg s p slot b pr) ∧
      ((loadProg s p slot b pr).host, (loadProg s p slot b pr).io) = (s.host, s.io) := by
  have step (u : State) (d : Coll) : ∀ o : State, o = (if d.kind = 4 ∧ d.xtab ≠ 0 then
      writeRegion u p d.region d.xoff (expertBytes (sectionBytes b 8) d) else u) →
      PartsKept id u o ∧ (o.host, o.io) = (u.host, u.io) := by
    rintro o rfl
    split
    · exact ⟨writeRegion_kept .., writeRegion_host ..⟩
    · exact ⟨.refl .., rfl⟩
  exact ⟨.foldl (fun u d => (step u d _ rfl).1) _ _, foldl_keeps (fun u => (u.host, u.io)) (fun u d => (step u d _ rfl).2) _ _⟩

/-- A program without expert tables changes its partition's record alone. -/
theorem loadProg_of_plain {s : State} {p slot : Nat} {b : List Byte} {pr : Program} (h : ∀ d ∈ pr.colls, d.kind ≠ 4) :
    loadProg s p slot b pr = updPart s p (withProg slot pr) := by
  have plain (l : List Coll) (hl : ∀ d ∈ l, d.kind ≠ 4) (u : State) : l.foldl (fun s d => if d.kind = 4 ∧ d.xtab ≠ 0 then
      writeRegion s p d.region d.xoff (expertBytes (sectionBytes b 8) d) else s) u = u := by
    induction l with
    | nil => rfl
    | cons d l ih =>
      rw [List.foldl_cons, if_neg fun e => hl d (List.mem_cons_self ..) e.1]
      exact ih fun e he => hl e (List.mem_cons_of_mem _ he)
  exact plain pr.colls h _

section
variable {s : State} {q : QId} {p : Nat}

theorem exec_progLoad {l : LoadP} {sec : ProgSections} {g : Region} (ready : hostReady s q (.progLoad l) p = true)
    (hg : regionAt s p l.region = some g) (slot : l.slot ≤ 63) (range : l.off + l.len ≤ regionSpan g)
    (free : mapFind (partAt s p).progs l.slot = none) (published : g.p.ro = true → g.cur.isSome = true ∧ g.p.hostback = false)
    (pure : firstPoison s (readPages g) l.off l.len = none) (sections : sectionsOk (readBytes s (readPages g) l.off l.len) = true)
    (form : progForm s p l.slot (readBytes s (readPages g) l.off l.len)
      (progOfImage s p (readBytes s (readPages g) l.off l.len) sec) = true) :
    let b := readBytes s (readPages g) l.off l.len
    exec (.progLoad q l sec) s =
      .next (done (loadProg s p l.slot b (progOfImage s p b sec)) q (l.slot + 65536 * b2n (inPlace s p sec.extents))) := by
  have inRange : ¬(63 < l.slot ∨ regionSpan g < l.off + l.len) := by omega
  have readable : ¬(g.p.ro = true ∧ (g.cur.isNone = true ∨ g.p.hostback = true)) := by
    rintro ⟨ro, none_ | host⟩
    · simp [Option.isSome_iff_ne_none] at published
      exact (published ro).1 (Option.isNone_iff_eq_none.1 none_)
    · rw [(published ro).2] at host; cases host
  show execProgLoad q l sec s = _
  rw [execProgLoad, hostCmd_ready _ ready]
  simp only [hg, inRange, free, readable, pure, sections, form, Option.isSome_none, Bool.not_true, Bool.or_self, Bool.false_eq_true,
    if_false]
  rfl

theorem progLoad_loads {l : LoadP} {sec : ProgSections} {g : Region} {b : List Byte} (ready : hostReady s q (.progLoad l) p = true)
    (hg : regionAt s p l.region = some g) (slot : l.slot ≤ 63) (range : l.off + l.len ≤ regionSpan g)
    (free : mapFind (partAt s p).progs l.slot = none) (published : g.p.ro = true → g.cur.isSome = true ∧ g.p.hostback = false)
    (pure : firstPoison s (readPages g) l.off l.len = none) (hb : b = readBytes s (readPages g) l.off l.len)
    (sections : sectionsOk b = true) (form : progForm s p l.slot b (progOfImage s p b sec) = true) :
    ∃ t, exec (.progLoad q l sec) s = .next t ∧
      t.journal = completedWith s q 0 (l.slot + 65536 * b2n (inPlace s p sec.extents)) ∧
      mapFind (partAt t p).progs l.slot = some (progOfImage s p b sec) ∧ (progOfImage s p b sec).meas = sha3 b ∧
      (∀ k, k ≠ l.slot → mapFind (partAt t p).progs k = mapFind (partAt s p).progs k) ∧
      (∀ k, k ≠ p → partAt t k = partAt s k) ∧ t.host = s.host ∧ t.fabric = s.fabric ∧
      ((∀ d ∈ (progOfImage s p b sec).colls, d.kind ≠ 4) → onlyParts s t) := by
  subst hb
  have hexec := exec_progLoad ready hg slot range free published pure sections form
  dsimp only at hexec
  generalize readBytes s (readPages g) l.off l.len = b at *
  generalize hpr : progOfImage s p b sec = pr at *
  obtain ⟨kept, host⟩ := loadProg_kept s p l.slot b pr
  have up : (loadProg s p l.slot b pr).io.linkUp = true := by
    rw [show (loadProg s p l.slot b pr).io = s.io from congrArg Prod.snd host]
    exact linkUp_of_hostReady ready
  have same (k : Nat) : partAt (loadProg s p l.slot b pr) k = partAt (updPart s p (withProg l.slot pr)) k := kept.own k
  have own : partAt (loadProg s p l.slot b pr) p = withProg l.slot pr (partAt s p) :=
    (same p).trans (partAt_updPart_self _ (lt_of_regionAt hg))
  refine ⟨_, hexec, ?_⟩
  rw [done_of_linkUp _ _ up]
  refine ⟨?_, ?_, hpr ▸ rfl, fun k hk => ?_, fun k hk => ?_, congrArg Prod.fst host, kept.fabric, fun plain => ?_⟩
  · show completedWith _ _ _ _ = _
    rw [completedWith, kept.journal, kept.time]
    rfl
  · show mapFind (partAt (loadProg s p l.slot b pr) p).progs l.slot = _
    rw [own, withProg, mapFind_mapPut, if_pos rfl]
  · show mapFind (partAt (loadProg s p l.slot b pr) p).progs k = _
    rw [own, withProg, mapFind_mapPut, if_neg hk]
  · exact (same k).trans (partAt_updPart_ne _ _ hk)
  · rw [loadProg_of_plain plain]
    rfl

theorem progUnload_unloads {slot : Nat} (ready : hostReady s q (.progUnload slot) p = true) (small : slot ≤ 63)
    (loaded : (mapFind (partAt s p).progs slot).isSome = true) (unnamed : slotNamed (partAt s p) slot = false) :
    ∃ t, exec (.progUnload q slot) s = .next t ∧ Completes s t q 0 ∧ mapFind (partAt t p).progs slot = none ∧
      (∀ k, k ≠ slot → mapFind (partAt t p).progs k = mapFind (partAt s p).progs k) ∧
      (partAt t p).regions = (partAt s p).regions ∧ (∀ k, k ≠ p → partAt t k = partAt s k) ∧ t.t2 = s.t2 ∧
      t.tiles = s.tiles ∧ t.host = s.host := by
  have hexec : exec (.progUnload q slot) s = .next (doneOk (updPart s p (withoutProg slot)) q) := by
    show execProgUnload q slot s = _
    rw [execProgUnload, hostCmd_ready _ ready]
    simp only [Nat.not_lt.2 small, Option.isNone_eq_false_iff.2 loaded, unnamed, Bool.false_eq_true, if_false]
    rfl
  obtain ⟨d, e⟩ := doneOk_of_linkUp (s := updPart s p (withoutProg slot)) q (linkUp_of_hostReady (s := s) ready)
  have own := partAt_updPart_self (withoutProg slot) (lt_of_prog loaded)
  refine ⟨_, hexec, ?_⟩
  rw [e]
  refine ⟨⟨d, rfl⟩, ?_, fun k hk => ?_, ?_, fun k hk => partAt_updPart_ne s (withoutProg slot) hk, rfl, rfl, rfl⟩
  · show mapFind (partAt (updPart s p (withoutProg slot)) p).progs slot = none
    rw [own, withoutProg, mapFind_mapDel, if_pos rfl]
  · show mapFind (partAt (updPart s p (withoutProg slot)) p).progs k = _
    rw [own, withoutProg, mapFind_mapDel, if_neg hk]
  · show (partAt (updPart s p (withoutProg slot)) p).regions = _
    rw [own, withoutProg]

end

/-- Settles O5. -/
theorem programsLoadAndUnload : Obligations.ProgramsLoadAndUnload := by
  intro s q p _
  exact ⟨fun l sec g b ready hg slot range free published pure hb sections form =>
      progLoad_loads ready hg slot range free published pure hb sections form,
    fun slot ready small loaded unnamed => progUnload_unloads ready small loaded unnamed⟩

end Sys2Proof.Machine
end

section
/-! PROOFS. The fetch of submissions (R26, R332, R334, R347). -/

namespace Sys2Proof.Machine

open Sys2Proof

/-! ### A queue after a write to it -/

theorem sq_inBounds {s : State} {q : QId} {x : SubQ} (inv : Inv s) (h : sqAt s q.fn q.sq = some x) :
    (q.fn : Nat) < s.fns.length ∧ (q.sq : Nat) < (fnAt s q.fn).sqs.length := by
  obtain ⟨⟨fns, _⟩, _⟩ := inv
  refine ⟨fns.symm.subst (motive := (q.fn.val < ·)) q.fn.isLt, Nat.lt_of_not_le fun le => ?_⟩
  rw [sqAt, List.getD_eq_default _ _ le] at h
  cases h

/-- The queue is one of the queues of a function. -/
abbrev HasSq (s : State) (q : QId) : Prop := (q.fn : Nat) < s.fns.length ∧ (q.sq : Nat) < (fnAt s q.fn).sqs.length

theorem sqAt_setSq {s : State} {q : QId} (x : Option SubQ) (h : HasSq s q) : sqAt (setSq s q.fn q.sq x) q.fn q.sq = x := by
  obtain ⟨hf, hq⟩ := h
  rw [sqAt, setSq, fnAt_setFn _ _ _ _ hf, if_pos rfl, List.getD_eq_getElem?_getD, listSet, List.getElem?_set_self hq]
  rfl

theorem HasSq.setSq {s : State} {q : QId} (x : Option SubQ) (h : HasSq s q) : HasSq (setSq s q.fn q.sq x) q := by
  obtain ⟨hf, hq⟩ := h
  refine ⟨by simpa [Machine.setSq, setFn, listSet] using hf, ?_⟩
  rw [Machine.setSq, fnAt_setFn _ _ _ _ hf, if_pos rfl]
  simpa [listSet] using hq

/-! ### The entries that a fetch buffer gives up -/

theorem acceptNext_empty {s : State} {q : QId} {x : SubQ} (h : sqAt s q.fn q.sq = some x) (e : x.buf = []) :
    acceptNext s q = s := by
  simp [acceptNext, h, e]

theorem acceptAll_of_kept {s : State} {q : QId} (h : acceptNext s q = s) : acceptAll s q = s := by
  simp [acceptAll, fetchCap, List.range_succ, h]

theorem acceptAll_of_one {s u : State} {q : QId} (h : acceptNext s q = u) (e : acceptNext u q = u) : acceptAll s q = u := by
  simp [acceptAll, fetchCap, List.range_succ, h, e]

/-- An entry of a wrong sequence, or one with parameters that cannot be read, stands behind the open commands of its queue. -/
theorem acceptNext_held {s : State} {q : QId} {x : SubQ} {b : SubEntry} (h : sqAt s q.fn q.sq = some x)
    (hb : x.buf.head? = some b) (open' : openOn s q.fn q.sq = true)
    (bad : entSeq b ≠ x.expect ∨ (entExt b ∧ b.readable = false)) : acceptNext s q = s := by
  obtain ⟨l, hl⟩ : ∃ l, x.buf = b :: l := List.head?_eq_some_iff.1 hb
  simp only [acceptNext, h, hl]
  exact if_pos ⟨by simpa using bad, open'⟩

/-- The record of an entry as it is accepted. -/
def acceptedRec (s : State) (q : QId) (x : SubQ) (e : SubEntry) : JRec :=
  ⟨q, entSeq e, e, .accepted, x.d.cq, s.time.now, 0, 0, 0, [], [], 0⟩

/-- That record where the entry is refused as it is accepted. -/
def refusedRec (s : State) (q : QId) (x : SubQ) (e : SubEntry) (status detail : Nat) : JRec :=
  { acceptedRec s q x e with st := .committed, tdone := s.time.now, status := status, detail := detail }

section
variable {s : State} {q : QId} {x : SubQ} {e : SubEntry} (h : sqAt s q.fn q.sq = some x) (buf : x.buf = [e])
include h buf

theorem acceptNext_good (seq : entSeq e = x.expect) (readable : entExt e → e.readable) :
    acceptNext s q = acceptEntry s q { x with buf := [] } (acceptedRec s q x e) := by
  have notLost : (entExt e && !e.readable) = false := by simpa using readable
  simp [acceptNext, h, buf, seq, notLost, acceptedRec]

theorem acceptNext_badSequence (seq : entSeq e ≠ x.expect) (shut : openOn s q.fn q.sq = false) :
    acceptNext s q = acceptEntry s q { x with buf := [] } (refusedRec s q x e 0x0102 (x.expect.toNat % 2 ^ 32)) := by
  simp [acceptNext, h, buf, seq, shut, refusedRec, acceptedRec]

theorem acceptNext_lost (seq : entSeq e = x.expect) (ext : entExt e = true) (lost : e.readable = false)
    (shut : openOn s q.fn q.sq = false) :
    acceptNext s q = acceptEntry (drawFree s).2 q { x with buf := [] }
      (refusedRec s q x e 0x010D (0xFFFF + 2 ^ 16 * ((drawFree s).1.toNat % 2 ^ 16))) := by
  simp [acceptNext, h, buf, seq, shut, ext, lost, refusedRec, acceptedRec]
end

/-! ### The accept record -/

theorem packFields_pair (a b : Nat) (w : Nat) (ha : a < 2 ^ w) (v : Nat) :
    packFields [⟨0, w, a⟩, ⟨w, v, b⟩] = a + 2 ^ w * (b % 2 ^ v) := by
  simp only [packFields, List.foldl_cons, List.foldl_nil, Nat.zero_or, Nat.shiftLeft_zero, Nat.mod_eq_of_lt ha]
  rw [Nat.or_comm, ← Nat.shiftLeft_add_eq_or_of_lt ha, Nat.shiftLeft_eq]
  ring

theorem leBytes_mod (n v : Nat) : leBytes n (v % 2 ^ (8 * n)) = leBytes n v := by
  conv_rhs => rw [← Nat.mod_add_div v (2 ^ (8 * n)), leBytes_low]

theorem leBytes_zero (n : Nat) : leBytes n 0 = List.replicate n 0 := by
  simp [leBytes]

theorem shiftRight_add_mul (a b w : Nat) (h : a < 2 ^ w) : (a + 2 ^ w * b) >>> w = b := by
  rw [Nat.shiftRight_eq_div_pow, Nat.add_mul_div_left _ _ (Nat.two_pow_pos w), Nat.div_eq_of_lt h, Nat.zero_add]

theorem shiftRight_mod (a w : Nat) : (a % 2 ^ w) >>> w = 0 := by
  rw [Nat.shiftRight_eq_div_pow, Nat.div_eq_of_lt (Nat.mod_lt _ (Nat.two_pow_pos w))]

/-- The accept record: the sequence expected and the head after the entry (R332). -/
theorem leBytes_acceptRecord (seq : Word64) (head : Nat) :
    leBytes 16 (packFields [⟨0, 64, seq.toNat⟩, ⟨64, 16, head⟩]) =
      leBytes 8 seq.toNat ++ leBytes 2 head ++ List.replicate 6 0 := by
  rw [packFields_pair _ _ _ seq.isLt, leBytes_add 8 8, leBytes_low 8, shiftRight_add_mul _ _ _ seq.isLt, leBytes_add 2 6 (_ % _),
    leBytes_mod 2, shiftRight_mod, leBytes_zero, List.append_assoc]

theorem sqAt_hostWrite (s : State) (space a : Nat) (b : List Byte) (f n : Nat) : sqAt (hostWrite s space a b) f n = sqAt s f n := rfl

theorem sqAt_acceptEntry {s : State} {q : QId} (x : SubQ) (r : JRec) (h : HasSq s q) :
    sqAt (acceptEntry s q x r) q.fn q.sq = some { x with head := x.head + 1, expect := x.expect + 1 } := by
  rw [acceptEntry, sqAt_hostWrite]
  exact sqAt_setSq (s := s.withJournal (s.journal ++ [r])) _ h

theorem acceptEntry_host (s : State) (q : QId) (x : SubQ) (r : JRec) :
    (acceptEntry s q x r).host = memWrite s.host (hostAt q.fn x.d.araddr.toNat) (leBytes 8 x.expect.toNat ++
      leBytes 2 ((x.head + 1) % 2 ^ x.d.lsize) ++ List.replicate 6 0) := by
  rw [← leBytes_acceptRecord]
  rfl

/-! ### A fetch -/

section
variable {s : State} {q : QId} {e : SubEntry} {x : SubQ} {t : Word64} (inv : Inv s) (now : s.time.now.ule t = true)
  (up : hubUp s = true) (pl0 : s.power.level = 0) (head : sqAt s q.fn q.sq = some x) (more : x.head + x.buf.length < x.tail)
include now up pl0 head more

/-- The state in which the fetched entry stands in the buffer. -/
abbrev fetchedState (s : State) (q : QId) (e : SubEntry) (x : SubQ) (t : Word64) : State :=
  setSq (tick s t) q.fn q.sq (some { x with buf := x.buf ++ [e] })

theorem exec_submissionFetch (room : x.buf.length < 8)
    (is : entSeq e ≠ x.expect + BitVec.ofNat 64 x.buf.length ∨ (entExt e ∧ e.readable = false) ∨ entryIs e) :
    exec (.submissionFetch q e t) s = .next (acceptAll (fetchedState s q e x t) q) := by
  have is' : (decide (entSeq e ≠ x.expect + BitVec.ofNat 64 x.buf.length) || (entExt e && !e.readable) || entryIs e) = true := by
    simpa [or_assoc] using is
  have goes : ¬ ((!hubUp s) = true ∨ s.power.level ≠ 0 ∨ fetchCap ≤ x.buf.length ∨ x.tail ≤ x.head + x.buf.length ∨
      (!decide (entSeq e ≠ x.expect + BitVec.ofNat 64 x.buf.length) && !(entExt e && !e.readable) && !entryIs e) = true) := by
    rw [← Bool.not_or, ← Bool.not_or, is', up, pl0, fetchCap]
    simp only [Bool.not_true, Bool.false_eq_true, ne_eq, not_true_eq_false, false_or, or_false]
    omega
  simp only [exec, execSubmissionFetch, head]
  rw [if_neg goes, atTime_of_ule _ now, ok]

include inv

/-- Where the buffer was empty and its one entry is accepted, the fetch journals it and writes the accept record. -/
theorem exec_submissionFetch_accepts {r : JRec} {d : State} (empty : x.buf = [])
    (is : entSeq e ≠ x.expect ∨ (entExt e ∧ e.readable = false) ∨ entryIs e) (fns : d.fns = (fetchedState s q e x t).fns)
    (acc : acceptNext (fetchedState s q e x t) q = acceptEntry d q x r) :
    exec (.submissionFetch q e t) s = .next (acceptEntry d q x r) ∧
      sqAt (acceptEntry d q x r) q.fn q.sq = some { x with head := x.head + 1, expect := x.expect + 1 } := by
  have has : HasSq (fetchedState s q e x t) q := HasSq.setSq (s := tick s t) _ (sq_inBounds inv head)
  have last : sqAt (acceptEntry d q x r) q.fn q.sq = some { x with head := x.head + 1, expect := x.expect + 1 } :=
    sqAt_acceptEntry x r (by rw [HasSq, fnAt, fns]; exact has)
  refine ⟨?_, last⟩
  rw [exec_submissionFetch now up pl0 head more (by rw [empty]; decide) (by simpa [empty] using is)]
  exact congrArg Host.Outcome.next (acceptAll_of_one acc (acceptNext_empty last empty))
end

/-- Settles O12: the fetched entry goes to the end of the buffer, and the buffer's oldest entry is accepted, refused as it is
accepted, or waits behind the open commands of its queue. -/
theorem submissionsAreTaken : Obligations.SubmissionsAreTaken := by
  intro s q e x t inv now up pl0 head more
  have inside : sqAt (fetchedState s q e x t) q.fn q.sq = some { x with buf := x.buf ++ [e] } :=
    sqAt_setSq (s := tick s t) _ (sq_inBounds inv head)
  have bare (empty : x.buf = []) : { x with buf := [] } = x := by rw [← empty]
  have inside₁ (empty : x.buf = []) : sqAt (fetchedState s q e x t) q.fn q.sq = some { x with buf := [e] } := by
    rw [inside, empty]; rfl
  refine ⟨fun empty seq readable is => ?_, fun empty seq shut => ?_, fun empty seq ext lost shut => ?_,
    fun b room first open' bad is => ?_⟩
  · have acc := acceptNext_good (inside₁ empty) rfl seq readable
    simp only [bare empty] at acc
    obtain ⟨runs, queue⟩ := exec_submissionFetch_accepts inv now up pl0 head more empty (.inr (.inr is)) rfl acc
    exact ⟨_, _, runs, rfl, rfl, seq, rfl, rfl, rfl, rfl, queue, acceptEntry_host .., rfl⟩
  · have acc := acceptNext_badSequence (inside₁ empty) rfl seq shut
    simp only [bare empty] at acc
    obtain ⟨runs, queue⟩ := exec_submissionFetch_accepts inv now up pl0 head more empty (.inl seq) rfl acc
    exact ⟨_, _, runs, rfl, rfl, rfl, rfl, rfl, rfl, rfl, queue⟩
  · have acc := acceptNext_lost (inside₁ empty) rfl seq ext lost shut
    simp only [bare empty] at acc
    obtain ⟨runs, queue⟩ := exec_submissionFetch_accepts inv now up pl0 head more empty (.inr (.inl ⟨ext, lost⟩))
      (d := (drawFree (fetchedState s q e x t)).2) rfl acc
    refine ⟨_, _, runs, rfl, rfl, seq, rfl, rfl, ?_, queue⟩
    show (0xFFFF + 2 ^ 16 * _) % 2 ^ 16 = 0xFFFF
    omega
  · have waits := acceptAll_of_kept (acceptNext_held inside first open' bad)
    refine ⟨_, exec_submissionFetch now up pl0 head more room is, ?_, ?_, ?_⟩ <;> rw [waits]
    · exact inside
    · rfl
    · rfl

end Sys2Proof.Machine
end

section
/-! PROOFS. Diagnostic commands: snapshots, reads, attestation and configuration (R45, R336, R337, R385 to R388, R404 to R406,
R423). -/

namespace Sys2Proof.Machine

open Sys2Proof

/-- A command's record names one of the module's partitions. -/
theorem lt_of_hostReady {s : State} {q : QId} {c : HostCmd} {p : Nat} (inv : Inv s) (h : hostReady s q c p = true) :
    p < s.parts.length := by
  obtain ⟨⟨-, parts, -⟩, -⟩ := inv
  unfold hostReady at h
  split at h
  · rename_i r _
    simp only [Bool.and_eq_true, decide_eq_true_eq] at h
    obtain ⟨⟨⟨rfl, -⟩, -⟩, -⟩ := h
    rw [parts]
    exact Nat.mod_lt _ (by decide)
  · cases h

theorem linkUp_of_canStart {s : State} {q : QId} {c : HostCmd} (h : (canStart s q c).isSome = true) : s.io.linkUp = true := by
  unfold canStart at h
  split at h
  · split at h
    · rename_i up
      obtain ⟨-, -, up, -⟩ := up
      simp only [hubUp, Bool.and_eq_true] at up
      exact up.1.2
    · cases h
  · cases h

theorem commitCmd_of_linkUp (s : State) (q : QId) (status d : Nat) (h : s.io.linkUp = true) :
    commitCmd s q status d = s.withJournal (completedWith s q status d) := by
  rw [commitCmd, assertWake, if_pos (by simp [updHead, h])]
  rfl

/-- A refusal changes the journal and the count of free values, where the link is up. -/
theorem reject_of_linkUp {s : State} (q : QId) (status : Nat) (h : s.io.linkUp = true) :
    ∃ d, reject s q status = (s.withFree (s.free + 1)).withJournal (completedWith s q status d) := by
  unfold reject rejectAt endCmd drawFree
  split
  · exact ⟨_, commitCmd_of_linkUp _ q status _ h⟩
  · exact ⟨_, commitCmd_of_linkUp _ q status _ h⟩

/-! ### Snapshots (R386, R387) -/

/-- The record of a partition with a snapshot. -/
def withSnap (id : Nat) (x : Snap) (y : Part) : Part := { y with snaps := mapPut y.snaps id x }

theorem addSnap_eq (s : State) (p id : Nat) (x : Snap) : addSnap s p id x = updPart s p (withSnap id x) := rfl

section
variable {s : State} {q : QId} {p : Nat} {id : Nat}

theorem snap_addSnap {s : State} {p : Nat} (id : Nat) (x : Snap) (k : Nat) (h : p < s.parts.length) :
    mapFind (partAt (addSnap s p id x) p).snaps k = if k = id then some x else mapFind (partAt s p).snaps k := by
  rw [addSnap_eq, partAt_updPart_self _ h, withSnap, mapFind_mapPut]

/-- An armed snapshot's command completes with its id. -/
theorem addSnap_completes (x : Snap) {c : HostCmd} (inv : Inv s) (ready : hostReady s q c p = true) :
    (done (addSnap s p id x) q id).journal = completedWith s q 0 id ∧
      mapFind (partAt (done (addSnap s p id x) q id) p).snaps id = some x ∧
      (∀ k, k ≠ id → mapFind (partAt (done (addSnap s p id x) q id) p).snaps k = mapFind (partAt s p).snaps k) ∧
      (∀ k, k ≠ p → partAt (done (addSnap s p id x) q id) k = partAt s k) ∧ onlyParts s (done (addSnap s p id x) q id) := by
  have hp := lt_of_hostReady inv ready
  rw [done_of_linkUp (s := addSnap s p id x) q id (linkUp_of_hostReady (s := s) ready)]
  exact ⟨rfl, (snap_addSnap id x id hp).trans (if_pos rfl), fun k hk => (snap_addSnap id x k hp).trans (if_neg hk),
    fun k hk => partAt_updPart_ne s (withSnap id x) hk, rfl⟩

theorem no_snap {s : State} (fresh : s.parts.all (fun x => (mapFind x.snaps id).isNone) = true) :
    ¬ s.parts.any (fun x => (mapFind x.snaps id).isSome) = true := by
  rw [List.all_eq_true] at fresh
  rw [List.any_eq_true]
  rintro ⟨x, hx, some_⟩
  have := fresh x hx
  rw [Option.isNone_iff_eq_none] at this
  rw [this] at some_
  cases some_

theorem exec_snapshotAt {t : Word64} {mask : BitVec 16} (ready : hostReady s q (.snapshotAt t mask) p = true)
    (fresh : s.parts.all (fun x => (mapFind x.snaps id).isNone) = true) (early : s.time.now.toNat + 100000 ≤ t.toNat)
    (late : t.toNat ≤ s.time.now.toNat + 10000000000) (room : snapRoom s p (readMask q.fn mask) = true) :
    exec (.snapshotAt q t mask id) s = .next (done (addSnap s p id ⟨false, t, readMask q.fn mask, [0], [], 0, 0⟩) q id) := by
  show execSnapshotAt q t mask id s = _
  rw [execSnapshotAt, if_neg (no_snap fresh), hostCmd_ready _ ready]
  dsimp only
  rw [if_neg (by omega), if_neg (by simp [room])]

/-- The queues of a partition's tiles. -/
def allQueues (s : State) (p : Nat) : List Nat :=
  ((List.range (nTiles s p)).map (fun t => [4 * t, 4 * t + 1, 4 * t + 2, 4 * t + 3])).flatten

theorem mem_allQueues (s : State) (p k : Nat) : k ∈ allQueues s p ↔ k / 4 < nTiles s p := by
  simp only [allQueues, List.mem_flatten, List.mem_map, List.mem_range]
  constructor
  · rintro ⟨_, ⟨t, ht, rfl⟩, hk⟩
    simp only [List.mem_cons, List.not_mem_nil, or_false] at hk
    omega
  · intro h
    refine ⟨_, ⟨k / 4, h, rfl⟩, ?_⟩
    simp only [List.mem_cons, List.not_mem_nil, or_false]
    omega

theorem exec_snapshotMark {n : BitVec 32} {mask : BitVec 16} (ready : hostReady s q (.snapshotMark n mask) p = true)
    (fresh : s.parts.all (fun x => (mapFind x.snaps id).isNone) = true) (room : snapRoom s p (readMask q.fn mask) = true) :
    exec (.snapshotMark q n mask id) s =
      .next (done (addSnap s p id ⟨true, BitVec.ofNat 64 n.toNat, readMask q.fn mask, allQueues s p, [], 0, 0⟩) q id) := by
  show execSnapshotMark q n mask id s = _
  rw [execSnapshotMark, if_neg (no_snap fresh), hostCmd_ready _ ready]
  dsimp only
  rw [if_neg (by simp [room])]
  rfl

end

/-- The counters of a snapshot's classes. -/
def maskCounters (s : State) (p : Nat) (m : BitVec 16) : List (Nat × Word64) :=
  ((List.range 9).map (fun c => if maskHas m c then classCounters s p c else [])).flatten

theorem mem_maskCounters {s : State} {p : Nat} {m : BitVec 16} {c : Nat} (hc : c < 9) (taken : m.getLsbD c = true)
    {e : Nat × Word64} (he : e ∈ classCounters s p c) : e ∈ maskCounters s p m :=
  List.mem_flatten.2 ⟨_, List.mem_map.2 ⟨c, List.mem_range.2 hc, if_pos taken⟩, he⟩

theorem snapshotsAreArmed : SnapshotsAreArmed := by
  intro s q p inv
  refine ⟨fun t mask id ready fresh early late room => ?_, fun n mask id ready fresh room => ?_,
    fun part id x t snap time need vals point now => ?_⟩
  · exact ⟨_, exec_snapshotAt ready fresh early late room, addSnap_completes _ inv ready⟩
  · obtain ⟨journal, snap, -, others, only⟩ := addSnap_completes (id := id)
      ⟨true, BitVec.ofNat 64 n.toNat, readMask q.fn mask, allQueues s p, [], 0, 0⟩ inv ready
    exact ⟨_, _, exec_snapshotMark ready fresh room, journal, snap, rfl,
      by simp only [BitVec.toNat_ofNat]; exact Nat.mod_eq_of_lt (by omega), rfl, rfl, mem_allQueues s p, others, only⟩
  · have hp : (part : Nat) < (tick s t).parts.length := by rw [tick_parts, inv.1.2.1]; exact part.isLt
    have hexec : exec (.snapshotLatch part id t) s = .next (addSnap (tick s t) part id
        { latchVals (tick s t) x (maskCounters (tick s t) part x.mask) with need := [] }) := by
      show execSnapshotLatch part id t s = _
      simp only [execSnapshotLatch, snap]
      rw [if_neg (by simp [time, need, point]), atTime_of_ule _ now]
      rfl
    refine ⟨_, _, hexec, (snap_addSnap id _ id hp).trans (if_pos rfl), rfl, rfl, rfl, if_pos vals, rfl,
      fun c hc taken e he => ?_, fun k hk => (snap_addSnap id _ k hp).trans (if_neg hk), rfl⟩
    show e ∈ x.vals ++ maskCounters (tick s t) part x.mask
    exact List.mem_append_right _ (mem_maskCounters hc taken he)

/-! ### Reads into a host buffer (R337) -/

section
variable {s : State} {q : QId} {p : Nat} {b : Buf}

theorem readDone_of_linkUp (l : List Byte) (d : Nat) (taken : b.refused = false) (up : s.io.linkUp = true) :
    readDone s q b l d =
      (s.withHost (memWrite s.host (bufAt q b) (l.take b.len))).withJournal (completedWith s q 0 d) := by
  rw [readDone, taken, if_neg (by decide), done_of_linkUp (s := putBuf s q.fn b l) q d up]
  rfl

theorem readDone_refused (l : List Byte) (d : Nat) (refused : b.refused = true) : readDone s q b l d = reject s q 0x0203 := by
  rw [readDone, if_pos refused]

/-- A row that ends in a read's completion writes the bytes, cut at the buffer's length. -/
theorem read_completes {i : Instr} (l : List Byte) (d : Nat) (taken : b.refused = false) (up : s.io.linkUp = true)
    (hexec : exec i s = .next (readDone s q b l d)) :
    ∃ t, exec i s = .next t ∧ t.host = memWrite s.host (bufAt q b) (l.take b.len) ∧ t.journal = completedWith s q 0 d ∧
      onlyReport s t := by
  rw [hexec, readDone_of_linkUp l d taken up]
  exact ⟨_, rfl, rfl, rfl, rfl⟩

theorem read_refused {i : Instr} (l : List Byte) (d n : Nat) (refused : b.refused = true) (up : s.io.linkUp = true)
    (hexec : exec i s = .next (readDone (s.withFree n) q b l d)) :
    ∃ t, exec i s = .next t ∧ Completes s t q 0x0203 ∧ (t.withJournal s.journal).withFree s.free = s := by
  obtain ⟨d', e⟩ := reject_of_linkUp (s := s.withFree n) q 0x0203 up
  rw [hexec, readDone_refused l d refused, e]
  exact ⟨_, rfl, ⟨d', rfl⟩, rfl⟩

theorem onlyReport_withParts (s : State) (x : List Part) (m : Memory) (j : List JRec) :
    onlyReport s ((((s.withParts x).withHost m).withJournal j).withParts s.parts) := by cases s; rfl

theorem onlyReport_withFree (s : State) (n : Nat) (m : Memory) (j : List JRec) :
    onlyReport s ((((s.withFree n).withHost m).withJournal j).withFree s.free) := by cases s; rfl

/-! ### Counters (R385, R388) -/

/-- The counters with the ids of a list, where the model keeps them all, are listed in its order; no free value is drawn. -/
theorem foldl_liveCounter (s : State) (p n : Nat) (ids : List Nat) (l acc : List (Nat × Word64))
    (h : ids.map (fun i => (classCounters s (ctrPart p i) (i / 2 ^ 24)).find? (fun e => decide (e.1 = i))) = l.map some) :
    ids.foldl (liveCounter s p) (acc, n) = (acc ++ l, n) := by
  induction ids generalizing l acc with
  | nil =>
    obtain rfl : l = [] := List.map_eq_nil_iff.1 h.symm
    simp
  | cons i ids ih =>
    cases l with
    | nil => cases h
    | cons e l =>
      rw [List.map_cons, List.map_cons, List.cons.injEq] at h
      obtain ⟨found, rest⟩ := h
      rw [List.foldl_cons, show liveCounter s p (acc, n) i = (acc ++ [e], n) by simp only [liveCounter, found],
        ih l _ rest, List.append_assoc]
      rfl

theorem length_ctrEntries (l : List (Nat × Word64)) : (l.map ctrEntry).flatten.length = 16 * l.length := by
  induction l with
  | nil => rfl
  | cons e l ih =>
    rw [List.map_cons, List.flatten_cons, List.length_append, ih]
    simp [ctrEntry, leBytes]
    omega

theorem exec_counterRead_live {ids : List Nat} (ready : hostReady s q (.counterRead (.live ids) b) p = true)
    (allowed : ∀ i ∈ ids, ctrAllowed q.fn p i = true) :
    ∃ (l : List Byte) (n : Nat), (∀ k : List (Nat × Word64),
        ids.map (fun i => (classCounters s (ctrPart p i) (i / 2 ^ 24)).find? (fun e => decide (e.1 = i))) = k.map some →
        l = (k.map ctrEntry).flatten ∧ n = s.free) ∧
      exec (.counterRead q (.live ids) b) s = .next (readDone (s.withFree n) q b l (min b.len l.length)) := by
  have none_ : ¬ (ids.any fun i => !ctrAllowed q.fn p i) = true := by simpa using allowed
  refine ⟨((ids.foldl (liveCounter s p) ([], s.free)).1.map ctrEntry).flatten, (ids.foldl (liveCounter s p) ([], s.free)).2,
    fun k hk => ?_, ?_⟩
  · rw [foldl_liveCounter s p s.free ids k [] hk]
    exact ⟨rfl, rfl⟩
  · show execCounterRead q (.live ids) b s = _
    rw [execCounterRead, hostCmd_ready _ ready]
    dsimp only
    rw [if_neg none_]

/-- The record of a partition without a snapshot. -/
def withoutSnap (id : Nat) (y : Part) : Part := { y with snaps := mapDel y.snaps id }

theorem exec_counterRead_snap {id : Nat} {release : Bool} {x : Snap}
    (ready : hostReady s q (.counterRead (.snap id release) b) p = true) (hx : mapFind (partAt s p).snaps id = some x)
    (latched : x.need = []) :
    exec (.counterRead q (.snap id release) b) s = .next (readDone (if release then updPart s p (withoutSnap id) else s) q b
      (snapBytes id x) (min b.len (snapBytes id x).length)) := by
  show execCounterRead q (.snap id release) b s = _
  rw [execCounterRead, hostCmd_ready _ ready]
  simp only [hx]
  rw [if_neg (by simp [latched])]
  rfl

/-! ### Records, the fault log, the history and the certificates (R45, R404, R405, R423) -/

theorem exec_recordRead {sel : RecSel} {l : List Byte} (ready : hostReady s q (.recordRead sel b) p = true)
    (hl : diagRecord s q.fn p sel = .inl l) :
    exec (.recordRead q sel b) s = .next (readDone s q b l (min b.len l.length)) := by
  show execRecordRead q sel b s = _
  rw [execRecordRead, hostCmd_ready _ ready]
  simp only [hl]

/-- The bytes of a part of a fault log. -/
def faultLogBytes (l : List FaultRec) : List Byte := (l.map (fun r => leBytes 64 (faultBits r))).flatten

theorem length_faultLogBytes (l : List FaultRec) : (faultLogBytes l).length = 64 * l.length := by
  induction l with
  | nil => rfl
  | cons r l ih =>
    rw [faultLogBytes, List.map_cons, List.flatten_cons, List.length_append, ← faultLogBytes, ih]
    simp [leBytes]
    omega

theorem exec_faultLogRead {first count : Nat} (ready : hostReady s q (.faultLogRead first count b) p = true) :
    exec (.faultLogRead q first count b) s = .next (readDone s q b
      (faultLogBytes (((partAt s p).flog.drop first).take (min count (b.len / 64))))
      (((partAt s p).flog.drop first).take (min count (b.len / 64))).length) := by
  show execFaultLogRead q first count b s = _
  rw [execFaultLogRead, hostCmd_ready _ ready, Nat.min_comm, ← List.take_take]
  rfl

theorem exec_historyRead (ready : hostReady s q (.historyRead b) p = true) :
    exec (.historyRead q b) s = .next (readDone s q b (s.boot.hist.map (histBytes s)).flatten
      (min b.len (s.boot.hist.map (histBytes s)).flatten.length)) := by
  show execHistoryRead q b s = _
  rw [execHistoryRead, hostCmd_ready _ ready]

theorem exec_certRead (ready : hostReady s q (.certRead b) p = true) :
    exec (.certRead q b) s = .next (readDone s q b s.boot.chain (min b.len s.boot.chain.length)) := by
  show execCertRead q b s = _
  rw [execCertRead, hostCmd_ready _ ready]

end

theorem diagnosticReadsComplete : DiagnosticReadsComplete := by
  intro s q p b inv taken
  refine ⟨fun ids l ready allowed found => ?_, fun id x ready hx latched => ?_, fun id x ready hx latched => ?_,
    fun sel l ready hl => ?_, fun first count ready => ?_, fun ready => ?_, fun ready => ?_⟩
  · obtain ⟨_, _, bytes, hexec⟩ := exec_counterRead_live ready allowed
    obtain ⟨rfl, rfl⟩ := bytes l found
    have same : ids.length = l.length := by simpa using congrArg List.length found
    rw [length_ctrEntries, ← same] at hexec
    exact read_completes _ _ taken (linkUp_of_hostReady ready) hexec
  · exact read_completes _ _ taken (linkUp_of_hostReady ready) (exec_counterRead_snap ready hx latched)
  · have hp := lt_of_hostReady inv ready
    have own : (partAt (updPart s p (withoutSnap id)) p).snaps = mapDel (partAt s p).snaps id := by
      rw [partAt_updPart_self _ hp, withoutSnap]
    rw [exec_counterRead_snap ready hx latched, if_pos rfl,
      readDone_of_linkUp (s := updPart s p (withoutSnap id)) _ _ taken (linkUp_of_hostReady (s := s) ready)]
    refine ⟨_, rfl, rfl, rfl, ?_, fun k hk => ?_, onlyReport_withParts ..⟩
    · show mapFind (partAt (updPart s p (withoutSnap id)) p).snaps id = none
      rw [own, mapFind_mapDel, if_pos rfl]
    · show mapFind (partAt (updPart s p (withoutSnap id)) p).snaps k = _
      rw [own, mapFind_mapDel, if_neg hk]
  · exact read_completes _ _ taken (linkUp_of_hostReady ready) (exec_recordRead ready hl)
  · have whole : (faultLogBytes (((partAt s p).flog.drop first).take (min count (b.len / 64)))).take b.len =
        faultLogBytes (((partAt s p).flog.drop first).take (min count (b.len / 64))) :=
      List.take_of_length_le (by rw [length_faultLogBytes, List.length_take]; omega)
    have := read_completes _ _ taken (linkUp_of_hostReady ready) (exec_faultLogRead ready)
    rw [whole, List.length_take, List.length_drop] at this
    exact this
  · obtain ⟨t, hexec, host, journal, only⟩ := read_completes _ _ taken (linkUp_of_hostReady ready) (exec_historyRead ready)
    exact ⟨t, hexec, host, ⟨_, journal, Nat.min_le_left ..⟩, only⟩
  · exact read_completes _ _ taken (linkUp_of_hostReady ready) (exec_certRead ready)

theorem refusedReadsComplete : RefusedReadsComplete := by
  intro s q p b _ refused
  refine ⟨fun ids ready allowed => ?_, fun sel l ready hl => ?_, fun first count ready => ?_, fun ready => ?_, fun ready => ?_⟩
  · obtain ⟨l, n, -, hexec⟩ := exec_counterRead_live ready allowed
    exact read_refused l _ n refused (linkUp_of_hostReady ready) hexec
  · exact read_refused l _ s.free refused (linkUp_of_hostReady ready) (exec_recordRead ready hl)
  · exact read_refused _ _ s.free refused (linkUp_of_hostReady ready) (exec_faultLogRead ready)
  · exact read_refused _ _ s.free refused (linkUp_of_hostReady ready) (exec_historyRead ready)
  · exact read_refused _ _ s.free refused (linkUp_of_hostReady ready) (exec_certRead ready)

/-! ### Attestation and configuration (R405, R406) -/

theorem ownPart_of {f : Fin 32} {part : Fin 32} (h : f.val = 0 ∨ f = part) : ownPart f part = true := by
  rcases h with h | rfl
  · simp [ownPart, h]
  · simp [ownPart]

theorem length_reportBytes (s : State) (nonce : BitVec 512) (p : Nat) :
    (reportBytes s nonce p).length = 296 + 72 * (partAt s p).progs.length := by
  have entries (l : List (Nat × Program)) :
      (l.map (fun e => leBytes 8 e.1 ++ leBytes 64 e.2.meas.toNat)).flatten.length = 72 * l.length := by
    induction l with
    | nil => rfl
    | cons e l ih =>
      rw [List.map_cons, List.flatten_cons, List.length_append, ih]
      simp [leBytes]
      omega
  rw [reportBytes, List.length_append, entries]
  simp [leBytes]

section
variable {s : State} {q : QId} {p : Nat} {b : Buf} {part : Fin 32}

/-- A report with its signature (R405). -/
def attestation (s : State) (nonce : BitVec 512) (p : Nat) : List Byte :=
  reportBytes s nonce p ++ (List.range 4627).map (Config.sigByte (sha3 (reportBytes s nonce p)))

theorem length_attestation (s : State) (nonce : BitVec 512) (p : Nat) :
    (attestation s nonce p).length = (reportBytes s nonce p).length + 4627 := by
  rw [attestation, List.length_append, List.length_map, List.length_range]

theorem exec_attest {nonce : BitVec 512} (ready : hostReady s q (.attest nonce part b) p = true)
    (own : q.fn.val = 0 ∨ q.fn = part) (locked : s.io.tapUnlocked = false) (room : (attestation s nonce part).length ≤ b.len) :
    exec (.attest q nonce part b) s =
      .next (readDone s q b (attestation s nonce part) (attestation s nonce part).length) := by
  show execAttest q nonce part b s = _
  rw [execAttest, hostCmd_ready _ ready]
  dsimp only
  rw [if_neg (by simp [ownPart_of own]), if_neg (by simp [locked]), ← attestation, if_neg (Nat.not_lt.2 room)]

theorem exec_measureRead (ready : hostReady s q (.measureRead part b) p = true) (own : q.fn.val = 0 ∨ q.fn = part)
    (room : 296 + 72 * (partAt s part).progs.length ≤ b.len) :
    ∃ (n : Nat) (nonce : BitVec 512), exec (.measureRead q part b) s =
      .next (readDone (s.withFree n) q b (reportBytes s nonce part) (296 + 72 * (partAt s part).progs.length)) := by
  refine ⟨s.free + 4 + 4, (drawWide s).1 ++ (drawWide (drawWide s).2).1, ?_⟩
  show execMeasureRead q part b s = _
  rw [execMeasureRead, hostCmd_ready _ ready]
  dsimp only
  rw [if_neg (by simp [ownPart_of own]), length_reportBytes, if_neg (Nat.not_lt.2 (by exact room))]
  rfl

/-- The configuration's copies with a record put into the one that is not in use. -/
def withSpareCfg (x : BootU) (c : ConfigP) : BootU := 
  if x.useB then { x with cfgA := some c } else { x with cfgB := some c }

theorem activeCfg_withSpareCfg (s : State) (c : ConfigP) : activeCfg (s.withBoot (withSpareCfg s.boot c)) = activeCfg s := by
  cases hB : s.boot.useB <;> simp [withSpareCfg, activeCfg, hB]

theorem spareCfg_withSpareCfg (x : BootU) (c : ConfigP) :
    (if x.useB then (withSpareCfg x c).cfgA else (withSpareCfg x c).cfgB) = some c := by
  cases hB : x.useB <;> simp [withSpareCfg, hB]

theorem onlyBoot_completed (s : State) (x : BootU) (n : Nat) (j : List JRec) :
    (((((s.withBoot x).withFree n).withJournal j).withBoot s.boot).withJournal s.journal).withFree s.free = s := by cases s; rfl

theorem configUpdate_completes {c a : ConfigP} (ready : hostReady s q (.configUpdate c) p = true) (active : activeCfg s = some a)
    (sig : c.sigOk = true) (serial : c.serial = s.boot.certSerial) (seq : a.seq < c.seq) (minsvn : a.minsvn ≤ c.minsvn) :
    ∃ t, exec (.configUpdate q c) s = .next t ∧ Completes s t q 0 ∧ activeCfg t = some a ∧
      (if s.boot.useB then t.boot.cfgA else t.boot.cfgB) = some c ∧
      ((t.withBoot s.boot).withJournal s.journal).withFree s.free = s := by
  have accepts : ¬((!c.sigOk) = true ∨ c.serial ≠ s.boot.certSerial ∨ c.seq ≤ a.seq ∨ c.minsvn < a.minsvn) := by
    rw [sig, Bool.not_true]
    simp only [serial, ne_eq, not_true_eq_false, Bool.false_eq_true, false_or]
    omega
  have hexec : exec (.configUpdate q c) s = .next (doneOk (s.withBoot (withSpareCfg s.boot c)) q) := by
    show execConfigUpdate q c s = _
    rw [execConfigUpdate, hostCmd_ready _ ready]
    simp only [active]
    rw [if_neg accepts]
    rfl
  obtain ⟨d, e⟩ := doneOk_of_linkUp (s := s.withBoot (withSpareCfg s.boot c)) q (linkUp_of_hostReady (s := s) ready)
  rw [hexec, e]
  exact ⟨_, rfl, ⟨d, rfl⟩, (activeCfg_withSpareCfg s c).trans active, spareCfg_withSpareCfg s.boot c, onlyBoot_completed ..⟩

end

theorem attestAndConfigure : AttestAndConfigure := by
  intro s q p _
  refine ⟨fun nonce part b ready taken own locked room => ?_, fun part b ready taken own room => ?_,
    fun c a ready active sig serial seq minsvn => ?_, fun opc start undefined_ => ?_⟩
  · rw [← length_attestation] at room
    have := read_completes _ _ taken (linkUp_of_hostReady ready) (exec_attest ready own locked room)
    rwa [List.take_of_length_le room, length_attestation] at this
  · obtain ⟨n, nonce, hexec⟩ := exec_measureRead ready own room
    have whole : (reportBytes s nonce part).take b.len = reportBytes s nonce part :=
      List.take_of_length_le ((length_reportBytes ..).trans_le room)
    refine ⟨_, nonce, hexec, ?_⟩
    rw [readDone_of_linkUp (s := s.withFree n) _ _ taken (linkUp_of_hostReady (s := s) ready), whole]
    exact ⟨by rw [State.withJournal_host, State.withHost_host, State.withFree_host], rfl, onlyReport_withFree ..⟩
  · exact configUpdate_completes ready active sig serial seq minsvn
  · obtain ⟨r, hr⟩ := Option.isSome_iff_exists.1 start
    have hexec : exec (.undefinedCommand q opc) s = .next (reject s q 0x0101) := by
      show execUndefinedCommand q opc s = _
      simp only [execUndefinedCommand, hr, undefined_]
      rfl
    obtain ⟨d, e⟩ := reject_of_linkUp (s := s) q 0x0101 (linkUp_of_canStart start)
    exact ⟨_, hexec, ⟨d, by rw [e]; rfl⟩, by rw [e]; rfl⟩

/-- Settles O48: the rows of snapshots, reads, refused reads, and attestation with configuration. -/
theorem diagnosticsAnswer : Obligations.DiagnosticsAnswer :=
  ⟨snapshotsAreArmed, diagnosticReadsComplete, refusedReadsComplete, attestAndConfigure⟩

end Sys2Proof.Machine
end

section
/-! PROOFS. Errors of a tile's SRAMs, spares and scrub passes (R30, R150, R208, R209, R401, R402). -/

namespace Sys2Proof.Machine

open Sys2Proof

/-! ### Alerts, events and the history -/

theorem postEventTo_alerts (s : State) (f src part body : Nat) : (postEventTo s f src part body).io.alerts = s.io.alerts := by
  have wake (e : Bool) : (assertWake s e).io.alerts = s.io.alerts := by
    unfold assertWake
    split <;> rfl
  unfold postEventTo
  dsimp only
  split
  · exact wake _
  · split
    · exact wake _
    · obtain ⟨x, h, e⟩ := pushEvent_changes (assertWake s (fnAt s f).even) f (fnAt s f) src part body
      rw [e]
      exact wake _

theorem raiseAlert_set (s : State) {n : Nat} (h : n < 16) : (raiseAlert s n).io.alerts.getLsbD n = true := by
  simp [raiseAlert, h]

theorem sweepAll_changes (s : State) : ∃ x, sweepAll s = s.withFns x := by
  have step (l : List Nat) (x : List Fn) : ∃ y, l.foldl sweepInvals (s.withFns x) = s.withFns y := by
    induction l generalizing x with
    | nil => exact ⟨x, rfl⟩
    | cons p l ih =>
      obtain ⟨y, e⟩ := sweepInvals_changes (s.withFns x) p
      rw [List.foldl_cons, e, State.withFns_twice]
      exact ih y
  exact step (List.range 32) s.fns

/-! ### Uncorrectable errors of a tile (R30, R150, R402) -/

/-- A T0 error takes its time into the tile's list, and marks the tile where one within 24 h stands there already. -/
theorem tileErr_changes (s : State) (n : Nat) (x : Tile) :
    ∃ b, tileErr s n x = (setTileRaw s n { x with
      errs := recentErrs x.errs s.time.now ++ [s.time.now]
      replace := x.replace || decide (recentErrs x.errs s.time.now ≠ []) }).withBoot b := by
  unfold tileErr
  dsimp only
  split
  · rename_i short
    have none_ : recentErrs x.errs s.time.now = [] := List.eq_nil_of_length_eq_zero (by simpa using short)
    exact ⟨s.boot, by simp only [none_, ne_eq, not_true_eq_false, decide_false, Bool.or_false]; rfl⟩
  · rename_i long
    have some_ : recentErrs x.errs s.time.now ≠ [] := by
      intro e
      rw [e] at long
      simp at long
    obtain ⟨b, e⟩ := addHist_changes (setTileRaw s n { x with
      errs := recentErrs x.errs s.time.now ++ [s.time.now]
      replace := true }) 0 1 (ctrKey 0 1 n 0) 0 false
    exact ⟨b, by rw [e]; simp only [some_, ne_eq, not_false_eq_true, decide_true, Bool.or_true]⟩

section
variable {s : State} {t : Word64} (now : s.time.now.ule t = true) (run : s.boot.phase = .utora) (tile : Fin 192)
include now run

theorem exec_tileFailure_t0 {a : Nat} (ha : a < t0Size) :
    exec (.tileFailurePrediction tile ⟨.t0 a, t⟩) s = .next (tileErr (tick s t) tile
      { tileRaw s tile with pois := tagRange (tileRaw s tile).pois (a / 4 * 4) 4 (tagAtAddr (a / 4 * 4)) }) := by
  show execTileFailurePrediction tile ⟨.t0 a, t⟩ s = _
  rw [execTileFailurePrediction, if_neg (not_not.2 run), atTime_of_ule _ now]
  dsimp only
  rw [if_neg (Nat.not_le.2 ha)]
  rfl

theorem exec_tileFailure_whorl {k : Nat} (hk : k < 8192) :
    exec (.tileFailurePrediction tile ⟨.whorl k, t⟩) s = .next (setTileRaw (drawFree (tick s t)).2 tile
      { tileRaw s tile with whorlBad := tagPut (tileRaw s tile).whorlBad k (tagAtAddr (Config.free64 s.free).toNat) }) := by
  show execTileFailurePrediction tile ⟨.whorl k, t⟩ s = _
  rw [execTileFailurePrediction, if_neg (not_not.2 run), atTime_of_ule _ now]
  dsimp only
  rw [if_neg (Nat.not_le.2 hk)]
  rfl

end

/-! ### Repair entries (R393) -/

section
variable {kind logical physical : Nat}

theorem toNat_repairEntry (hk : kind < 2 ^ 8) (hl : logical < 2 ^ 24) (hp : physical < 2 ^ 24) :
    (repairEntry kind logical physical).toNat = physical * 2 ^ 32 + (logical * 2 ^ 8 + kind) := by
  have all : physical * 2 ^ 32 + (logical * 2 ^ 8 + kind) < 2 ^ 64 := by omega
  have low : logical * 2 ^ 8 + kind < 2 ^ 32 := by
    clear all
    omega
  have sum : packFields [⟨0, 8, kind⟩, ⟨8, 24, logical⟩, ⟨32, 24, physical⟩] = physical * 2 ^ 32 + (logical * 2 ^ 8 + kind) := by
    simp only [packFields, List.foldl_cons, List.foldl_nil, Nat.zero_or, Nat.shiftLeft_zero, Nat.mod_eq_of_lt hk,
      Nat.mod_eq_of_lt hl, Nat.mod_eq_of_lt hp]
    rw [Nat.or_comm kind, ← Nat.shiftLeft_add_eq_or_of_lt hk, Nat.shiftLeft_eq logical, Nat.or_comm,
      ← Nat.shiftLeft_add_eq_or_of_lt low, Nat.shiftLeft_eq]
  rw [repairEntry, BitVec.toNat_ofNat, sum, Nat.mod_eq_of_lt all]

theorem repairEntry_fields (hk : kind < 2 ^ 8) (hl : logical < 2 ^ 24) (hp : physical < 2 ^ 24) :
    rxKind (repairEntry kind logical physical) = kind ∧ rxLogical (repairEntry kind logical physical) = logical ∧
      rxPhysical (repairEntry kind logical physical) = physical := by
  rw [rxKind, rxLogical, rxPhysical, toNat_repairEntry hk hl hp]
  simp only [fld, Nat.shiftRight_eq_div_pow]
  omega

theorem retires_repairEntry (hk : kind < 2 ^ 8) (hl : logical < 2 ^ 24) (hp : physical < 0xFFFFFF) :
    retires (repairEntry kind logical physical) = false := by
  obtain ⟨-, -, e⟩ := repairEntry_fields hk hl (show physical < 2 ^ 24 by omega)
  rw [retires, e, decide_eq_false_iff_not]
  omega

end

/-- Beside what its unit does, an engaged entry changes the record of repairs and the history. -/
theorem engage_changes (s : State) (e : BitVec 64) : ∃ b, engage s e = (serveUnit (takeSpare s e) e).withBoot b := by
  obtain ⟨b, h⟩ := addHist_changes ((serveUnit (takeSpare s e) e).withBoot { (serveUnit (takeSpare s e) e).boot with
    repair := effMap ((serveUnit (takeSpare s e) e).boot.repair ++ [e]) }) 0 (repairHistKind (rxKind e)) (repairUnit e) e true
  exact ⟨b, h⟩

/-! ### Store banks (R401) -/

/-- Does a store frame lie in a bank? -/
def inBank (bank n : Nat) : Bool :=
  decide (dieFrames * (bank / 40) + 512 * (bank % 40) ≤ n) && decide (n < dieFrames * (bank / 40) + 512 * (bank % 40) + 512)

/-- The pages that are pinned or awaited in a bank. -/
def bankPins (s : State) (bank : Nat) : List PageKey :=
  s.t1.frames.filterMap (fun e => if !inBank bank e.1 then none
    else if e.2.pin then some e.2.key else e.2.nxt.bind (fun x => if x.2.1 then some x.1 else none))

theorem serveBank_served (s : State) (bank : Nat) : serveBank s bank false = (bankPins s bank).foldl pinPage
    (sweepAll (s.withT1 { s.t1 with
      frames := s.t1.frames.filter (fun e => !inBank bank e.1), fills := s.t1.fills.filter (fun n => !inBank bank n) })) := rfl

/-- A bank that a spare serves loses its frames; with none pinned or awaited there, nothing is pinned anew. -/
theorem serveBank_changes (s : State) (bank : Nat)
    (loose : ∀ e ∈ s.t1.frames, inBank bank e.1 = true → e.2.pin = false ∧ e.2.nxt = none) :
    ∃ x, serveBank s bank false = (s.withT1 { s.t1 with
      frames := s.t1.frames.filter (fun e => !inBank bank e.1), fills := s.t1.fills.filter (fun n => !inBank bank n) }).withFns x := by
  have noPins : bankPins s bank = [] := by
    refine List.filterMap_eq_nil_iff.2 fun e he => ?_
    split
    · rfl
    · rename_i here
      obtain ⟨pin, nxt⟩ := loose e he (by simpa using here)
      rw [pin, nxt, if_neg (by decide)]
      rfl
  obtain ⟨x, e⟩ := sweepAll_changes (s.withT1 { s.t1 with
    frames := s.t1.frames.filter (fun e => !inBank bank e.1), fills := s.t1.fills.filter (fun n => !inBank bank n) })
  exact ⟨x, by rw [serveBank_served, noPins, List.foldl_nil, e]⟩

/-- The spare that serves a bank is one of its die's, while the die has one. -/
theorem engageFree_bank {s : State} {die bank : Nat} (hd : die < 2) (hb : bank < 40) (stock : 0 < s.t1.spareLeft.getD die 0)
    (unused : unusedSpares s 11 die ≠ []) :
    ∃ n, n ∈ unusedSpares s 11 die ∧ engageFree s 11 (40 * die + bank) = engage (drawFree s).2 (repairEntry 11 (40 * die + bank) n) := by
  obtain ⟨-, logical, -⟩ := repairEntry_fields (kind := 11) (physical := 0) (by decide) (show 40 * die + bank < 2 ^ 24 by omega) (by decide)
  obtain ⟨kind, -, -⟩ := repairEntry_fields (kind := 11) (physical := 0) (by decide) (show 40 * die + bank < 2 ^ 24 by omega) (by decide)
  have own : rxDie (repairEntry 11 (40 * die + bank) 0) = die := by
    rw [rxDie, kind, if_neg (by decide), logical]
    omega
  have some_ : 0 < (unusedSpares s 11 die).length := List.length_pos_of_ne_nil unused
  have inside : (drawFree s).1.toNat % max 1 (unusedSpares s 11 die).length < (unusedSpares s 11 die).length := by
    rw [Nat.max_eq_right some_]
    exact Nat.mod_lt _ some_
  refine ⟨_, List.getElem_mem inside, ?_⟩
  have inStock : ¬ spareStock s 11 die = 0 := by
    rw [spareStock, if_neg (by decide)]
    omega
  simp only [engageFree, own]
  rw [if_pos (.inr trivial), if_neg inStock, List.getElem?_eq_getElem inside]
  rfl

theorem takeSpare_bank {s : State} {die bank n : Nat} (hd : die < 2) (hb : bank < 40) (hn : n < 0xFFFFFF) :
    takeSpare s (repairEntry 11 (40 * die + bank) n) =
      s.withT1 { s.t1 with spareLeft := s.t1.spareLeft.set die (s.t1.spareLeft.getD die 0 - 1) } := by
  obtain ⟨kind, logical, -⟩ := repairEntry_fields (kind := 11) (by decide) (show 40 * die + bank < 2 ^ 24 by omega)
    (show n < 2 ^ 24 by omega)
  have own : rxDie (repairEntry 11 (40 * die + bank) n) = die := by
    rw [rxDie, kind, if_neg (by decide), logical]
    omega
  simp only [takeSpare, retires_repairEntry (kind := 11) (by decide) (show 40 * die + bank < 2 ^ 24 by omega) hn, kind, own]
  rfl

theorem serveUnit_bank {s : State} {bank n : Nat} (hb : bank < 80) (hn : n < 0xFFFFFF) :
    serveUnit s (repairEntry 11 bank n) = serveBank s bank false := by
  obtain ⟨kind, logical, -⟩ := repairEntry_fields (kind := 11) (by decide) (show bank < 2 ^ 24 by omega) (show n < 2 ^ 24 by omega)
  simp only [serveUnit, retires_repairEntry (kind := 11) (by decide) (show bank < 2 ^ 24 by omega) hn, kind, logical]

theorem spareNums_lt {die n : Nat} (hd : die < 2) (h : n ∈ spareNums 11 die) : n < 0xFFFFFF := by
  simp only [spareNums, OfNat.ofNat_ne_one, if_false, List.mem_map, List.mem_range] at h
  obtain ⟨k, hk, rfl⟩ := h
  omega

/-- Where a store die's spare takes a bank's place, the bank's frames go and the stock sinks by one. -/
theorem engageFree_bank_t1 {s : State} {die bank : Nat} (hd : die < 2) (hb : bank < 40) (stock : 0 < s.t1.spareLeft.getD die 0)
    (unused : unusedSpares s 11 die ≠ [])
    (loose : ∀ e ∈ s.t1.frames, inBank (40 * die + bank) e.1 = true → e.2.pin = false ∧ e.2.nxt = none) :
    (engageFree s 11 (40 * die + bank)).t1 = { s.t1 with
      spareLeft := s.t1.spareLeft.set die (s.t1.spareLeft.getD die 0 - 1)
      frames := s.t1.frames.filter (fun e => !inBank (40 * die + bank) e.1)
      fills := s.t1.fills.filter (fun n => !inBank (40 * die + bank) n) } := by
  obtain ⟨n, hn, e⟩ := engageFree_bank hd hb stock unused
  have small : n < 0xFFFFFF := spareNums_lt hd (List.mem_of_mem_filter hn)
  obtain ⟨b, eb⟩ := engage_changes (drawFree s).2 (repairEntry 11 (40 * die + bank) n)
  rw [e, eb, takeSpare_bank hd hb small, serveUnit_bank (by omega) small]
  obtain ⟨x, ex⟩ := serveBank_changes ((drawFree s).2.withT1 { (drawFree s).2.t1 with
    spareLeft := (drawFree s).2.t1.spareLeft.set die ((drawFree s).2.t1.spareLeft.getD die 0 - 1) }) (40 * die + bank) loose
  rw [ex]
  rfl

theorem inBank_iff {die bank n : Nat} (hb : bank < 40) :
    inBank (40 * die + bank) n = true ↔ 20480 * die + 512 * bank ≤ n ∧ n < 20480 * die + 512 * bank + 512 := by
  rw [inBank, dieFrames, show (40 * die + bank) / 40 = die by omega, show (40 * die + bank) % 40 = bank by omega]
  simp only [Bool.and_eq_true, decide_eq_true_eq]

/-! ### Packages (R209) -/

/-- Naming the spare for a channel group that it serves already changes nothing but the record of repairs. -/
theorem engage_served {s : State} {k : Nat} (hk : k < 24) (used : s.t2.spareUsed = true)
    (served : listSet s.t2.map k 24 = s.t2.map) : ∃ b, engage s (repairEntry 5 k 24) = s.withBoot b := by
  obtain ⟨kind, logical, physical⟩ := repairEntry_fields (kind := 5) (physical := 24) (by decide) (show k < 2 ^ 24 by omega) (by decide)
  have stays := retires_repairEntry (kind := 5) (physical := 24) (by decide) (show k < 2 ^ 24 by omega) (by decide)
  have take : takeSpare s (repairEntry 5 k 24) = s := by
    simp only [takeSpare, stays, kind]
    rfl
  have serve : serveUnit s (repairEntry 5 k 24) = s := by
    have stock : (s.t2.spareUsed || decide True) = s.t2.spareUsed := by simp [used]
    simp only [serveUnit, kind, logical, physical, stays, serveChannels]
    rw [if_neg (by decide), served, stock]
    rfl
  obtain ⟨b, e⟩ := engage_changes s (repairEntry 5 k 24)
  exact ⟨b, by rw [e, take, serve]⟩

theorem engage_all_served (l : List Nat) {s : State} (small : ∀ k ∈ l, k < 24) (used : s.t2.spareUsed = true)
    (served : ∀ k ∈ l, listSet s.t2.map k 24 = s.t2.map) :
    ∃ b, l.foldl (fun s k => engage s (repairEntry 5 k 24)) s = s.withBoot b := by
  induction l generalizing s with
  | nil => exact ⟨s.boot, rfl⟩
  | cons k l ih =>
    obtain ⟨b, e⟩ := engage_served (small k (List.mem_cons_self ..)) used (served k (List.mem_cons_self ..))
    rw [List.foldl_cons, e]
    obtain ⟨c, ec⟩ := ih (s := s.withBoot b) (fun k hk => small k (List.mem_cons_of_mem _ hk)) used
      (fun k hk => served k (List.mem_cons_of_mem _ hk))
    exact ⟨c, ec⟩

/-- Once a package's channels are the spare's, each of its groups is listed under the spare. -/
theorem listSet_moved (map : List Nat) (m k : Nat) (h : map.getD k 0 = m) :
    listSet (map.map (fun x => if x = m then 24 else x)) k 24 = map.map (fun x => if x = m then 24 else x) := by
  refine List.ext_getElem (List.length_set ..) fun i hi hj => ?_
  simp only [listSet, List.getElem_set]
  split
  · rename_i e
    subst e
    rw [List.length_map] at hj
    rw [List.getD_eq_getElem _ _ hj] at h
    rw [List.getElem_map, if_pos h]
  · rfl

theorem exec_migrationCopyDone {s : State} {t : Word64} {m : Nat} (now : s.time.now.ule t = true) (run : s.boot.phase = .utora)
    (migr : s.t2.migr = some m) :
    ∃ b, exec (.migrationCopyDone t) s = .next (((tick s t).withT2 { s.t2 with
      map := s.t2.map.map (fun x => if x = m then 24 else x), spareUsed := true, migr := none }).withBoot b) := by
  obtain ⟨b, e⟩ := engage_all_served ((List.range 24).filter (fun k => decide (s.t2.map.getD k 0 = m)))
    (s := (tick s t).withT2 { s.t2 with
      map := s.t2.map.map (fun x => if x = m then 24 else x), spareUsed := true, migr := none })
    (fun k hk => List.mem_range.1 (List.mem_of_mem_filter hk)) rfl
    (fun k hk => listSet_moved _ _ _ (by simpa using (List.mem_filter.1 hk).2))
  refine ⟨b, ?_⟩
  show execMigrationCopyDone t s = _
  simp only [execMigrationCopyDone, migr]
  rw [if_neg (not_not.2 run), atTime_of_ule _ now, ← e]
  rfl

theorem exec_packagePrediction {s : State} {t : Word64} {pkg : Fin 25} {rule : Nat} (now : s.time.now.ule t = true)
    (run : s.boot.phase = .utora) (pred : predicted s pkg rule = true) (free : s.t2.spareUsed = false) (idle : s.t2.migr = none)
    (serves : s.t2.map.contains pkg.val = true) :
    ∃ s', exec (.packagePrediction pkg rule t) s = .next s' ∧ s'.t2 = { s.t2 with migr := some pkg.val } ∧
      s'.io.alerts.getLsbD 5 = true ∧ s'.parts = s.parts ∧ s'.tiles = s.tiles := by
  let u := raiseAlert (addHist (tick s t) 0 3 (ctrKey 0 3 (4 * pkg.val) 0) (BitVec.ofNat 64 rule) false) 5
  let v := postEventTo u 0 4 0 (packFields [⟨0, 5, pkg⟩, ⟨8, 4, rule⟩])
  obtain ⟨b, eb⟩ := addHist_changes (tick s t) 0 3 (ctrKey 0 3 (4 * pkg.val) 0) (BitVec.ofNat 64 rule) false
  obtain ⟨io, x, h, ev⟩ := postEventTo_changes u 0 4 0 (packFields [⟨0, 5, pkg⟩, ⟨8, 4, rule⟩])
  have kept : (u.t2, u.parts, u.tiles) = (s.t2, s.parts, s.tiles) := by
    show ((raiseAlert (addHist ..) 5).t2, (raiseAlert (addHist ..) 5).parts, (raiseAlert (addHist ..) 5).tiles) = _
    rw [eb]
    rfl
  have kept' : (v.t2, v.parts, v.tiles) = (s.t2, s.parts, s.tiles) := by
    rw [← kept, show v = ((u.withIo io).withFns x).withHost h from ev]
    rfl
  have t2 : v.t2 = s.t2 := congrArg (fun x => x.1) kept'
  have hexec : exec (.packagePrediction pkg rule t) s = .next (v.withT2 { v.t2 with migr := some pkg.val }) := by
    show execPackagePrediction pkg rule t s = _
    rw [execPackagePrediction, if_neg (by simp [run, pred]), atTime_of_ule _ now]
    exact congrArg Host.Outcome.next (if_neg (by
      rw [show (postEventTo u 0 4 0 (packFields [⟨0, 5, pkg⟩, ⟨8, 4, rule⟩])).t2 = s.t2 from t2, free, idle, serves]
      decide))
  refine ⟨_, hexec, by rw [State.withT2_t2, t2], ?_, congrArg (fun x => x.2.1) kept', congrArg (fun x => x.2.2) kept'⟩
  show v.io.alerts.getLsbD 5 = true
  rw [show v.io.alerts = u.io.alerts from postEventTo_alerts ..]
  exact raiseAlert_set _ (by decide)

theorem sparesEngage : SparesEngage := by
  intro s t _ now run
  refine ⟨fun tile a ha => ?_, fun tile k hk => ?_, fun die bank hb errs loose _ stock unused => ?_,
    fun pkg rule pred free idle serves => exec_packagePrediction now run pred free idle serves, fun m migr => ?_⟩
  · obtain ⟨b, e⟩ := tileErr_changes (tick s t) tile
      { tileRaw s tile with pois := tagRange (tileRaw s tile).pois (a / 4 * 4) 4 (tagAtAddr (a / 4 * 4)) }
    refine ⟨_, exec_tileFailure_t0 now run tile ha, ?_⟩
    rw [e]
    exact ⟨(tileRaw_setTileRaw ..).trans (if_pos rfl), fun n hn => (tileRaw_setTileRaw ..).trans (if_neg hn), rfl, rfl, rfl⟩
  · exact ⟨_, exec_tileFailure_whorl now run tile hk, (tileRaw_setTileRaw ..).trans (if_pos rfl),
      fun n hn => (tileRaw_setTileRaw ..).trans (if_neg hn), rfl, rfl, rfl⟩
  · have hexec : exec (.storeBankSpare die bank t) s = .next (engageFree ((tick s t).withT1 { s.t1 with
        bad := s.t1.bad.filter (fun e => e.1 ≠ 40 * die.val + bank) }) 11 (40 * die.val + bank)) := by
      show execStoreBankSpare die bank t s = _
      rw [execStoreBankSpare, if_neg (by simp [run]; omega), atTime_of_ule _ now]
      rfl
    have t1 := engageFree_bank_t1 (s := (tick s t).withT1 { s.t1 with bad := s.t1.bad.filter (fun e => e.1 ≠ 40 * die.val + bank) })
      die.isLt hb stock unused fun e he here => by
        obtain ⟨lo, hi⟩ := (inBank_iff hb).1 here
        exact loose e he lo hi
    refine ⟨_, hexec, ?_⟩
    rw [t1]
    refine ⟨rfl, rfl, fun e he => ?_, fun e he out => List.mem_filter.2 ⟨he, ?_⟩⟩
    · have := (List.mem_filter.1 he).2
      rw [Bool.not_eq_true', Bool.eq_false_iff, ne_eq, inBank_iff hb] at this
      omega
    · rw [Bool.not_eq_true', Bool.eq_false_iff, ne_eq, inBank_iff hb]
      omega
  · obtain ⟨b, e⟩ := exec_migrationCopyDone now run migr
    exact ⟨_, e, rfl, rfl, rfl⟩

/-! ### A scrub pass (R208, R209) -/

theorem eccFixed_t2 (num : Nat) (s : State) (k : Nat) : ((eccFixed num s k).t2, (eccFixed num s k).parts) = (s.t2, s.parts) := rfl

theorem sectorFixed_changes (s : State) (k : Nat) : ∃ f c b,
    sectorFixed s k = ((s.withT2 { s.t2 with fixed := s.t2.fixed ++ [f] }).withCtrs c).withBoot b := by
  obtain ⟨b, e⟩ := addHist_changes (addCtr (s.withT2 { s.t2 with
    fixed := s.t2.fixed ++ [⟨pkgOf s (32 * k), Config.dramRow k, s.time.now⟩] }) (ctrKey 0 3 (chanOf (32 * k)) 0 + cSectors) 1)
    0 2 (ctrKey 0 3 (chanOf (32 * k)) 0) (BitVec.ofNat 64 (32 * k)) false
  exact ⟨_, _, b, e⟩

/-- What a corrected sector leaves as it was. -/
theorem sectorFixed_kept (s : State) (k : Nat) :
    ((sectorFixed s k).t2.pois, (sectorFixed s k).t2.lost, (sectorFixed s k).t2.mem, (sectorFixed s k).t2.scrubAt, (sectorFixed s k).parts) =
      (s.t2.pois, s.t2.lost, s.t2.mem, s.t2.scrubAt, s.parts) := by
  obtain ⟨f, c, b, e⟩ := sectorFixed_changes s k
  rw [e]
  rfl

theorem length_fixed (l : List Nat) (s : State) :
    (l.foldl sectorFixed s).t2.fixed.length = s.t2.fixed.length + l.length := by
  induction l generalizing s with
  | nil => rfl
  | cons k l ih =>
    obtain ⟨f, c, b, e⟩ := sectorFixed_changes s k
    rw [List.foldl_cons, ih, e]
    show (s.t2.fixed ++ [f]).length + l.length = _
    rw [List.length_append, List.length_singleton, List.length_cons]
    omega

theorem secPois_sectorBroken {s : State} (wf : mapWf false s.t2.pois = true) (k j : Nat) :
    secPois (sectorBroken s k).t2 j = if j = k then true else secPois s.t2 j := by
  show xor (setHas (setPut s.t2.pois k (xor true (s.t2.lost.contains (chanGroup (32 * k))))) j)
    (s.t2.lost.contains (chanGroup (32 * j))) = _
  rw [setHas_setPut _ _ _ _ wf]
  split
  · rename_i e
    rw [e, Bool.xor_assoc, Bool.xor_self]
    rfl
  · rfl

/-- Sectors found uncorrectable are poisoned, and no other. -/
theorem secPois_broken (l : List Nat) {s : State} (wf : mapWf false s.t2.pois = true) (j : Nat) :
    secPois (l.foldl sectorBroken s).t2 j = if j ∈ l then true else secPois s.t2 j := by
  induction l generalizing s with
  | nil => rfl
  | cons k l ih =>
    rw [List.foldl_cons, ih (s := sectorBroken s k) (setPois_wf wf k true), secPois_sectorBroken wf]
    by_cases hj : j ∈ l <;> by_cases hk : j = k <;> simp [hj, hk]

theorem sectorBroken_keeps (s : State) (k : Nat) :
    ((sectorBroken s k).t2.fixed, (sectorBroken s k).t2.mem, (sectorBroken s k).t2.scrubAt, (sectorBroken s k).parts) =
      (s.t2.fixed, s.t2.mem, s.t2.scrubAt, s.parts) := rfl

/-- What a scrub pass finds, noted in the counters, the sectors and the journal's areas. -/
def scrubNoted (s : State) (x : Scrubbed) : State :=
  noteJournal (x.found.foldl sectorBroken (x.fixed.foldl sectorFixed (x.onDie.foldl (eccFixed cDieEcc)
    (x.link.foldl (eccFixed cLinkEcc) (s.withT2 { s.t2 with scrubAt := s.time.now }))))) (journalAreas x.found)

theorem scrubNoted_facts {s : State} (wf : mapWf false s.t2.pois = true) (x : Scrubbed) :
    (scrubNoted s x).t2.fixed.length = s.t2.fixed.length + x.fixed.length ∧ (scrubNoted s x).t2.scrubAt = s.time.now ∧
      (∀ j, secPois (scrubNoted s x).t2 j = if j ∈ x.found then true else secPois s.t2 j) ∧
      (scrubNoted s x).t2.mem = s.t2.mem ∧ (scrubNoted s x).parts = s.parts := by
  let u := x.onDie.foldl (eccFixed cDieEcc) (x.link.foldl (eccFixed cLinkEcc) (s.withT2 { s.t2 with scrubAt := s.time.now }))
  let v := x.fixed.foldl sectorFixed u
  let w := x.found.foldl sectorBroken v
  have counted : (u.t2, u.parts) = ({ s.t2 with scrubAt := s.time.now }, s.parts) :=
    (foldl_keeps (fun s => (s.t2, s.parts)) (eccFixed_t2 cDieEcc) _ _).trans
      (foldl_keeps (fun s => (s.t2, s.parts)) (eccFixed_t2 cLinkEcc) _ _)
  have t2 : u.t2 = { s.t2 with scrubAt := s.time.now } := congrArg (fun x => x.1) counted
  have mended : (v.t2.pois, v.t2.lost, v.t2.mem, v.t2.scrubAt, v.parts) =
      (s.t2.pois, s.t2.lost, s.t2.mem, s.time.now, s.parts) := by
    refine (foldl_keeps (fun s => (s.t2.pois, s.t2.lost, s.t2.mem, s.t2.scrubAt, s.parts)) sectorFixed_kept _ _).trans ?_
    show (u.t2.pois, u.t2.lost, u.t2.mem, u.t2.scrubAt, u.parts) = _
    rw [t2, show u.parts = s.parts from congrArg (fun x => x.2) counted]
  have broken : (w.t2.fixed, w.t2.mem, w.t2.scrubAt, w.parts) = (v.t2.fixed, v.t2.mem, v.t2.scrubAt, v.parts) :=
    foldl_keeps (fun s => (s.t2.fixed, s.t2.mem, s.t2.scrubAt, s.parts)) sectorBroken_keeps _ _
  simp only [Prod.mk_inj] at mended broken
  obtain ⟨pois, lost, mem, scrubAt, parts⟩ := mended
  obtain ⟨fixed', mem', scrubAt', parts'⟩ := broken
  have before (j : Nat) : secPois v.t2 j = secPois s.t2 j := by rw [secPois, secPois, pois, lost]
  refine ⟨?_, scrubAt'.trans scrubAt, fun j => ?_, mem'.trans mem, parts'.trans parts⟩
  · show w.t2.fixed.length = _
    rw [fixed', length_fixed, t2]
  · show secPois w.t2 j = _
    rw [secPois_broken x.found (s := v) (pois ▸ wf), before]

theorem scrubPoisons : ScrubPoisons := by
  intro s found fixed link onDie image t inv now run init due data
  obtain ⟨_, _, _, pois, _⟩ := inv
  obtain ⟨length, at_, poisoned, mem, parts⟩ := scrubNoted_facts (s := tick s t) pois ⟨found, fixed, link, onDie, image⟩
  generalize hu : scrubNoted (tick s t) ⟨found, fixed, link, onDie, image⟩ = u at length at_ poisoned mem parts
  have outside : ¬ found.any (fun k => decide (reservedBase ≤ 32 * k) && decide (32 * k < 1636382539776)) = true := by
    rw [List.any_eq_true]
    rintro ⟨k, hk, there⟩
    simp only [Bool.and_eq_true, decide_eq_true_eq] at there
    exact absurd (data k hk) (Nat.not_lt.2 there.1)
  let noted (l : List Nat) (s : State) (k : Nat) : State := if l.contains (32 * k / pageSize) then
    addHist s 0 2 (ctrKey 0 3 (chanOf (32 * k)) 0) (BitVec.ofNat 64 (32 * k)) false else s
  have hexec : exec (.scrubPass ⟨found, fixed, link, onDie, image⟩ t) s = .next (found.foldl (noted (usedPages u)) u) := by
    show execScrubPass ⟨found, fixed, link, onDie, image⟩ t s = _
    rw [execScrubPass, if_neg (by simp [run, init, due]), atTime_of_ule _ now, ← hu]
    exact congrArg Host.Outcome.next (if_neg outside)
  have kept (l : List Nat) (s : State) (k : Nat) : ((noted l s k).t2, (noted l s k).parts) = (s.t2, s.parts) := by
    show ((ite _ _ _ : State).t2, (ite _ _ _ : State).parts) = _
    split
    · obtain ⟨b, e⟩ := addHist_changes s 0 2 (ctrKey 0 3 (chanOf (32 * k)) 0) (BitVec.ofNat 64 (32 * k)) false
      rw [e]
      rfl
    · rfl
  obtain ⟨t2, parts'⟩ := Prod.mk_inj.1 (foldl_keeps (fun s => (s.t2, s.parts)) (kept (usedPages u)) found u)
  refine ⟨_, hexec, ?_⟩
  rw [t2, parts']
  exact ⟨length, at_, fun k hk => (poisoned k).trans (if_pos hk), fun k hk => (poisoned k).trans (if_neg hk), mem, parts⟩

/-- Settles O46. -/
theorem repairsAct : Obligations.RepairsAct := ⟨sparesEngage, scrubPoisons⟩

end Sys2Proof.Machine
end

section
/-! PROOFS. Tiles in canonical form: the invariant of O29, as a property of the map of tiles alone, so that an operation which
leaves the tiles keeps it by a rewrite. -/

namespace Sys2Proof.Machine

open Sys2Proof

/-- The tables of all tiles are in canonical form. -/
structure Tidy (m : Map Tile) : Prop where
  ok : ∀ e ∈ m, TileOk e.2

theorem tilesOk_iff (s : State) : TilesOk s ↔ Tidy s.tiles := ⟨fun h => ⟨h⟩, fun h => h.ok⟩

/-- Where a row answers with a next state, its tiles' tables are in canonical form. -/
def TidyOut (o : Out) : Prop := ∀ t, o = .next t → Tidy t.tiles

@[simp] theorem tidyOut_next (s : State) : TidyOut (.next s) ↔ Tidy s.tiles :=
  ⟨fun h => h s rfl, fun h t e => by cases e; exact h⟩

@[simp] theorem tidyOut_ok (s : State) : TidyOut (ok s) ↔ Tidy s.tiles := tidyOut_next s

@[simp] theorem tidyOut_fault (f : Fault) : TidyOut (.fault f) := fun _ e => by cases e

@[simp] theorem tidyOut_refused (r : Refusal) : TidyOut (.refused r) := fun _ e => by cases e

section
variable (c : Prop) [Decidable c]

@[simp] theorem tiles_ite (a b : State) : (if c then a else b).tiles = if c then a.tiles else b.tiles := apply_ite ..

@[simp] theorem tidy_ite (a b : Map Tile) : Tidy (if c then a else b) ↔ (c → Tidy a) ∧ (¬ c → Tidy b) := by
  split <;> simp [*]

@[simp] theorem tidyOut_ite (a b : Out) : TidyOut (if c then a else b) ↔ (c → TidyOut a) ∧ (¬ c → TidyOut b) := by
  split <;> simp [*]

end

@[simp] theorem foldl_tiles {α : Type} (g : State → α → State) (l : List α) (s : State) (h : ∀ s e, (g s e).tiles = s.tiles) :
    (l.foldl g s).tiles = s.tiles := foldl_keeps State.tiles h l s

theorem foldl_inv {σ α : Type} (P : σ → Prop) {g : σ → α → σ} {x : σ} (hx : P x) (l : List α) (step : ∀ x e, P x → P (g x e)) :
    P (l.foldl g x) :=
  List.foldlRecOn l g hx fun x h e _ => step x e h

theorem foldl_tidy {α : Type} {g : State → α → State} {s : State} (h : Tidy s.tiles) (l : List α)
    (step : ∀ s e, Tidy s.tiles → Tidy (g s e).tiles) : Tidy (l.foldl g s).tiles :=
  foldl_inv (fun s : State => Tidy s.tiles) h l step

@[simp] theorem atTime_tiles (s : State) (t : Word64) (f : State → State) (h : ∀ s, (f s).tiles = s.tiles) :
    (atTime s t f).tiles = s.tiles := by
  unfold atTime
  split <;> simp [h]

theorem atTime_tidy {s : State} (h : Tidy s.tiles) (t : Word64) {f : State → State} (hf : ∀ s, Tidy s.tiles → Tidy (f s).tiles) :
    Tidy (atTime s t f).tiles := by
  unfold atTime
  split
  · exact hf _ h
  · exact h

@[simp] theorem setTileRaw_tidy {s : State} (h : Tidy s.tiles) (n : Nat) {x : Tile} (hx : TileOk x) : Tidy (setTileRaw s n x).tiles := by
  refine ⟨fun e he => ?_⟩
  rcases mem_mapPut (show e ∈ mapPut s.tiles n x from he) with rfl | he
  · exact hx
  · exact h.ok e he

theorem setTile_tidy {s : State} (h : Tidy s.tiles) (p t : Nat) {x : Tile} (hx : TileOk x) : Tidy (setTile s p t x).tiles :=
  ⟨setTile_ok h.ok p t hx⟩

theorem updTile_tidy {s : State} (h : Tidy s.tiles) (p t : Nat) {f : Tile → Tile} (hf : ∀ x, TileOk x → TileOk (f x)) :
    Tidy (updTile s p t f).tiles := ⟨setTile_ok h.ok p t (hf _ (tileAt_ok h.ok p t))⟩

theorem updTiles_tidy {s : State} (h : Tidy s.tiles) (p : Nat) {f : Nat → Tile → Tile}
    (hf : ∀ t x, TileOk x → TileOk (f t x)) : Tidy (updTiles s p f).tiles := ⟨updTiles_ok h.ok p f hf⟩

theorem tidy_map {m : Map Tile} (h : Tidy m) {f : Nat → Tile → Tile} (hf : ∀ n x, TileOk x → TileOk (f n x)) :
    Tidy (m.map (fun e => (e.1, f e.1 e.2))) := by
  refine ⟨fun e he => ?_⟩
  obtain ⟨x, hx, rfl⟩ := List.mem_map.1 he
  exact hf _ _ (h.ok x hx)

section
variable {α β : Type} {g : State × β → α → State × β}

theorem foldl_fst_tiles (l : List α) (x : State × β) (h : ∀ x e, (g x e).1.tiles = x.1.tiles) :
    (l.foldl g x).1.tiles = x.1.tiles := by
  induction l generalizing x with
  | nil => rfl
  | cons e l ih => exact (ih _).trans (h x e)

theorem foldl_fst_tidy {x : State × β} (hx : Tidy x.1.tiles) (l : List α) (h : ∀ x e, Tidy x.1.tiles → Tidy (g x e).1.tiles) :
    Tidy (l.foldl g x).1.tiles :=
  foldl_inv (fun x : State × β => Tidy x.1.tiles) hx l h

end

@[simp] theorem tidy_nil : Tidy [] := ⟨fun _ h => absurd h List.not_mem_nil⟩

theorem Tidy.raw {s : State} (h : Tidy s.tiles) (n : Nat) : TileOk (tileRaw s n) := tileRaw_ok h.ok n

theorem Tidy.at {s : State} (h : Tidy s.tiles) (p t : Nat) : TileOk (tileAt s p t) := tileAt_ok h.ok p t

/-! ### Tiles -/

section
variable {t : Tile} (h : TileOk t)
include h

theorem useHead_ok (r : Nat) : TileOk (useHead t r) := by
  unfold useHead
  dsimp only
  split
  · exact setRing_ok h _ _
  · exact h

theorem useSlot_ok (x : MxSlot) : TileOk (useSlot t x) := by
  unfold useSlot
  split
  · exact useHead_ok h _
  · exact h

theorem landBob_ok (w : Walk) (src : Nat → PByte) (k base : Nat) : TileOk (landBob t w src k base) := by
  refine foldl_inv TileOk h _ fun t j h => ?_
  dsimp only
  have elems := foldl_inv TileOk h (List.range w.r.elems) (g := fun t n => { t with
      t0 := memPutElem t.t0 (base + j * w.pitch) w.fmt n (srcElem w src (k * w.r.bpb + j) n).1
      pois := tagRange t.pois (base + j * w.pitch + elemBit w.fmt n / 8) ((elemBit w.fmt n % 8 + w.fmt.bits + 7) / 8)
        (srcElem w src (k * w.r.bpb + j) n).2 }) fun t n h => by
    obtain ⟨sregs, sems, t0, pois, rest⟩ := h
    exact ⟨sregs, sems, memWrite_wf _ _ _ t0, tagRange_wf _ _ _ _ pois, rest⟩
  split
  · exact foldl_inv TileOk elems _ fun t q h => t0Write_ok h ..
  · exact elems

theorem startTile_ok (gen : Nat) (r : SegRun) (words : List Word64) (regs : List (Nat × Nat)) :
    TileOk (startTile t gen r words regs) := by
  obtain ⟨sregs, sems, t0, pois, tregs, preds, rings⟩ := h
  unfold startTile
  generalize List.range 16 = l
  refine foldl_inv TileOk ?_ _ fun t e h => setSreg_ok h ..
  exact ⟨sregs, sems, t0, pois, foldl_inv (fun m => mapWf TReg.reset m = true) tregs l fun m k h => mapWf_mapSet _ _ _ _ h,
    preds, rings⟩

theorem regearTile_ok (s : State) (n : Nat) : TileOk (regearTile s n t) := h

theorem idleTile_ok : TileOk (idleTile t) := h

theorem resetTile_ok : TileOk (resetTile t) := by
  obtain ⟨-, -, t0, pois, -⟩ := h
  obtain ⟨sregs, sems, -, -, rest⟩ := scrubTile_ok t
  exact ⟨sregs, sems, t0, pois, rest⟩

theorem taintQueue_ok (q pos : Nat) : TileOk (taintQueue t q pos) := by
  unfold taintQueue
  dsimp only
  split
  · exact setQueue_ok h _ _
  · split
    · exact h
    · exact h

theorem staleTile_ok (hit : Bobbin → Bool) : TileOk (staleTile hit t) := by
  obtain ⟨sregs, sems, t0, pois, tregs, preds, rings⟩ := h
  refine ⟨sregs, sems, t0, pois, tregs, preds, mapWf_mapVals Ring.closed t.rings (fun e => staleRing hit e.2) rings fun e he closed => ?_⟩
  refine ((mapWf_iff _ _).1 rings).2 e he ?_
  revert closed
  unfold staleRing
  split
  · intro closed
    have none_ : e.2.bobs = [] := by simpa [Ring.closed] using congrArg Ring.bobs closed
    rw [none_] at closed
    rw [← closed, List.map_nil, ← none_]
  · exact id

end

theorem tidy_of_ite {c : Prop} [Decidable c] {a b : State} (ha : Tidy a.tiles) (hb : Tidy b.tiles) :
    Tidy (if c then a else b).tiles := by
  split
  · exact ha
  · exact hb

end Sys2Proof.Machine

end

section
/-! PROOFS. Operations on the state that leave every tile as it is, each by the lemmas of the operations that it is made of.
A proof written `(rfl)` is one that `simp` uses as a rewrite, not as a definitional equation. -/

namespace Sys2Proof.Machine

open Sys2Proof

@[simp] theorem drawFree_tiles (s) : (drawFree s).2.tiles = s.tiles := (rfl)
@[simp] theorem assertWake_tiles (s even) : (assertWake s even).tiles = s.tiles := by simp [assertWake]
@[simp] theorem updHead_tiles (s q f) : (updHead s q f).tiles = s.tiles := (rfl)
@[simp] theorem commitCmd_tiles (s q status detail) : (commitCmd s q status detail).tiles = s.tiles := by simp [commitCmd]
@[simp] theorem rejectAt_tiles (s q status off) : (rejectAt s q status off).tiles = s.tiles := by simp [rejectAt]
@[simp] theorem endCmd_tiles (s q status) : (endCmd s q status).tiles = s.tiles := by simp [endCmd]
@[simp] theorem reject_tiles (s q status) : (reject s q status).tiles = s.tiles := by simp [reject]
@[simp] theorem setPart_tiles (s p x) : (setPart s p x).tiles = s.tiles := (rfl)
@[simp] theorem setFn_tiles (s f x) : (setFn s f x).tiles = s.tiles := (rfl)
@[simp] theorem hostWrite_tiles (s space a b) : (hostWrite s space a b).tiles = s.tiles := (rfl)
@[simp] theorem raiseMsix_tiles (s f v) : (raiseMsix s f v).tiles = s.tiles := by simp [raiseMsix]
@[simp] theorem pushEvent_tiles (s f x src part body) : (pushEvent s f x src part body).tiles = s.tiles := by simp [pushEvent]
@[simp] theorem postEventTo_tiles (s f src part body) : (postEventTo s f src part body).tiles = s.tiles := by simp [postEventTo]
@[simp] theorem postEvent_tiles (s src part body) : (postEvent s src part body).tiles = s.tiles := by simp [postEvent]
@[simp] theorem setGroup_tiles (s g x) : (setGroup s g x).tiles = s.tiles := (rfl)
@[simp] theorem setGroups_tiles (s gs x) : (setGroups s gs x).tiles = s.tiles := by simp [setGroups]
@[simp] theorem doneOk_tiles (s q) : (doneOk s q).tiles = s.tiles := by simp [doneOk]
@[simp] theorem startCmd_tiles (s q) : (startCmd s q).tiles = s.tiles := (rfl)

@[simp] theorem finishAdd_tiles (s p r) : (finishAdd s p r).tiles = s.tiles := by
  unfold finishAdd
  dsimp only
  split <;> simp

@[simp] theorem finishAdds_tiles (s p) : (finishAdds s p).tiles = s.tiles := by simp [finishAdds]
@[simp] theorem beginDestroy_tiles (s p) : (beginDestroy s p).tiles = s.tiles := by simp [beginDestroy]
@[simp] theorem setPort_tiles (s n x) : (setPort s n x).tiles = s.tiles := (rfl)
@[simp] theorem queueTx_tiles (s n x) : (queueTx s n x).tiles = s.tiles := (rfl)

@[simp] theorem routeMsg_tiles (s dst seq m) : (routeMsg s dst seq m).tiles = s.tiles := by
  unfold routeMsg
  split <;> simp

@[simp] theorem sendTo_tiles (s dst m) : (sendTo s dst m).tiles = s.tiles := by simp [sendTo]
@[simp] theorem updCamp_tiles (s p f) : (updCamp s p f).tiles = s.tiles := (rfl)
@[simp] theorem beginStop_tiles (s p) : (beginStop s p).tiles = s.tiles := by simp [beginStop]

@[simp] theorem closeCampaign_tiles (s p status detail) : (closeCampaign s p status detail).tiles = s.tiles := by
  unfold closeCampaign
  dsimp only
  split
  · simp
  · split <;> simp

@[simp] theorem endCampaign_tiles (s p status detail) : (endCampaign s p status detail).tiles = s.tiles := by
  unfold endCampaign
  split <;> simp

@[simp] theorem setFrame_tiles (s n f) : (setFrame s n f).tiles = s.tiles := (rfl)
@[simp] theorem giveFrame_tiles (s n k pin holds) : (giveFrame s n k pin holds).tiles = s.tiles := (rfl)

@[simp] theorem takeFrame_tiles (s k die h' pin holds) : (takeFrame s k die h' pin holds).1.tiles = s.tiles := by
  unfold takeFrame
  dsimp only
  split
  · split <;> simp
  · split
    · simp
    · split
      · simp
      · split <;> simp

@[simp] theorem asksOther_tiles (s die x) : (asksOther s die x).tiles = s.tiles := by simp [asksOther]
@[simp] theorem dropFrame_tiles (s n) : (dropFrame s n).tiles = s.tiles := (rfl)

@[simp] theorem releaseFrames_tiles (s c) : (releaseFrames s c).tiles = s.tiles := by
  unfold releaseFrames
  refine foldl_tiles _ _ _ fun s e => ?_
  dsimp only
  split
  · simp
  · split
    · simp
    · split <;> simp

@[simp] theorem gainFrame_tiles (s n f pin holds) : (gainFrame s n f pin holds).1.tiles = s.tiles := by
  unfold gainFrame
  dsimp only
  split
  · simp
  · split
    · simp
    · split
      · simp
      · split <;> simp

@[simp] theorem gainPage_tiles (s k n f pin holds) : (gainPage s k n f pin holds).1.tiles = s.tiles := by
  unfold gainPage
  split <;> simp

@[simp] theorem servePins_tiles (s) : (servePins s).tiles = s.tiles := by
  unfold servePins
  refine foldl_tiles _ _ _ fun s e => ?_
  dsimp only
  split
  · simp
  · split <;> simp

@[simp] theorem endHolds_tiles (s p h') : (endHolds s p h').tiles = s.tiles := by simp [endHolds]

@[simp] theorem turnRecord_tiles (s p status) : (turnRecord s p status).tiles = s.tiles := by
  unfold turnRecord
  dsimp only
  split
  · split <;> simp
  · simp

@[simp] theorem stopTurn_tiles (s p status next) : (stopTurn s p status next).tiles = s.tiles := by simp [stopTurn]
@[simp] theorem sendCamp_tiles (s c m) : (sendCamp s c m).tiles = s.tiles := by simp [sendCamp]
@[simp] theorem zeroPages_tiles (s pages) : (zeroPages s pages).tiles = s.tiles := (rfl)
@[simp] theorem setRegion_tiles (s p r x) : (setRegion s p r x).tiles = s.tiles := (rfl)

@[simp] theorem abandonPub_tiles (s p r) : (abandonPub s p r).tiles = s.tiles := by
  unfold abandonPub
  dsimp only
  split <;> simp

@[simp] theorem addCtr_tiles (s k n) : (addCtr s k n).tiles = s.tiles := (rfl)

@[simp] theorem stagePub_tiles (s p r epoch haddr pages) : (stagePub s p r epoch haddr pages).tiles = s.tiles := by
  unfold stagePub
  dsimp only
  split <;> simp

@[simp] theorem switchStage_tiles (s p ep r) : (switchStage s p ep r).tiles = s.tiles := by
  unfold switchStage
  dsimp only
  split <;> simp

@[simp] theorem writePages_tiles (s pages off b) : (writePages s pages off b).tiles = s.tiles := (rfl)
@[simp] theorem updPairRun_tiles (s p id f) : (updPairRun s p id f).tiles = s.tiles := (rfl)
@[simp] theorem setBuf_tiles (s n b) : (setBuf s n b).tiles = s.tiles := (rfl)

@[simp] theorem forwardFrom_tiles (s n x r) : (forwardFrom s n x r).tiles = s.tiles := by
  unfold forwardFrom
  dsimp only
  split <;> simp

@[simp] theorem fillBuf_tiles (s n c) : (fillBuf s n c).tiles = s.tiles := by
  unfold fillBuf
  dsimp only
  split <;> simp

@[simp] theorem grant_tiles (s n c) : (grant s n c).tiles = s.tiles := by
  unfold grant
  dsimp only
  split
  · simp
  · split
    · simp
    · split <;> simp

@[simp] theorem serveClaims_tiles (s) : (serveClaims s).tiles = s.tiles := by
  unfold serveClaims
  refine foldl_tiles _ _ _ fun s e => ?_
  split <;> simp

@[simp] theorem sendChunk_tiles (s x) : (sendChunk s x).tiles = s.tiles := by simp [sendChunk]

@[simp] theorem abandonSwitch_tiles (s p) : (abandonSwitch s p).tiles = s.tiles := by
  unfold abandonSwitch
  dsimp only
  split
  · simp
  · split
    · simp
    · refine (updCamp_tiles ..).trans ?_
      refine foldl_tiles _ _ _ fun s e => ?_
      split <;> simp

@[simp] theorem sweepInvals_tiles (s p) : (sweepInvals s p).tiles = s.tiles := by simp [sweepInvals]

@[simp] theorem addHist_tiles (s cls kind unit detail repair) :
    (addHist s cls kind unit detail repair).tiles = s.tiles := by simp [addHist]

@[simp] theorem nextXfer_tiles (s) : (nextXfer s).tiles = s.tiles := (rfl)
@[simp] theorem tellLost_tiles (s p pr m dpos e) : (tellLost s p pr m dpos e).tiles = s.tiles := by simp [tellLost]
@[simp] theorem setReq_tiles (s p e r) : (setReq s p e r).tiles = s.tiles := (rfl)
@[simp] theorem setVent_tiles (s p v e) : (setVent s p v e).tiles = s.tiles := (rfl)

@[simp] theorem unbind_tiles (s p v ver) : (unbind s p v ver).tiles = s.tiles := by
  unfold unbind
  dsimp only
  split
  · split
    · simp
    · split <;> simp
  · simp
  · simp

@[simp] theorem decRef_tiles (s p reg d) : (decRef s p reg d).tiles = s.tiles := (rfl)
@[simp] theorem releaseMap_tiles (s p reg dhead) : (releaseMap s p reg dhead).tiles = s.tiles := by simp [releaseMap]

@[simp] theorem releaseHandle_tiles (s p h') : (releaseHandle s p h').tiles = s.tiles := by
  unfold releaseHandle
  dsimp only
  split <;> simp

@[simp] theorem freeReq_tiles (s p e) : (freeReq s p e).tiles = s.tiles := by
  unfold freeReq
  dsimp only
  split <;> simp

@[simp] theorem freeFramesOf_tiles (s c) : (freeFramesOf s c).tiles = s.tiles := by simp [freeFramesOf]
@[simp] theorem releaseEpoch_tiles (s p r ep) : (releaseEpoch s p r ep).tiles = s.tiles := by simp [releaseEpoch]
@[simp] theorem pinPage_tiles (s k) : (pinPage s k).tiles = s.tiles := by simp [pinPage]

@[simp] theorem publishRegion_tiles (s p r) : (publishRegion s p r).tiles = s.tiles := by
  unfold publishRegion
  dsimp only
  split
  · simp
  · split
    · simp
    · split
      · split <;> simp
      · split <;> simp

@[simp] theorem setVersion_tiles (s p ver v) : (setVersion s p ver v).tiles = s.tiles := (rfl)

@[simp] theorem calRequest_tiles (s p c) : (calRequest s p c).tiles = s.tiles := by
  unfold calRequest
  dsimp only
  split
  · simp
  · split
    · simp
    · refine foldl_fst_tiles _ _ fun x e => ?_
      split
      · simp
      · split
        · split <;> simp
        · split <;> simp

@[simp] theorem calTrigger_tiles (s p pr trig seg) : (calTrigger s p pr trig seg).tiles = s.tiles := by simp [calTrigger]
@[simp] theorem updRun_tiles (s p f) : (updRun s p f).tiles = s.tiles := (rfl)

@[simp] theorem readyTriggers_tiles (s) : (readyTriggers s).tiles = s.tiles := by
  unfold readyTriggers
  refine foldl_tiles _ _ _ fun s e => ?_
  dsimp only
  split <;> simp

@[simp] theorem keepFmts_tiles (s p pr step es) : (keepFmts s p pr step es).tiles = s.tiles := (rfl)

@[simp] theorem stopLearn_tiles (s p) : (stopLearn s p).tiles = s.tiles := by
  unfold stopLearn
  split <;> simp

@[simp] theorem cancelStart_tiles (s p) : (cancelStart s p).tiles = s.tiles := by simp [cancelStart]

@[simp] theorem fitT1_tiles (s p die a) : (fitT1 s p die a).tiles = s.tiles := by
  unfold fitT1
  split
  · simp
  · split
    · simp
    · split
      · simp
      · refine (fitT1_tiles ..).trans ?_
        simp

@[simp] theorem done_tiles (s q detail) : (done s q detail).tiles = s.tiles := by simp [done]
@[simp] theorem restoreRegion_tiles (s p r g pages) : (restoreRegion s p r g pages).tiles = s.tiles := by simp [restoreRegion]
@[simp] theorem setCq_tiles (s f n x) : (setCq s f n x).tiles = s.tiles := (rfl)
@[simp] theorem setSq_tiles (s f n x) : (setSq s f n x).tiles = s.tiles := (rfl)
@[simp] theorem freeRegion_tiles (s p r) : (freeRegion s p r).tiles = s.tiles := by simp [freeRegion]
@[simp] theorem incRef_tiles (s p reg d) : (incRef s p reg d).tiles = s.tiles := (rfl)

@[simp] theorem powerEvent_tiles (s kind internal whr value) :
    (powerEvent s kind internal whr value).tiles = s.tiles := by simp [powerEvent]

@[simp] theorem holdoverCheck_tiles (s) : (holdoverCheck s).tiles = s.tiles := by simp [holdoverCheck]
@[simp] theorem reroute_tiles (s) : (reroute s).tiles = s.tiles := by simp [reroute]

@[simp] theorem fabricEvent_tiles (s kind port cls member detail) :
    (fabricEvent s kind port cls member detail).tiles = s.tiles := by simp [fabricEvent]

@[simp] theorem setLeader_tiles (s m) : (setLeader s m).tiles = s.tiles := by simp [setLeader]

@[simp] theorem sendMsg_tiles (s dst m) : (sendMsg s dst m).tiles = s.tiles := by
  unfold sendMsg
  split <;> simp

@[simp] theorem bufDone_tiles (s n) : (bufDone s n).tiles = s.tiles := by
  unfold bufDone
  dsimp only
  split <;> simp

@[simp] theorem bufLost_tiles (s n) : (bufLost s n).tiles = s.tiles := by
  unfold bufLost
  dsimp only
  split <;> simp

@[simp] theorem moveTx_tiles (s n) : (moveTx s n).tiles = s.tiles := by
  unfold moveTx
  dsimp only
  refine foldl_tiles _ _ _ fun s e => ?_
  split
  · split
    · split <;> simp
    · split <;> simp
  · simp

@[simp] theorem tellChunk_tiles (s c) : (tellChunk s c).tiles = s.tiles := by simp [tellChunk]
@[simp] theorem moveAway_tiles (s n) : (moveAway s n).tiles = s.tiles := by simp [moveAway]
@[simp] theorem startTraining_tiles (s n) : (startTraining s n).tiles = s.tiles := by simp [startTraining]
@[simp] theorem meetLaser_tiles (s u) : (meetLaser s u).tiles = s.tiles := by simp [meetLaser]
@[simp] theorem sendPeer_tiles (s n b) : (sendPeer s n b).tiles = s.tiles := (rfl)
@[simp] theorem sendHello_tiles (s n nonce) : (sendHello s n nonce).tiles = s.tiles := by simp [sendHello]

@[simp] theorem signalCq_tiles (s f n) : (signalCq s f n).tiles = s.tiles := by
  unfold signalCq
  split <;> simp

@[simp] theorem postNext_tiles (s f n) : (postNext s f n).tiles = s.tiles := by
  unfold postNext
  dsimp only
  split <;> simp

@[simp] theorem postAll_tiles (s f n a) : (postAll s f n a).tiles = s.tiles := by
  unfold postAll
  split
  · simp
  · refine (postAll_tiles ..).trans ?_
    simp

@[simp] theorem setLevel_tiles (s l) : (setLevel s l).tiles = s.tiles := (rfl)

@[simp] theorem repin_tiles (s) : (repin s).tiles = s.tiles := by
  unfold repin
  refine foldl_tiles _ _ _ fun s e => ?_
  refine foldl_tiles _ _ _ fun s e => ?_
  split <;> simp

@[simp] theorem wake_tiles (s) : (wake s).tiles = s.tiles := by simp [wake]
@[simp] theorem sweepAll_tiles (s) : (sweepAll s).tiles = s.tiles := by simp [sweepAll]
@[simp] theorem hubLost_tiles (s) : (hubLost s).tiles = [] := rfl
@[simp] theorem shadowNow_tiles (s) : (shadowNow s).tiles = s.tiles := (rfl)
@[simp] theorem raiseAlert_tiles (s n) : (raiseAlert s n).tiles = s.tiles := (rfl)
@[simp] theorem addSnap_tiles (s p id x) : (addSnap s p id x).tiles = s.tiles := (rfl)
@[simp] theorem putBuf_tiles (s fn b l) : (putBuf s fn b l).tiles = s.tiles := (rfl)
@[simp] theorem readDone_tiles (s q b l d) : (readDone s q b l d).tiles = s.tiles := by simp [readDone]
@[simp] theorem drawWide_tiles (s) : (drawWide s).2.tiles = s.tiles := (rfl)
@[simp] theorem dbIgnored_tiles (s) : (dbIgnored s).tiles = s.tiles := (rfl)
@[simp] theorem acceptEntry_tiles (s q x r) : (acceptEntry s q x r).tiles = s.tiles := (rfl)

@[simp] theorem acceptNext_tiles (s q) : (acceptNext s q).tiles = s.tiles := by
  unfold acceptNext
  dsimp only
  split
  · simp
  · split <;> simp

@[simp] theorem acceptAll_tiles (s q) : (acceptAll s q).tiles = s.tiles := by simp [acceptAll]
@[simp] theorem retire_tiles (s f n head) : (retire s f n head).tiles = s.tiles := (rfl)
@[simp] theorem acceptWaiting_tiles (s f) : (acceptWaiting s f).tiles = s.tiles := by simp [acceptWaiting]
@[simp] theorem dropFailed_tiles (s p) : (dropFailed s p).tiles = s.tiles := (rfl)
@[simp] theorem serveTile_tiles (s n gone) : (serveTile s n gone).tiles = s.tiles := by simp [serveTile]
@[simp] theorem serveChannels_tiles (s k pkg gone) : (serveChannels s k pkg gone).tiles = s.tiles := by simp [serveChannels]

@[simp] theorem cutShares_tiles (s die a) : (cutShares s die a).tiles = s.tiles := by
  unfold cutShares
  dsimp only
  split
  · simp
  · refine (cutShares_tiles ..).trans ?_
    simp

@[simp] theorem fitShares_tiles (s die) : (fitShares s die).tiles = s.tiles := by simp [fitShares]
@[simp] theorem serveBank_tiles (s bank gone) : (serveBank s bank gone).tiles = s.tiles := by simp [serveBank]

@[simp] theorem serveUnit_tiles (s e) : (serveUnit s e).tiles = s.tiles := by
  unfold serveUnit
  dsimp only
  split <;> simp

@[simp] theorem applyMap_tiles (s m) : (applyMap s m).tiles = s.tiles := by simp [applyMap]
@[simp] theorem bootLog_tiles (s n result detail) : (bootLog s n result detail).tiles = s.tiles := (rfl)
@[simp] theorem logMap_tiles (s n) : (logMap s n).tiles = s.tiles := by simp [logMap]

@[simp] theorem takeSpare_tiles (s e) : (takeSpare s e).tiles = s.tiles := by
  unfold takeSpare
  dsimp only
  split
  · simp
  · split <;> simp

@[simp] theorem engage_tiles (s e) : (engage s e).tiles = s.tiles := by simp [engage]
@[simp] theorem endRunning_tiles (s status) : (endRunning s status).tiles = s.tiles := by simp [endRunning]
@[simp] theorem loseJournal_tiles (s) : (loseJournal s).tiles = s.tiles := by simp [loseJournal]
@[simp] theorem resumeRollout_tiles (s p) : (resumeRollout s p).tiles = s.tiles := (rfl)

@[simp] theorem cutCampaign_tiles (s p status) : (cutCampaign s p status).tiles = s.tiles := by
  unfold cutCampaign
  dsimp only
  split <;> simp

@[simp] theorem rewritePosted_tiles (s) : (rewritePosted s).tiles = s.tiles := by
  unfold rewritePosted
  refine foldl_tiles _ _ _ fun s e => ?_
  split <;> simp

@[simp] theorem engageFree_tiles (s kind logical) : (engageFree s kind logical).tiles = s.tiles := by simp [engageFree]
@[simp] theorem repairRows_tiles (s) : (repairRows s).tiles = s.tiles := by simp [repairRows]
@[simp] theorem eccFixed_tiles (num s k) : (eccFixed num s k).tiles = s.tiles := (rfl)
@[simp] theorem sectorBroken_tiles (s k) : (sectorBroken s k).tiles = s.tiles := (rfl)
@[simp] theorem sectorFixed_tiles (s k) : (sectorFixed s k).tiles = s.tiles := by simp [sectorFixed]
@[simp] theorem meetErrs_tiles (s lines e) : (meetErrs s lines e).tiles = s.tiles := by simp [meetErrs]
@[simp] theorem flushFn_tiles (s f started accepted) : (flushFn s f started accepted).tiles = s.tiles := (rfl)
@[simp] theorem resetMailbox_tiles (s) : (resetMailbox s).tiles = s.tiles := (rfl)
@[simp] theorem distaffFresh_tiles (s) : (distaffFresh s).tiles = s.tiles := (rfl)
@[simp] theorem countSpares_tiles (s l) : (countSpares s l).tiles = s.tiles := (rfl)
@[simp] theorem bufferFlit_tiles (s n f) : (bufferFlit s n f).tiles = s.tiles := by simp [bufferFlit]
@[simp] theorem dropBuffers_tiles (s) : (dropBuffers s).tiles = s.tiles := by simp [dropBuffers]
@[simp] theorem missPulses_tiles (s k) : (missPulses s k).tiles = s.tiles := by simp [missPulses]
@[simp] theorem takeLocks_tiles (s l) : (takeLocks s l).tiles = s.tiles := by simp [takeLocks]
@[simp] theorem setCaps_tiles (s w) : (setCaps s w).tiles = s.tiles := by simp [setCaps]
@[simp] theorem lowerLive_tiles (s) : (lowerLive s).tiles = s.tiles := (rfl)
@[simp] theorem degradeEvents_tiles (old s) : (degradeEvents old s).tiles = s.tiles := by simp [degradeEvents]
@[simp] theorem groupStep_tiles (s g down) : (groupStep s g down).tiles = s.tiles := by simp [groupStep]
@[simp] theorem currentStep_tiles (s down) : (currentStep s down).tiles = s.tiles := by simp [currentStep]
@[simp] theorem noteJournal_tiles (s ks) : (noteJournal s ks).tiles = s.tiles := (rfl)
@[simp] theorem losePackage_tiles (s pkg) : (losePackage s pkg).tiles = s.tiles := by simp [losePackage]
@[simp] theorem rowFixed_tiles (s unit row) : (rowFixed s unit row).tiles = s.tiles := by simp [rowFixed]

@[simp] theorem tileFixed_tiles (s n) : (tileFixed s n).tiles = s.tiles := by
  unfold tileFixed
  split <;> simp

@[simp] theorem eitherOf_tiles (s held asked) : (eitherOf s held asked).2.tiles = s.tiles := (rfl)
@[simp] theorem countWait_tiles (s a b) : (countWait s a b).tiles = s.tiles := (rfl)
@[simp] theorem markHit_tiles (s a q n) : (markHit s a q n).tiles = s.tiles := (rfl)

@[simp] theorem readersDone_tiles (s l) : (readersDone s l).tiles = s.tiles := by
  unfold readersDone
  refine foldl_tiles _ _ _ fun s e => ?_
  split <;> simp

@[simp] theorem stepRecord_tiles (s p t rank c) : (stepRecord s p t rank c).tiles = s.tiles := by
  unfold stepRecord
  dsimp only
  split
  · simp
  · split <;> simp

@[simp] theorem refit_tiles (s gs) : (refit s gs).tiles = s.tiles := (rfl)
@[simp] theorem lostXfer_tiles (s) : (lostXfer s).tiles = s.tiles := (rfl)

@[simp] theorem beaconsDue_tiles (s p) : (beaconsDue s p).tiles = s.tiles := by
  unfold beaconsDue
  dsimp only
  split
  · split
    · simp
    · refine foldl_tiles _ _ _ fun s e => ?_
      split <;> simp
  · simp

@[simp] theorem readyBeacon_tiles (s p c pr d step) : (readyBeacon s p c pr d step).tiles = s.tiles := by simp [readyBeacon]

@[simp] theorem plainStep_tiles (s p t pr step) : (plainStep s p t pr step).tiles = s.tiles := by
  unfold plainStep
  dsimp only
  split <;> simp

@[simp] theorem addDraw_tiles (s p step d) : (addDraw s p step d).tiles = s.tiles := (rfl)

@[simp] theorem heatPage_tiles (s p r page units die) : (heatPage s p r page units die).tiles = s.tiles := by
  unfold heatPage
  dsimp only
  split
  · simp
  · split <;> simp

@[simp] theorem fetchHeat_tiles (s p r n die l) : (fetchHeat s p r n die l).1.tiles = s.tiles := by
  unfold fetchHeat
  dsimp only
  split
  · simp
  · split
    · simp
    · refine foldl_fst_tiles _ _ fun x e => ?_
      split <;> simp

@[simp] theorem fillAtc_tiles (s f l) : (fillAtc s f l).tiles = s.tiles := by simp [fillAtc]

@[simp] theorem linesBroken_tiles (s l) : (linesBroken s l).tiles = s.tiles := by
  unfold linesBroken
  refine foldl_tiles _ _ _ fun s e => ?_
  dsimp only
  split <;> simp

@[simp] theorem readErrors_tiles (s p g w b e) : (readErrors s p g w b e).tiles = s.tiles := by simp [readErrors]
@[simp] theorem hostReadFails_tiles (s f g addr why) : (hostReadFails s f g addr why).tiles = s.tiles := by simp [hostReadFails]
@[simp] theorem clearBob_tiles (s w pages k) : (clearBob s w pages k).tiles = s.tiles := (rfl)
@[simp] theorem putElem_tiles (s pages base f n c) : (putElem s pages base f n c).tiles = s.tiles := (rfl)

@[simp] theorem storeBob_tiles (s t w pages k base) : (storeBob s t w pages k base).tiles = s.tiles := by
  unfold storeBob
  refine foldl_tiles _ _ _ fun s e => ?_
  dsimp only
  split
  · refine (foldl_tiles _ _ _ fun s e => ?_).trans ?_
    · split <;> simp
    · simp
  · simp

@[simp] theorem endFill_tiles (s n f) : (endFill s n f).tiles = s.tiles := by
  unfold endFill
  split <;> simp

@[simp] theorem failFill_tiles (s n f addr why) : (failFill s n f addr why).tiles = s.tiles := by
  unfold failFill
  dsimp only
  split <;> simp

@[simp] theorem dropChunk_tiles (s) : (dropChunk s).tiles = s.tiles := (rfl)
@[simp] theorem releasePart_tiles (s p) : (releasePart s p).tiles = s.tiles := by simp [releasePart]
@[simp] theorem discardChunk_tiles (s n b) : (discardChunk s n b).tiles = s.tiles := by simp [discardChunk]

@[simp] theorem relayChunk_tiles (s n b c) : (relayChunk s n b c).tiles = s.tiles := by
  unfold relayChunk
  dsimp only
  split <;> simp

@[simp] theorem sendSet_tiles (s p c m) : (sendSet s p c m).tiles = s.tiles := by simp [sendSet]

@[simp] theorem openStep_tiles (s p step reqs) : (openStep s p step reqs).tiles = s.tiles := by
  unfold openStep
  dsimp only
  refine foldl_tiles _ _ _ fun s e => ?_
  split <;> simp

@[simp] theorem closeStep_tiles (s p step) : (closeStep s p step).tiles = s.tiles := (rfl)
@[simp] theorem portHist_tiles (s n) : (portHist s n).tiles = s.tiles := by simp [portHist]
@[simp] theorem takeNonce_tiles (s n b) : (takeNonce s n b).tiles = s.tiles := (rfl)
@[simp] theorem keepFlit_tiles (s n c first last b) : (keepFlit s n c first last b).tiles = s.tiles := (rfl)

@[simp] theorem messageFlit_tiles (s n c first last b) : (messageFlit s n c first last b).tiles = s.tiles := by
  unfold messageFlit
  dsimp only
  split
  · simp
  · split
    · split <;> simp
    · split <;> simp

@[simp] theorem deliverFlit_tiles (s n b) : (deliverFlit s n b).tiles = s.tiles := by simp [deliverFlit]

@[simp] theorem bufSent_tiles (s n port) : (bufSent s n port).tiles = s.tiles := by
  unfold bufSent
  split <;> simp

@[simp] theorem afterFlit_tiles (s n done) : (afterFlit s n done).tiles = s.tiles := by simp [afterFlit]
@[simp] theorem dropTraffic_tiles (s n) : (dropTraffic s n).tiles = s.tiles := by simp [dropTraffic]
@[simp] theorem clearPort_tiles (s n) : (clearPort s n).tiles = s.tiles := by simp [clearPort]
@[simp] theorem meetPeer_tiles (s n h') : (meetPeer s n h').tiles = s.tiles := by simp [meetPeer]
@[simp] theorem copyPoisoned_tiles (s q g c bad) : (copyPoisoned s q g c bad).tiles = s.tiles := by simp [copyPoisoned]

@[simp] theorem copyErrs_tiles (s p r off n e) : (copyErrs s p r off n e).tiles = s.tiles := by
  unfold copyErrs
  split <;> simp

@[simp] theorem recordLands_tiles (s p good) : (recordLands s p good).tiles = s.tiles := by
  unfold recordLands
  dsimp only
  split
  · simp
  · split
    · simp
    · split
      · split <;> simp
      · split <;> simp

@[simp] theorem dropQueues_tiles (s f) : (dropQueues s f).tiles = s.tiles := (rfl)

end Sys2Proof.Machine

end

section
/-! PROOFS. Operations on the state that write tiles, each of which keeps their tables in canonical form. An operation that takes
an operation as an argument keeps them where the argument does. -/

namespace Sys2Proof.Machine

open Sys2Proof

theorem ok_tidy {s : State} (h : Tidy s.tiles) : TidyOut (ok s) := by simp [ok, h]

/-- A host command's row answers with a completion by a check, or with its meaning for its partition. -/
theorem hostCmd_tidy {s : State} (h : Tidy s.tiles) (q : QId) (c : HostCmd) {f : State → Nat → State}
    (hf : ∀ p, Tidy (f s p).tiles) : TidyOut (hostCmd s q c f) := by
  unfold hostCmd
  split
  · simpa using h
  · dsimp only
    split
    · simpa using h
    · split
      · simpa using h
      · simpa using h
      · simpa using h
      · simp [h, hf]

@[simp] theorem markStale_tidy {s : State} (h : Tidy s.tiles) (p r off n) : Tidy (markStale s p r off n).tiles := by
  rw [markStale_eq]
  exact updTiles_tidy h p fun _ x hx => staleTile_ok hx _

@[simp] theorem landPly_tidy {s : State} (h : Tidy s.tiles) (part pr r off b) : Tidy (landPly s part pr r off b).tiles := by
  unfold landPly
  split
  · split
    · exact h
    · split
      · exact h
      · simp [h]
  · exact h

@[simp] theorem passOn_tidy {s : State} (h : Tidy s.tiles) (part c pr r x buf l) : Tidy (passOn s part c pr r x buf l).tiles := by
  induction l generalizing s with
  | nil => exact h
  | cons k l ih =>
    unfold passOn
    split
    · exact ih (landPly_tidy h ..)
    · dsimp only
      split <;> simp [h]

/-- One chunk of a run of bytes that `sendPiece` sends. -/
def sendCut (part : Nat) (c : Camp) (pr : PairD) (r : Range) (poss : List Nat) (x : Nat → Nat × List Byte → Chunk)
    (acc : State × Nat × List (Nat × Range)) (z : Nat × List Byte) : State × Nat × List (Nat × Range) :=
  (passOn acc.1 part c pr (clipTo r z.1 z.2.length) (x acc.2.1 z) none poss, acc.2.1 + 1, acc.2.2)

/-- One run of bytes that `sendPiece` sends, or notes as poisoned. -/
def sendRun (part : Nat) (c : Camp) (pr : PairD) (poss : List Nat) (want : Range → Bool) (spos : Nat)
    (x : Nat → Nat → Nat × List Byte → Chunk) (acc : State × Nat × List (Nat × Range)) (e : Nat × Range × Option (List Byte)) :
    State × Nat × List (Nat × Range) :=
  match e.2.2 with
  | none => (acc.1, acc.2.1, acc.2.2 ++ [(spos, e.2.1)])
  | some b => ((cutChunks (firstByte e.2.1) b).filter (fun z => want (clipTo e.2.1 z.1 z.2.length))).foldl
      (sendCut part c pr e.2.1 poss (x e.1)) acc

theorem sendRun_tidy (part c pr poss want spos x) {acc} (h : Tidy acc.1.tiles) (e) :
    Tidy (sendRun part c pr poss want spos x acc e).1.tiles := by
  unfold sendRun
  split
  · exact h
  · exact foldl_fst_tidy h _ fun x e h => passOn_tidy h ..

@[simp] theorem sendPiece_tidy {s : State} (h : Tidy s.tiles) (part c pr epoch o d poss want ix0) :
    Tidy (sendPiece s part c pr epoch o d poss want ix0).1.tiles := by
  unfold sendPiece
  exact foldl_fst_tidy h _ fun x p h => foldl_fst_tidy h _ fun x e h =>
    sendRun_tidy part c pr poss want (srcPos p o) (fun kind k z => ⟨s.fabric.xfer, k, srcPos p o, poss.headD d.pos,
      Fin.ofNat 32 part, kind, pr.hd.dregion, 0, z.1, 0, epoch, 0, 0, z.2⟩) h e

@[simp] theorem raiseFaults_tidy {s : State} (h : Tidy s.tiles) (p rs) :
    Tidy (raiseFaults s p rs).tiles := ⟨raiseFaults_tilesOk h.ok p rs⟩

@[simp] theorem hubFault_tidy {s : State} (h : Tidy s.tiles) (p status detail) :
    Tidy (hubFault s p status detail).tiles := by simp [hubFault, h]

@[simp] theorem shardLost_tidy {s : State} (h : Tidy s.tiles) (p pair piece) : Tidy (shardLost s p pair piece).tiles := by
  simp [shardLost, h]

@[simp] theorem askSource_tidy {s : State} (h : Tidy s.tiles) (p c sw pr piece d x r) :
    Tidy (askSource s p c sw pr piece d x r).1.tiles := by
  unfold askSource
  split
  · exact h
  · simpa using h
  · refine sendPiece_tidy ?_ ..
    exact foldl_tidy h _ fun s q h => foldl_tidy h _ fun s m h => by simpa using h

@[simp] theorem nextSource_tidy {s : State} (h : Tidy s.tiles) (n p pair piece r) : Tidy (nextSource n s p pair piece r).tiles := by
  induction n generalizing s p pair piece r with
  | zero => exact h
  | succ n ih =>
    unfold nextSource
    split
    · exact h
    · split
      · split
        · exact h
        · dsimp only
          split
          · exact shardLost_tidy h ..
          · exact foldl_tidy (askSource_tidy (s := updPairRun ..) h ..) _ fun s q h => ih h ..
      · exact h

@[simp] theorem refetch_tidy {s : State} (h : Tidy s.tiles) (p pair piece r) : Tidy (refetch s p pair piece r).tiles :=
  nextSource_tidy h ..

@[simp] theorem runPair_tidy {s : State} (h : Tidy s.tiles) (part c pr epoch) : Tidy (runPair s part c pr epoch).tiles := by
  refine foldl_tidy ?_ _ fun s q h => ?_
  · exact foldl_fst_tidy h _ fun x e h => sendPiece_tidy h ..
  · split
    · exact refetch_tidy h ..
    · simpa using h

@[simp] theorem writeRegion_tidy {s : State} (h : Tidy s.tiles) (p r off b) : Tidy (writeRegion s p r off b).tiles := by
  unfold writeRegion
  split
  · apply markStale_tidy
    exact h
  · exact h

@[simp] theorem finishReq_tidy {s : State} (h : Tidy s.tiles) (p e st reason) : Tidy (finishReq s p e st reason).tiles := by
  unfold finishReq
  dsimp only
  split
  · exact h
  · split
    · split
      · simp_all
      · split <;> simp [h]
    · split
      · split <;> simp [h]
      · split <;> simp [h]

@[simp] theorem evictWhere_tidy {s : State} (h : Tidy s.tiles) (p reason c) : Tidy (evictWhere s p reason c).tiles := by
  unfold evictWhere
  refine foldl_tidy ?_ _ fun s e h => ?_
  · exact h
  · simp [h]

@[simp] theorem evictRetired_tidy {s : State} (h : Tidy s.tiles) (p regs) : Tidy (evictRetired s p regs).tiles := by
  unfold evictRetired
  refine foldl_tidy ?_ _ fun s e h => ?_
  · exact h
  · simp [h]

@[simp] theorem applyVset_tidy {s : State} (h : Tidy s.tiles) (p v) : Tidy (applyVset s p v).tiles := by
  unfold applyVset
  dsimp only
  split <;> simp [h]

@[simp] theorem checkpointStart_tidy {s : State} (h : Tidy s.tiles) (p t) : Tidy (checkpointStart s p t).tiles := by
  unfold checkpointStart
  dsimp only
  split <;> simp [h]

@[simp] theorem statOpen_tidy {s : State} (h : Tidy s.tiles) (p g step) : Tidy (statOpen s p g step).tiles := by simp [statOpen, h]

@[simp] theorem tileFaultSem_tidy {s : State} (h : Tidy s.tiles) (a q ix status semn addr detail) :
    Tidy (tileFaultSem s a q ix status semn addr detail).tiles := by simp [tileFaultSem, h]

@[simp] theorem tileFault_tidy {s : State} (h : Tidy s.tiles) (a q ix status addr detail) :
    Tidy (tileFault s a q ix status addr detail).tiles := by simp [tileFault, h]

@[simp] theorem ringForm_tidy {s : State} (h : Tidy s.tiles) (a q ix ring member) :
    Tidy (ringForm s a q ix ring member).tiles := by simp [ringForm, h]

@[simp] theorem extentFault_tidy {s : State} (h : Tidy s.tiles) (a q ix addr ext) : Tidy (extentFault s a q ix addr ext).tiles := by
  unfold extentFault
  dsimp only
  split
  · simp [h]
  · apply tileFault_tidy
    exact h

@[simp] theorem t0Extent_tidy {s : State} (h : Tidy s.tiles) (a q ix addr) :
    Tidy (t0Extent s a q ix addr).tiles := by simp [t0Extent, h]

@[simp] theorem armRing_tidy {s : State} (h : Tidy s.tiles) (a ix n rcd bad) : Tidy (armRing s a ix n rcd bad).tiles := by
  unfold armRing
  dsimp only
  split
  · split
    · exact h
    · split
      · simp [h]
      · split
        · simp [h]
        · split
          · simp [h]
          · split
            · simp [h]
            · split
              · simp [h]
              · apply updTile_tidy
                · exact h
                · intro x h
                  refine setRing_ok ?_ ..
                  exact h
  · exact h

@[simp] theorem armSegment_tidy {s : State} (h : Tidy s.tiles) (a p seg) : Tidy (armSegment s a p seg).tiles := by
  have closed := updTile_tidy h a.part a.tile (f := closeRings) fun _ hx => closeRings_ok hx
  exact foldl_tidy (by simpa using closed) _ fun s e h => armRing_tidy h ..

@[simp] theorem seqPass_tidy {s : State} (h : Tidy s.tiles) (a) : Tidy (seqPass s a).tiles := by
  have passed := setTile_tidy h a.part a.tile (passWords_ok (queueDepth s a) 3100 (h.at a.part a.tile))
  unfold seqPass
  dsimp only
  split
  · simp [passed]
  · split <;> simp [passed]

@[simp] theorem regear_tidy {s : State} (h : Tidy s.tiles) : Tidy (regear s).tiles :=
  tidy_map h fun n _ hx => regearTile_ok hx s n

@[simp] theorem startSeg_tidy {s : State} (h : Tidy s.tiles) (k g) : Tidy (startSeg s k g).tiles := by
  unfold startSeg
  dsimp only
  split
  · refine regear_tidy (foldl_tidy ?_ _ fun s n h => ?_)
    · rw [calTrigger_tiles]
      refine foldl_tidy ?_ _ fun s n h => updTile_tidy h _ _ fun u hu => startTile_ok hu ..
      have opened (pr : Program) := foldl_tidy h pr.gsels (g := fun s e => statOpen s k.part e k.step)
        fun s e h => statOpen_tidy h ..
      simp [opened, h]
    · split
      · exact seqPass_tidy (armSegment_tidy h ..) _
      · exact armSegment_tidy h ..
  · exact h

@[simp] theorem tryStart_tidy {s : State} (h : Tidy s.tiles) (k) : Tidy (tryStart s k).tiles := by
  unfold tryStart
  dsimp only
  split
  · exact h
  · split <;> simp [h]

@[simp] theorem schedule_tidy {s : State} (h : Tidy s.tiles) : Tidy (schedule s).tiles := by
  unfold schedule
  dsimp only
  refine foldl_tidy ?_ _ fun s e h => ?_
  · simp [h]
  · simp [h]

@[simp] theorem turnStart_tidy {s : State} (h : Tidy s.tiles) (p) : Tidy (turnStart s p).tiles := by
  unfold turnStart
  dsimp only
  split
  · exact h
  · split
    · exact h
    · split
      · apply checkpointStart_tidy
        split <;> exact h
      · apply schedule_tidy
        split <;> simp [h]

@[simp] theorem switchDone_tidy {s : State} (h : Tidy s.tiles) (p) : Tidy (switchDone s p).tiles := by
  unfold switchDone
  split
  · exact h
  · split
    · simp [h]
    · split <;> simp [h]

@[simp] theorem publishSwitch_tidy {s : State} (h : Tidy s.tiles) (p) : Tidy (publishSwitch s p).tiles := by
  unfold publishSwitch
  dsimp only
  split
  · exact h
  · split
    · exact h
    · refine switchDone_tidy ?_ _
      rw [updCamp_tiles]
      refine foldl_tidy ?_ _ fun s v h => applyVset_tidy h ..
      rw [foldl_tiles _ _ _ fun s r => publishRegion_tiles s p r]
      exact evictRetired_tidy h ..

@[simp] theorem startSwitch_tidy {s : State} (h : Tidy s.tiles) (p k) : Tidy (startSwitch s p k).tiles := by
  unfold startSwitch
  extract_lets x
  split
  · extract_lets prs prs regs ep held sw s1 s2 s3
    have staged : Tidy s1.tiles := by simpa [s1] using h
    have run : Tidy s3.tiles := foldl_tidy (s := s2) staged _ fun s d h => runPair_tidy h ..
    split
    · exact publishSwitch_tidy run _
    · exact run
  · exact h

@[simp] theorem checkBeacons_tidy {s : State} (h : Tidy s.tiles) (p) : Tidy (checkBeacons s p).tiles := by
  unfold checkBeacons
  split
  · exact h
  · split
    · exact h
    · split
      · simp [h]
      · split
        · simp [h]
        · split <;> simp [h]

@[simp] theorem turnEnd_tidy {s : State} (h : Tidy s.tiles) (p) : Tidy (turnEnd s p).tiles := by
  unfold turnEnd
  dsimp only
  split <;> simp [h]

@[simp] theorem turnCheck_tidy {s : State} (h : Tidy s.tiles) (p) : Tidy (turnCheck s p).tiles := by
  unfold turnCheck
  dsimp only
  split
  · split <;> simp [h]
  · exact h

@[simp] theorem stopBetween_tidy {s : State} (h : Tidy s.tiles) (p) : Tidy (stopBetween s p).tiles := by
  unfold stopBetween
  split
  · exact h
  · split
    · exact h
    · split
      · split <;> simp [h]
      · simp [h]
      · exact h

@[simp] theorem campStop_tidy {s : State} (h : Tidy s.tiles) (p) : Tidy (campStop s p).tiles := by
  unfold campStop
  dsimp only
  split
  · exact h
  · split
    · exact h
    · split <;> simp [h]

@[simp] theorem stopRunning_tidy {s : State} (h : Tidy s.tiles) (p) : Tidy (stopRunning s p).tiles := by simp [stopRunning, h]

@[simp] theorem loadProg_tidy {s : State} (h : Tidy s.tiles) (p slot b pr) : Tidy (loadProg s p slot b pr).tiles := by
  unfold loadProg
  dsimp only
  refine foldl_tidy ?_ _ fun s e h => ?_
  · exact h
  · simp [h]

@[simp] theorem turnLoop_tidy {s : State} (h : Tidy s.tiles) (p) : Tidy (turnLoop s p).tiles := by
  unfold turnLoop
  refine foldl_tidy ?_ _ fun s e h => ?_
  · exact h
  · simp [h]

@[simp] theorem rendezvousMet_tidy {s : State} (h : Tidy s.tiles) (p) : Tidy (rendezvousMet s p).tiles := by
  unfold rendezvousMet
  split <;> simp [h]

@[simp] theorem stopGoesOn_tidy {s : State} (h : Tidy s.tiles) (p) : Tidy (stopGoesOn s p).tiles := by simp [stopGoesOn, h]

@[simp] theorem setDrawerWord_tidy {s : State} (h : Tidy s.tiles) (p reg d w v) :
    Tidy (setDrawerWord s p reg d w v).tiles := by simp [setDrawerWord, h]

@[simp] theorem openMapDrawer_tidy {s : State} (h : Tidy s.tiles) (p reg d) :
    Tidy (openMapDrawer s p reg d).tiles := by simp [openMapDrawer, h]

@[simp] theorem linkMaps_tidy {s : State} (h : Tidy s.tiles) (p reg l) : Tidy (linkMaps s p reg l).1.tiles := by
  induction l with
  | nil => exact h
  | cons d l ih => exact setDrawerWord_tidy (openMapDrawer_tidy ih ..) ..

@[simp] theorem setMapEntry_tidy {s : State} (h : Tidy s.tiles) (p reg dhead ix v) :
    Tidy (setMapEntry s p reg dhead ix v).tiles := by simp [setMapEntry, h]

@[simp] theorem copyMap_tidy {s : State} (h : Tidy s.tiles) (p reg dhead n drs) : Tidy (copyMap s p reg dhead n drs).1.tiles := by
  refine foldl_tidy (linkMaps_tidy h ..) _ fun s k h => ?_
  dsimp only
  split
  · exact h
  · simp [h]

@[simp] theorem admitReq_tidy {s : State} (h : Tidy s.tiles) (p e a list drs) : Tidy (admitReq s p e a list drs).tiles := by
  unfold admitReq
  dsimp only
  split
  · split <;> simp [h]
  · split <;> simp [h]

@[simp] theorem refetchFrom_tidy {s : State} (h : Tidy s.tiles) (p m) : Tidy (refetchFrom s p m).tiles := by
  unfold refetchFrom
  split
  · exact h
  · exact foldl_tidy h _ fun s k h => foldl_tidy h _ fun s r h => refetch_tidy h ..

@[simp] theorem memberGone_tidy {s : State} (h : Tidy s.tiles) (p m) : Tidy (memberGone s p m).tiles := by
  unfold memberGone
  dsimp only
  split
  · exact h
  · split
    · exact h
    · split
      · exact h
      · exact h
      · split
        · simp [h]
        · split <;> simp [h]
      · split <;> simp [h]

@[simp] theorem membersGone_tidy {s : State} (h : Tidy s.tiles) (ms) : Tidy (membersGone s ms).tiles := by
  unfold membersGone
  refine foldl_tidy ?_ _ fun s e h => ?_
  · exact h
  · refine foldl_tidy ?_ _ fun s e h => ?_
    · exact h
    · simp [h]

@[simp] theorem installEpoch_tidy {s : State} (h : Tidy s.tiles) (epoch members links) :
    Tidy (installEpoch s epoch members links).tiles := by simp [installEpoch, h]

@[simp] theorem loseCampaigns_tidy {s : State} (h : Tidy s.tiles) (m) : Tidy (loseCampaigns s m).tiles := by
  unfold loseCampaigns
  refine foldl_tidy ?_ _ fun s e h => ?_
  · exact h
  · split <;> simp [h]

@[simp] theorem leaveCheck_tidy {s : State} (h : Tidy s.tiles) : Tidy (leaveCheck s).tiles := by simp [leaveCheck, h]
@[simp] theorem portEnabled_tidy {s : State} (h : Tidy s.tiles) (n) : Tidy (portEnabled s n).tiles := by simp [portEnabled, h]
@[simp] theorem portDisabled_tidy {s : State} (h : Tidy s.tiles) (n) : Tidy (portDisabled s n).tiles := by simp [portDisabled, h]

@[simp] theorem enterLevel_tidy {s : State} (h : Tidy s.tiles) (l) : Tidy (enterLevel s l).tiles := by
  have gated := tidy_map h (f := fun _ => gateTile) fun _ _ hx => gateTile_ok hx
  have scrubbed := tidy_map h (f := fun _ => scrubTile) fun _ x _ => scrubTile_ok x
  unfold enterLevel
  dsimp only
  simp [h, gated, scrubbed]

@[simp] theorem brakeOn_tidy {s : State} (h : Tidy s.tiles) (internal whr value w) :
    Tidy (brakeOn s internal whr value w).tiles := by
  have geared := regear_tidy (s := s.withPower w) h
  unfold brakeOn
  simp [geared]

@[simp] theorem askAgain_tidy {s : State} (h : Tidy s.tiles) (p) : Tidy (askAgain s p).tiles := by
  unfold askAgain
  split
  · exact h
  · refine foldl_tidy h _ fun s k h => foldl_tidy h _ fun s r h => ?_
    split
    · exact askSource_tidy h ..
    · exact h

@[simp] theorem rerunTurn_tidy {s : State} (h : Tidy s.tiles) (p) : Tidy (rerunTurn s p).tiles := by
  unfold rerunTurn
  apply turnStart_tidy
  exact h

@[simp] theorem runAgain_tidy {s : State} (h : Tidy s.tiles) (p c k) : Tidy (runAgain s p c k).tiles := by
  unfold runAgain
  dsimp only
  split
  · apply startSwitch_tidy
    exact h
  · exact h

@[simp] theorem interruptTurn_tidy {s : State} (h : Tidy s.tiles) (p c learning) : Tidy (interruptTurn s p c learning).tiles := by
  unfold interruptTurn
  dsimp only
  split <;> simp [h]

@[simp] theorem replayCamp_tidy {s : State} (h : Tidy s.tiles) (p) : Tidy (replayCamp s p).tiles := by
  unfold replayCamp
  split
  · exact h
  · split
    · simpa using h
    · exact askAgain_tidy (startSwitch_tidy h ..) _
    · exact h
    · exact h
    · simpa using h
    · split
      · exact h
      · split
        · simp [h]
        · simp [h]
        · simp [h]
        · split <;> simp [h]

@[simp] theorem journalReplay_tidy {s : State} (h : Tidy s.tiles) (how) : Tidy (journalReplay s how).tiles := by
  have drawn : Tidy (if (s.boot.jrnA && s.boot.jrnB) = true then (drawFree s).2 else s).tiles := by simp [h]
  unfold journalReplay
  dsimp only
  split
  · simpa using drawn
  · rw [rewritePosted_tiles]
    split
    · exact foldl_tidy (by simpa using drawn) _ fun s p h => replayCamp_tidy h p
    · rw [endRunning_tiles, foldl_tiles _ _ _ fun s p => cutCampaign_tiles ..]
      simpa using drawn
    · rw [endRunning_tiles, foldl_tiles _ _ _ fun s p => cutCampaign_tiles ..]
      simpa using drawn

@[simp] theorem restart_tidy {s : State} (h : Tidy s.tiles) (how) : Tidy (restart s how).tiles := by
  unfold restart
  dsimp only
  apply schedule_tidy
  simp [h]

@[simp] theorem utoraStart_tidy {s : State} (h : Tidy s.tiles) (i) : Tidy (utoraStart s i).tiles := by
  unfold utoraStart
  dsimp only
  split
  · apply restart_tidy
    split <;> simp [h]
  · refine foldl_tidy ?_ _ fun s e h => ?_
    · split <;> simp [h]
    · simp [h]

@[simp] theorem loadNow_tidy {s : State} (h : Tidy s.tiles) (i) : Tidy (loadNow s i).tiles := by
  unfold loadNow
  dsimp only
  split <;> simp [h]

theorem i3c_tidy {s : State} (h : Tidy s.tiles) (f) : TidyOut (i3c s f) := by simp [i3c, h]
@[simp] theorem powerLost_tidy {s : State} (mv) : Tidy (powerLost s mv).tiles := tidy_nil
@[simp] theorem moduleFatal_tidy {s : State} (kind unit) : Tidy (moduleFatal s kind unit).tiles := tidy_nil

@[simp] theorem hubReset_tidy {s : State} (h : Tidy s.tiles) : Tidy (hubReset s).tiles := by
  have cleared := tidy_map h (f := fun _ => resetTile) fun _ _ hx => resetTile_ok hx
  unfold hubReset
  simp [cleared]

theorem warmBoot_tidy {s : State} (h : Tidy s.tiles) {prep : State → State} (hp : ∀ s, Tidy s.tiles → Tidy (prep s).tiles)
    (how intact) : Tidy (warmBoot s prep how intact).tiles := by
  have prepared : Tidy (prep (hubReset s)).tiles := hp _ (hubReset_tidy h)
  unfold warmBoot
  dsimp only
  split
  · exact restart_tidy (by exact prepared) _
  · exact prepared

theorem deviceReset_tidy {s : State} (h : Tidy s.tiles) (kind unit detail repair) {prep : State → State}
    (hp : ∀ s, Tidy s.tiles → Tidy (prep s).tiles) (how intact) :
    Tidy (deviceReset s kind unit detail repair prep how intact).tiles := by
  unfold deviceReset
  dsimp only
  split
  · simp
  · exact warmBoot_tidy (by simpa using h) hp _ _

@[simp] theorem brakeOff_tidy {s : State} (h : Tidy s.tiles) (internal whr value w) :
    Tidy (brakeOff s internal whr value w).tiles := by
  have geared := regear_tidy (s := s.withPower w) h
  unfold brakeOff
  dsimp only
  rw [shadowNow_tiles]
  split <;> simp [geared]

@[simp] theorem capsChanged_tidy {s : State} (h : Tidy s.tiles) : Tidy (capsChanged s).tiles := by simp [capsChanged, h]

@[simp] theorem actLimits_tidy {s : State} (h : Tidy s.tiles) : Tidy (actLimits s).tiles := by
  unfold actLimits
  extract_lets w hot3 hot1 inp s1 w1 s2 lim heat cool capCool was w2 w3 s3
  have heated : Tidy s1.tiles := by
    refine tidy_of_ite (brakeOff_tidy h ..) ?_
    cases hot3 with
    | some n => exact tidy_of_ite h (brakeOn_tidy h ..)
    | none => exact h
  have braked : Tidy s2.tiles := tidy_of_ite (brakeOn_tidy heated ..) (tidy_of_ite (brakeOff_tidy heated ..) heated)
  have capped : Tidy s3.tiles := tidy_of_ite braked (by rw [setCaps_tiles]; exact braked)
  refine tidy_of_ite ?_ (tidy_of_ite ?_ capped)
  · rw [raiseAlert_tiles, powerEvent_tiles]
    exact capsChanged_tidy capped
  · rw [powerEvent_tiles]
    exact capsChanged_tidy capped

@[simp] theorem tileErr_tidy {s : State} (h : Tidy s.tiles) (n) {t : Tile} (ht : TileOk t) : Tidy (tileErr s n t).tiles := by
  obtain ⟨b, e⟩ := tileErr_changes s n t
  rw [e]
  exact setTileRaw_tidy h _ ht

@[simp] theorem finishWord_tidy {s : State} (h : Tidy s.tiles) (a q) {t : Tile} (ht : TileOk t) : Tidy (finishWord s a q t).tiles :=
  seqPass_tidy (setTile_tidy h _ _ (popWord_ok ht q)) a

@[simp] theorem scalarWord_tidy {s : State} (h : Tidy s.tiles) (a w dst v) : Tidy (scalarWord s a w dst v).tiles := by
  unfold scalarWord
  split
  · exact h
  · exact finishWord_tidy h _ _ (setSreg_ok (h.at ..) _ _)

@[simp] theorem chainFault_tidy {s : State} (h : Tidy s.tiles) (a ix word reason) :
    Tidy (chainFault s a ix word reason).tiles := by simp [chainFault, h]

theorem syncWord_tidy {s : State} (h : Tidy s.tiles) (a w x) {f : QWord → State} (hf : ∀ w, Tidy (f w).tiles) :
    Tidy (syncWord s a w x f).tiles := by
  unfold syncWord
  dsimp only
  split
  · exact h
  · simp [h, hf]

@[simp] theorem poisonFault_tidy {s : State} (h : Tidy s.tiles) (a q ix detail p) :
    Tidy (poisonFault s a q ix detail p).tiles := by simp [poisonFault, h]

@[simp] theorem commitPoison_tidy {s : State} (h : Tidy s.tiles) (p n w) :
    Tidy (commitPoison s p n w).tiles := by simp [commitPoison, h]

@[simp] theorem applyClose_tidy {s : State} (h : Tidy s.tiles) (p c) : Tidy (applyClose s p c).tiles := by
  unfold applyClose
  dsimp only
  split
  · split <;> simp [h]
  · exact h

@[simp] theorem refuseClose_tidy {s : State} (h : Tidy s.tiles) (p cp d step bad) :
    Tidy (refuseClose s p cp d step bad).tiles := by simp [refuseClose, h]

@[simp] theorem settleStep_tidy {s : State} (h : Tidy s.tiles) (p d) : Tidy (settleStep s p d).tiles := by
  unfold settleStep
  dsimp only
  split
  · split
    · exact h
    · split
      · exact h
      · split
        · split
          · split
            · exact h
            · simp [h]
            · split
              · simp [h]
              · split
                · split <;> simp [h]
                · exact h
          · split
            · split <;> simp [h]
            · exact h
        · split
          · simp_all
          · split <;> simp [h]
  · exact h

@[simp] theorem settleTry_tidy {s : State} (h : Tidy s.tiles) (p) : Tidy (settleTry s p).tiles := by
  unfold settleTry
  refine foldl_tidy ?_ _ fun s e h => ?_
  · exact h
  · refine foldl_tidy ?_ _ fun s e h => ?_
    · exact h
    · simp [h]

@[simp] theorem statMerge_tidy {s : State} (h : Tidy s.tiles) (p g x) : Tidy (statMerge s p g x).tiles := by simp [statMerge, h]
@[simp] theorem landBytes_tidy {s : State} (h : Tidy s.tiles) (p d l b) : Tidy (landBytes s p d l b).tiles := by simp [landBytes, h]

theorem sendAll_tiles {α : Type} (mk : Nat → α → Chunk) (l : List α) (x : State × Nat) :
    (l.foldl (fun acc e => (sendChunk acc.1 (mk acc.2 e), acc.2 + 1)) x).1.tiles = x.1.tiles := by
  induction l generalizing x with
  | nil => rfl
  | cons e l ih => rw [List.foldl_cons, ih, sendChunk_tiles]

@[simp] theorem collGive_tidy {s : State} (h : Tidy s.tiles) (p c d j k step fmt tokens off b) :
    Tidy (collGive s p c d j k step fmt tokens off b).tiles := by
  unfold collGive
  refine tidy_of_ite h (tidy_of_ite (landBytes_tidy h ..) ?_)
  rw [State.withFabric_tiles]
  have sent := sendAll_tiles (fun n (e : Nat × List Byte) => ⟨s.fabric.xfer, n, d.members.getD j 0, d.members.getD k 0,
    Fin.ofNat 32 p, 2, d.region, 0, e.1, fmt, step, tokens, rankMember c d k, e.2⟩) (cutChunks off b) (s, 0)
  rw [sent]
  exact h

@[simp] theorem shardGive_tidy {s : State} (h : Tidy s.tiles) (p c d j k step fmt tokens off n b) :
    Tidy (shardGive s p c d j k step fmt tokens off n b).tiles := by simp [shardGive, h]

@[simp] theorem collTrigger_tidy {s : State} (h : Tidy s.tiles) (p c r t pr d step) :
    Tidy (collTrigger s p c r t pr d step).tiles := by
  unfold collTrigger
  dsimp only
  refine foldl_tidy ?_ _ fun s e h => ?_
  · exact h
  · split
    · refine foldl_tidy ?_ _ fun s e h => ?_
      · exact h
      · simp [h]
    · split
      · simp [h]
      · split
        · refine foldl_tidy ?_ _ fun s e h => ?_
          · exact h
          · simp [h]
        · split
          · split
            · refine foldl_tidy ?_ _ fun s e h => ?_
              · exact h
              · simp [h]
            · exact h
          · refine foldl_tidy ?_ _ fun s e h => ?_
            · exact h
            · simp [h]

@[simp] theorem startPhase_tidy {s : State} (h : Tidy s.tiles) (p c r t pr d step) :
    Tidy (startPhase s p c r t pr d step).tiles := by simp [startPhase, h]

@[simp] theorem collGather_tidy {s : State} (h : Tidy s.tiles) (p c r d step) : Tidy (collGather s p c r d step).tiles := by
  unfold collGather
  dsimp only
  apply writeRegion_tidy
  refine foldl_tidy ?_ _ fun s e h => ?_
  · exact h
  · refine foldl_tidy ?_ _ fun s e h => ?_
    · exact h
    · simp [h]

@[simp] theorem commitSends_tidy {s : State} (h : Tidy s.tiles) (p t pr seg step) : Tidy (commitSends s p t pr seg step).tiles := by
  unfold commitSends
  extract_lets s1
  have sent : Tidy s1.tiles := by
    refine foldl_tidy h _ fun s d h => ?_
    split
    · extract_lets s2 s3
      have started : Tidy s2.tiles := tidy_of_ite (startPhase_tidy h ..) h
      have gathered : Tidy s3.tiles := tidy_of_ite (collGather_tidy started ..) started
      exact tidy_of_ite (by rw [readyBeacon_tiles]; exact gathered) gathered
    · exact h
  split
  · exact tidy_of_ite (by rw [readyBeacon_tiles]; exact sent) (by rw [beaconsDue_tiles]; exact sent)
  · exact sent

@[simp] theorem commitSeg_tidy {s : State} (h : Tidy s.tiles) (p t pr d l) : Tidy (commitSeg s p t pr d l).tiles := by
  unfold commitSeg
  extract_lets tiles s1 u dur s2 s3 s4 s5 late s6 s7 s8
  have counted : Tidy s1.tiles := foldl_tidy h _ fun s n h => foldl_tidy h _ fun s x h => by
    split
    · exact statMerge_tidy h ..
    · exact h
  have idle : Tidy s3.tiles := foldl_tidy (regear_tidy counted) _ fun s n h => updTile_tidy h _ _ fun _ hx => idleTile_ok hx
  have noted : Tidy s5.tiles := by rw [updPart_tiles, updRun_tiles]; exact idle
  have late_ : Tidy s6.tiles := tidy_of_ite (by rw [addCtr_tiles]; exact noted) noted
  rw [plainStep_tiles]
  exact commitSends_tidy (by rw [refit_tiles, endHolds_tiles]; exact late_) ..

theorem mxWord_tidy {s : State} (h : Tidy s.tiles) (a x) {f : QWord → State} (hf : ∀ w, Tidy (f w).tiles) :
    Tidy (mxWord s a x f).tiles := by
  unfold mxWord
  split
  · exact h
  · exact hf _

@[simp] theorem canonFault_tidy {s : State} (h : Tidy s.tiles) (a ix r hi) :
    Tidy (canonFault s a ix r hi).tiles := by simp [canonFault, h]

@[simp] theorem heldFault_tidy {s : State} (h : Tidy s.tiles) (a ix r) : Tidy (heldFault s a ix r).tiles := by simp [heldFault, h]

@[simp] theorem ringExtent_tidy {s : State} (h : Tidy s.tiles) (a q ix addr ring) :
    Tidy (ringExtent s a q ix addr ring).tiles := by simp [ringExtent, h]

@[simp] theorem blockOnRings_tidy {s : State} (h : Tidy s.tiles) (a q rs) : Tidy (blockOnRings s a q rs).tiles := by
  unfold blockOnRings
  apply updTile_tidy
  · exact h
  · simp

@[simp] theorem slotFault_tidy {s : State} (h : Tidy s.tiles) (a ix slot x u) : Tidy (slotFault s a ix slot x u).tiles := by
  unfold slotFault
  split <;> simp [h]

@[simp] theorem ewPart_tidy {s : State} (h : Tidy s.tiles) (a x f) : Tidy (ewPart s a x f).tiles := by
  unfold ewPart
  split
  · exact h
  · extract_lets t
    have ht : TileOk t := h.at ..
    split
    · exact chainFault_tidy h ..
    · split
      · exact chainFault_tidy h ..
      · exact finishWord_tidy h _ _ ht

@[simp] theorem raiseBar_tidy {s : State} (h : Tidy s.tiles) (a bs b) : Tidy (raiseBar s a bs b).tiles := by
  unfold raiseBar
  split <;> simp [h]

@[simp] theorem sendTail_tidy {s : State} (h : Tidy s.tiles) (a q ix n) : Tidy (sendTail s a q ix n).tiles := by
  unfold sendTail
  extract_lets t x
  have ht : TileOk t := h.at ..
  split
  · exact ringForm_tidy h ..
  · exact tidy_of_ite (tileFault_tidy h ..) <| tidy_of_ite (tileFault_tidy h ..) <| tidy_of_ite (poisonFault_tidy h ..)
      (setTile_tidy h _ _ (setRing_ok ht _ _))

@[simp] theorem finishIfOk_tidy {s : State} (h : Tidy s.tiles) (a q) : Tidy (finishIfOk s a q).tiles :=
  tidy_of_ite (finishWord_tidy h _ _ (h.at ..)) h

@[simp] theorem epochFault_tidy {s : State} (h : Tidy s.tiles) (a n w) : Tidy (epochFault s a n w).tiles := by simp [epochFault, h]

@[simp] theorem putBobs_tidy {s : State} (h : Tidy s.tiles) (p n slot tiles b) : Tidy (putBobs s p n slot tiles b).tiles := by
  unfold putBobs
  refine foldl_tidy ?_ _ fun s e h => ?_
  · exact h
  · apply updTile_tidy
    · exact h
    · intro x h
      refine setRing_ok ?_ ..
      exact h

@[simp] theorem issueInto_tidy {s : State} (h : Tidy s.tiles) (a n slot k w tiles demand) :
    Tidy (issueInto s a n slot k w tiles demand).tiles := by
  unfold issueInto
  dsimp only
  split
  · split <;> simp [h]
  · split
    · simp [h]
    · apply updTile_tidy
      · simp [h]
      · intro x h
        refine setRing_ok ?_ ..
        exact h

@[simp] theorem deferBob_tidy {s : State} (h : Tidy s.tiles) (p n slot tiles b) :
    Tidy (deferBob s p n slot tiles b).tiles := by simp [deferBob, h]

@[simp] theorem markSpans_tidy {s : State} (h : Tidy s.tiles) (p r l) : Tidy (markSpans s p r l).tiles := by
  unfold markSpans
  refine foldl_tidy ?_ _ fun s e h => ?_
  · exact h
  · simp [h]

@[simp] theorem faultEvicts_tidy {s : State} (h : Tidy s.tiles) (p) : Tidy (faultEvicts s p).tiles := by simp [faultEvicts, h]

theorem fromMember_tidy {s : State} (h : Tidy s.tiles) (m) {f : State → State} (hf : ∀ s, Tidy s.tiles → Tidy (f s).tiles) :
    Tidy (fromMember s m f).tiles := by
  unfold fromMember
  split
  · exact h
  · exact hf _ h

theorem fromBound_tidy {s : State} (h : Tidy s.tiles) (p m) {f : State → State} (hf : ∀ s, Tidy s.tiles → Tidy (f s).tiles) :
    Tidy (fromBound s p m f).tiles := by
  refine fromMember_tidy h _ fun s h => ?_
  split
  · split
    · exact hf _ h
    · simpa using h
  · simpa using h

@[simp] theorem scrubGroup_tidy {s : State} (h : Tidy s.tiles) (g) : Tidy (scrubGroup s g).tiles := by
  unfold scrubGroup
  rw [sweepAll_tiles]
  exact foldl_tidy h _ fun s k h => setTileRaw_tidy (by rw [readersDone_tiles]; exact h) _ (scrubTile_ok _)

@[simp] theorem replaceTiles_tidy {s : State} (h : Tidy s.tiles) (g) : Tidy (replaceTiles s g).tiles := by
  refine foldl_tidy h _ fun s k h => ?_
  extract_lets t
  have ht : TileOk t := h.raw _
  refine tidy_of_ite h ?_
  rw [engageFree_tiles]
  exact setTileRaw_tidy h _ ht

@[simp] theorem scrubPart_tidy {s : State} (h : Tidy s.tiles) (p) : Tidy (scrubPart s p).tiles := by
  unfold scrubPart
  extract_lets gs s1 s2 s3
  have scrubbed : Tidy s1.tiles := foldl_tidy h _ fun s g h => scrubGroup_tidy h g
  have replaced : Tidy (gs.foldl replaceTiles s1).tiles := foldl_tidy scrubbed _ fun s g h => replaceTiles_tidy h g
  have dropped : Tidy s3.tiles := by rw [updPart_tiles, dropFailed_tiles]; exact replaced
  rw [releasePart_tiles, State.withSamp_tiles]
  exact dropped

@[simp] theorem evictReq_tidy {s : State} (h : Tidy s.tiles) (p e reason) :
    Tidy (evictReq s p e reason).tiles := by simp [evictReq, h]

@[simp] theorem landPair_tidy {s : State} (h : Tidy s.tiles) (n b c) : Tidy (landPair s n b c).tiles := by
  unfold landPair
  dsimp only
  split
  · simpa using h
  · split
    · simpa using h
    · split
      · simpa using h
      · rw [bufDone_tiles]
        exact passOn_tidy (s := setBuf ..) h ..

@[simp] theorem takeChunk_tidy {s : State} (h : Tidy s.tiles) (n t) : Tidy (takeChunk n t s).tiles := by
  unfold takeChunk
  split
  · exact h
  · split
    · exact h
    · split
      · exact atTime_tidy h _ fun s h => by simpa using h
      · split
        · exact atTime_tidy h _ fun s h => by simpa using h
        · split
          · exact h
          · split
            · exact h
            · refine atTime_tidy h _ fun s h => ?_
              split
              · simpa using h
              · exact landPair_tidy h ..

theorem pairMsg_tidy {s : State} (h : Tidy s.tiles) (p m t) {f : State → State} (hf : ∀ s, Tidy s.tiles → Tidy (f s).tiles) :
    Tidy (pairMsg s p m t f).tiles := by
  unfold pairMsg
  split
  · exact h
  · exact atTime_tidy h _ fun s h => fromBound_tidy h _ _ hf

@[simp] theorem sendRange_tidy {s : State} (h : Tidy s.tiles) (p c sw pr d spos poss r b) :
    Tidy (sendRange s p c sw pr d spos poss r b).tiles := by
  unfold sendRange
  dsimp only
  rw [nextXfer_tiles]
  exact foldl_fst_tidy h _ fun x e h => passOn_tidy h _ _ _ _ _ _ _

@[simp] theorem sendLanded_tidy {s : State} (h : Tidy s.tiles) (p c sw pr y d f poss) :
    Tidy (sendLanded s p c sw pr y d f poss).tiles :=
  foldl_tidy h _ fun _ _ h => sendRange_tidy h ..

@[simp] theorem serveFetch_tidy {s : State} (h : Tidy s.tiles) (p m f) : Tidy (serveFetch s p m f).tiles := by
  unfold serveFetch
  split
  · exact h
  · split
    · split
      · exact h
      · dsimp only
        split
        · exact sendLanded_tidy h ..
        · split
          · exact h
          · rw [foldl_tiles _ _ _ fun s q => tellLost_tiles ..]
            exact sendPiece_tidy h ..
    · exact h

@[simp] theorem chunkLost_tidy {s : State} (h : Tidy s.tiles) (p l) : Tidy (chunkLost s p l).tiles := by
  unfold chunkLost
  split
  · exact h
  · split
    · exact h
    · dsimp only
      split
      · exact h
      · exact refetch_tidy h ..

@[simp] theorem landColl_tidy {s : State} (h : Tidy s.tiles) (c) : Tidy (landColl s c).tiles := by
  unfold landColl
  dsimp only
  split
  · split
    · exact h
    · split <;> simp [h]
  · exact h

@[simp] theorem compEvict_tidy {c : Comp} (h : Tidy c.s.tiles) (p e reason) :
    Tidy (compEvict p c e reason).s.tiles := evictReq_tidy h ..

@[simp] theorem composeEvicts_tidy {s : State} (h : Tidy s.tiles) (p rp l) : Tidy (composeEvicts s p rp l).s.tiles := by
  refine foldl_inv (fun c : Comp => Tidy c.s.tiles) h _ fun c e h => ?_
  dsimp only
  split
  · exact compEvict_tidy h ..
  · split
    · split
      · rw [setReq_tiles]
        exact h
      · exact compEvict_tidy h ..
    · exact h

@[simp] theorem evictFor_tidy {c : Comp} (h : Tidy c.s.tiles) (p rp e n kind f) : Tidy (evictFor p rp e n kind f c).s.tiles := by
  induction f generalizing c with
  | zero => exact h
  | succ f ih =>
    unfold evictFor
    split
    · exact h
    · split
      · exact h
      · split
        · exact h
        · extract_lets fl y c2
          refine ih ?_
          dsimp only [c2]
          split
          · rw [setReq_tiles]
            exact h
          · exact compEvict_tidy h ..

@[simp] theorem composeDecode_tidy {c : Comp} (h : Tidy c.s.tiles) (p rp e) : Tidy (composeDecode p rp c e).s.tiles := by
  unfold composeDecode
  split
  · exact h
  · extract_lets n c2 q
    split
    · exact h
    · split
      · exact evictFor_tidy h ..
      · exact evictFor_tidy h ..

@[simp] theorem composePrefill_tidy {c : Comp} (h : Tidy c.s.tiles) (p rp bad e) : Tidy (composePrefill p rp bad c e).s.tiles := by
  unfold composePrefill
  split
  · exact h
  · extract_lets n kind c2 q hb
    have room : Tidy c2.s.tiles := evictFor_tidy h ..
    split
    · exact h
    · split
      · exact room
      · split
        · exact compEvict_tidy room ..
        · exact room

@[simp] theorem pickDrawer_s (k : Picks) (p reg) : (pickDrawer k p reg).2.s = k.s := by
  unfold pickDrawer
  dsimp only
  split <;> rfl

@[simp] theorem addMap_tidy {k : Picks} (h : Tidy k.s.tiles) (p rp e) : Tidy (addMap k p rp e).s.tiles := by
  unfold addMap
  split
  · exact h
  · extract_lets reg x s
    have opened : Tidy s.tiles := openMapDrawer_tidy (by rw [pickDrawer_s]; exact h) ..
    dsimp only
    split
    · exact setDrawerWord_tidy opened ..
    · rw [setReq_tiles]
      exact opened

@[simp] theorem putLane_tidy {s : State} (h : Tidy s.tiles) (p rp e b l d) : Tidy (putLane s p rp e b l d).tiles := by
  unfold putLane
  split <;> simp [h]

@[simp] theorem openBlock_tidy {k : Picks} (h : Tidy k.s.tiles) (p rp e b) : Tidy (openBlock k p rp e b).s.tiles := by
  refine foldl_inv (fun k : Picks => Tidy k.s.tiles) h _ fun k l h => ?_
  split
  · exact h
  · exact putLane_tidy (by rw [incRef_tiles, pickDrawer_s]; exact h) ..

@[simp] theorem copyBlock_tidy {k : Picks} (h : Tidy k.s.tiles) (p rp e b) : Tidy (copyBlock k p rp e b).s.tiles := by
  refine foldl_inv (fun k : Picks => Tidy k.s.tiles) h _ fun k l h => ?_
  split
  · exact h
  · extract_lets old x s src s2
    split
    · exact h
    · refine putLane_tidy ?_ ..
      rw [decRef_tiles, incRef_tiles]
      exact writeRegion_tidy (show Tidy (pickDrawer k p _).2.s.tiles by rw [pickDrawer_s]; exact h) ..

@[simp] theorem applyPlan_tidy {k : Picks} (h : Tidy k.s.tiles) (p rp q) : Tidy (applyPlan k p rp q).s.tiles := by
  have maps := foldl_inv (fun k : Picks => Tidy k.s.tiles) h (List.range q.maps) (g := fun k _ => addMap k p rp q.e)
    fun k e h => addMap_tidy h ..
  have fresh := foldl_inv (fun k : Picks => Tidy k.s.tiles) maps q.fresh (g := fun k b => openBlock k p rp q.e b)
    fun k e h => openBlock_tidy h ..
  exact foldl_inv (fun k : Picks => Tidy k.s.tiles) fresh q.copy fun k e h => copyBlock_tidy h ..

@[simp] theorem putManifest_tidy {s : State} (h : Tidy s.tiles) (p rp step head rs blocks) :
    Tidy (putManifest s p rp step head rs blocks).tiles := by
  unfold putManifest
  dsimp only
  apply writeRegion_tidy
  refine foldl_tidy ?_ _ fun s e h => ?_
  · simp [h]
  · simp [h]

@[simp] theorem composeStep_tidy {s : State} (h : Tidy s.tiles) (p c r rp drs toks bad) :
    Tidy (composeStep s p c r rp drs toks bad).tiles := by
  unfold composeStep
  extract_lets k1 order k2 k3 laid s1 step a s2 head blocks s3 s4 slot
  have evicted : Tidy k1.s.tiles := composeEvicts_tidy h ..
  have decoded : Tidy k2.s.tiles := foldl_inv (fun c : Comp => Tidy c.s.tiles) evicted _ fun c e h => composeDecode_tidy h ..
  have filled : Tidy k3.s.tiles :=
    foldl_inv (fun c : Comp => Tidy c.s.tiles) (x := { k2 with left := rp.tokbudget - k2.rows }) decoded _
      fun c e h => composePrefill_tidy h ..
  refine tidy_of_ite (tidy_of_ite filled (by rw [sendSet_tiles]; exact filled)) ?_
  have planned : Tidy a.s.tiles := foldl_inv (fun k : Picks => Tidy k.s.tiles) (x := ⟨s1, drs, []⟩) filled _
    fun k q h => applyPlan_tidy h ..
  rw [sendSet_tiles, openStep_tiles]
  exact putManifest_tidy planned ..

@[simp] theorem commitToken_tidy {s : State} (h : Tidy s.tiles) (p rp e decode d token) :
    Tidy (commitToken s p rp e decode d token).tiles := by
  unfold commitToken
  split
  · exact h
  · simp [h]

@[simp] theorem commitDraws_tidy {s : State} (h : Tidy s.tiles) (p rp e decode drafts l) :
    Tidy (commitDraws p rp e decode drafts l s).1.tiles := by
  induction l generalizing s drafts with
  | nil =>
    unfold commitDraws
    exact h
  | cons d l ih =>
    have next := commitToken_tidy h p rp e decode d d.token
    unfold commitDraws
    dsimp only
    split
    · exact h
    · split
      · exact next
      · split
        · split
          · exact ih next _
          · exact next
        · exact next

@[simp] theorem truncateReq_tidy {s : State} (h : Tidy s.tiles) (p rp e) : Tidy (truncateReq s p rp e).tiles := by
  unfold truncateReq
  dsimp only
  split
  · exact h
  · rename_i r _
    have cut {l m : List Nat} {b : Nat} : Tidy (m.foldl (fun s d => decRef s p r.dreg d) (l.foldl (fun s k =>
        if mapEntry s p r.dreg r.dhead (b + k) = drawerNone then s
        else setMapEntry (decRef s p r.dreg (mapEntry s p r.dreg r.dhead (b + k))) p r.dreg r.dhead (b + k)
          drawerNone) s)).tiles := by
      rw [foldl_tiles _ _ _ fun s d => decRef_tiles ..]
      refine foldl_tidy h _ fun s k h => ?_
      split
      · exact h
      · simp [h]
    split
    · split
      · exact cut
      · exact setDrawerWord_tidy cut ..
    · split
      · exact cut
      · exact cut

@[simp] theorem commitReq_tidy {s : State} (h : Tidy s.tiles) (p rp q draws ndout dout evict) :
    Tidy (commitReq s p rp q draws ndout dout evict).tiles := by
  unfold commitReq
  split
  · exact h
  · extract_lets s1 x s2
    have grown : Tidy s1.tiles := tidy_of_ite h h
    have drawn : Tidy x.1.tiles := by
      show Tidy (ite _ _ _ : State × Nat).1.tiles
      split
      · exact grown
      · exact commitDraws_tidy grown ..
    have cut : Tidy s2.tiles := truncateReq_tidy drawn ..
    split
    · exact cut
    · split
      · exact finishReq_tidy cut ..
      · split
        · exact evictReq_tidy cut ..
        · extract_lets n r1 s3
          split
          · exact cut
          · exact evictReq_tidy (s := s3) cut ..

@[simp] theorem samplerCommit_tidy {s : State} (h : Tidy s.tiles) (p c rp y) : Tidy (samplerCommit s p c rp y).tiles := by
  unfold samplerCommit
  extract_lets now rs gone s1 s2
  split
  · exact hubFault_tidy h ..
  · rw [sendSet_tiles, closeStep_tiles]
    exact foldl_tidy h _ fun s e h => commitReq_tidy h ..

@[simp] theorem portDone_tidy {s : State} (h : Tidy s.tiles) (n) : Tidy (portDone s n).tiles := by
  unfold portDone
  split <;> simp [h]

@[simp] theorem markDown_tidy {s : State} (h : Tidy s.tiles) (n) : Tidy (markDown s n).tiles := by simp [markDown, h]
@[simp] theorem portDown_tidy {s : State} (h : Tidy s.tiles) (n) : Tidy (portDown s n).tiles := by simp [portDown, h]
@[simp] theorem takeFlit_tidy {s : State} (h : Tidy s.tiles) (n b) : Tidy (takeFlit s n b).tiles := by simp [takeFlit, h]

@[simp] theorem tryInstall_tidy {s : State} (h : Tidy s.tiles) : Tidy (tryInstall s).tiles := by
  unfold tryInstall
  dsimp only
  split <;> simp [h]

@[simp] theorem propose_tidy {s : State} (h : Tidy s.tiles) : Tidy (propose s).tiles := by simp [propose, h]

@[simp] theorem passJoin_tidy {s : State} (h : Tidy s.tiles) (id) : Tidy (passJoin s id).tiles := by
  unfold passJoin
  dsimp only
  split
  · exact h
  · split
    · apply propose_tidy
      exact h
    · simp [h]

@[simp] theorem helloPassed_tidy {s : State} (h : Tidy s.tiles) (n h') : Tidy (helloPassed s n h').tiles := by simp [helloPassed, h]

@[simp] theorem removeNext_tidy {s : State} (h : Tidy s.tiles) (m) : Tidy (removeNext s m).tiles := by
  unfold removeNext
  apply propose_tidy
  exact h

@[simp] theorem takeOver_tidy {s : State} (h : Tidy s.tiles) (old) : Tidy (takeOver s old).tiles := by
  unfold takeOver
  dsimp only
  split
  · apply propose_tidy
    exact h
  · simp [h]

@[simp] theorem copyInCommit_tidy {s : State} (h : Tidy s.tiles) (q p c b) : Tidy (copyInCommit s q p c b).tiles := by
  unfold copyInCommit
  dsimp only
  split
  · split <;> simp [h]
  · simp [h]

@[simp] theorem copyRange_tidy {s : State} (h : Tidy s.tiles) (q p c out off data) :
    Tidy (copyRange s q p c out off data).tiles := by
  unfold copyRange
  dsimp only
  split
  · exact h
  · split
    · exact h
    · split
      · split
        · simp [h]
        · split
          · simp [h]
          · split <;> simp [h]
      · split
        · split
          · apply copyInCommit_tidy
            exact h
          · exact h
        · exact h

@[simp] theorem ckptDone_tidy {s : State} (h : Tidy s.tiles) (p e k data) : Tidy (ckptDone s p e k data).tiles := by
  unfold ckptDone
  dsimp only
  split
  · exact h
  · split
    · simp [h]
    · apply turnLoop_tidy
      exact h

@[simp] theorem backDone_tidy {s : State} (h : Tidy s.tiles) (p e k data) : Tidy (backDone s p e k data).tiles := by
  unfold backDone
  dsimp only
  split
  · split
    · apply turnLoop_tidy
      apply startSwitch_tidy
      split <;> simp [h]
    · split <;> simp [h]
  · split <;> simp [h]

@[simp] theorem hostCopyLands_tidy {s : State} (h : Tidy s.tiles) (p pair piece off data good) :
    Tidy (hostCopyLands s p pair piece off data good).tiles := by
  unfold hostCopyLands
  split
  · exact h
  · split
    · exact h
    · refine foldl_tidy h _ fun s r h => ?_
      split
      · exact sendRange_tidy h ..
      · exact refetch_tidy h ..

end Sys2Proof.Machine

end

section
/-! PROOFS. Every row keeps every tile's tables in canonical form (R19). -/

namespace Sys2Proof.Machine

open Sys2Proof

theorem execPartCreate_tidy {s : State} (h : Tidy s.tiles) (q c) : TidyOut (execPartCreate q c s) := by
  unfold execPartCreate
  dsimp only
  split
  · simp [h]
  · refine hostCmd_tidy h _ _ fun p => ?_
    simp [h]

theorem execPartDestroy_tidy {s : State} (h : Tidy s.tiles) (q) : TidyOut (execPartDestroy q s) := by
  unfold execPartDestroy
  refine hostCmd_tidy h _ _ fun p => ?_
  dsimp only
  split
  · simp [h]
  · apply stopRunning_tidy
    exact h
  · simp [h]
  · simp [h]
  · exact h
  · exact h
  · exact h
  · exact h

theorem execPartStart_tidy {s : State} (h : Tidy s.tiles) (q) : TidyOut (execPartStart q s) := by
  unfold execPartStart
  refine hostCmd_tidy h _ _ fun p => ?_
  split <;> simp [h]

theorem execPartStop_tidy {s : State} (h : Tidy s.tiles) (q) : TidyOut (execPartStop q s) := by
  unfold execPartStop
  refine hostCmd_tidy h _ _ fun p => ?_
  split
  · simp [h]
  · apply stopRunning_tidy
    exact h
  · simp [h]
  · exact h
  · exact h
  · exact h
  · exact h
  · exact h

theorem execPartQuota_tidy {s : State} (h : Tidy s.tiles) (q c) : TidyOut (execPartQuota q c s) := by
  unfold execPartQuota
  refine hostCmd_tidy h _ _ fun p => ?_
  simp [h]

theorem execPartSeed_tidy {s : State} (h : Tidy s.tiles) (q seed) : TidyOut (execPartSeed q seed s) := by
  unfold execPartSeed
  refine hostCmd_tidy h _ _ fun p => ?_
  simp [h]

theorem execPartFlagmask_tidy {s : State} (h : Tidy s.tiles) (q m) : TidyOut (execPartFlagmask q m s) := by
  unfold execPartFlagmask
  refine hostCmd_tidy h _ _ fun p => ?_
  simp [h]

theorem execPartServe_tidy {s : State} (h : Tidy s.tiles) (q entries handles) : TidyOut (execPartServe q entries handles s) := by
  unfold execPartServe
  refine hostCmd_tidy h _ _ fun p => ?_
  simp [h]

theorem execGroupAdd_tidy {s : State} (h : Tidy s.tiles) (q gs) : TidyOut (execGroupAdd q gs s) := by
  unfold execGroupAdd
  refine hostCmd_tidy h _ _ fun p => ?_
  simp [h]

theorem execGroupRemove_tidy {s : State} (h : Tidy s.tiles) (q gs) : TidyOut (execGroupRemove q gs s) := by
  unfold execGroupRemove
  refine hostCmd_tidy h _ _ fun p => ?_
  simp [h]

theorem execPartRecover_tidy {s : State} (h : Tidy s.tiles) (q) : TidyOut (execPartRecover q s) := by
  unfold execPartRecover
  refine hostCmd_tidy h _ _ fun p => ?_
  simp [h]

theorem execPartSave_tidy {s : State} (h : Tidy s.tiles) (q b) : TidyOut (execPartSave q b s) := by
  unfold execPartSave
  refine hostCmd_tidy h _ _ fun p => ?_
  simp [h]

theorem execPartRestore_tidy {s : State} (h : Tidy s.tiles) (q b i ids pages) : TidyOut (execPartRestore q b i ids pages s) := by
  refine hostCmd_tidy h _ _ fun p => ?_
  extract_lets x s1 s2
  refine tidy_of_ite (by simpa using h) <| tidy_of_ite (by simpa using h) <| tidy_of_ite (by simpa using h) <|
    tidy_of_ite (by simpa using h) <| tidy_of_ite h ?_
  rw [doneOk_tiles, updPart_tiles, show s1.tiles = s.tiles from foldl_fst_tiles _ _ fun x e => restoreRegion_tiles ..]
  exact h

theorem execQueueCreate_tidy {s : State} (h : Tidy s.tiles) (q d) : TidyOut (execQueueCreate q d s) := by
  unfold execQueueCreate
  refine hostCmd_tidy h _ _ fun p => ?_
  simp [h]

theorem execQueueDelete_tidy {s : State} (h : Tidy s.tiles) (q num isCQ) : TidyOut (execQueueDelete q num isCQ s) := by
  unfold execQueueDelete
  refine hostCmd_tidy h _ _ fun p => ?_
  simp [h]

theorem execRegionCreate_tidy {s : State} (h : Tidy s.tiles) (q g id pages) : TidyOut (execRegionCreate q g id pages s) := by
  unfold execRegionCreate
  dsimp only
  split
  · simp [h]
  · refine hostCmd_tidy h _ _ fun p => ?_
    simp [h]

theorem execRegionFree_tidy {s : State} (h : Tidy s.tiles) (q r) : TidyOut (execRegionFree q r s) := by
  unfold execRegionFree
  refine hostCmd_tidy h _ _ fun p => ?_
  simp [h]

theorem execRegionStage_tidy {s : State} (h : Tidy s.tiles) (q r epoch haddr pages) :
    TidyOut (execRegionStage q r epoch haddr pages s) := by
  unfold execRegionStage
  refine hostCmd_tidy h _ _ fun p => ?_
  dsimp only
  split <;> simp [h]

theorem execRegionPublish_tidy {s : State} (h : Tidy s.tiles) (q rs) : TidyOut (execRegionPublish q rs s) := by
  unfold execRegionPublish
  refine hostCmd_tidy h _ _ fun p => ?_
  simp [h]

theorem execRegionAbandon_tidy {s : State} (h : Tidy s.tiles) (q r) : TidyOut (execRegionAbandon q r s) := by
  unfold execRegionAbandon
  refine hostCmd_tidy h _ _ fun p => ?_
  split <;> simp [h]

theorem execCopyIn_tidy {s : State} (h : Tidy s.tiles) (q c) : TidyOut (execCopyIn q c s) := by
  unfold execCopyIn
  refine hostCmd_tidy h _ _ fun p => ?_
  split <;> simp [h]

theorem execCopyOut_tidy {s : State} (h : Tidy s.tiles) (q c) : TidyOut (execCopyOut q c s) := by
  unfold execCopyOut
  refine hostCmd_tidy h _ _ fun p => ?_
  split <;> simp [h]

theorem execRegionFill_tidy {s : State} (h : Tidy s.tiles) (q c) : TidyOut (execRegionFill q c s) := by
  unfold execRegionFill
  refine hostCmd_tidy h _ _ fun p => ?_
  split <;> simp [h]

theorem execProgLoad_tidy {s : State} (h : Tidy s.tiles) (q l sec) : TidyOut (execProgLoad q l sec s) := by
  unfold execProgLoad
  refine hostCmd_tidy h _ _ fun p => ?_
  dsimp only
  split <;> simp [h]

theorem execProgUnload_tidy {s : State} (h : Tidy s.tiles) (q slot) : TidyOut (execProgUnload q slot s) := by
  unfold execProgUnload
  refine hostCmd_tidy h _ _ fun p => ?_
  simp [h]

theorem execCampaignStart_tidy {s : State} (h : Tidy s.tiles) (q c) : TidyOut (execCampaignStart q c s) := by
  unfold execCampaignStart
  refine hostCmd_tidy h _ _ fun p => ?_
  simp [h]

theorem execCampaignStop_tidy {s : State} (h : Tidy s.tiles) (q) : TidyOut (execCampaignStop q s) := by
  unfold execCampaignStop
  refine hostCmd_tidy h _ _ fun p => ?_
  split
  · simp [h]
  · apply stopGoesOn_tidy
    apply turnLoop_tidy
    apply campStop_tidy
    exact h

theorem execReqAdmit_tidy {s : State} (h : Tidy s.tiles) (q a e drs) : TidyOut (execReqAdmit q a e drs s) := by
  unfold execReqAdmit
  refine hostCmd_tidy h _ _ fun p => ?_
  simp [h]

theorem execReqCancel_tidy {s : State} (h : Tidy s.tiles) (q e) : TidyOut (execReqCancel q e s) := by
  unfold execReqCancel
  refine hostCmd_tidy h _ _ fun p => ?_
  split
  · simp [h]
  · split <;> simp [h]

theorem execReqRelease_tidy {s : State} (h : Tidy s.tiles) (q e) : TidyOut (execReqRelease q e s) := by
  unfold execReqRelease
  refine hostCmd_tidy h _ _ fun p => ?_
  split
  · simp [h]
  · split <;> simp [h]

theorem execPrefixCreate_tidy {s : State} (h : Tidy s.tiles) (q e len h' drs) : TidyOut (execPrefixCreate q e len h' drs s) := by
  unfold execPrefixCreate
  refine hostCmd_tidy h _ _ fun p => ?_
  dsimp only
  split
  · simp [h]
  · split
    · simp [h]
    · split <;> simp [h]

theorem execPrefixRelease_tidy {s : State} (h : Tidy s.tiles) (q h') : TidyOut (execPrefixRelease q h' s) := by
  unfold execPrefixRelease
  refine hostCmd_tidy h _ _ fun p => ?_
  split <;> simp [h]

theorem execVariantSet_tidy {s : State} (h : Tidy s.tiles) (q ver v) : TidyOut (execVariantSet q ver v s) := by
  unfold execVariantSet
  refine hostCmd_tidy h _ _ fun p => ?_
  dsimp only
  split
  · simp [h]
  · split <;> simp [h]

theorem execVariantClear_tidy {s : State} (h : Tidy s.tiles) (q v) : TidyOut (execVariantClear q v s) := by
  unfold execVariantClear
  refine hostCmd_tidy h _ _ fun p => ?_
  dsimp only
  split
  · simp [h]
  · split <;> simp [h]

theorem execAdmitClose_tidy {s : State} (h : Tidy s.tiles) (q) : TidyOut (execAdmitClose q s) := by
  unfold execAdmitClose
  refine hostCmd_tidy h _ _ fun p => ?_
  simp [h]

theorem execGroupId_tidy {s : State} (h : Tidy s.tiles) (q g) : TidyOut (execGroupId q g s) := by
  unfold execGroupId
  refine hostCmd_tidy h _ _ fun p => ?_
  simp [h]

theorem execGroupFound_tidy {s : State} (h : Tidy s.tiles) (q) : TidyOut (execGroupFound q s) := by
  unfold execGroupFound
  refine hostCmd_tidy h _ _ fun p => ?_
  simp [h]

theorem execGroupLeave_tidy {s : State} (h : Tidy s.tiles) (q) : TidyOut (execGroupLeave q s) := by
  refine hostCmd_tidy h _ _ fun p => ?_
  split
  · simp [h]
  · refine leaveCheck_tidy ?_
    rw [foldl_tiles _ _ _ fun s n => by split <;> simp, reroute_tiles, State.withFabric_tiles,
      foldl_tiles _ _ _ fun s n => by dsimp only; split <;> simp]
    exact h

theorem execPortEnable_tidy {s : State} (h : Tidy s.tiles) (q p) : TidyOut (execPortEnable q p s) := by
  unfold execPortEnable
  refine hostCmd_tidy h _ _ fun p => ?_
  dsimp only
  split
  · simp [h]
  · split <;> simp [h]

theorem execPortDisable_tidy {s : State} (h : Tidy s.tiles) (q p) : TidyOut (execPortDisable q p s) := by
  unfold execPortDisable
  refine hostCmd_tidy h _ _ fun p => ?_
  dsimp only
  split
  · simp [h]
  · split <;> simp [h]

theorem execPortHello_tidy {s : State} (h : Tidy s.tiles) (q p nonce) : TidyOut (execPortHello q p nonce s) := by
  unfold execPortHello
  refine hostCmd_tidy h _ _ fun p => ?_
  simp [h]

theorem execPowerLevel_tidy {s : State} (h : Tidy s.tiles) (q l) : TidyOut (execPowerLevel q l s) := by
  refine hostCmd_tidy h _ _ fun p => ?_
  dsimp only
  split
  · simpa using h
  · split
    · simpa using h
    · split
      · simp [h]
      · split
        · exact h
        · split
          · exact tidy_nil
          · simp [h]

theorem execGearLimit_tidy {s : State} (h : Tidy s.tiles) (q part g) : TidyOut (execGearLimit q part g s) := by
  unfold execGearLimit
  refine hostCmd_tidy h _ _ fun p => ?_
  simp [h]

theorem execEnergyBudget_tidy {s : State} (h : Tidy s.tiles) (q part w) : TidyOut (execEnergyBudget q part w s) := by
  unfold execEnergyBudget
  refine hostCmd_tidy h _ _ fun p => ?_
  simp [h]

theorem execBrakeTest_tidy {s : State} (h : Tidy s.tiles) (q us) : TidyOut (execBrakeTest q us s) := by
  unfold execBrakeTest
  refine hostCmd_tidy h _ _ fun p => ?_
  dsimp only
  split
  · simp [h]
  · apply brakeOn_tidy
    exact h

/-- The earliest time is abstracted: the kernel would otherwise reduce its comparison in unary. -/
theorem execSnapshotAt_tidy {s : State} (h : Tidy s.tiles) (q t mask id) : TidyOut (execSnapshotAt q t mask id s) := by
  unfold execSnapshotAt
  generalize (100000 : Nat) = soon
  split
  · exact ok_tidy h
  · refine hostCmd_tidy h _ _ fun p => ?_
    simp [h]

theorem execSnapshotMark_tidy {s : State} (h : Tidy s.tiles) (q n mask id) : TidyOut (execSnapshotMark q n mask id s) := by
  unfold execSnapshotMark
  dsimp only
  split
  · simp [h]
  · refine hostCmd_tidy h _ _ fun p => ?_
    simp [h]

theorem execCounterRead_tidy {s : State} (h : Tidy s.tiles) (q sel b) : TidyOut (execCounterRead q sel b s) := by
  unfold execCounterRead
  refine hostCmd_tidy h _ _ fun p => ?_
  dsimp only
  split
  · simp [h]
  · split <;> simp [h]

theorem execRecordRead_tidy {s : State} (h : Tidy s.tiles) (q sel b) : TidyOut (execRecordRead q sel b s) := by
  unfold execRecordRead
  refine hostCmd_tidy h _ _ fun p => ?_
  split <;> simp [h]

theorem execFaultLogRead_tidy {s : State} (h : Tidy s.tiles) (q first count b) : TidyOut (execFaultLogRead q first count b s) := by
  unfold execFaultLogRead
  refine hostCmd_tidy h _ _ fun p => ?_
  simp [h]

theorem execHistoryRead_tidy {s : State} (h : Tidy s.tiles) (q b) : TidyOut (execHistoryRead q b s) := by
  unfold execHistoryRead
  refine hostCmd_tidy h _ _ fun p => ?_
  simp [h]

theorem execAttest_tidy {s : State} (h : Tidy s.tiles) (q nonce part b) : TidyOut (execAttest q nonce part b s) := by
  unfold execAttest
  refine hostCmd_tidy h _ _ fun p => ?_
  simp [h]

theorem execMeasureRead_tidy {s : State} (h : Tidy s.tiles) (q part b) : TidyOut (execMeasureRead q part b s) := by
  unfold execMeasureRead
  refine hostCmd_tidy h _ _ fun p => ?_
  simp [h]

theorem execCertRead_tidy {s : State} (h : Tidy s.tiles) (q b) : TidyOut (execCertRead q b s) := by
  unfold execCertRead
  refine hostCmd_tidy h _ _ fun p => ?_
  simp [h]

theorem execConfigUpdate_tidy {s : State} (h : Tidy s.tiles) (q c) : TidyOut (execConfigUpdate q c s) := by
  unfold execConfigUpdate
  refine hostCmd_tidy h _ _ fun p => ?_
  dsimp only
  split <;> simp [h]

theorem execUndefinedCommand_tidy {s : State} (h : Tidy s.tiles) (q opc) : TidyOut (execUndefinedCommand q opc s) := by
  unfold execUndefinedCommand
  apply ok_tidy
  split <;> simp [h]

theorem execSqTailDoorbell_tidy {s : State} (h : Tidy s.tiles) (fn n ix w32) : TidyOut (execSqTailDoorbell fn n ix w32 s) := by
  unfold execSqTailDoorbell
  apply ok_tidy
  dsimp only
  split
  · exact h
  · split <;> simp [h]

theorem execSubmissionFetch_tidy {s : State} (h : Tidy s.tiles) (q e t) : TidyOut (execSubmissionFetch q e t s) := by
  unfold execSubmissionFetch
  apply ok_tidy
  dsimp only
  split <;> simp [h]

theorem execCqHeadDoorbell_tidy {s : State} (h : Tidy s.tiles) (fn n ix w32) : TidyOut (execCqHeadDoorbell fn n ix w32 s) := by
  unfold execCqHeadDoorbell
  apply ok_tidy
  dsimp only
  split
  · exact h
  · split <;> simp [h]

theorem execEventHeadDoorbell_tidy {s : State} (h : Tidy s.tiles) (fn ix w32) :
    TidyOut (execEventHeadDoorbell fn ix w32 s) := by simp [execEventHeadDoorbell, h]

theorem execCompletionPost_tidy {s : State} (h : Tidy s.tiles) (fn n t) :
    TidyOut (execCompletionPost fn n t s) := by simp [execCompletionPost, h]

theorem execAdminQueueEnable_tidy {s : State} (h : Tidy s.tiles) (fn v) :
    TidyOut (execAdminQueueEnable fn v s) := by simp [execAdminQueueEnable, h]

theorem execLoadImage_tidy {s : State} (h : Tidy s.tiles) (img t) : TidyOut (execLoadImage img t s) := by
  unfold execLoadImage
  apply ok_tidy
  dsimp only
  split
  · exact h
  · refine atTime_tidy h _ fun s h => ?_
    simp [h]

theorem execReadBootlog_tidy {s : State} (h : Tidy s.tiles) : TidyOut (execReadBootlog s) := by simp [execReadBootlog, h]
theorem execBar2Read_tidy {s : State} (h : Tidy s.tiles) (x l) : TidyOut (execBar2Read x l s) := by simp [execBar2Read, h]

theorem execBar2Write_tidy {s : State} (h : Tidy s.tiles) (x data) : TidyOut (execBar2Write x data s) := by
  unfold execBar2Write
  rw [tidyOut_ite]
  refine ⟨fun _ => tidyOut_fault _, fun _ => ?_⟩
  rw [tidyOut_ok]
  refine tidy_of_ite h ?_
  extract_lets a hit b
  refine tidy_of_ite ?_ ?_
  · rw [addCtr_tiles]
    exact h
  · rw [State.withT2_tiles]
    exact h

theorem execRegisterWrite_tidy {s : State} (h : Tidy s.tiles) (fn f) : TidyOut (execRegisterWrite fn f s) := by
  unfold execRegisterWrite
  apply ok_tidy
  dsimp only
  split
  · exact h
  · exact h
  · split
    · exact h
    · split <;> simp [h]

theorem execFunctionLevelReset_tidy {s : State} (h : Tidy s.tiles) (fn t) : TidyOut (execFunctionLevelReset fn t s) := by
  unfold execFunctionLevelReset
  rw [tidyOut_ok]
  split
  · exact h
  · refine atTime_tidy h _ fun s h => ?_
    have halted := updTiles_tidy h fn (f := fun _ => haltTile) fun _ _ hx => haltTile_ok hx
    simp [halted]

theorem execAtsInvalidation_tidy {s : State} (h : Tidy s.tiles) (fn pasid page) :
    TidyOut (execAtsInvalidation fn pasid page s) := by simp [execAtsInvalidation, h]

theorem execI3cIndexWrite_tidy {s : State} (h : Tidy s.tiles) (b) : TidyOut (execI3cIndexWrite b s) := by
  unfold execI3cIndexWrite
  apply i3c_tidy
  exact h

theorem execI3cRead_tidy {s : State} (h : Tidy s.tiles) (n) : TidyOut (execI3cRead n s) := by
  unfold execI3cRead
  apply i3c_tidy
  exact h

theorem execAlertFlagClear_tidy {s : State} (h : Tidy s.tiles) (v) : TidyOut (execAlertFlagClear v s) := by
  unfold execAlertFlagClear
  apply i3c_tidy
  exact h

theorem execI3cEntdaa_tidy {s : State} (h : Tidy s.tiles) (addr) : TidyOut (execI3cEntdaa addr s) := by
  unfold execI3cEntdaa
  apply i3c_tidy
  exact h

theorem execI3cSetdasa_tidy {s : State} (h : Tidy s.tiles) (addr) : TidyOut (execI3cSetdasa addr s) := by
  unfold execI3cSetdasa
  apply i3c_tidy
  exact h

theorem execI3cRstdaa_tidy {s : State} (h : Tidy s.tiles) : TidyOut (execI3cRstdaa s) := by
  unfold execI3cRstdaa
  apply i3c_tidy
  exact h

theorem execI3cGetpid_tidy {s : State} (h : Tidy s.tiles) : TidyOut (execI3cGetpid s) := by
  unfold execI3cGetpid
  apply i3c_tidy
  exact h

theorem execI3cGetbcr_tidy {s : State} (h : Tidy s.tiles) : TidyOut (execI3cGetbcr s) := by
  unfold execI3cGetbcr
  apply i3c_tidy
  exact h

theorem execI3cGetdcr_tidy {s : State} (h : Tidy s.tiles) : TidyOut (execI3cGetdcr s) := by
  unfold execI3cGetdcr
  apply i3c_tidy
  exact h

theorem execI3cGetstatus_tidy {s : State} (h : Tidy s.tiles) : TidyOut (execI3cGetstatus s) := by
  unfold execI3cGetstatus
  apply i3c_tidy
  exact h

theorem execI3cGetmwl_tidy {s : State} (h : Tidy s.tiles) : TidyOut (execI3cGetmwl s) := by
  unfold execI3cGetmwl
  apply i3c_tidy
  exact h

theorem execI3cGetmrl_tidy {s : State} (h : Tidy s.tiles) : TidyOut (execI3cGetmrl s) := by
  unfold execI3cGetmrl
  apply i3c_tidy
  exact h

theorem execI3cEnec_tidy {s : State} (h : Tidy s.tiles) : TidyOut (execI3cEnec s) := by
  unfold execI3cEnec
  apply i3c_tidy
  exact h

theorem execI3cDisec_tidy {s : State} (h : Tidy s.tiles) : TidyOut (execI3cDisec s) := by
  unfold execI3cDisec
  apply i3c_tidy
  exact h

theorem execTapIdcode_tidy {s : State} (h : Tidy s.tiles) : TidyOut (execTapIdcode s) := by simp [execTapIdcode, h]
theorem execTapBypass_tidy {s : State} (h : Tidy s.tiles) (bits) : TidyOut (execTapBypass bits s) := by simp [execTapBypass, h]

theorem execTapSamplePreload_tidy {s : State} (h : Tidy s.tiles) (bits) :
    TidyOut (execTapSamplePreload bits s) := by simp [execTapSamplePreload, h]

theorem execTapExtest_tidy {s : State} (h : Tidy s.tiles) (bits) : TidyOut (execTapExtest bits s) := by simp [execTapExtest, h]

theorem execTapDebugUnlock_tidy {s : State} (h : Tidy s.tiles) (good t) :
    TidyOut (execTapDebugUnlock good t s) := by simp [execTapDebugUnlock, h]

theorem execTapPrivateDebug_tidy {s : State} (h : Tidy s.tiles) (a) :
    TidyOut (execTapPrivateDebug a s) := by simp [execTapPrivateDebug, h]

theorem execHeartbeatWrite_tidy {s : State} (h : Tidy s.tiles) (core t) : TidyOut (execHeartbeatWrite core t s) := by
  unfold execHeartbeatWrite
  apply ok_tidy
  dsimp only
  split
  · exact h
  · refine atTime_tidy h _ fun s h => ?_
    exact h

theorem execPowerInputRise_tidy {s : State} (h : Tidy s.tiles) (mv straps t) :
    TidyOut (execPowerInputRise mv straps t s) := by simp [execPowerInputRise, h]

theorem execPowerLoss_tidy {s : State} (h : Tidy s.tiles) (d t) : TidyOut (execPowerLoss d t s) := by
  unfold execPowerLoss
  apply ok_tidy
  split
  · exact h
  · refine atTime_tidy h _ fun s h => ?_
    simp

theorem execDistaffRailLoss_tidy {s : State} (h : Tidy s.tiles) (mv t) : TidyOut (execDistaffRailLoss mv t s) := by
  unfold execDistaffRailLoss
  apply ok_tidy
  dsimp only
  split
  · exact h
  · refine atTime_tidy h _ fun s h => ?_
    simp

theorem execPresenceOpen_tidy {s : State} (h : Tidy s.tiles) (second t) : TidyOut (execPresenceOpen second t s) := by
  unfold execPresenceOpen
  rw [tidyOut_ok]
  exact tidy_of_ite h (atTime_tidy h _ fun s h => tidy_of_ite h (powerLost_tidy _))

theorem execPerstAssert_tidy {s : State} (h : Tidy s.tiles) (ns t) : TidyOut (execPerstAssert ns t s) := by
  unfold execPerstAssert
  rw [tidyOut_ok]
  refine tidy_of_ite h (atTime_tidy h _ fun s h => tidy_of_ite h ?_)
  rw [setLevel_tiles]
  exact regear_tidy (by rw [hubLost_tiles]; exact tidy_nil)

theorem execPerstRelease_tidy {s : State} (h : Tidy s.tiles) (p t) : TidyOut (execPerstRelease p t s) := by
  unfold execPerstRelease
  rw [tidyOut_ok]
  refine tidy_of_ite h (atTime_tidy h _ fun s h => ?_)
  extract_lets i1 s1 w2 s2 b3 s3 good fatal b4
  have dead (s : State) (err : Nat) : Tidy (fatal s err).tiles := by
    simp only [fatal, State.withBoot_tiles, moduleFatal_tidy]
  refine tidy_of_ite (moduleFatal_tidy ..) ?_
  split
  · exact dead ..
  · extract_lets s4 b5 s5 hist valid b6 l s6 s7 i8 s8 b9
    refine tidy_of_ite (dead ..) (tidy_of_ite (moduleFatal_tidy ..) ?_)
    have repaired : s7.tiles = s.tiles := by
      simp only [s7]
      rw [bootLog_tiles, foldl_tiles _ _ _ fun s n => bootLog_tiles .., applyMap_tiles, countSpares_tiles]
      simp only [s5, s4, s3, s2, s1, State.withBoot_tiles, State.withPower_tiles, State.withIo_tiles]
    rw [State.withBoot_tiles, State.withIo_tiles, repaired]
    exact h

theorem execT2InitComplete_tidy {s : State} (h : Tidy s.tiles) (e) : TidyOut (execT2InitComplete e s) := by
  unfold execT2InitComplete
  apply ok_tidy
  dsimp only
  split
  · exact h
  · refine atTime_tidy h _ fun s h => ?_
    simp [h]

theorem execPcieLinkDown_tidy {s : State} (h : Tidy s.tiles) (d) : TidyOut (execPcieLinkDown d s) := by
  unfold execPcieLinkDown
  rw [tidyOut_ok]
  split
  · exact h
  · refine atTime_tidy h _ fun s h => ?_
    have halted := tidy_map h (f := fun _ => haltTile) fun _ _ hx => haltTile_ok hx
    simp [h, halted]

theorem execPcieLinkUp_tidy {s : State} (h : Tidy s.tiles) (t) : TidyOut (execPcieLinkUp t s) := by
  unfold execPcieLinkUp
  apply ok_tidy
  dsimp only
  split
  · exact h
  · refine atTime_tidy h _ fun s h => ?_
    split
    · refine deviceReset_tidy ?_ _ _ _ _ (fun s h => ?_) _ _
      · exact h
      · exact h
    · exact h

theorem execPwrbrkAssert_tidy {s : State} (h : Tidy s.tiles) (ns t) : TidyOut (execPwrbrkAssert ns t s) := by
  unfold execPwrbrkAssert
  apply ok_tidy
  dsimp only
  split
  · exact h
  · refine atTime_tidy h _ fun s h => ?_
    simp [h]

theorem execPwrbrkRelease_tidy {s : State} (h : Tidy s.tiles) (t) : TidyOut (execPwrbrkRelease t s) := by
  unfold execPwrbrkRelease
  apply ok_tidy
  dsimp only
  split
  · exact h
  · refine atTime_tidy h _ fun s h => ?_
    simp [h]

theorem execBrakeTestEnd_tidy {s : State} (h : Tidy s.tiles) (t) : TidyOut (execBrakeTestEnd t s) := by
  unfold execBrakeTestEnd
  apply ok_tidy
  dsimp only
  split
  · exact h
  · split
    · exact h
    · refine atTime_tidy h _ fun s h => ?_
      simp [h]

theorem execTbSyncInPulse_tidy {s : State} (h : Tidy s.tiles) (t) :
    TidyOut (execTbSyncInPulse t s) := by simp [execTbSyncInPulse, h]

theorem execTbSyncOutPulse_tidy {s : State} (h : Tidy s.tiles) (t) :
    TidyOut (execTbSyncOutPulse t s) := by simp [execTbSyncOutPulse, h]

theorem execTimingBeaconExchange_tidy {s : State} (h : Tidy s.tiles) (port t1 t2 t3 t4 x) :
    TidyOut (execTimingBeaconExchange port t1 t2 t3 t4 x s) := by simp [execTimingBeaconExchange, h]

theorem execSensorSample_tidy {s : State} (h : Tidy s.tiles) (xs mv t) : TidyOut (execSensorSample xs mv t s) := by
  unfold execSensorSample
  apply ok_tidy
  dsimp only
  split
  · exact h
  · refine atTime_tidy h _ fun s h => ?_
    simp [h]

/-- What a step of the gear caps does: down where its time has come, then up where it has. -/
def gearStep (dn up : Bool) (s : State) : State :=
  let w := s.power
  let s := if dn then
      (List.range 24).foldl (fun s g => if setHas w.limHeat g then groupStep s g true else s)
        (if w.limCur then currentStep s true else s)
    else s
  let s := if up then
      (List.range 24).foldl (fun s g => if setHas w.limHeat g then s else groupStep s g false)
        (if w.limCur then s else currentStep s false)
    else s
  capsChanged (s.withPower { s.power with
    capStep := if dn then s.time.now else w.capStep, capRise := if up then s.time.now else w.capRise })

theorem execGearCapStep_eq (t : Word64) (s : State) : execGearCapStep t s = ok (if !distaffUp s then s
    else if !decide (s.power.capStep.toNat + 100000 ≤ t.toNat) ∧ !decide (s.power.capRise.toNat + 1000000 ≤ t.toNat) then s
    else atTime s t (gearStep (decide (s.power.capStep.toNat + 100000 ≤ t.toNat))
      (decide (s.power.capRise.toNat + 1000000 ≤ t.toNat)))) := rfl

theorem gearStep_tidy {s : State} (h : Tidy s.tiles) (dn up) : Tidy (gearStep dn up s).tiles := by
  unfold gearStep
  simp [h]

theorem execGearCapStep_tidy {s : State} (h : Tidy s.tiles) (t) : TidyOut (execGearCapStep t s) := by
  rw [execGearCapStep_eq, tidyOut_ok]
  exact tidy_of_ite h (tidy_of_ite h (atTime_tidy h _ fun s h => gearStep_tidy h _ _))

theorem execThermalTrip_tidy {s : State} (h : Tidy s.tiles) (t) : TidyOut (execThermalTrip t s) := by
  unfold execThermalTrip
  apply ok_tidy
  dsimp only
  split
  · exact h
  · split
    · exact h
    · refine atTime_tidy h _ fun s h => ?_
      simp

theorem execWatchdogExpiry_tidy {s : State} (h : Tidy s.tiles) (core t) : TidyOut (execWatchdogExpiry core t s) := by
  unfold execWatchdogExpiry
  apply ok_tidy
  dsimp only
  split
  · exact h
  · refine atTime_tidy h _ fun s h => ?_
    split
    · simp
    · refine deviceReset_tidy ?_ _ _ _ _ (fun s h => ?_) _ _
      · simp [h]
      · exact h

theorem execDeviceFault_tidy {s : State} (h : Tidy s.tiles) (c t) : TidyOut (execDeviceFault c t s) := by
  unfold execDeviceFault
  apply ok_tidy
  dsimp only
  split
  · exact h
  · split
    · refine atTime_tidy h _ fun s h => ?_
      refine deviceReset_tidy ?_ _ _ _ _ (fun s h => ?_) _ _
      · exact h
      · exact h
    · refine atTime_tidy h _ fun s h => ?_
      refine deviceReset_tidy ?_ _ _ _ _ (fun s h => ?_) _ _
      · exact h
      · simp [h]
    · refine atTime_tidy h _ fun s h => ?_
      refine deviceReset_tidy ?_ _ _ _ _ (fun s h => ?_) _ _
      · exact h
      · simp [h]
    · refine atTime_tidy h _ fun s h => ?_
      refine deviceReset_tidy ?_ _ _ _ _ (fun s h => ?_) _ _
      · exact h
      · simp [h]
    · refine atTime_tidy h _ fun s h => ?_
      refine deviceReset_tidy ?_ _ _ _ _ (fun s h => ?_) _ _
      · exact h
      · simp [h]
    · refine atTime_tidy h _ fun s h => ?_
      refine deviceReset_tidy ?_ _ _ _ _ (fun s h => ?_) _ _
      · exact h
      · exact h
    · exact h
    · exact h

theorem mapSet_ne_nil {α : Type} [DecidableEq α] {d v : α} (h : v ≠ d) (m : Map α) (i : Nat) : mapSet d m i v ≠ [] := by
  cases m with
  | nil => simp [mapSet, h]
  | cons e m =>
    unfold mapSet
    split
    · simp
    · split <;> simp

theorem mapWf_mapPut {α : Type} [DecidableEq α] {d v : α} {m : Map α} (h : mapWf d m = true) (i : Nat) (hv : v ≠ d) :
    mapWf d (mapPut m i v) = true := by
  obtain ⟨rise, listed⟩ := (mapWf_iff _ _).1 h
  refine (mapWf_iff _ _).2 ⟨keysRise_mapPut m i v rise, fun e he => ?_⟩
  rcases mem_mapPut he with rfl | he
  · exact hv
  · exact listed e he

theorem poisonElem_ok {t : Tile} (h : TileOk t) (r n a : Nat) :
    TileOk { t with tregs := mapPut t.tregs r { treg t r with pois := tagPut (treg t r).pois n (tagAtAddr a) } } := by
  obtain ⟨sregs, sems, t0, pois, tregs, rest⟩ := h
  refine ⟨sregs, sems, t0, pois, mapWf_mapPut tregs r fun e => ?_, rest⟩
  exact mapSet_ne_nil (d := 0) (v := tagAtAddr a) (Nat.succ_ne_zero a) (treg t r).pois n (congrArg TReg.pois e)

theorem execTileFailurePrediction_tidy {s : State} (h : Tidy s.tiles) (tile e) : TidyOut (execTileFailurePrediction tile e s) := by
  unfold execTileFailurePrediction
  rw [tidyOut_ok]
  refine tidy_of_ite h (atTime_tidy h _ fun s h => ?_)
  extract_lets x d g
  have hx : TileOk x := h.raw tile
  have drawn : Tidy d.2.tiles := by rw [drawFree_tiles]; exact h
  split
  · refine tidy_of_ite h (tileErr_tidy h _ ?_)
    obtain ⟨sregs, sems, t0, pois, rest⟩ := hx
    exact ⟨sregs, sems, t0, tagRange_wf _ _ _ _ pois, rest⟩
  · exact tidy_of_ite h (tileErr_tidy drawn _ (poisonElem_ok hx ..))
  · exact setTileRaw_tidy h _ (taintQueue_ok hx ..)
  · exact tidy_of_ite h (setTileRaw_tidy drawn _ hx)
  · exact tidy_of_ite h (by simpa using h)
  · exact tidy_of_ite h (by simpa using h)
  · exact tidy_of_ite h (by simpa using h)

theorem execStoreBankSpare_tidy {s : State} (h : Tidy s.tiles) (die bank t) :
    TidyOut (execStoreBankSpare die bank t s) := by simp [execStoreBankSpare, h]

theorem execPackagePrediction_tidy {s : State} (h : Tidy s.tiles) (pkg rule t) :
    TidyOut (execPackagePrediction pkg rule t s) := by simp [execPackagePrediction, h]

theorem execMigrationCopyDone_tidy {s : State} (h : Tidy s.tiles) (t) : TidyOut (execMigrationCopyDone t s) := by
  unfold execMigrationCopyDone
  apply ok_tidy
  dsimp only
  split <;> simp [h]

theorem execScrubPass_tidy {s : State} (h : Tidy s.tiles) (x t) : TidyOut (execScrubPass x t s) := by
  unfold execScrubPass
  apply ok_tidy
  dsimp only
  split
  · exact h
  · refine atTime_tidy h _ fun s h => ?_
    split
    · refine deviceReset_tidy ?_ _ _ _ _ (fun s h => ?_) _ _
      · simp [h]
      · exact h
    · simp [h]

theorem execLi_tidy {s : State} (h : Tidy s.tiles) (a w) : TidyOut (execLi a w s) := by simp [execLi, h]
theorem execLih_tidy {s : State} (h : Tidy s.tiles) (a w) : TidyOut (execLih a w s) := by simp [execLih, h]
theorem execAdd_tidy {s : State} (h : Tidy s.tiles) (a w) : TidyOut (execAdd a w s) := by simp [execAdd, h]
theorem execSub_tidy {s : State} (h : Tidy s.tiles) (a w) : TidyOut (execSub a w s) := by simp [execSub, h]
theorem execMul_tidy {s : State} (h : Tidy s.tiles) (a w) : TidyOut (execMul a w s) := by simp [execMul, h]
theorem execAnd_tidy {s : State} (h : Tidy s.tiles) (a w) : TidyOut (execAnd a w s) := by simp [execAnd, h]
theorem execOr_tidy {s : State} (h : Tidy s.tiles) (a w) : TidyOut (execOr a w s) := by simp [execOr, h]
theorem execXor_tidy {s : State} (h : Tidy s.tiles) (a w) : TidyOut (execXor a w s) := by simp [execXor, h]
theorem execShl_tidy {s : State} (h : Tidy s.tiles) (a w) : TidyOut (execShl a w s) := by simp [execShl, h]
theorem execShr_tidy {s : State} (h : Tidy s.tiles) (a w) : TidyOut (execShr a w s) := by simp [execShr, h]

theorem execLoop_tidy {s : State} (h : Tidy s.tiles) (a w) : TidyOut (execLoop a w s) := by
  unfold execLoop
  rw [tidyOut_ok]
  split
  · exact h
  · extract_lets t len n
    have ht : TileOk t := h.at ..
    refine tidy_of_ite (tileFault_tidy h ..) (tidy_of_ite ?_ ?_)
    · exact seqPass_tidy (setTile_tidy h _ _ (stepPc_ok ht _)) a
    · exact seqPass_tidy (setTile_tidy h _ _ (x := { t with pc := t.pc + 1, loops := ⟨t.pc + 1, len, n⟩ :: t.loops }) ht) a

theorem execQcnt_tidy {s : State} (h : Tidy s.tiles) (a w) : TidyOut (execQcnt a w s) := by simp [execQcnt, h]
theorem execTbase_tidy {s : State} (h : Tidy s.tiles) (a w) : TidyOut (execTbase a w s) := by simp [execTbase, h]
theorem execTileid_tidy {s : State} (h : Tidy s.tiles) (a w) : TidyOut (execTileid a w s) := by simp [execTileid, h]

theorem execReservedOpcodeWord_tidy {s : State} (h : Tidy s.tiles) (a raw) : TidyOut (execReservedOpcodeWord a raw s) := by
  unfold execReservedOpcodeWord
  apply ok_tidy
  split <;> simp [h]

theorem execSignal_tidy {s : State} (h : Tidy s.tiles) (a w) : TidyOut (execSignal a w s) := by
  unfold execSignal
  rw [tidyOut_ok]
  refine syncWord_tidy h _ _ _ fun x => tidy_of_ite (tileFaultSem_tidy h ..) (tidy_of_ite h ?_)
  have sent := updTile_tidy h a.part (signalTarget a w) (f := fun u : Tile =>
    { u with sigin := u.sigin ++ [⟨w.sem.toNat, w.arg.toNat, a.tile, syncQ w⟩] }) fun _ hx => hx
  exact finishWord_tidy sent _ _ (sent.at ..)

theorem execSignalArrival_tidy {s : State} (h : Tidy s.tiles) (a n) : TidyOut (execSignalArrival a n s) := by
  unfold execSignalArrival
  rw [tidyOut_ok]
  extract_lets t
  have ht : TileOk t := h.at ..
  split
  · exact h
  · refine tidy_of_ite h (tidy_of_ite ?_ (setTile_tidy h _ _ (setSem_ok (t := { t with sigin := t.sigin.eraseIdx n }) ht _ _)))
    extract_lets seg
    exact raiseFaults_tidy (by rw [eitherOf_tiles]; exact h) ..

theorem execWait_tidy {s : State} (h : Tidy s.tiles) (a w) : TidyOut (execWait a w s) := by
  unfold execWait
  rw [tidyOut_ok]
  refine syncWord_tidy h _ _ _ fun x => ?_
  extract_lets t n c
  have ht : TileOk t := h.at ..
  exact tidy_of_ite (finishWord_tidy h _ _ (setSem_ok ht _ _)) (setTile_tidy h _ _ ht)

theorem execWaitSatisfied_tidy {s : State} (h : Tidy s.tiles) (a q) : TidyOut (execWaitSatisfied a q s) := by
  unfold execWaitSatisfied
  rw [tidyOut_ok]
  extract_lets t
  split
  · exact h
  · exact tidy_of_ite (finishWord_tidy (by rw [countWait_tiles]; exact h) _ _ (setSem_ok (h.at ..) _ _)) h

theorem execWaitTimeout_tidy {s : State} (h : Tidy s.tiles) (a q) : TidyOut (execWaitTimeout a q s) := by
  unfold execWaitTimeout
  apply ok_tidy
  dsimp only
  split
  · exact h
  · split
    · exact h
    · split <;> simp [h]

theorem execTake_tidy {s : State} (h : Tidy s.tiles) (a w) : TidyOut (execTake a w s) := by
  unfold execTake
  rw [tidyOut_ok]
  refine syncWord_tidy h _ _ _ fun w => tidy_of_ite ?_ (finishWord_tidy h _ _ (setSem_ok (h.at ..) _ _))
  exact tileFaultSem_tidy (by rw [eitherOf_tiles]; exact h) ..

theorem execMark_tidy {s : State} (h : Tidy s.tiles) (a w) : TidyOut (execMark a w s) := by
  unfold execMark
  rw [tidyOut_ok]
  refine syncWord_tidy h _ _ _ fun w => ?_
  extract_lets t s1
  have ht : TileOk t := h.at ..
  exact finishWord_tidy (s := s1) (by rw [markHit_tiles]; exact h) _ _ ht

theorem execSegend_tidy {s : State} (h : Tidy s.tiles) (a w) : TidyOut (execSegend a w s) := by
  unfold execSegend
  rw [tidyOut_ok]
  refine syncWord_tidy h _ _ _ fun x => ?_
  extract_lets t q id here s1 fin
  have ht : TileOk t := h.at ..
  have done : Tidy s1.tiles := tidy_of_ite (by rw [readersDone_tiles]; exact h) h
  have ended (y : Tile) (hy : TileOk y) : Tidy (fin y).tiles := by
    dsimp only [fin]
    refine tidy_of_ite (setTile_tidy done _ _ ?_) (seqPass_tidy (setTile_tidy done _ _ (setQueue_ok ?_ _ _)) a)
    · exact hy
    · exact hy
  refine tidy_of_ite (tileFault_tidy h ..) <| tidy_of_ite (tidy_of_ite (ended t ht) (tileFault_tidy h ..)) <| tidy_of_ite ?_ <|
    tidy_of_ite ?_ (ended t ht)
  · split
    · exact tileFault_tidy h ..
    · exact ended t ht
  · refine tidy_of_ite h ?_
    split
    · exact tileFault_tidy h ..
    · rw [sweepInvals_tiles]
      exact ended _ (closeRings_ok ht)

theorem execSegmentCommit_tidy {s : State} (h : Tidy s.tiles) (part seg step t) :
    TidyOut (execSegmentCommit part seg step t s) := by
  unfold execSegmentCommit
  apply ok_tidy
  dsimp only
  split
  · split
    · split
      · exact h
      · refine atTime_tidy h _ fun s h => ?_
        split
        · simp [h]
        · split
          · simp [h]
          · split
            · simp [h]
            · apply schedule_tidy
              apply turnLoop_tidy
              apply settleTry_tidy
              simp [h]
    · exact h
  · exact h

theorem execEnergyWindowStart_tidy {s : State} (h : Tidy s.tiles) (t) : TidyOut (execEnergyWindowStart t s) := by
  unfold execEnergyWindowStart
  apply ok_tidy
  dsimp only
  split
  · refine atTime_tidy h _ fun s h => ?_
    apply schedule_tidy
    exact h
  · exact h

theorem execMxseta_tidy {s : State} (h : Tidy s.tiles) (a w) : TidyOut (execMxseta a w s) := by
  unfold execMxseta
  rw [tidyOut_ok]
  refine mxWord_tidy h _ _ fun w => ?_
  extract_lets t
  have ht : TileOk t := h.at ..
  exact finishWord_tidy h _ _ ht

theorem execMxsetb_tidy {s : State} (h : Tidy s.tiles) (a w) : TidyOut (execMxsetb a w s) := by
  unfold execMxsetb
  rw [tidyOut_ok]
  refine mxWord_tidy h _ _ fun w => ?_
  extract_lets t
  have ht : TileOk t := h.at ..
  exact finishWord_tidy h _ _ ht

theorem execMxsetd_tidy {s : State} (h : Tidy s.tiles) (a w) : TidyOut (execMxsetd a w s) := by
  unfold execMxsetd
  rw [tidyOut_ok]
  refine mxWord_tidy h _ _ fun w => ?_
  extract_lets t
  have ht : TileOk t := h.at ..
  exact finishWord_tidy h _ _ ht

theorem execMxsets_tidy {s : State} (h : Tidy s.tiles) (a w) : TidyOut (execMxsets a w s) := by
  unfold execMxsets
  rw [tidyOut_ok]
  refine mxWord_tidy h _ _ fun w => ?_
  extract_lets t f
  have ht : TileOk t := h.at ..
  refine finishWord_tidy h _ _ ?_
  split
  · exact ht
  · split
    · exact ht
    · exact ht

theorem execMxorg_tidy {s : State} (h : Tidy s.tiles) (a w) : TidyOut (execMxorg a w s) := by
  unfold execMxorg
  rw [tidyOut_ok]
  exact mxWord_tidy h _ _ fun w => tidy_of_ite (heldFault_tidy h ..) (finishWord_tidy h _ _ (setTreg_ok (h.at ..) _ _))

theorem execMxmul_tidy {s : State} (h : Tidy s.tiles) (a w) : TidyOut (execMxmul a w s) := by
  unfold execMxmul
  rw [tidyOut_ok]
  refine mxWord_tidy h _ _ fun x => ?_
  extract_lets t r sh fm fmode
  have ht : TileOk t := h.at ..
  split
  · exact canonFault_tidy h ..
  · refine tidy_of_ite (canonFault_tidy h ..) (tidy_of_ite (tidy_of_ite (slotFault_tidy h ..) (slotFault_tidy h ..)) ?_)
    split
    · refine tidy_of_ite h ?_
      extract_lets sa reg
      exact setTile_tidy h _ _ (useSlot_ok (useSlot_ok ht _) _)
    · exact slotFault_tidy h ..
    · exact blockOnRings_tidy h ..
    · exact slotFault_tidy h ..

theorem execMxdelta_tidy {s : State} (h : Tidy s.tiles) (a w) : TidyOut (execMxdelta a w s) := by
  unfold execMxdelta
  rw [tidyOut_ok]
  refine mxWord_tidy h _ _ fun x => ?_
  extract_lets t r
  have ht : TileOk t := h.at ..
  split
  · exact canonFault_tidy h ..
  · extract_lets x rows
    refine tidy_of_ite (canonFault_tidy h ..) ?_
    split
    · exact tileFault_tidy h ..
    · split
      · refine tidy_of_ite h ?_
        extract_lets sel g' x'
        exact setTile_tidy h _ _ (useSlot_ok ht _)
      · exact slotFault_tidy h ..

theorem execMxfin_tidy {s : State} (h : Tidy s.tiles) (a w) : TidyOut (execMxfin a w s) := by
  unfold execMxfin
  rw [tidyOut_ok]
  refine mxWord_tidy h _ _ fun w => ?_
  extract_lets t
  have ht : TileOk t := h.at ..
  split
  · exact heldFault_tidy h ..
  · exact tidy_of_ite h (finishWord_tidy h _ _ ht)

theorem execEwhead_tidy {s : State} (h : Tidy s.tiles) (a w) : TidyOut (execEwhead a w s) := by
  unfold execEwhead
  rw [tidyOut_ok]
  split
  · exact h
  · extract_lets t
    have ht : TileOk t := h.at ..
    split
    · exact chainFault_tidy h ..
    · exact tidy_of_ite (chainFault_tidy h ..) (finishWord_tidy h _ _ ht)

theorem execEworg_tidy {s : State} (h : Tidy s.tiles) (a w) : TidyOut (execEworg a w s) := by simp [execEworg, h]
theorem execEwsrc_tidy {s : State} (h : Tidy s.tiles) (a w) : TidyOut (execEwsrc a w s) := by simp [execEwsrc, h]
theorem execEwop_tidy {s : State} (h : Tidy s.tiles) (a w) : TidyOut (execEwop a w s) := by simp [execEwop, h]
theorem execEwdst_tidy {s : State} (h : Tidy s.tiles) (a w) : TidyOut (execEwdst a w s) := by simp [execEwdst, h]

theorem execChainStart_tidy {s : State} (h : Tidy s.tiles) (a) : TidyOut (execChainStart a s) := by
  unfold execChainStart
  rw [tidyOut_ok]
  extract_lets t ts
  have ht : TileOk t := h.at ..
  split
  · exact h
  · refine tidy_of_ite h ?_
    extract_lets form bars sb db bars2 p t2
    refine tidy_of_ite ?_ ?_
    · split
      · exact raiseBar_tidy h ..
      · exact h
    · split
      · exact raiseBar_tidy h ..
      · have used : TileOk t2 := foldl_inv TileOk ht _ fun x e hx => useHead_ok hx _
        exact setTile_tidy h _ _ used

theorem execChainComplete_tidy {s : State} (h : Tidy s.tiles) (a) : TidyOut (execChainComplete a s) := by
  unfold execChainComplete
  rw [tidyOut_ok]
  extract_lets t
  have ht : TileOk t := h.at ..
  split
  · exact h
  · refine tidy_of_ite h ?_
    split
    · exact poisonFault_tidy h ..
    · extract_lets t1 t2 t3 t4 s1 s2
      have written : TileOk t1 := foldl_inv TileOk (x := { t with chPend := none }) ht _ fun x e hx => applyWrite_ok hx e
      have popped : TileOk t3 := popHeads_ok (x := t2) written _
      have tailed : TileOk t4 := foldl_inv TileOk popped _ fun x e hx => setRing_ok hx _ _
      have counted : Tidy s1.tiles := by rw [addCtr_tiles]; exact setTile_tidy h _ _ tailed
      have sent : Tidy s2.tiles := foldl_tidy counted _ fun s n h => tidy_of_ite (sendTail_tidy h ..) h
      exact tidy_of_ite sent (tidy_of_ite (tileFault_tidy sent ..) sent)

theorem withEwf_ok {t : Tile} (h : TileOk t) (f : BitVec 7) : TileOk { t with ewf := f } := h

theorem execEwflag_tidy {s : State} (h : Tidy s.tiles) (a w) : TidyOut (execEwflag a w s) := by
  unfold execEwflag
  rw [tidyOut_ok]
  split
  · exact h
  · extract_lets t b
    have ht : TileOk t := h.at ..
    split
    · exact chainFault_tidy h ..
    · refine tidy_of_ite (t0Extent_tidy h ..) (finishWord_tidy h _ _ ?_)
      have stored (v : Nat) (bad : Tag) : TileOk (t0Write t b (leBytes 8 v) bad) := t0Write_ok ht ..
      split
      · exact withEwf_ok (stored ..) 0
      · exact stored ..

theorem execEwsamp_tidy {s : State} (h : Tidy s.tiles) (a w) : TidyOut (execEwsamp a w s) := by
  unfold execEwsamp
  rw [tidyOut_ok]
  split
  · exact h
  · extract_lets t b d n
    have ht : TileOk t := h.at ..
    split
    · exact chainFault_tidy h ..
    · exact tidy_of_ite (t0Extent_tidy h ..) <| tidy_of_ite (t0Extent_tidy h ..) <| tidy_of_ite (poisonFault_tidy h ..)
        (setTile_tidy h _ _ ht)

theorem execSamplePartAccept_tidy {s : State} (h : Tidy s.tiles) (a) : TidyOut (execSamplePartAccept a s) := by
  unfold execSamplePartAccept
  rw [tidyOut_ok]
  extract_lets t
  have ht : TileOk t := h.at ..
  split
  · exact h
  · refine tidy_of_ite h (tidy_of_ite (tileFault_tidy h ..) ?_)
    split
    · exact finishWord_tidy (by rw [State.withSamp_tiles]; exact h) _ _ ht
    · exact tidy_of_ite (tileFault_tidy h ..) (tidy_of_ite h (finishWord_tidy (by rw [State.withSamp_tiles]; exact h) _ _ ht))

theorem withSigin_ok {t : Tile} (h : TileOk t) (l : List Sig) : TileOk { t with sigin := l } := h

theorem execSampleDraw_tidy {s : State} (h : Tidy s.tiles) (die n) : TidyOut (execSampleDraw die n s) := by
  unfold execSampleDraw
  rw [tidyOut_ok]
  split
  · exact h
  · split
    · extract_lets t ts cands fl y d s1 u s2
      have ht : TileOk t := h.at ..
      refine tidy_of_ite h ?_
      rw [addDraw_tiles]
      exact setTile_tidy (s := s1) h _ _ (withSigin_ok (t0Write_ok ht ..) _)
    · exact h

theorem execRarm_tidy {s : State} (h : Tidy s.tiles) (a w) : TidyOut (execRarm a w s) := by
  unfold execRarm
  apply ok_tidy
  split
  · exact h
  · split <;> simp [h]

theorem execRearm_tidy {s : State} (h : Tidy s.tiles) (a w) : TidyOut (execRearm a w s) := by
  unfold execRearm
  rw [tidyOut_ok]
  split
  · extract_lets t n x
    have ht : TileOk t := h.at ..
    split
    · exact t0Extent_tidy h ..
    · split
      · exact ringForm_tidy h ..
      · refine tidy_of_ite (ringForm_tidy h ..) (tidy_of_ite h ?_)
        split
        · exact t0Extent_tidy h ..
        · refine tidy_of_ite (ringForm_tidy h ..) ?_
          split
          · exact extentFault_tidy h ..
          · exact finishWord_tidy h _ _ (setRing_ok ht _ _)
  · exact h

theorem execRsend_tidy {s : State} (h : Tidy s.tiles) (a w) : TidyOut (execRsend a w s) := by
  unfold execRsend
  apply ok_tidy
  dsimp only
  split <;> simp [h]

theorem execRclose_tidy {s : State} (h : Tidy s.tiles) (a w) : TidyOut (execRclose a w s) := by
  unfold execRclose
  rw [tidyOut_ok]
  split
  · exact h
  · extract_lets t n x
    have ht : TileOk t := h.at ..
    refine tidy_of_ite h (tidy_of_ite (tileFault_tidy h ..) ?_)
    rw [sweepInvals_tiles]
    exact finishWord_tidy (by rw [readersDone_tiles]; exact h) _ _ (setRing_ok ht _ _)

theorem execFanStart_tidy {s : State} (h : Tidy s.tiles) (r) : TidyOut (execFanStart r s) := by
  unfold execFanStart
  apply ok_tidy
  dsimp only
  split
  · exact h
  · split
    · exact h
    · split
      · simp [h]
      · split
        · simp [h]
        · split
          · exact h
          · apply updTile_tidy
            · exact h
            · intro x h
              refine setRing_ok ?_ ..
              exact h

theorem execFetchIssue_tidy {s : State} (h : Tidy s.tiles) (r) : TidyOut (execFetchIssue r s) := by
  unfold execFetchIssue
  rw [tidyOut_ok]
  extract_lets a n x
  split
  · exact h
  · extract_lets b fan slot others freeOk
    refine tidy_of_ite h (tidy_of_ite ?_ (tidy_of_ite h ?_))
    · split
      · exact h
      · exact issueInto_tidy h ..
    · split
      · exact h
      · extract_lets pendOk demand
        refine tidy_of_ite h (issueInto_tidy ?_ ..)
        exact foldl_tidy h _ fun s t h => updTile_tidy h _ _ fun u hu => setRing_ok hu _ _

theorem execFetchLand_tidy {s : State} (h : Tidy s.tiles) (r slot how data) : TidyOut (execFetchLand r slot how data s) := by
  unfold execFetchLand
  rw [tidyOut_ok]
  extract_lets n x b
  split
  · extract_lets fromHost cur
    refine tidy_of_ite h ?_
    split
    · refine tidy_of_ite h ?_
      extract_lets s1 s2 t s3
      have read : Tidy s2.tiles := by rw [addCtr_tiles, readErrors_tiles]; exact h
      have ht : TileOk t := landBob_ok (read.at ..) ..
      rw [sweepInvals_tiles]
      exact setTile_tidy (s := s3) (by rw [readersDone_tiles]; exact read) _ _ (setRing_ok ht _ _)
    · refine tidy_of_ite h ?_
      extract_lets s1
      have failed : Tidy s1.tiles := by rw [hostReadFails_tiles]; exact h
      split
      · exact tileFault_tidy failed ..
      · rw [sweepInvals_tiles]
        exact deferBob_tidy failed ..
  · exact h

theorem execSendVisible_tidy {s : State} (h : Tidy s.tiles) (r slot) : TidyOut (execSendVisible r slot s) := by
  unfold execSendVisible
  rw [tidyOut_ok]
  extract_lets t x b y s1
  have ht : TileOk t := h.at ..
  split
  · exact h
  · refine tidy_of_ite h ?_
    extract_lets s2 base pages dst
    have freed : Tidy s2.tiles := by rw [addCtr_tiles]; exact setTile_tidy h _ _ (setRing_ok ht _ _)
    refine tidy_of_ite (markSpans_tidy ?_ ..) (updTile_tidy freed _ _ fun u hu => t0Write_ok hu ..)
    rw [clearBob_tiles, storeBob_tiles]
    exact freed

theorem execT1FillLand_tidy {s : State} (h : Tidy s.tiles) (x) : TidyOut (execT1FillLand x s) := by
  unfold execT1FillLand
  apply ok_tidy
  dsimp only
  split
  · exact h
  · split
    · exact h
    · split <;> simp [h]

theorem execFrameRelease_tidy {s : State} (h : Tidy s.tiles) (frame) : TidyOut (execFrameRelease frame s) := by
  unfold execFrameRelease
  apply ok_tidy
  split
  · exact h
  · split
    · exact h
    · split <;> simp [h]

theorem execHeatDecay_tidy {s : State} (h : Tidy s.tiles) (t) : TidyOut (execHeatDecay t s) := by
  unfold execHeatDecay
  apply ok_tidy
  dsimp only
  split
  · refine atTime_tidy h _ fun s h => ?_
    exact h
  · exact h

theorem execFaultRecordComplete_tidy {s : State} (h : Tidy s.tiles) (part t) : TidyOut (execFaultRecordComplete part t s) := by
  unfold execFaultRecordComplete
  apply ok_tidy
  dsimp only
  split
  · exact h
  · split
    · exact h
    · refine atTime_tidy h _ fun s h => ?_
      split <;> simp [h]

theorem execPeerFaultReceive_tidy {s : State} (h : Tidy s.tiles) (part m t) : TidyOut (execPeerFaultReceive part m t s) := by
  unfold execPeerFaultReceive
  apply ok_tidy
  dsimp only
  split
  · exact h
  · split
    · exact h
    · refine atTime_tidy h _ fun s h => ?_
      refine fromBound_tidy h _ _ fun s h => ?_
      split <;> simp [h]

theorem execStartingComplete_tidy {s : State} (h : Tidy s.tiles) (part t) :
    TidyOut (execStartingComplete part t s) := by simp [execStartingComplete, h]

theorem execStopComplete_tidy {s : State} (h : Tidy s.tiles) (part t) : TidyOut (execStopComplete part t s) := by
  unfold execStopComplete
  apply ok_tidy
  dsimp only
  split
  · exact h
  · refine atTime_tidy h _ fun s h => ?_
    simp [h]

theorem execGroupDrainComplete_tidy {s : State} (h : Tidy s.tiles) (g t) : TidyOut (execGroupDrainComplete g t s) := by
  unfold execGroupDrainComplete
  apply ok_tidy
  dsimp only
  split
  · exact h
  · refine atTime_tidy h _ fun s h => ?_
    simp [h]

theorem execTurnEndTime_tidy {s : State} (h : Tidy s.tiles) (part t) : TidyOut (execTurnEndTime part t s) := by
  unfold execTurnEndTime
  apply ok_tidy
  dsimp only
  split
  · exact h
  · split
    · exact h
    · refine atTime_tidy h _ fun s h => ?_
      apply schedule_tidy
      apply turnLoop_tidy
      refine foldl_tidy ?_ _ fun s e h => ?_
      · exact h
      · simp [h]

theorem execTurnEndBeaconArrival_tidy {s : State} (h : Tidy s.tiles) (part m turn t) :
    TidyOut (execTurnEndBeaconArrival part m turn t s) := by
  unfold execTurnEndBeaconArrival
  apply ok_tidy
  split
  · exact h
  · split
    · refine atTime_tidy h _ fun s h => ?_
      refine fromBound_tidy h _ _ fun s h => ?_
      simp [h]
    · exact h

theorem execChunkReceive_tidy {s : State} (h : Tidy s.tiles) (x t) : TidyOut (execChunkReceive x t s) := by
  unfold execChunkReceive
  rw [tidyOut_ok]
  split
  · exact takeChunk_tidy h ..
  · exact pairMsg_tidy h _ _ _ fun s h => serveFetch_tidy h ..
  · exact pairMsg_tidy h _ _ _ fun s h => chunkLost_tidy h ..

theorem execSwitchPublish_tidy {s : State} (h : Tidy s.tiles) (part e) : TidyOut (execSwitchPublish part e s) := by
  unfold execSwitchPublish
  apply ok_tidy
  split
  · exact h
  · split
    · refine atTime_tidy h _ fun s h => ?_
      simp [h]
    · exact h

theorem execCampaignDigestReceive_tidy {s : State} (h : Tidy s.tiles) (part m d t) :
    TidyOut (execCampaignDigestReceive part m d t s) := by
  unfold execCampaignDigestReceive
  apply ok_tidy
  split
  · exact h
  · split
    · refine atTime_tidy h _ fun s h => ?_
      refine fromMember_tidy h _ fun s h => ?_
      simp [h]
    · exact h

theorem execRendezvousTimeout_tidy {s : State} (h : Tidy s.tiles) (part t) : TidyOut (execRendezvousTimeout part t s) := by
  unfold execRendezvousTimeout
  apply ok_tidy
  dsimp only
  split <;> simp [h]

theorem execCampaignStopReceive_tidy {s : State} (h : Tidy s.tiles) (part e) : TidyOut (execCampaignStopReceive part e s) := by
  unfold execCampaignStopReceive
  apply ok_tidy
  refine atTime_tidy h _ fun s h => ?_
  refine fromBound_tidy h _ _ fun s h => ?_
  dsimp only
  apply stopGoesOn_tidy
  apply turnLoop_tidy
  simp [h]

theorem execStepBeaconArrival_tidy {s : State} (h : Tidy s.tiles) (part m coll leaf tokens t) :
    TidyOut (execStepBeaconArrival part m coll leaf tokens t s) := by
  unfold execStepBeaconArrival
  apply ok_tidy
  dsimp only
  split
  · split
    · split
      · refine atTime_tidy h _ fun s h => ?_
        refine fromBound_tidy h _ _ fun s h => ?_
        apply schedule_tidy
        simp [h]
      · exact h
    · exact h
  · exact h

theorem execSettleDeadline_tidy {s : State} (h : Tidy s.tiles) (part t) : TidyOut (execSettleDeadline part t s) := by
  unfold execSettleDeadline
  apply ok_tidy
  split
  · refine atTime_tidy h _ fun s h => ?_
    simp [h]
  · exact h

theorem execSettleTimeout_tidy {s : State} (h : Tidy s.tiles) (part e) : TidyOut (execSettleTimeout part e s) := by
  unfold execSettleTimeout
  apply ok_tidy
  dsimp only
  split
  · split
    · exact h
    · split
      · split
        · refine atTime_tidy h _ fun s h => ?_
          simp [h]
        · exact h
      · exact h
  · exact h

theorem execCloseListReceive_tidy {s : State} (h : Tidy s.tiles) (part c t) : TidyOut (execCloseListReceive part c t s) := by
  unfold execCloseListReceive
  apply ok_tidy
  dsimp only
  split
  · refine atTime_tidy h _ fun s h => ?_
    refine fromBound_tidy h _ _ fun s h => ?_
    split
    · split
      · simp [h]
      · split <;> simp [h]
    · exact h
  · exact h

theorem execCollectiveChunkReceive_tidy {s : State} (h : Tidy s.tiles) (buf t) : TidyOut (execCollectiveChunkReceive buf t s) := by
  unfold execCollectiveChunkReceive
  apply ok_tidy
  split
  · exact h
  · split
    · exact h
    · split
      · exact h
      · split
        · exact h
        · refine atTime_tidy h _ fun s h => ?_
          simp [h]

theorem execFabricTimeout_tidy {s : State} (h : Tidy s.tiles) (part id pair t) : TidyOut (execFabricTimeout part id pair t s) := by
  unfold execFabricTimeout
  apply ok_tidy
  split
  · split
    · refine atTime_tidy h _ fun s h => ?_
      simp [h]
    · exact h
  · exact h

theorem execListAdmission_tidy {s : State} (h : Tidy s.tiles) (part p e drs t) : TidyOut (execListAdmission part p e drs t s) := by
  unfold execListAdmission
  apply ok_tidy
  dsimp only
  split
  · exact h
  · split
    · split
      · exact h
      · refine atTime_tidy h _ fun s h => ?_
        apply schedule_tidy
        simp [h]
    · split
      · exact h
      · refine atTime_tidy h _ fun s h => ?_
        apply schedule_tidy
        simp [h]

theorem execStepCompose_tidy {s : State} (h : Tidy s.tiles) (part e toks bad t) :
    TidyOut (execStepCompose part e toks bad t s) := by
  unfold execStepCompose
  apply ok_tidy
  split
  · exact h
  · split
    · exact h
    · refine atTime_tidy h _ fun s h => ?_
      apply schedule_tidy
      simp [h]

theorem execManifestReceive_tidy {s : State} (h : Tidy s.tiles) (part w slot e evicts t) :
    TidyOut (execManifestReceive part w slot e evicts t s) := by
  unfold execManifestReceive
  rw [tidyOut_ok]
  split
  · exact h
  · extract_lets rp
    refine tidy_of_ite h (atTime_tidy h _ fun s h => fromBound_tidy h _ _ fun s h => ?_)
    extract_lets s1 s2 rec0
    have evicted : Tidy s1.tiles := foldl_tidy h _ fun s v h => by
      split
      · refine tidy_of_ite h (tidy_of_ite ?_ (evictReq_tidy h ..))
        rw [setReq_tiles]
        exact h
      · exact h
    refine tidy_of_ite (schedule_tidy (turnLoop_tidy evicted _)) ?_
    have planned : Tidy s2.tiles := foldl_inv (fun k : Picks => Tidy k.s.tiles) (x := ⟨s1, e.drs, []⟩) evicted _ fun k q h => by
      split
      · exact applyPlan_tidy h ..
      · exact h
    exact schedule_tidy (turnLoop_tidy (by rw [openStep_tiles]; exact putManifest_tidy planned ..) _)

theorem execRolloutCommit_tidy {s : State} (h : Tidy s.tiles) (part step t) : TidyOut (execRolloutCommit part step t s) := by
  unfold execRolloutCommit
  apply ok_tidy
  split
  · split
    · split
      · exact h
      · refine atTime_tidy h _ fun s h => ?_
        apply schedule_tidy
        simp [h]
    · exact h
  · exact h

theorem execCommitRecordReceive_tidy {s : State} (h : Tidy s.tiles) (part w draws drafts evicts t) :
    TidyOut (execCommitRecordReceive part w draws drafts evicts t s) := by
  unfold execCommitRecordReceive
  rw [tidyOut_ok]
  split
  · exact h
  · split
    · refine tidy_of_ite h (atTime_tidy h _ fun s h => fromBound_tidy h _ _ fun s h => ?_)
      extract_lets s1
      have committed : Tidy s1.tiles := foldl_tidy h _ fun s q h => commitReq_tidy h ..
      exact schedule_tidy (turnLoop_tidy (by rw [closeStep_tiles]; exact committed) _)
    · exact h

theorem execFlitTransmit_tidy {s : State} (h : Tidy s.tiles) (port beacon bid t) :
    TidyOut (execFlitTransmit port beacon bid t s) := by simp [execFlitTransmit, h]

theorem execFlitReceive_tidy {s : State} (h : Tidy s.tiles) (port f t) : TidyOut (execFlitReceive port f t s) := by
  unfold execFlitReceive
  apply ok_tidy
  dsimp only
  split
  · exact h
  · refine atTime_tidy h _ fun s h => ?_
    simp [h]

theorem execBeaconReflect_tidy {s : State} (h : Tidy s.tiles) (port t) : TidyOut (execBeaconReflect port t s) := by
  unfold execBeaconReflect
  apply ok_tidy
  dsimp only
  split
  · exact h
  · refine atTime_tidy h _ fun s h => ?_
    exact h

theorem execLaneSubstitution_tidy {s : State} (h : Tidy s.tiles) (port lane t) : TidyOut (execLaneSubstitution port lane t s) := by
  unfold execLaneSubstitution
  apply ok_tidy
  dsimp only
  split
  · exact h
  · refine atTime_tidy h _ fun s h => ?_
    simp [h]

theorem execLightLoss_tidy {s : State} (h : Tidy s.tiles) (port l t) : TidyOut (execLightLoss port l t s) := by
  unfold execLightLoss
  apply ok_tidy
  dsimp only
  split
  · exact h
  · refine atTime_tidy h _ fun s h => ?_
    split
    · exact h
    · apply portDown_tidy
      exact h

theorem execLaserFailure_tidy {s : State} (h : Tidy s.tiles) (unit t) : TidyOut (execLaserFailure unit t s) := by
  unfold execLaserFailure
  apply ok_tidy
  refine atTime_tidy h _ fun s h => ?_
  simp [h]

theorem execPortRetrain_tidy {s : State} (h : Tidy s.tiles) (port e) : TidyOut (execPortRetrain port e s) := by
  unfold execPortRetrain
  apply ok_tidy
  dsimp only
  split
  · exact h
  · refine atTime_tidy h _ fun s h => ?_
    simp [h]

theorem execTrainingComplete_tidy {s : State} (h : Tidy s.tiles) (port e nonce t) :
    TidyOut (execTrainingComplete port e nonce t s) := by
  unfold execTrainingComplete
  apply ok_tidy
  dsimp only
  split
  · exact h
  · refine atTime_tidy h _ fun s h => ?_
    simp [h]

theorem execHelloReceive_tidy {s : State} (h : Tidy s.tiles) (port h' t) : TidyOut (execHelloReceive port h' t s) := by
  unfold execHelloReceive
  apply ok_tidy
  dsimp only
  split
  · exact h
  · refine atTime_tidy h _ fun s h => ?_
    simp [h]

theorem execQuarantineRehello_tidy {s : State} (h : Tidy s.tiles) (port nonce t) :
    TidyOut (execQuarantineRehello port nonce t s) := by simp [execQuarantineRehello, h]

theorem execPortDrained_tidy {s : State} (h : Tidy s.tiles) (port t) : TidyOut (execPortDrained port t s) := by
  unfold execPortDrained
  apply ok_tidy
  dsimp only
  split
  · refine atTime_tidy h _ fun s h => ?_
    simp [h]
  · split
    · refine atTime_tidy h _ fun s h => ?_
      simp [h]
    · exact h

theorem execJoinRequest_tidy {s : State} (h : Tidy s.tiles) (j t) : TidyOut (execJoinRequest j t s) := by
  unfold execJoinRequest
  rw [tidyOut_ok]
  exact tidy_of_ite h (atTime_tidy h _ fun s h => fromMember_tidy h _ fun s h => passJoin_tidy h _)

theorem execEpochProposalReceive_tidy {s : State} (h : Tidy s.tiles) (m epoch members t) :
    TidyOut (execEpochProposalReceive m epoch members t s) := by
  unfold execEpochProposalReceive
  rw [tidyOut_ok]
  refine tidy_of_ite h (atTime_tidy h _ fun s h => fromMember_tidy h _ fun s h => ?_)
  split
  · rw [sendMsg_tiles]
    exact h
  · exact tidy_of_ite (by rw [sendMsg_tiles]; exact h) h

theorem execEpochAckReceive_tidy {s : State} (h : Tidy s.tiles) (m epoch t) : TidyOut (execEpochAckReceive m epoch t s) := by
  unfold execEpochAckReceive
  rw [tidyOut_ok]
  exact tidy_of_ite h (atTime_tidy h _ fun s h => fromMember_tidy h _ fun s h => propose_tidy (tryInstall_tidy h))

theorem execEpochCommitReceive_tidy {s : State} (h : Tidy s.tiles) (w members links t) :
    TidyOut (execEpochCommitReceive w members links t s) := by
  unfold execEpochCommitReceive
  rw [tidyOut_ok]
  extract_lets mine due
  exact tidy_of_ite h (atTime_tidy h _ fun s h => fromMember_tidy h _ fun s h => propose_tidy (installEpoch_tidy h ..))

theorem execHeartbeatSend_tidy {s : State} (h : Tidy s.tiles) (t) : TidyOut (execHeartbeatSend t s) := by
  unfold execHeartbeatSend
  apply ok_tidy
  dsimp only
  split
  · exact h
  · refine atTime_tidy h _ fun s h => ?_
    split <;> simp [h]

theorem execHeartbeatReceive_tidy {s : State} (h : Tidy s.tiles) (m t) : TidyOut (execHeartbeatReceive m t s) := by
  unfold execHeartbeatReceive
  rw [tidyOut_ok]
  refine tidy_of_ite h (atTime_tidy h _ fun s h => fromMember_tidy h _ fun s h => ?_)
  extract_lets l old s1
  exact tidy_of_ite h (by rw [reroute_tiles]; exact h)

theorem execMemberSilent_tidy {s : State} (h : Tidy s.tiles) (g t) : TidyOut (execMemberSilent g t s) := by
  unfold execMemberSilent
  apply ok_tidy
  dsimp only
  split
  · exact h
  · refine atTime_tidy h _ fun s h => ?_
    simp [h]

theorem execLeaderLoss_tidy {s : State} (h : Tidy s.tiles) (reach t) : TidyOut (execLeaderLoss reach t s) := by
  unfold execLeaderLoss
  apply ok_tidy
  dsimp only
  split
  · exact h
  · refine atTime_tidy h _ fun s h => ?_
    simp [h]

theorem execIsolation_tidy {s : State} (h : Tidy s.tiles) (reach e) : TidyOut (execIsolation reach e s) := by
  unfold execIsolation
  apply ok_tidy
  dsimp only
  split
  · exact h
  · refine atTime_tidy h _ fun s h => ?_
    simp [h]

theorem execMessageResend_tidy {s : State} (h : Tidy s.tiles) (x t) : TidyOut (execMessageResend x t s) := by
  unfold execMessageResend
  apply ok_tidy
  dsimp only
  split
  · exact h
  · split
    · refine atTime_tidy h _ fun s h => ?_
      exact h
    · simp [h]

theorem execSnapshotLatch_tidy {s : State} (h : Tidy s.tiles) (part id t) : TidyOut (execSnapshotLatch part id t s) := by
  unfold execSnapshotLatch
  apply ok_tidy
  dsimp only
  split <;> simp [h]

theorem execMultiplyWordComplete_tidy {s : State} (h : Tidy s.tiles) (a) : TidyOut (execMultiplyWordComplete a s) := by
  unfold execMultiplyWordComplete
  rw [tidyOut_ok]
  extract_lets t
  have ht : TileOk t := h.at ..
  split
  · exact h
  · refine tidy_of_ite h (finishWord_tidy (by rw [addCtr_tiles]; exact h) _ _ (popHeads_ok (setTreg_ok ?_ _ _) _))
    exact ht

theorem execHostTransferComplete_tidy {s : State} (h : Tidy s.tiles) (x off data e t) :
    TidyOut (execHostTransferComplete x off data e t s) := by
  unfold execHostTransferComplete
  rw [tidyOut_ok]
  refine tidy_of_ite h ?_
  split
  · split
    · extract_lets p
      refine tidy_of_ite h ?_
      split
      · exact tidy_of_ite h (atTime_tidy h _ fun s h => by simp [h])
      · exact tidy_of_ite h (atTime_tidy h _ fun s h => by simp [h])
      · exact h
    · exact h
  · split
    · exact tidy_of_ite h (atTime_tidy h _ fun s h => by simp [h])
    · split
      · exact tidy_of_ite h (atTime_tidy h _ fun s h => by simp [h])
      · exact h
  · refine tidy_of_ite h (atTime_tidy h _ fun s h => ?_)
    extract_lets s1
    exact schedule_tidy (turnLoop_tidy (settleTry_tidy (s := s1) h _) _)
  · exact atTime_tidy h _ fun s h => by simp [h]
  · exact tidy_of_ite h (atTime_tidy h _ fun s h => by simp [h])

theorem execInterruptIntervalExpiry_tidy {s : State} (h : Tidy s.tiles) (fn n t) :
    TidyOut (execInterruptIntervalExpiry fn n t s) := by
  unfold execInterruptIntervalExpiry
  apply ok_tidy
  split <;> simp [h]

theorem execLaneSubstitutionComplete_tidy {s : State} (h : Tidy s.tiles) (port t) :
    TidyOut (execLaneSubstitutionComplete port t s) := by simp [execLaneSubstitutionComplete, h]

theorem execRegionsScrubbed_tidy {s : State} (h : Tidy s.tiles) (part t) :
    TidyOut (execRegionsScrubbed part t s) := by simp [execRegionsScrubbed, h]

theorem execReservedT2Initialised_tidy {s : State} (h : Tidy s.tiles) (e) : TidyOut (execReservedT2Initialised e s) := by
  unfold execReservedT2Initialised
  apply ok_tidy
  dsimp only
  split
  · exact h
  · refine atTime_tidy h _ fun s h => ?_
    split
    · simp
    · split <;> simp [h]

end Sys2Proof.Machine

end

section
/-! PROOFS. Every step keeps every tile's tables in canonical form (R19). -/

namespace Sys2Proof.Machine

open Sys2Proof

theorem exec_tidy {s : State} (h : Tidy s.tiles) (i : Instr) : TidyOut (exec i s) := by
  cases i with
  | partCreate q p => exact execPartCreate_tidy h q p
  | partDestroy q => exact execPartDestroy_tidy h q
  | partStart q => exact execPartStart_tidy h q
  | partStop q => exact execPartStop_tidy h q
  | partQuota q p => exact execPartQuota_tidy h q p
  | partSeed q seed => exact execPartSeed_tidy h q seed
  | partFlagmask q m => exact execPartFlagmask_tidy h q m
  | partServe q entries handles => exact execPartServe_tidy h q entries handles
  | groupAdd q gs => exact execGroupAdd_tidy h q gs
  | groupRemove q gs => exact execGroupRemove_tidy h q gs
  | partRecover q => exact execPartRecover_tidy h q
  | partSave q b => exact execPartSave_tidy h q b
  | partRestore q b img ids pages => exact execPartRestore_tidy h q b img ids pages
  | queueCreate q d => exact execQueueCreate_tidy h q d
  | queueDelete q num isCQ => exact execQueueDelete_tidy h q num isCQ
  | regionCreate q p id pages => exact execRegionCreate_tidy h q p id pages
  | regionFree q r => exact execRegionFree_tidy h q r
  | regionStage q r epoch haddr pages => exact execRegionStage_tidy h q r epoch haddr pages
  | regionPublish q rs => exact execRegionPublish_tidy h q rs
  | regionAbandon q r => exact execRegionAbandon_tidy h q r
  | copyIn q p => exact execCopyIn_tidy h q p
  | copyOut q p => exact execCopyOut_tidy h q p
  | regionFill q p => exact execRegionFill_tidy h q p
  | progLoad q p sec => exact execProgLoad_tidy h q p sec
  | progUnload q slot => exact execProgUnload_tidy h q slot
  | campaignStart q c => exact execCampaignStart_tidy h q c
  | campaignStop q => exact execCampaignStop_tidy h q
  | reqAdmit q p e drs => exact execReqAdmit_tidy h q p e drs
  | reqCancel q e => exact execReqCancel_tidy h q e
  | reqRelease q e => exact execReqRelease_tidy h q e
  | prefixCreate q e len k drs => exact execPrefixCreate_tidy h q e len k drs
  | prefixRelease q k => exact execPrefixRelease_tidy h q k
  | variantSet q ver p => exact execVariantSet_tidy h q ver p
  | variantClear q v => exact execVariantClear_tidy h q v
  | admitClose q => exact execAdmitClose_tidy h q
  | groupId q g => exact execGroupId_tidy h q g
  | groupFound q => exact execGroupFound_tidy h q
  | groupLeave q => exact execGroupLeave_tidy h q
  | portEnable q p => exact execPortEnable_tidy h q p
  | portDisable q p => exact execPortDisable_tidy h q p
  | portHello q p nonce => exact execPortHello_tidy h q p nonce
  | powerLevel q l => exact execPowerLevel_tidy h q l
  | gearLimit q part g => exact execGearLimit_tidy h q part g
  | energyBudget q part w => exact execEnergyBudget_tidy h q part w
  | brakeTest q us => exact execBrakeTest_tidy h q us
  | snapshotAt q t mask id => exact execSnapshotAt_tidy h q t mask id
  | snapshotMark q n mask id => exact execSnapshotMark_tidy h q n mask id
  | counterRead q sel b => exact execCounterRead_tidy h q sel b
  | recordRead q sel b => exact execRecordRead_tidy h q sel b
  | faultLogRead q first count b => exact execFaultLogRead_tidy h q first count b
  | historyRead q b => exact execHistoryRead_tidy h q b
  | attest q nonce part b => exact execAttest_tidy h q nonce part b
  | measureRead q part b => exact execMeasureRead_tidy h q part b
  | certRead q b => exact execCertRead_tidy h q b
  | configUpdate q c => exact execConfigUpdate_tidy h q c
  | undefinedCommand q opc => exact execUndefinedCommand_tidy h q opc
  | sqTailDoorbell fn n ix w32 => exact execSqTailDoorbell_tidy h fn n ix w32
  | submissionFetch q e t => exact execSubmissionFetch_tidy h q e t
  | cqHeadDoorbell fn n ix w32 => exact execCqHeadDoorbell_tidy h fn n ix w32
  | eventHeadDoorbell fn ix w32 => exact execEventHeadDoorbell_tidy h fn ix w32
  | completionPost fn n t => exact execCompletionPost_tidy h fn n t
  | adminQueueEnable fn v => exact execAdminQueueEnable_tidy h fn v
  | loadImage img t => exact execLoadImage_tidy h img t
  | readBootlog => exact execReadBootlog_tidy h
  | bar2Read x n => exact execBar2Read_tidy h x n
  | bar2Write x data => exact execBar2Write_tidy h x data
  | registerWrite fn f => exact execRegisterWrite_tidy h fn f
  | functionLevelReset fn t => exact execFunctionLevelReset_tidy h fn t
  | atsInvalidation fn pasid page => exact execAtsInvalidation_tidy h fn pasid page
  | i3cIndexWrite b => exact execI3cIndexWrite_tidy h b
  | i3cRead n => exact execI3cRead_tidy h n
  | alertFlagClear v => exact execAlertFlagClear_tidy h v
  | i3cEntdaa addr => exact execI3cEntdaa_tidy h addr
  | i3cSetdasa addr => exact execI3cSetdasa_tidy h addr
  | i3cRstdaa => exact execI3cRstdaa_tidy h
  | i3cGetpid => exact execI3cGetpid_tidy h
  | i3cGetbcr => exact execI3cGetbcr_tidy h
  | i3cGetdcr => exact execI3cGetdcr_tidy h
  | i3cGetstatus => exact execI3cGetstatus_tidy h
  | i3cGetmwl => exact execI3cGetmwl_tidy h
  | i3cGetmrl => exact execI3cGetmrl_tidy h
  | i3cEnec => exact execI3cEnec_tidy h
  | i3cDisec => exact execI3cDisec_tidy h
  | tapIdcode => exact execTapIdcode_tidy h
  | tapBypass bits => exact execTapBypass_tidy h bits
  | tapSamplePreload bits => exact execTapSamplePreload_tidy h bits
  | tapExtest bits => exact execTapExtest_tidy h bits
  | tapDebugUnlock ok t => exact execTapDebugUnlock_tidy h ok t
  | tapPrivateDebug code => exact execTapPrivateDebug_tidy h code
  | heartbeatWrite core t => exact execHeartbeatWrite_tidy h core t
  | powerInputRise mv straps t => exact execPowerInputRise_tidy h mv straps t
  | powerLoss d t => exact execPowerLoss_tidy h d t
  | distaffRailLoss mv t => exact execDistaffRailLoss_tidy h mv t
  | presenceOpen second t => exact execPresenceOpen_tidy h second t
  | perstAssert ns t => exact execPerstAssert_tidy h ns t
  | perstRelease p t => exact execPerstRelease_tidy h p t
  | t2InitComplete e => exact execT2InitComplete_tidy h e
  | pcieLinkDown d => exact execPcieLinkDown_tidy h d
  | pcieLinkUp t => exact execPcieLinkUp_tidy h t
  | pwrbrkAssert ns t => exact execPwrbrkAssert_tidy h ns t
  | pwrbrkRelease t => exact execPwrbrkRelease_tidy h t
  | brakeTestEnd t => exact execBrakeTestEnd_tidy h t
  | tbSyncInPulse t => exact execTbSyncInPulse_tidy h t
  | tbSyncOutPulse t => exact execTbSyncOutPulse_tidy h t
  | timingBeaconExchange port t1 t2 t3 t4 x => exact execTimingBeaconExchange_tidy h port t1 t2 t3 t4 x
  | sensorSample xs mv t => exact execSensorSample_tidy h xs mv t
  | gearCapStep t => exact execGearCapStep_tidy h t
  | thermalTrip t => exact execThermalTrip_tidy h t
  | watchdogExpiry core t => exact execWatchdogExpiry_tidy h core t
  | deviceFault c t => exact execDeviceFault_tidy h c t
  | tileFailurePrediction tile e => exact execTileFailurePrediction_tidy h tile e
  | storeBankSpare die bank t => exact execStoreBankSpare_tidy h die bank t
  | packagePrediction pkg rule t => exact execPackagePrediction_tidy h pkg rule t
  | migrationCopyDone t => exact execMigrationCopyDone_tidy h t
  | scrubPass x t => exact execScrubPass_tidy h x t
  | li a w => exact execLi_tidy h a w
  | lih a w => exact execLih_tidy h a w
  | add a w => exact execAdd_tidy h a w
  | sub a w => exact execSub_tidy h a w
  | mul a w => exact execMul_tidy h a w
  | and a w => exact execAnd_tidy h a w
  | or a w => exact execOr_tidy h a w
  | xor a w => exact execXor_tidy h a w
  | shl a w => exact execShl_tidy h a w
  | shr a w => exact execShr_tidy h a w
  | loop a w => exact execLoop_tidy h a w
  | qcnt a w => exact execQcnt_tidy h a w
  | tbase a w => exact execTbase_tidy h a w
  | tileid a w => exact execTileid_tidy h a w
  | reservedOpcodeWord a raw => exact execReservedOpcodeWord_tidy h a raw
  | signal a w => exact execSignal_tidy h a w
  | signalArrival a n => exact execSignalArrival_tidy h a n
  | wait a w => exact execWait_tidy h a w
  | waitSatisfied a q => exact execWaitSatisfied_tidy h a q
  | waitTimeout a q => exact execWaitTimeout_tidy h a q
  | take a w => exact execTake_tidy h a w
  | mark a w => exact execMark_tidy h a w
  | segend a w => exact execSegend_tidy h a w
  | segmentCommit part seg step t => exact execSegmentCommit_tidy h part seg step t
  | energyWindowStart t => exact execEnergyWindowStart_tidy h t
  | mxseta a w => exact execMxseta_tidy h a w
  | mxsetb a w => exact execMxsetb_tidy h a w
  | mxsetd a w => exact execMxsetd_tidy h a w
  | mxsets a w => exact execMxsets_tidy h a w
  | mxorg a w => exact execMxorg_tidy h a w
  | mxmul a w => exact execMxmul_tidy h a w
  | mxdelta a w => exact execMxdelta_tidy h a w
  | mxfin a w => exact execMxfin_tidy h a w
  | ewhead a w => exact execEwhead_tidy h a w
  | eworg a w => exact execEworg_tidy h a w
  | ewsrc a w => exact execEwsrc_tidy h a w
  | ewop a w => exact execEwop_tidy h a w
  | ewdst a w => exact execEwdst_tidy h a w
  | chainStart a => exact execChainStart_tidy h a
  | chainComplete a => exact execChainComplete_tidy h a
  | ewflag a w => exact execEwflag_tidy h a w
  | ewsamp a w => exact execEwsamp_tidy h a w
  | samplePartAccept a => exact execSamplePartAccept_tidy h a
  | sampleDraw die n => exact execSampleDraw_tidy h die n
  | rarm a w => exact execRarm_tidy h a w
  | rearm a w => exact execRearm_tidy h a w
  | rsend a w => exact execRsend_tidy h a w
  | rclose a w => exact execRclose_tidy h a w
  | fanStart r => exact execFanStart_tidy h r
  | fetchIssue r => exact execFetchIssue_tidy h r
  | fetchLand r slot how data => exact execFetchLand_tidy h r slot how data
  | sendVisible r slot => exact execSendVisible_tidy h r slot
  | t1FillLand x => exact execT1FillLand_tidy h x
  | frameRelease frame => exact execFrameRelease_tidy h frame
  | heatDecay t => exact execHeatDecay_tidy h t
  | faultRecordComplete part t => exact execFaultRecordComplete_tidy h part t
  | peerFaultReceive part m t => exact execPeerFaultReceive_tidy h part m t
  | startingComplete part t => exact execStartingComplete_tidy h part t
  | stopComplete part t => exact execStopComplete_tidy h part t
  | groupDrainComplete g t => exact execGroupDrainComplete_tidy h g t
  | turnEndTime part t => exact execTurnEndTime_tidy h part t
  | turnEndBeaconArrival part m turn t => exact execTurnEndBeaconArrival_tidy h part m turn t
  | chunkReceive x t => exact execChunkReceive_tidy h x t
  | switchPublish part e => exact execSwitchPublish_tidy h part e
  | campaignDigestReceive part m d t => exact execCampaignDigestReceive_tidy h part m d t
  | rendezvousTimeout part t => exact execRendezvousTimeout_tidy h part t
  | campaignStopReceive part e => exact execCampaignStopReceive_tidy h part e
  | stepBeaconArrival part m coll leaf tokens t => exact execStepBeaconArrival_tidy h part m coll leaf tokens t
  | settleDeadline part t => exact execSettleDeadline_tidy h part t
  | settleTimeout part e => exact execSettleTimeout_tidy h part e
  | closeListReceive part c t => exact execCloseListReceive_tidy h part c t
  | collectiveChunkReceive buf t => exact execCollectiveChunkReceive_tidy h buf t
  | fabricTimeout part id pair t => exact execFabricTimeout_tidy h part id pair t
  | listAdmission part p e drs t => exact execListAdmission_tidy h part p e drs t
  | stepCompose part e toks bad t => exact execStepCompose_tidy h part e toks bad t
  | manifestReceive part w slot e evicts t => exact execManifestReceive_tidy h part w slot e evicts t
  | rolloutCommit part step t => exact execRolloutCommit_tidy h part step t
  | commitRecordReceive part w draws drafts evicts t => exact execCommitRecordReceive_tidy h part w draws drafts evicts t
  | flitTransmit port beacon bid t => exact execFlitTransmit_tidy h port beacon bid t
  | flitReceive port f t => exact execFlitReceive_tidy h port f t
  | beaconReflect port t => exact execBeaconReflect_tidy h port t
  | laneSubstitution port lane t => exact execLaneSubstitution_tidy h port lane t
  | lightLoss port l t => exact execLightLoss_tidy h port l t
  | laserFailure unit t => exact execLaserFailure_tidy h unit t
  | portRetrain port e => exact execPortRetrain_tidy h port e
  | trainingComplete port e nonce t => exact execTrainingComplete_tidy h port e nonce t
  | helloReceive port k t => exact execHelloReceive_tidy h port k t
  | quarantineRehello port nonce t => exact execQuarantineRehello_tidy h port nonce t
  | portDrained port t => exact execPortDrained_tidy h port t
  | joinRequest j t => exact execJoinRequest_tidy h j t
  | epochProposalReceive m epoch members t => exact execEpochProposalReceive_tidy h m epoch members t
  | epochAckReceive m epoch t => exact execEpochAckReceive_tidy h m epoch t
  | epochCommitReceive w members links t => exact execEpochCommitReceive_tidy h w members links t
  | heartbeatSend t => exact execHeartbeatSend_tidy h t
  | heartbeatReceive m t => exact execHeartbeatReceive_tidy h m t
  | memberSilent g t => exact execMemberSilent_tidy h g t
  | leaderLoss reach t => exact execLeaderLoss_tidy h reach t
  | isolation reach e => exact execIsolation_tidy h reach e
  | messageResend x t => exact execMessageResend_tidy h x t
  | snapshotLatch part id t => exact execSnapshotLatch_tidy h part id t
  | multiplyWordComplete a => exact execMultiplyWordComplete_tidy h a
  | hostTransferComplete x off data e t => exact execHostTransferComplete_tidy h x off data e t
  | interruptIntervalExpiry fn n t => exact execInterruptIntervalExpiry_tidy h fn n t
  | laneSubstitutionComplete port t => exact execLaneSubstitutionComplete_tidy h port t
  | regionsScrubbed part t => exact execRegionsScrubbed_tidy h part t
  | reservedT2Initialised e => exact execReservedT2Initialised_tidy h e

theorem step_tidy {s : State} (h : Tidy s.tiles) : TidyOut (Machine.step s) := by
  unfold Machine.step
  split
  · exact (tidyOut_next _).2 h
  · next c r _ => exact exec_tidy (s := s.withPending r) h c

/-- Settles O29: every row keeps every tile's tables in canonical form, as every function that its meaning uses does. -/
theorem stepsKeepTilesCanonical : Obligations.StepsKeepTilesCanonical := by
  intro s t ok next
  exact (tilesOk_iff t).2 (step_tidy ((tilesOk_iff s).1 ok) t next)

end Sys2Proof.Machine

end

section
/-! PROOFS. Group sums of special values (R60, points 1 to 3): the NaN, the infinities and the zeros. -/

namespace Sys2Proof.Machine

open Sys2Proof

/-! ### Products with a zero operand (R60) -/

theorem isNaN_of_isZero {a : FVal} (h : a.isZero = true) : a.isNaN = false := by
  cases a with
  | fin _ _ _ => rfl
  | _ => cases h

theorem isInf_of_isZero {a : FVal} (h : a.isZero = true) : a.isInf = false := by
  cases a with
  | fin _ _ _ => rfl
  | _ => cases h

theorem isInvProd_of_finite {a b : FVal} (ha : a.isInf = false) (hb : b.isInf = false) : isInvProd a b = false := by
  simp [isInvProd, ha, hb]

theorem infProd_of_finite {a b : FVal} (ha : a.isInf = false) (hb : b.isInf = false) : infProd a b = none := by
  simp [infProd, ha, hb]

/-- A zero operand gives no product for the window: W = 0 and T = 0 where every product has one. -/
theorem finProd_of_isZero (fmode : Bool) {a : FVal} (b : FVal) (h : a.isZero = true) : finProd fmode a b = none := by
  cases a with
  | fin s m e =>
    have hm : m = 0 := by simpa [FVal.isZero] using h
    cases b <;> simp [finProd, hm]
  | _ => rfl

/-! ### The three special results of a group (R60) -/

/-- The signs of a group's infinite products, in their order. -/
def infSigns (ps : List (FVal × FVal)) : List Bool := ps.filterMap (fun e => infProd e.1 e.2)

/-- R60 point 1: a NaN operand, an infinity times zero, or infinities of both signs. -/
def SumsToNaN (ps : List (FVal × FVal)) : Prop :=
  ps.any (fun e => e.1.isNaN || e.2.isNaN) = true ∨ ps.any (fun e => isInvProd e.1 e.2) = true ∨
    (true ∈ infSigns ps ∧ false ∈ infSigns ps)

section
variable {fmode : Bool} {ps : List (FVal × FVal)}

theorem not_sumsToNaN (hn : ∀ e ∈ ps, e.1.isNaN = false ∧ e.2.isNaN = false ∧ isInvProd e.1 e.2 = false)
    (hs : ∃ neg, neg ∉ infSigns ps) : ¬ SumsToNaN ps := by
  rintro (h | h | ⟨ht, hf⟩)
  · obtain ⟨e, he, h⟩ := List.any_eq_true.1 h
    obtain ⟨h1, h2, -⟩ := hn e he
    simp [h1, h2] at h
  · obtain ⟨e, he, h⟩ := List.any_eq_true.1 h
    obtain ⟨-, -, h3⟩ := hn e he
    simp [h3] at h
  · obtain ⟨neg, h⟩ := hs
    cases neg
    · exact h hf
    · exact h ht

theorem sumsToNaN_iff : SumsToNaN ps ↔
    (ps.any (fun e => e.1.isNaN || e.2.isNaN) || ps.any (fun e => isInvProd e.1 e.2) ||
      ((ps.filterMap (fun e => infProd e.1 e.2)).contains true &&
        (ps.filterMap (fun e => infProd e.1 e.2)).contains false)) = true := by
  simp only [SumsToNaN, infSigns, Bool.or_eq_true, Bool.and_eq_true, List.contains_iff_mem, or_assoc]

theorem groupSum_nan (h : SumsToNaN ps) : (groupSum fmode ps).x = 0x7FC00000 := by
  unfold groupSum
  dsimp only
  rw [if_pos (sumsToNaN_iff.1 h)]

theorem groupSum_inf {neg : Bool} {r : List Bool} (h : ¬ SumsToNaN ps) (hi : infSigns ps = neg :: r) :
    (groupSum fmode ps).x = if neg then 0xFF800000 else 0x7F800000 := by
  unfold groupSum
  dsimp only
  rw [if_neg (mt sumsToNaN_iff.2 h), show ps.filterMap (fun e => infProd e.1 e.2) = neg :: r from hi]
  cases neg <;> rfl

/-- R60 point 3 where no product reaches the window. -/
theorem groupSum_zero (h : ¬ SumsToNaN ps) (hi : infSigns ps = [])
    (hf : ps.filterMap (fun e => finProd fmode e.1 e.2) = []) :
    (groupSum fmode ps).x = if ps.all (fun e => xor e.1.sign e.2.sign) then 0x80000000 else 0 := by
  unfold groupSum
  dsimp only
  rw [if_neg (mt sumsToNaN_iff.2 h), show ps.filterMap (fun e => infProd e.1 e.2) = [] from hi, hf]
  cases ps.all (fun e => xor e.1.sign e.2.sign) <;> rfl

/-! ### Groups whose products are zero or infinite -/

theorem infSigns_cons_of_one_sign {neg : Bool} (h : neg ∈ infSigns ps) (hn : (!neg) ∉ infSigns ps) :
    ∃ r, infSigns ps = neg :: r := by
  cases hi : infSigns ps with
  | nil => simp [hi] at h
  | cons s r =>
    have hs : s ≠ !neg := fun e => hn (by simp [hi, e])
    exact ⟨r, by simpa using hs⟩

/-- A group of zero products is −0 or +0 by their signs. -/
theorem groupSum_of_zero_products
    (hz : ∀ e ∈ ps, e.1.isZero = true ∧ e.2.isNaN = false ∧ e.2.isInf = false) :
    (groupSum fmode ps).x = if ps.all (fun e => xor e.1.sign e.2.sign) then 0x80000000 else 0 := by
  have hi : infSigns ps = [] := List.filterMap_eq_nil_iff.2 fun e he => by
    obtain ⟨h1, -, h2⟩ := hz e he
    exact infProd_of_finite (isInf_of_isZero h1) h2
  have hn : ¬ SumsToNaN ps := not_sumsToNaN (fun e he => by
    obtain ⟨h1, hnan, h2⟩ := hz e he
    exact ⟨isNaN_of_isZero h1, hnan, isInvProd_of_finite (isInf_of_isZero h1) h2⟩) ⟨true, by simp [hi]⟩
  exact groupSum_zero hn hi (List.filterMap_eq_nil_iff.2 fun e he => finProd_of_isZero fmode e.2 (hz e he).1)

end

/-- Settles O20: R60's points in their order, each by the operands that reach it. -/
theorem groupSumSpecials : Obligations.GroupSumSpecials := by
  intro fmode ps
  refine ⟨fun h => groupSum_nan (.inl h), fun h => groupSum_nan (.inr (.inl h)),
    fun ht hf => groupSum_nan (.inr (.inr ⟨ht, hf⟩)), ?infinite, ?plusZero, ?minusZero⟩
  case infinite =>
    intro neg hn hm ho
    obtain ⟨r, hi⟩ := infSigns_cons_of_one_sign hm ho
    exact groupSum_inf (not_sumsToNaN hn ⟨!neg, ho⟩) hi
  case plusZero =>
    rintro hz ⟨e, he, hs⟩
    have hall : ps.all (fun e => xor e.1.sign e.2.sign) = false := List.all_eq_false.2 ⟨e, he, by simp [hs]⟩
    rw [groupSum_of_zero_products hz, hall]
    rfl
  case minusZero =>
    intro hz hs _
    rw [groupSum_of_zero_products hz, List.all_eq_true.2 hs]
    rfl

end Sys2Proof.Machine

end

section
/-! PROOFS. Commands that set a field of a partition's record (R138, R147, R206, R244), and what the release of frames changes (R197 to
R201, R206). -/

namespace Sys2Proof.Machine

open Sys2Proof

/-! ### What serving frames changes (R197 to R201, R206) -/

/-- From s to t frames alone may have changed, with the count of free values that choose among them. -/
abbrev FramesOnly (s t : State) : Prop := t = (s.withT1 t.t1).withFree t.free

namespace FramesOnly
variable {s t u : State}

theorem refl (s : State) : FramesOnly s s := rfl

theorem trans (h : FramesOnly s t) (g : FramesOnly t u) : FramesOnly s u :=
  Eq.trans g (by rw [h]; cases s; rfl)

theorem ite {c : Prop} [Decidable c] (h : FramesOnly s t) (g : FramesOnly s u) : FramesOnly s (if c then t else u) := by
  split
  · exact h
  · exact g

theorem foldl {α : Type} {f : State → α → State} (h : ∀ s a, FramesOnly s (f s a)) (l : List α) (s : State) :
    FramesOnly s (l.foldl f s) := by
  induction l generalizing s with
  | nil => exact .refl s
  | cons a l ih => exact (h s a).trans (ih _)

end FramesOnly

theorem withT1_frames (s : State) (x : T1U) : FramesOnly s (s.withT1 x) := rfl

theorem giveFrame_frames (s : State) (n : Nat) (k : PageKey) (pin : Bool) (holds : List (Option Nat)) :
    FramesOnly s (giveFrame s n k pin holds) := rfl

theorem takeFrame_frames (s : State) (k : PageKey) (die : Nat) (h : Option Nat) (pin : Bool) (holds : List (Option Nat)) :
    FramesOnly s (takeFrame s k die h pin holds).1 := by
  have drawn : FramesOnly s (s.withFree (s.free + 1)) := rfl
  unfold takeFrame
  split
  · dsimp only
    split
    · exact drawn.trans (giveFrame_frames ..)
    · exact .refl s
  · split
    · exact .refl s
    · split
      · exact .refl s
      · split
        · exact giveFrame_frames ..
        · exact withT1_frames ..

theorem releaseFrames_frames (s : State) (c : Nat → Frame → Bool) : FramesOnly s (releaseFrames s c) := by
  refine .foldl (fun u e => .ite (.refl u) (.ite (withT1_frames ..) ?_)) _ s
  split
  · exact giveFrame_frames ..
  · exact withT1_frames ..

theorem asksOther_frames (s : State) (die : Nat) (x : PageKey × Bool × List (Option Nat)) : FramesOnly s (asksOther s die x) :=
  have taken := takeFrame_frames s x.1 die none x.2.1 x.2.2
  .ite taken (.ite (taken.trans (withT1_frames ..)) taken)

theorem gainFrame_frames (s : State) (n : Nat) (f : Frame) (pin : Bool) (holds : List (Option Nat)) :
    FramesOnly s (gainFrame s n f pin holds).1 := by
  unfold gainFrame
  dsimp only
  split
  · exact withT1_frames ..
  · split
    · exact (withT1_frames ..).trans (asksOther_frames ..)
    · split
      · exact withT1_frames ..
      · split
        · exact .refl s
        · dsimp only
          exact (withT1_frames ..).trans (releaseFrames_frames ..)

theorem gainPage_frames (s : State) (k : PageKey) (n : Nat) (f : Frame) (pin : Bool) (holds : List (Option Nat)) :
    FramesOnly s (gainPage s k n f pin holds).1 := by
  unfold gainPage
  split
  · exact gainFrame_frames ..
  · exact withT1_frames ..

theorem servePins_frames (s : State) : FramesOnly s (servePins s) := by
  refine .foldl (fun u e => .ite (withT1_frames ..) ?_) _ s
  split
  · exact .ite ((gainPage_frames ..).trans (withT1_frames ..)) (gainPage_frames ..)
  · exact .ite ((takeFrame_frames ..).trans (withT1_frames ..)) (takeFrame_frames ..)

theorem fitT1_frames (s : State) (p die n : Nat) : FramesOnly s (fitT1 s p die n) := by
  induction n generalizing s with
  | zero => exact .refl s
  | succ n ih =>
    unfold fitT1
    split
    · exact .refl s
    · split
      · exact .refl s
      · exact (releaseFrames_frames ..).trans (ih _)

/-! ### A command that sets a partition's record -/

section
variable {s : State} {q : QId} {p : Nat} {c : HostCmd}

theorem onlyParts_intro (s : State) (x : List Part) (n : Nat) (j : List JRec) :
    onlyParts s (((s.withParts x).withFree n).withJournal j) := by cases s; rfl

theorem onlyParts_frames (s : State) (x : List Part) (f : T1U) (n m : Nat) (j : List JRec) :
    onlyParts s ((((((s.withParts x).withT1 f).withFree n).withFree m).withJournal j).withT1 s.t1) := by cases s; rfl

/-- A command that replaces its partition's record completes and changes nothing else. -/
theorem setPart_completes (x : Part) (ready : hostReady s q c p = true) :
    Completes s (doneOk (setPart s p x) q) q 0 ∧ (doneOk (setPart s p x) q).parts = s.parts.set p x ∧
      onlyParts s (doneOk (setPart s p x) q) := by
  obtain ⟨d, e⟩ := doneOk_of_linkUp (s := setPart s p x) q (linkUp_of_hostReady (s := s) ready)
  rw [e]
  exact ⟨⟨d, rfl⟩, rfl, onlyParts_intro ..⟩

/-- So does one that changes frames besides, but for those. -/
theorem setPart_frames_completes (x : Part) {u : State} (ready : hostReady s q c p = true) (frames : FramesOnly (setPart s p x) u) :
    Completes s (doneOk u q) q 0 ∧ (doneOk u q).parts = s.parts.set p x ∧ onlyParts s ((doneOk u q).withT1 s.t1) := by
  have up : u.io.linkUp = true := by rw [frames]; exact linkUp_of_hostReady (s := s) ready
  obtain ⟨d, e⟩ := doneOk_of_linkUp q up
  rw [e, frames]
  exact ⟨⟨d, rfl⟩, rfl, onlyParts_frames ..⟩

theorem exec_partSeed {seed : BitVec 256} (ready : hostReady s q (.partSeed seed) p = true) :
    exec (.partSeed q seed) s = .next (doneOk (setPart s p { partAt s p with
      seed := seed, seedOn := if (partAt s p).st = .stopped then seed else (partAt s p).seedOn }) q) := by
  show execPartSeed q seed s = _
  exact hostCmd_ready _ ready

theorem exec_partFlagmask {m : FlagWord} (ready : hostReady s q (.partFlagmask m) p = true) :
    exec (.partFlagmask q m) s = .next (doneOk (setPart s p { partAt s p with flagmask := m }) q) := by
  show execPartFlagmask q m s = _
  exact hostCmd_ready _ ready

/-- PART_SERVE (R244); that what is in use is not asked is log entry 19 (DESIGN CHOICE). -/
theorem exec_partServe {n h : Nat} (ready : hostReady s q (.partServe n h) p = true) (entries : n ≤ 16384) (handles : h ≤ 4096)
    (fits : entrySums s p n = true) :
    exec (.partServe q n h) s = .next (doneOk (setPart s p { partAt s p with entries := n, handleQ := h }) q) := by
  have inRange : ¬(16384 < n ∨ 4096 < h) := by omega
  show execPartServe q n h s = _
  rw [execPartServe, hostCmd_ready _ ready, if_neg inRange, fits]
  rfl

/-- What PART_QUOTA makes of the frames: those beyond the new quota go, and waiting pins ask again (R199, R206). -/
def refitFrames (s : State) (p : Nat) : State :=
  servePins ([0, 1].foldl (fun s die => fitT1 s p die (partFrames s p die).length) s)

theorem refitFrames_frames (s : State) (p : Nat) : FramesOnly s (refitFrames s p) :=
  (FramesOnly.foldl (fun _ _ => fitT1_frames ..) _ s).trans (servePins_frames _)

theorem exec_partQuota {c : Quota} (ready : hostReady s q (.partQuota c) p = true) (range : quotaRange c = true)
    (sums : quotaSums s p c = true) (t2 : t2Used s p ≤ c.t2) (t3 : t3Used (partAt s p) ≤ c.t3) (held : heldFit s p c = true) :
    exec (.partQuota q c) s = .next (doneOk (refitFrames (setPart s p { partAt s p with quota := c }) p) q) := by
  have fits : ¬((!quotaSums s p c) = true ∨ c.t2 < t2Used s p ∨ c.t3 < t3Used (partAt s p) ∨ (!heldFit s p c) = true) := by
    simp [sums, held, t2, t3]
  show execPartQuota q c s = _
  rw [execPartQuota, hostCmd_ready _ ready]
  dsimp only
  rw [range, if_neg fits]
  rfl

end

/-- Settles O1: each command replaces its partition's record, PART_QUOTA refits the frames besides. -/
theorem partSettingsComplete : Obligations.PartSettingsComplete := by
  intro s q p _
  exact ⟨fun _ ready => ⟨_, exec_partSeed ready, setPart_completes _ ready⟩,
    fun _ ready => ⟨_, exec_partFlagmask ready, setPart_completes _ ready⟩,
    fun _ _ ready entries handles fits => ⟨_, exec_partServe ready entries handles fits, setPart_completes _ ready⟩,
    fun _ ready range sums t2 t3 held => ⟨_, exec_partQuota ready range sums t2 t3 held,
      setPart_frames_completes _ ready (refitFrames_frames ..)⟩⟩

end Sys2Proof.Machine

end

section
/-! PROOFS. The sampling units (R141 to R144, R163): EWSAMP, the acceptance of a part, and the draw. -/

namespace Sys2Proof.Machine

open Sys2Proof

/-! ### EWSAMP (R141, R142) -/

section
variable {s : State} {a : TileAt}

/-- Bytes of a part's ids and logits (R142). -/
def partLen (d : PartDesc) : Nat := d.count * (if d.list then 8 else if d.f16 then 2 else 4)

/-- A tile whose part waits for its unit, or no longer does. -/
def withPart (x : Tile) (d : Option PartDesc) : Tile := { x with sampWait := d }

@[simp] theorem dataOf_withPart (x : Tile) (d : Option PartDesc) : dataOf (withPart x d) = dataOf x := rfl

theorem seqRests_withPart {x : Tile} {q : Nat} (d : Option PartDesc) (rest : seqRests x q) : seqRests (withPart x d) q := by
  unfold seqRests popWord setQueue at *
  split_ifs at * <;> exact rest

@[simp] theorem popWord_sampWait (x : Tile) (q : Nat) : (popWord x q).sampWait = x.sampWait := by
  unfold popWord setQueue
  dsimp only
  split_ifs <;> rfl

theorem ewsamp_waits {h : QWord} {w : EwSampW} {d : PartDesc} (head : atHead s a 2 (.ewsamp w) = some h) (clean : h.bad = 0)
    (hc : (tileOf s a).chain = none) (fits : t0Ok s a false (64 * w.daddr.toNat) 32 = true)
    (hd : d = partDescOf (leNat (memRead (tileOf s a).t0 (64 * w.daddr.toNat) 32)))
    (partFits : t0Ok s a false (64 * d.addr) (partLen d) = true)
    (descClean : tagFirst (tileOf s a).pois (64 * w.daddr.toNat) 32 = 0)
    (partClean : tagFirst (tileOf s a).pois (64 * d.addr) (partLen d) = 0) :
    ∃ t, exec (.ewsamp a w) s = .next t ∧ (tileOf t a).sampWait = some d ∧ dataOf (tileOf t a) = dataOf (tileOf s a) ∧
      t.withTiles s.tiles = s := by
  obtain ⟨n, hn⟩ := tileIx_of_lt (atHead_eq_some_iff.1 head).inPart
  have hexec : exec (.ewsamp a w) s = .next (setTile s a.part a.tile (withPart (tileOf s a) (some d))) := by
    rw [tileOf] at *
    rw [partLen] at partFits partClean
    have pure : tagAll [0, 0, 0] = 0 := rfl
    show execEwsamp a w s = _
    simp only [execEwsamp, withPart, head, hc, fits, ← hd, partFits, clean, descClean, partClean, pure, ne_eq, not_true_eq_false,
      Bool.not_true, Bool.false_eq_true, if_false]
    rfl
  refine ⟨_, hexec, ?_⟩
  rw [tileOf_setTile _ hn, setTile_withTiles]
  exact ⟨rfl, dataOf_withPart .., rfl⟩

/-! ### The acceptance of a part (R143) -/

/-- The request that a part opens. -/
def openedBy (a : TileAt) (x : Tile) (d : PartDesc) : SampReq :=
  ⟨a.part, d.req, d.step, d.npart, [⟨d.part, partIds x d, partFlags x d⟩], d.rtile, d.rsem, 64 * d.raddr⟩

/-- The requests of the sampling units with the one that a part opens. -/
def withOpened (s : State) (a : TileAt) (d : PartDesc) : State := s.withSamp (s.samp ++ [openedBy a (tileOf s a) d])

theorem exec_samplePartAccept_opens {d : PartDesc} (hd : (tileOf s a).sampWait = some d) (run : issues s a.part = true)
    (good : partBad s a.part d (partIds (tileOf s a) d) = 0) (new : openReq s a.part d.req = none)
    (left : drawLeft s a.part d.req d.step = true)
    (room : (s.samp.filter (fun r => decide (dieOf s r.part r.rtile = dieOf s a.part d.rtile))).length < 1024) :
    exec (.samplePartAccept a) s = .next (finishWord (withOpened s a d) a 2 (withPart (tileOf s a) none)) := by
  have room' : ¬ sampCap ≤ (s.samp.filter (fun r => decide (dieOf s r.part r.rtile = dieOf s a.part d.rtile))).length :=
    Nat.not_le.2 room
  rw [withOpened]
  rw [tileOf] at *
  show execSamplePartAccept a s = _
  simp only [execSamplePartAccept, hd, run, good, new, left, room', ne_eq, not_true_eq_false, Bool.not_true, Bool.false_eq_true,
    if_false]
  rfl

theorem samplePartAccept_opens {d : PartDesc} (hd : (tileOf s a).sampWait = some d) (run : issues s a.part = true)
    (inPart : a.tile.val < nTiles s a.part) (rest : seqRests (tileOf s a) 2)
    (good : partBad s a.part d (partIds (tileOf s a) d) = 0) (new : openReq s a.part d.req = none)
    (left : drawLeft s a.part d.req d.step = true)
    (room : (s.samp.filter (fun r => decide (dieOf s r.part r.rtile = dieOf s a.part d.rtile))).length < 1024) :
    ∃ t, exec (.samplePartAccept a) s = .next t ∧ t.samp = s.samp ++ [openedBy a (tileOf s a) d] ∧
      (tileOf t a).sampWait = none ∧ dataOf (tileOf t a) = dataOf (tileOf s a) ∧ (t.withSamp s.samp).withTiles s.tiles = s := by
  obtain ⟨n, hn⟩ := tileIx_of_lt inPart
  have hn' : tileIx (withOpened s a d) a.part a.tile = some n := hn
  obtain ⟨tiles, e⟩ := setTile_changes (withOpened s a d) a.part a.tile (popWord (withPart (tileOf s a) none) 2)
  refine ⟨_, exec_samplePartAccept_opens hd run good new left room, ?_⟩
  rw [finishWord_of_rest hn' (seqRests_withPart none rest), tileOf_setTile _ hn', popWord_sampWait, dataOf_popWord, e]
  exact ⟨rfl, rfl, dataOf_withPart .., by cases s; rfl⟩

end

/-! ### A draw joins its step's record (R257) -/

section
variable {s : State} {p step : Nat}

/-- A step's record with one draw more. -/
def withDraw (y : StepRec) (d : Draw) : StepRec := { y with draws := y.draws ++ [d] }

theorem partAt_addDraw_ne {k : Nat} (d : Draw) (h : k ≠ p) : partAt (addDraw s p step d) k = partAt s k :=
  partAt_updPart_ne s _ h

theorem tileAt_addDraw (k j : Nat) (d : Draw) : tileAt (addDraw s p step d) k j = tileAt s k j := by
  refine tileAt_congr k j (tileIx_congr ?_ j) rfl
  exact (updPart_kept (g := Part.groups) s p _).own k

theorem stepRec_addDraw {y : StepRec} (d : Draw) (hp : p < s.parts.length) (hy : stepRec s p step = some y) :
    stepRec (addDraw s p step d) p step = some (withDraw y d) := by
  have kept : (fun x : StepRec => decide (x.step = step)) ∘ (fun x => if x.step = step then withDraw x d else x) =
      fun x => decide (x.step = step) := by
    funext x
    by_cases h : x.step = step <;> simp [h, withDraw]
  obtain ⟨r, hr, found⟩ := Option.bind_eq_some_iff.1 hy
  obtain ⟨c, hc, hcr⟩ := Option.bind_eq_some_iff.1 hr
  have own : y.step = step := by simpa using List.find?_some found
  rw [stepRec, addDraw, partAt_updPart_self _ hp, runOf, hc]
  simp only [Option.map_some, Option.bind_some, hcr]
  show List.find? _ (r.steps.map fun x => if x.step = step then withDraw x d else x) = _
  rw [List.find?_map, kept, found, Option.map_some, if_pos own]

end

/-! ### The draw of a complete request (R143, R144, R163) -/

section
variable {s : State} {q : SampReq}

/-- The token that a complete request draws. -/
def drawOf (s : State) (q : SampReq) (r : Req) (y : StepRec) : Draw :=
  { drawToken (((progOf (partAt s q.part)).map (fun p => p.tables)).getD []) r (drawsOf y q.req).length
      (q.parts.foldl (fun f y => f ||| y.fl) 0#7) (q.parts.map (fun y => y.ids)).flatten with req := q.req }

/-- The tile that a request names with the request's result record in T0 and its signal (R144), whose source is tile 0xFFFF (log entry 32,
DEDUCED). -/
def withResult (x : Tile) (q : SampReq) (d : Draw) : Tile :=
  { t0Write x q.raddr (srBytes d q.step) 0 with sigin := x.sigin ++ [⟨q.rsem, 1, 0xFFFF, 0⟩] }

theorem withResult_t0 (x : Tile) (q : SampReq) (d : Draw) : (withResult x q d).t0 = memWrite x.t0 q.raddr (srBytes d q.step) := by
  unfold withResult t0Write
  rfl

theorem withResult_sigin (x : Tile) (q : SampReq) (d : Draw) :
    (withResult x q d).sigin = x.sigin ++ [⟨q.rsem, 1, 0xFFFF, 0⟩] := by
  unfold withResult t0Write
  rfl

/-- The requests that a unit still holds once request q has drawn. -/
def withoutReq (s : State) (q : SampReq) : State :=
  s.withSamp (s.samp.filter (fun y => !(decide (y.part = q.part) && decide (y.req = q.req))))

/-- The state after a draw but for the step's record. -/
def resultWritten (s : State) (q : SampReq) (d : Draw) : State :=
  setTile (withoutReq s q) q.part q.rtile (withResult (tileAt s q.part q.rtile) q d)

theorem exec_sampleDraw {die : Fin 2} {n : Nat} {r : Req} {y : StepRec}
    (hq : (s.samp.filter (fun r => decide (dieOf s r.part r.rtile = die.val)))[n]? = some q)
    (hr : mapFind (partAt s q.part).reqs q.req = some r) (hy : stepRec s q.part q.step = some y)
    (whole : q.parts.length = q.npart) (run : issues s q.part = true) (room : (tileAt s q.part q.rtile).sigin.length < 256) :
    exec (.sampleDraw die n) s = .next (addDraw (resultWritten s q (drawOf s q r y)) q.part q.step (drawOf s q r y)) := by
  have goes : ¬(q.parts.length ≠ q.npart ∨ (!issues s q.part) = true ∨ inboundCap ≤ (tileAt s q.part q.rtile).sigin.length) := by
    simp [whole, run, inboundCap, room]
  show execSampleDraw die n s = _
  simp only [execSampleDraw, hq, hr, hy, goes, if_false]
  rfl

theorem mem_withoutReq (z : SampReq) : z ∈ (withoutReq s q).samp ↔ z ∈ s.samp ∧ ¬(z.part = q.part ∧ z.req = q.req) := by
  simp only [withoutReq, State.withSamp_samp, List.mem_filter, Bool.not_eq_true', Bool.and_eq_false_iff, decide_eq_false_iff_not,
    not_and_or]

theorem resultWritten_changes (s : State) (q : SampReq) (d : Draw) :
    ∃ tiles, resultWritten s q d = (withoutReq s q).withTiles tiles := setTile_changes ..

/-- What a draw leaves: the result record and the signal at the tile that the request names, the step's record, and the requests
that remain. -/
theorem sampleDraw_leaves {y : StepRec} (d : Draw) (hp : q.part < s.parts.length) (hy : stepRec s q.part q.step = some y)
    (inPart : q.rtile < nTiles s q.part) :
    let t := addDraw (resultWritten s q d) q.part q.step d
    (tileAt t q.part q.rtile).t0 = memWrite (tileAt s q.part q.rtile).t0 q.raddr (srBytes d q.step) ∧
      (tileAt t q.part q.rtile).sigin = (tileAt s q.part q.rtile).sigin ++ [⟨q.rsem, 1, 0xFFFF, 0⟩] ∧
      stepRec t q.part q.step = some (withDraw y d) ∧
      (∀ z, z ∈ t.samp ↔ (z ∈ s.samp ∧ ¬(z.part = q.part ∧ z.req = q.req))) ∧
      (∀ k, k ≠ q.part → partAt t k = partAt s k) ∧ t.t2 = s.t2 ∧ t.host = s.host := by
  intro t
  obtain ⟨n, hn⟩ := tileIx_of_lt inPart
  obtain ⟨tiles, written⟩ := resultWritten_changes s q d
  have tile : tileAt t q.part q.rtile = withResult (tileAt s q.part q.rtile) q d :=
    (tileAt_addDraw ..).trans (tileAt_setTile (withoutReq s q) _ hn)
  refine ⟨by rw [tile, withResult_t0], by rw [tile, withResult_sigin], ?record, fun z => ?requests, fun k hk => ?others, ?memory⟩
  case record => exact stepRec_addDraw d (by rw [written]; exact hp) (by rw [written]; exact hy)
  case requests =>
    show z ∈ (resultWritten s q d).samp ↔ _
    rw [written]
    exact mem_withoutReq z
  case others => rw [partAt_addDraw_ne d hk, written]; rfl
  case memory =>
    show (resultWritten s q d).t2 = _ ∧ (resultWritten s q d).host = _
    rw [written]
    exact ⟨rfl, rfl⟩

end

/-- Settles O21: EWSAMP, the part that opens a request, and the draw. -/
theorem samplingRuns : Obligations.SamplingRuns := by
  intro s a h hs _ x
  obtain ⟨⟨-, parts, -⟩, -⟩ := hs
  exact ⟨fun _ _ head clean hc fits hd partFits descClean partClean =>
      ewsamp_waits head clean hc fits hd partFits descClean partClean,
    fun _ hd run inPart rest good new left room => samplePartAccept_opens hd run inPart rest good new left room,
    fun _ _ _ _ _ hq hp hr hy whole run inPart room => ⟨_, _, exec_sampleDraw hq hr hy whole run room, rfl,
      sampleDraw_leaves _ (by rwa [parts]) hy inPart⟩⟩

end Sys2Proof.Machine

end

section
/-! PROOFS. Events that complete a partition's start and stop, the drain of a tile group, and the scrub of a partition's regions
(R148, R340, R341, R342, R343): what each leaves of partitions, groups, tiles and module memory, and which commands it completes. -/

namespace Sys2Proof.Machine

open Sys2Proof

/-! ### Groups of tiles, which no event of a partition changes -/

section
variable (s : State) (p : Nat)
@[simp] theorem tick_groups (t : Word64) : (tick s t).groups = s.groups := rfl
@[simp] theorem updPart_groups (f : Part → Part) : (updPart s p f).groups = s.groups := rfl
@[simp] theorem setPState_groups (st : PState) : (setPState s p st).groups = s.groups := by
  obtain ⟨_, _, _, _, e⟩ := setPState_changes s p st; rw [e]; rfl
@[simp] theorem commitWhere_groups (c : JRec → Bool) (status : Nat) (detail : Option Nat) :
    (commitWhere s c status detail).groups = s.groups := by
  obtain ⟨_, e⟩ := commitWhere_changes s c status detail; rw [e]; rfl
end

/-! ### Started commands of one kind (R340, R341) -/

theorem eq_partStart_of_isStart {c : HostCmd} (h : isStart c = true) : c = .partStart := by
  unfold isStart at h
  split at h
  · rfl
  · cases h

theorem eq_partStop_of_isStop {c : HostCmd} (h : isStop c = true) : c = .partStop := by
  unfold isStop at h
  split at h
  · rfl
  · cases h

theorem isStop_of_isStart {c : HostCmd} (h : isStart c = true) : isStop c = false := by
  rw [eq_partStart_of_isStart h]; rfl

theorem isDestroy_of_isStart {c : HostCmd} (h : isStart c = true) : isDestroy c = false := by
  rw [eq_partStart_of_isStart h]; rfl

theorem isDestroy_of_isStop {c : HostCmd} (h : isStop c = true) : isDestroy c = false := by
  rw [eq_partStop_of_isStop h]; rfl

/-- Is a record that of a started command of a partition that satisfies a test? -/
def runsOne (p : Nat) (d : HostCmd → Bool) (r : JRec) : Bool := decide (r.st = .started) && cmdOf p d r

/-- Commands of one kind that complete leave those of another kind running. -/
theorem runsCmd_commitWhere {s : State} {p status : Nat} {detail : Option Nat} {c d : HostCmd → Bool}
    (apart : ∀ {x}, c x = true → d x = false) :
    runsCmd (commitWhere s (cmdOf p c) status detail) p d = runsCmd s p d := by
  have one (e : JRec × Nat) : runsOne p d (commitOne s (cmdOf p c) status detail e) = runsOne p d e.1 := by
    unfold commitOne
    split
    · rename_i done
      obtain ⟨-, -, hc⟩ : e.1.st = .started ∧ recPart e.1 = p ∧ c e.1.entry.cmd = true := by simpa [cmdOf] using done
      simp [runsOne, committed, cmdOf, apart hc]
    · rfl
  calc runsCmd (commitWhere s (cmdOf p c) status detail) p d
      = (s.journal.zipIdx.map (commitOne s (cmdOf p c) status detail)).any (runsOne p d) := by rw [← commitWhere_journal]; rfl
    _ = (s.journal.zipIdx.map Prod.fst).any (runsOne p d) := by simp only [List.any_map, Function.comp_def, one]
    _ = runsCmd s p d := by rw [List.zipIdx_map_fst]; rfl

/-! ### STARTING_COMPLETE (R148, R340, R341) -/

/-- A partition's record with its whorl table expanded from the seed in effect and its energy budget full. -/
def expanded (x : Part) : Part := { x with whorl := some (expandSeed x.seedOn), bal := budgetOf x }

/-- A partition's record once it runs. -/
def runningPart (x : Part) : Part := { expanded x with st := .running }

/-- The partition runs, and its PART_START has completed. -/
def startedUp (s : State) (p : Nat) : State :=
  commitWhere (setPState (updPart s p expanded) p .running) (cmdOf p isStart) 0 none

theorem exec_startingComplete {s : State} {p : Fin 32} {t : Word64} (starting : (partAt s p).st = .starting)
    (up : hubUp s = true) (now : s.time.now.ule t = true) :
    exec (.startingComplete p t) s = .next (beginStop (startedUp (tick s t) p) p) := by
  show execStartingComplete p t s = _
  rw [execStartingComplete, if_neg (by simp [starting, up]), atTime_of_ule _ now]
  rfl

theorem beginStop_of_idle {s : State} {p : Nat} (stop : runsCmd s p isStop = false) (destroy : runsCmd s p isDestroy = false) :
    beginStop s p = s := if_neg (by simp [stop, destroy])

theorem beginStop_of_waiting {s : State} {p : Nat} (running : (partAt s p).st = .running)
    (waits : runsCmd s p isStop = true ∨ runsCmd s p isDestroy = true) : beginStop s p = setPState s p .stopping :=
  if_pos ⟨running, waits⟩

section
variable {s : State} {p : Nat}

theorem startedUp_parts (hp : p < s.parts.length) :
    (startedUp s p).parts = s.parts.set p (runningPart (partAt s p)) := by
  rw [startedUp, commitWhere_parts, setPState_parts, partAt_updPart_self _ hp]
  exact List.set_set ..

theorem partAt_startedUp_self (hp : p < s.parts.length) : partAt (startedUp s p) p = runningPart (partAt s p) := by
  rw [← partAt_updPart_self runningPart hp]
  exact partAt_congr (startedUp_parts hp) p

theorem partAt_startedUp_ne {k : Nat} (hp : p < s.parts.length) (hk : k ≠ p) : partAt (startedUp s p) k = partAt s k := by
  rw [← partAt_updPart_ne s runningPart hk]
  exact partAt_congr (startedUp_parts hp) k

theorem startedUp_commits {r : JRec} (hr : r ∈ s.journal) (hs : r.st = .started) (hc : cmdOf p isStart r = true) :
    CommittedIn (startedUp s p) r 0 s.time.now := by
  have done := commitWhere_commits (s := setPState (updPart s p expanded) p .running) (status := 0) (detail := none)
    (by rwa [setPState_journal, updPart_journal]) hs hc
  rwa [setPState_time, updPart_time] at done

theorem mem_startedUp {r : JRec} (hr : r ∈ s.journal) (h : r.st ≠ .started ∨ cmdOf p isStart r = false) :
    r ∈ (startedUp s p).journal := mem_commitWhere (by rwa [setPState_journal, updPart_journal]) h

theorem runsCmd_startedUp {d : HostCmd → Bool} (apart : ∀ {x}, isStart x = true → d x = false) :
    runsCmd (startedUp s p) p d = runsCmd s p d := by
  rw [startedUp, runsCmd_commitWhere apart, runsCmd, setPState_journal]
  rfl

end

/-! ### Tiles that are scrubbed (R342, R343) -/

/-- From s to t tiles, frames, sampling requests and the pages that a function's invalidations wait for alone may have changed. -/
abbrev ScrubsOnly (s t : State) : Prop :=
  t = { s with tiles := t.tiles, t1 := t.t1, samp := t.samp, fns := t.fns, free := t.free }

namespace ScrubsOnly
variable {s t u : State}

theorem refl (s : State) : ScrubsOnly s s := rfl

theorem trans (h : ScrubsOnly s t) (g : ScrubsOnly t u) : ScrubsOnly s u := Eq.trans g (by rw [h])

theorem foldl {α : Type} {f : State → α → State} (h : ∀ s a, ScrubsOnly s (f s a)) (l : List α) (s : State) :
    ScrubsOnly s (l.foldl f s) := by
  induction l generalizing s with
  | nil => exact .refl s
  | cons a l ih => exact (h s a).trans (ih _)

theorem ofFrames (h : FramesOnly s t) : ScrubsOnly s t := Eq.trans h (by rw [h]; rfl)

theorem parts (h : ScrubsOnly s t) : t.parts = s.parts := by rw [h]
theorem groups (h : ScrubsOnly s t) : t.groups = s.groups := by rw [h]
theorem journal (h : ScrubsOnly s t) : t.journal = s.journal := by rw [h]
theorem time (h : ScrubsOnly s t) : t.time = s.time := by rw [h]
theorem t2 (h : ScrubsOnly s t) : t.t2 = s.t2 := by rw [h]
theorem host (h : ScrubsOnly s t) : t.host = s.host := by rw [h]
theorem fabric (h : ScrubsOnly s t) : t.fabric = s.fabric := by rw [h]

/-- A partition's record changes alike before and after. -/
theorem updPart (h : ScrubsOnly s t) (p : Nat) (f : Part → Part) :
    ScrubsOnly (Machine.updPart s p f) (Machine.updPart t p f) := by
  rw [h]; rfl

end ScrubsOnly

/-- Scrub one tile, whose reads of store memory end. -/
def scrubOne (s : State) (n : Nat) : State :=
  setTileRaw (readersDone s (tileFrames (tileRaw s n))) n (scrubTile (tileRaw s n))

theorem scrubGroup_eq (s : State) (g : Nat) :
    scrubGroup s g = sweepAll ((List.range 8).foldl (fun s k => scrubOne s (8 * g + k)) s) := rfl

theorem scrubOne_scrubs (s : State) (n : Nat) : ScrubsOnly s (scrubOne s n) := by
  obtain ⟨x, e⟩ := readersDone_changes s (tileFrames (tileRaw s n))
  rw [scrubOne, e]
  rfl

theorem sweepAll_scrubs (s : State) : ScrubsOnly s (sweepAll s) := by
  obtain ⟨x, e⟩ := sweepAll_changes s
  rw [e]
  rfl

theorem scrubGroup_scrubs (s : State) (g : Nat) : ScrubsOnly s (scrubGroup s g) :=
  (ScrubsOnly.foldl (fun s k => scrubOne_scrubs s (8 * g + k)) _ s).trans (sweepAll_scrubs _)

theorem tileRaw_congr {s t : State} (h : t.tiles = s.tiles) (n : Nat) : tileRaw t n = tileRaw s n := by
  rw [tileRaw, tileRaw, h]

theorem tileRaw_scrubOne (s : State) (k n : Nat) :
    tileRaw (scrubOne s k) n = if n = k then scrubTile (tileRaw s n) else tileRaw s n := by
  rw [scrubOne, tileRaw_setTileRaw, tileRaw_congr (readersDone_tiles ..)]
  split
  · rename_i same
    rw [same]
  · rfl

theorem scrubTile_twice (x : Tile) : scrubTile (scrubTile x) = scrubTile x := rfl

/-- Steps that each scrub the tiles they hit scrub, one after the other, the tiles that any of them hits. -/
theorem tileRaw_foldl_scrubs {f : State → Nat → State} {hit : Nat → Nat → Prop} [∀ k n, Decidable (hit k n)]
    (hf : ∀ s k n, tileRaw (f s k) n = if hit k n then scrubTile (tileRaw s n) else tileRaw s n) (l : List Nat) (s : State) (n : Nat) :
    tileRaw (l.foldl f s) n = if ∃ k ∈ l, hit k n then scrubTile (tileRaw s n) else tileRaw s n := by
  induction l generalizing s with
  | nil => simp
  | cons k l ih =>
    rw [List.foldl_cons, ih, hf]
    by_cases first : hit k n <;> by_cases later : ∃ j ∈ l, hit j n <;> simp [first, later, scrubTile_twice]

theorem tileRaw_scrubGroup (s : State) (g n : Nat) :
    tileRaw (scrubGroup s g) n = if n / 8 = g then scrubTile (tileRaw s n) else tileRaw s n := by
  have inGroup : (∃ k ∈ List.range 8, n = 8 * g + k) ↔ n / 8 = g := by
    simp only [List.mem_range]
    exact ⟨fun ⟨k, hk, e⟩ => by omega, fun h => ⟨n % 8, by omega, by omega⟩⟩
  rw [scrubGroup_eq, tileRaw_congr (sweepAll_tiles _), tileRaw_foldl_scrubs fun s k n => tileRaw_scrubOne s (8 * g + k) n]
  simp only [inGroup]

theorem tileRaw_scrubGroups (s : State) (gs : List Nat) (n : Nat) :
    tileRaw (gs.foldl scrubGroup s) n = if n / 8 ∈ gs then scrubTile (tileRaw s n) else tileRaw s n := by
  rw [tileRaw_foldl_scrubs tileRaw_scrubGroup]
  simp

/-- No tile is marked for replacement (R402). -/
abbrev Unmarked (s : State) : Prop := ∀ n, (tileRaw s n).replace = false

theorem Unmarked.scrubGroup {s : State} (h : Unmarked s) (g : Nat) : Unmarked (scrubGroup s g) := fun n => by
  rw [tileRaw_scrubGroup]
  split <;> exact h n

theorem Unmarked.scrubGroups {s : State} (h : Unmarked s) (gs : List Nat) : Unmarked (gs.foldl Machine.scrubGroup s) := fun n => by
  rw [tileRaw_scrubGroups]
  split <;> exact h n

/-- Where no tile is marked, none is replaced. -/
theorem replaceTiles_of_unmarked {s : State} (h : Unmarked s) (g : Nat) : replaceTiles s g = s :=
  List.foldl_fixed' (fun k => by simp [h (8 * g + k)]) _

theorem scrubTile_of_unmarked {x : Tile} (h : x.replace = false) : scrubTile x = { Tile.reset with errs := x.errs } := by
  rw [scrubTile, h]
  rfl

/-! ### STOP_COMPLETE (R340, R341, R343) -/

/-- What a stop leaves of a partition's record: no whorl table, and no snapshot that waits for marks. -/
def withoutWhorl (x : Part) : Part :=
  { x with whorl := none, snaps := x.snaps.filter (fun e => !(e.2.mark && decide (e.2.need ≠ []))) }

theorem ScrubsOnly.dropFailed {s t : State} (h : ScrubsOnly s t) (p : Nat) :
    ScrubsOnly (Machine.dropFailed s p) (Machine.dropFailed t p) := by
  rw [h]; rfl

theorem releasePart_scrubs (s : State) (p : Nat) : ScrubsOnly s (releasePart s p) :=
  .ofFrames ((releaseFrames_frames ..).trans (servePins_frames _))

/-- A partition of sound groups keeps them all. -/
theorem dropFailed_of_sound {s : State} {p : Nat} (sound : ∀ g ∈ (partAt s p).groups, (groupAt s g).st ≠ .failed) :
    dropFailed s p = s := by
  have all : (partAt s p).groups.filter (fun g => !(decide ((groupAt s g).st = .failed))) = (partAt s p).groups :=
    List.filter_eq_self.2 fun g hg => by simp [sound g hg]
  rw [dropFailed, updPart, all, setPart_changes, partAt, set_getD_self]
  rfl

section
variable {s : State} (unmarked : Unmarked s) (p : Nat)
include unmarked

/-- The scrub of a partition without marked tiles, step by step. -/
theorem scrubPart_eq :
    let u := updPart (dropFailed ((partAt s p).groups.foldl scrubGroup s) p) p withoutWhorl
    scrubPart s p = releasePart (u.withSamp (u.samp.filter (fun y => y.part ≠ p))) p := by
  rw [scrubPart, List.foldl_fixed' (replaceTiles_of_unmarked (unmarked.scrubGroups _))]
  rfl

theorem scrubPart_scrubs : ScrubsOnly (updPart (dropFailed s p) p withoutWhorl) (scrubPart s p) := by
  have groups : ScrubsOnly s ((partAt s p).groups.foldl scrubGroup s) := .foldl scrubGroup_scrubs _ s
  rw [scrubPart_eq unmarked]
  exact ((groups.dropFailed p).updPart p withoutWhorl).trans (ScrubsOnly.trans rfl (releasePart_scrubs ..))

theorem tileRaw_scrubPart (n : Nat) :
    tileRaw (scrubPart s p) n = if n / 8 ∈ (partAt s p).groups then { Tile.reset with errs := (tileRaw s n).errs } else tileRaw s n := by
  rw [scrubPart_eq unmarked, ← scrubTile_of_unmarked (unmarked n), ← tileRaw_scrubGroups]
  exact tileRaw_congr (releasePart_tiles ..) n

end

/-- The partition's tiles are scrubbed, and its PART_STOP has completed. -/
def stopDone (s : State) (p : Nat) : State := commitWhere (scrubPart s p) (cmdOf p isStop) 0 none

/-- A partition's record with its newest seed in effect (R147). -/
def reseeded (x : Part) : Part := { x with seedOn := x.seed }

section
variable {s : State} {p : Nat} (unmarked : Unmarked s)
include unmarked

theorem stopDone_commits {r : JRec} (hr : r ∈ s.journal) (hs : r.st = .started) (hc : cmdOf p isStop r = true) :
    CommittedIn (stopDone s p) r 0 s.time.now := by
  have scrubs := scrubPart_scrubs unmarked p
  have done := commitWhere_commits (status := 0) (detail := none) (scrubs.journal ▸ hr) hs hc
  rwa [scrubs.time] at done

theorem mem_stopDone {r : JRec} (hr : r ∈ s.journal) (h : r.st ≠ .started ∨ cmdOf p isStop r = false) :
    r ∈ (stopDone s p).journal := mem_commitWhere ((scrubPart_scrubs unmarked p).journal ▸ hr) h

theorem runsDestroy_stopDone : runsCmd (stopDone s p) p isDestroy = runsCmd s p isDestroy := by
  rw [stopDone, runsCmd_commitWhere isDestroy_of_isStop, runsCmd, (scrubPart_scrubs unmarked p).journal]
  rfl

theorem partAt_stopDone (k : Nat) : partAt (stopDone s p) k = partAt (updPart (dropFailed s p) p withoutWhorl) k :=
  partAt_congr ((commitWhere_parts ..).trans (scrubPart_scrubs unmarked p).parts) k

theorem partAt_stopDone_ne {k : Nat} (hk : k ≠ p) : partAt (stopDone s p) k = partAt s k := by
  rw [partAt_stopDone unmarked, partAt_updPart_ne _ _ hk, dropFailed, partAt_updPart_ne _ _ hk]

/-- A partition of sound groups keeps its record but for what a stop takes. -/
theorem stopDone_parts (sound : ∀ g ∈ (partAt s p).groups, (groupAt s g).st ≠ .failed) :
    (stopDone s p).parts = s.parts.set p (withoutWhorl (partAt s p)) := by
  rw [stopDone, commitWhere_parts, (scrubPart_scrubs unmarked p).parts, dropFailed_of_sound sound]
  rfl

theorem stopDone_partsLength : (stopDone s p).parts.length = s.parts.length := by
  rw [stopDone, commitWhere_parts, (scrubPart_scrubs unmarked p).parts, updPart_partsLength]
  exact updPart_partsLength ..

theorem tileRaw_stopDone (n : Nat) : tileRaw (stopDone s p) n =
    if n / 8 ∈ (partAt s p).groups then { Tile.reset with errs := (tileRaw s n).errs } else tileRaw s n :=
  (tileRaw_congr (commitWhere_tiles ..) n).trans (tileRaw_scrubPart unmarked p n)

theorem stopDone_t2 : (stopDone s p).t2 = s.t2 := (commitWhere_t2 ..).trans (scrubPart_scrubs unmarked p).t2

theorem stopDone_groups : (stopDone s p).groups = s.groups := (commitWhere_groups ..).trans (scrubPart_scrubs unmarked p).groups

theorem stopDone_fabric : (stopDone s p).fabric = s.fabric := (commitWhere_fabric ..).trans (scrubPart_scrubs unmarked p).fabric

end

theorem tick_unmarked {s : State} (h : Unmarked s) (t : Word64) : Unmarked (tick s t) := h

theorem exec_stopComplete {s : State} {p : Fin 32} {t : Word64} (awaits : (partAt s p).st = .stopping ∨ (partAt s p).st = .pendingEnable)
    (camp : (partAt s p).camp = none) (fault : (partAt s p).fault = none) (kept : runsCmd s p isDestroy = false)
    (unmarked : Unmarked s) (now : s.time.now.ule t = true) :
    exec (.stopComplete p t) s = .next (
      if (partAt s p).st = .pendingEnable then setPState (updPart (stopDone (tick s t) p) p reseeded) p .starting
      else setPState (stopDone (tick s t) p) p .stopped) := by
  have undestroyed : ¬ runsCmd (stopDone (tick s t) p) p isDestroy = true := by
    rw [runsDestroy_stopDone (tick_unmarked unmarked t)]
    exact ne_true_of_eq_false kept
  have stops : ¬ ((!(decide ((partAt s p).st = .stopping) || decide ((partAt s p).st = .pendingEnable))) = true ∨
      (partAt s p).camp.isSome = true ∨ (partAt s p).fault.isSome = true) := by
    rcases awaits with h | h <;> simp [h, camp, fault]
  show execStopComplete p t s = _
  dsimp only [execStopComplete]
  rw [if_neg stops, atTime_of_ule _ now]
  exact congrArg ok (if_neg undestroyed)

/-! ### GROUP_DRAIN_COMPLETE (R342, R343) -/

/-- From s to t commands may have completed, and of the partitions only p's record may have changed. -/
structure AddsOnly (p : Nat) (s t : State) : Prop where
  rest : t = { s with journal := t.journal, io := t.io, parts := t.parts }
  others : ∀ k, k ≠ p → partAt t k = partAt s k

theorem AddsOnly.refl (p : Nat) (s : State) : AddsOnly p s s := ⟨rfl, fun _ _ => rfl⟩

theorem AddsOnly.trans {p : Nat} {s t u : State} (h : AddsOnly p s t) (g : AddsOnly p t u) : AddsOnly p s u :=
  ⟨g.rest.trans (by rw [h.rest]), fun k hk => (g.others k hk).trans (h.others k hk)⟩

theorem AddsOnly.groups {p : Nat} {s t : State} (h : AddsOnly p s t) : t.groups = s.groups := by rw [h.rest]
theorem AddsOnly.t2 {p : Nat} {s t : State} (h : AddsOnly p s t) : t.t2 = s.t2 := by rw [h.rest]
theorem AddsOnly.host {p : Nat} {s t : State} (h : AddsOnly p s t) : t.host = s.host := by rw [h.rest]

theorem commitCmd_adds (p : Nat) (s : State) (q : QId) (status d : Nat) : AddsOnly p s (commitCmd s q status d) := by
  obtain ⟨io, e⟩ := commitCmd_changes s q status d
  rw [e]
  exact ⟨rfl, fun _ _ => rfl⟩

theorem finishAdd_adds (s : State) (p : Nat) (r : JRec) : AddsOnly p s (finishAdd s p r) := by
  unfold finishAdd
  split
  · dsimp only
    split
    · exact .refl p s
    · generalize ht : updPart s p _ = t
      have grown : AddsOnly p s t := ht ▸ ⟨rfl, fun _ hk => partAt_updPart_ne s _ hk⟩
      exact grown.trans (commitCmd_adds ..)
  · exact .refl p s

/-- The completion of waiting GROUP_ADDs of a partition. -/
theorem finishAdds_adds (s : State) (p : Nat) : AddsOnly p s (finishAdds s p) := by
  unfold finishAdds
  generalize s.journal = l
  induction l generalizing s with
  | nil => exact .refl p s
  | cons r l ih => exact (finishAdd_adds s p r).trans (ih _)

/-- What the event makes of a group that is sound: FREE, or ASSIGNED to the partition that waits for it. -/
def groupReady (s : State) (g : Nat) (x : Group) : State :=
  if x.st = .draining then setGroup s g ⟨.free, 0⟩ else finishAdds (setGroup s g ⟨.assigned, x.part⟩) x.part

theorem groupAt_congr {s t : State} (h : t.groups = s.groups) (k : Nat) : groupAt t k = groupAt s k := by
  rw [groupAt, groupAt, h]

theorem exec_groupDrainComplete {s : State} {g : Fin 24} {t : Word64}
    (drains : (groupAt s g).st = .draining ∨ (groupAt s g).st = .pendingEnable) (unmarked : Unmarked s)
    (now : s.time.now.ule t = true) :
    exec (.groupDrainComplete g t) s = .next (groupReady (scrubGroup (tick s t) g) g (groupAt s g)) := by
  have sound : ¬ (groupAt (scrubGroup (tick s t) g) g).st = .failed := by
    rw [groupAt_congr (scrubGroup_scrubs (tick s t) g).groups, groupAt_congr (tick_groups s t)]
    rcases drains with h | h <;> simp [h]
  show execGroupDrainComplete g t s = _
  dsimp only [execGroupDrainComplete]
  rw [if_neg (by rcases drains with h | h <;> simp [h]), atTime_of_ule _ now,
    replaceTiles_of_unmarked ((tick_unmarked unmarked t).scrubGroup g), if_neg sound]
  rfl

/-- A scrubbed group's tiles, and every other. -/
theorem tileRaw_scrubGroup_unmarked {s : State} (unmarked : Unmarked s) (g : Nat) :
    (∀ k, k < 8 → tileRaw (scrubGroup s g) (8 * g + k) = { Tile.reset with errs := (tileRaw s (8 * g + k)).errs }) ∧
      ∀ n, n / 8 ≠ g → tileRaw (scrubGroup s g) n = tileRaw s n := by
  refine ⟨fun k hk => ?_, fun n hn => ?_⟩
  · rw [tileRaw_scrubGroup, if_pos (by omega), scrubTile_of_unmarked (unmarked _)]
  · rw [tileRaw_scrubGroup, if_neg hn]

/-! ### REGIONS_SCRUBBED (R340) -/

/-- A read of a table some of whose keys are gone. -/
theorem mapGet_filter {α : Type} (d : α) (m : Map α) (c : Nat → Bool) (k : Nat) :
    mapGet d (m.filter (fun e => c e.1)) k = if c k then mapGet d m k else d := by
  induction m with
  | nil => simp [mapGet]
  | cons a m ih =>
    rw [List.filter_cons]
    split <;> grind [mapGet]

theorem foldl_mem {α : Type} {f : T2U → α → T2U} (h : ∀ t a, (f t a).mem = t.mem) (l : List α) (t : T2U) :
    (l.foldl f t).mem = t.mem := by
  induction l generalizing t with
  | nil => rfl
  | cons a l ih => rw [List.foldl_cons, ih, h]

/-- Zeroed pages hold no byte, and no other byte changes. -/
theorem zeroPages_mem (s : State) (pages : List Nat) :
    (zeroPages s pages).t2.mem = s.t2.mem.filter (fun e => !pages.contains (e.1 / pageSize)) := by
  unfold zeroPages
  dsimp only [State.withT2_t2]
  split
  · rfl
  · rw [foldl_mem fun t g => foldl_mem (f := fun t k => setPois t (2048 * g + k) false) (fun _ _ => rfl) (List.range 2048) t]

/-- A byte of a zeroed page reads 0, any other as before. -/
theorem memGet_zeroPages (s : State) (pages : List Nat) (a : Nat) :
    memGet (zeroPages s pages).t2.mem a = if a / pageSize ∈ pages then 0 else memGet s.t2.mem a := by
  rw [memGet, zeroPages_mem, mapGet_filter memDefault s.t2.mem (fun k => !pages.contains (k / pageSize))]
  by_cases h : a / pageSize ∈ pages <;> simp [h, memGet, memDefault]

/-- The queues of a function. -/
def Fn.queues (x : Fn) : List (Option SubQ) × List (Option CplQ) := (x.sqs, x.cqs)

/-- No function's queues change from s to t. -/
abbrev QueuesKept (s t : State) : Prop := ∀ k, (fnAt t k).queues = (fnAt s k).queues

theorem setFn_queues {s : State} {f : Nat} {x : Fn} (h : x.queues = (fnAt s f).queues) : QueuesKept s (setFn s f x) := fun k => by
  by_cases hk : k = f
  · subst hk
    by_cases hf : k < s.fns.length
    · rw [fnAt_setFn s k k x hf, if_pos rfl, h]
    · rw [fnAt_congr (t := setFn s k x) (List.set_eq_of_length_le (Nat.not_lt.1 hf))]
  · rw [fnAt_setFn_ne s x hk]

theorem raiseMsix_queues (s : State) (f v : Nat) : QueuesKept s (raiseMsix s f v) := by
  unfold raiseMsix
  dsimp only
  split
  · exact setFn_queues rfl
  · exact fun _ => rfl

theorem pushEvent_queues {s : State} {f : Nat} {y : Fn} (h : y.queues = (fnAt s f).queues) (src part body : Nat) :
    QueuesKept s (pushEvent s f y src part body) := fun k => by
  rw [pushEvent, raiseMsix_queues, setFn_queues, fnAt_hostWrite]
  rwa [fnAt_hostWrite]

/-- An event leaves every queue of every function. -/
theorem postEventTo_queues (s : State) (f src part body : Nat) : QueuesKept s (postEventTo s f src part body) := fun k => by
  unfold postEventTo
  dsimp only
  split
  · rw [fnAt_assertWake]
  · split
    · rw [setFn_queues, fnAt_assertWake]
      rw [fnAt_assertWake]
      rfl
    · rw [pushEvent_queues (by rw [fnAt_assertWake]), fnAt_assertWake]

theorem postEvent_queues (s : State) (src part body : Nat) : QueuesKept s (postEvent s src part body) := fun k => by
  unfold postEvent
  dsimp only
  split
  · rw [postEventTo_queues]
  · rw [postEventTo_queues, postEventTo_queues]

theorem setPState_queues (s : State) (p : Nat) (st : PState) : QueuesKept s (setPState s p st) := fun k => by
  unfold setPState
  dsimp only
  split
  · rfl
  · rw [postEvent_queues]
    rfl

/-- What has committed stays committed while a function's commands complete. -/
theorem CommittedIn.afterFlushFn {s : State} {r : JRec} {st f a b : Nat} {t : Word64} (h : CommittedIn s r st t) :
    CommittedIn (flushFn s f a b) r st t := by
  obtain ⟨r', hr', hq, hseq, he, hst, hrest⟩ := h
  obtain ⟨i, hi⟩ := mem_rewritten_of_mem (flushOne s f a b) hr'
  rw [flushOne, if_neg (by simp [hst])] at hi
  exact ⟨r', hi, hq, hseq, he, hst, hrest⟩

/-- The pages of a destroyed partition are zero, and its PART_DESTROY has completed. -/
def destroyDone (s : State) (p : Nat) : State :=
  commitWhere (zeroPages s (partPages (partAt s p))) (cmdOf p isDestroy) 0 none

/-- The partition's function has no command and no queue left, and the partition is UNUSED. -/
def leaveUnused (s : State) (p : Nat) : State :=
  setPart (setPState (dropQueues (flushFn s p 0x0202 0x0202) p) p .unused) p Part.unused

theorem exec_regionsScrubbed {s : State} {p : Fin 32} {t : Word64} (destroying : (partAt s p).st = .destroying)
    (now : s.time.now.ule t = true) :
    exec (.regionsScrubbed p t) s = .next (leaveUnused (destroyDone (tick s t) p) p) := by
  show execRegionsScrubbed p t s = _
  rw [execRegionsScrubbed, if_neg (by simp [destroying]), atTime_of_ule _ now]
  rfl

@[simp] theorem destroyDone_fns (s : State) (p : Nat) : (destroyDone s p).fns = s.fns := commitWhere_fns ..
@[simp] theorem destroyDone_parts (s : State) (p : Nat) : (destroyDone s p).parts = s.parts := commitWhere_parts ..
@[simp] theorem destroyDone_groups (s : State) (p : Nat) : (destroyDone s p).groups = s.groups := commitWhere_groups ..
@[simp] theorem destroyDone_tiles (s : State) (p : Nat) : (destroyDone s p).tiles = s.tiles := commitWhere_tiles ..

theorem destroyDone_mem (s : State) (p a : Nat) : memGet (destroyDone s p).t2.mem a =
    if a / pageSize ∈ partPages (partAt s p) then 0 else memGet s.t2.mem a := by
  rw [destroyDone, commitWhere_t2, memGet_zeroPages]

theorem destroyDone_commits {s : State} {p : Nat} {r : JRec} (hr : r ∈ s.journal) (hs : r.st = .started)
    (hc : cmdOf p isDestroy r = true) : CommittedIn (destroyDone s p) r 0 s.time.now :=
  commitWhere_commits (s := zeroPages s (partPages (partAt s p))) hr hs hc

section
variable (s : State) (p : Nat)

theorem leaveUnused_t2 : (leaveUnused s p).t2 = s.t2 := setPState_t2 ..
theorem leaveUnused_tiles : (leaveUnused s p).tiles = s.tiles := setPState_tiles ..
theorem leaveUnused_groups : (leaveUnused s p).groups = s.groups := setPState_groups ..
theorem leaveUnused_journal : (leaveUnused s p).journal = (flushFn s p 0x0202 0x0202).journal := setPState_journal ..

variable {s p}

theorem partAt_leaveUnused_self (hp : p < s.parts.length) : partAt (leaveUnused s p) p = Part.unused := by
  rw [leaveUnused, partAt_setPart _ _ _ _ (by rw [setPState_partsLength]; exact hp), if_pos rfl]

theorem partAt_leaveUnused_ne {k : Nat} (hk : k ≠ p) : partAt (leaveUnused s p) k = partAt s k := by
  rw [leaveUnused, partAt_setPart_ne _ _ hk, partAt_setPState_ne _ _ hk]
  rfl

theorem leaveUnused_noQueue (hp : p < s.fns.length) (n : Nat) :
    sqAt (leaveUnused s p) p n = none ∧ cqAt (leaveUnused s p) p n = none := by
  let u := flushFn s p 0x0202 0x0202
  have queues : (fnAt (leaveUnused s p) p).queues = (List.replicate 8 none, List.replicate 8 none) := by
    refine (setPState_queues (dropQueues u p) p .unused p).trans ?_
    rw [dropQueues, fnAt_setFn u p p _ hp, if_pos rfl]
    rfl
  have sqs : (fnAt (leaveUnused s p) p).sqs = List.replicate 8 none := congrArg Prod.fst queues
  have cqs : (fnAt (leaveUnused s p) p).cqs = List.replicate 8 none := congrArg Prod.snd queues
  rw [sqAt, cqAt, sqs, cqs]
  simp only [List.getD_eq_getElem?_getD, List.getElem?_getD_replicate_default_eq, and_self]

end

/-! ### The events, clause by clause -/

section
variable {s : State} {p : Fin 32} {t : Word64} (hp : p.val < s.parts.length) (now : s.time.now.ule t = true)
include hp now

theorem startingComplete_runs (starting : (partAt s p).st = .starting) (up : hubUp s = true)
    (stop : runsCmd s p isStop = false) (destroy : runsCmd s p isDestroy = false) :
    ∃ s', exec (.startingComplete p t) s = .next s' ∧ s'.parts = s.parts.set p (runningPart (partAt s p)) ∧
      (∀ r ∈ s.journal, r.st = .started → cmdOf p isStart r → CommittedIn s' r 0 t) ∧
      (∀ r ∈ s.journal, r.st ≠ .started ∨ cmdOf p isStart r = false → r ∈ s'.journal) ∧ s'.tiles = s.tiles ∧
      s'.groups = s.groups ∧ s'.t2 = s.t2 ∧ s'.fabric = s.fabric := by
  have idle : beginStop (startedUp (tick s t) p) p = startedUp (tick s t) p :=
    beginStop_of_idle ((runsCmd_startedUp isStop_of_isStart).trans stop) ((runsCmd_startedUp isDestroy_of_isStart).trans destroy)
  refine ⟨_, exec_startingComplete starting up now, ?_⟩
  rw [idle]
  exact ⟨startedUp_parts (s := tick s t) hp, fun r hr hs hc => startedUp_commits (s := tick s t) hr hs hc,
    fun r hr h => mem_startedUp (s := tick s t) hr h, by simp [startedUp]⟩

theorem startingComplete_stops (starting : (partAt s p).st = .starting) (up : hubUp s = true)
    (waits : runsCmd s p isStop = true ∨ runsCmd s p isDestroy = true) :
    ∃ s', exec (.startingComplete p t) s = .next s' ∧ (partAt s' p).st = .stopping ∧
      (∀ r ∈ s.journal, r.st = .started → cmdOf p isStart r → CommittedIn s' r 0 t) ∧
      (∀ k, k ≠ p.val → partAt s' k = partAt s k) ∧ s'.tiles = s.tiles ∧ s'.t2 = s.t2 := by
  let u := startedUp (tick s t) p
  have running : (partAt u p).st = .running := congrArg Part.st (partAt_startedUp_self (s := tick s t) hp)
  have hu : p.val < u.parts.length := by rwa [startedUp_parts (s := tick s t) hp, List.length_set]
  have stops : beginStop u p = setPState u p .stopping := beginStop_of_waiting running
    (waits.imp (runsCmd_startedUp (s := tick s t) isStop_of_isStart).trans
      (runsCmd_startedUp (s := tick s t) isDestroy_of_isStart).trans)
  refine ⟨_, exec_startingComplete starting up now, ?_⟩
  rw [stops]
  refine ⟨congrArg Part.st (partAt_setPState_self _ hu), fun r hr hs hc =>
    (startedUp_commits (s := tick s t) hr hs hc).congr (setPState_journal ..), fun k hk => ?_, by simp [u, startedUp]⟩
  rw [partAt_setPState_ne _ _ hk]
  exact partAt_startedUp_ne (s := tick s t) hp hk

theorem stopComplete_stops (stopping : (partAt s p).st = .stopping) (camp : (partAt s p).camp = none)
    (fault : (partAt s p).fault = none) (kept : runsCmd s p isDestroy = false) (unmarked : Unmarked s)
    (sound : ∀ g ∈ (partAt s p).groups, (groupAt s g).st ≠ .failed) :
    ∃ s', exec (.stopComplete p t) s = .next s' ∧
      s'.parts = s.parts.set p { withoutWhorl (partAt s p) with st := .stopped } ∧
      (∀ g ∈ (partAt s p).groups, ∀ k, k < 8 → tileRaw s' (8 * g + k) =
        { Tile.reset with errs := (tileRaw s (8 * g + k)).errs }) ∧
      (∀ n, n / 8 ∉ (partAt s p).groups → tileRaw s' n = tileRaw s n) ∧
      (∀ r ∈ s.journal, r.st = .started → cmdOf p isStop r → CommittedIn s' r 0 t) ∧
      (∀ r ∈ s.journal, r.st ≠ .started ∨ cmdOf p isStop r = false → r ∈ s'.journal) ∧
      s'.groups = s.groups ∧ s'.t2 = s.t2 ∧ s'.fabric = s.fabric := by
  have unmarked := tick_unmarked unmarked t
  have parts := stopDone_parts (s := tick s t) unmarked sound
  have record : partAt (stopDone (tick s t) p) p = withoutWhorl (partAt s p) :=
    (partAt_congr (s := updPart s p withoutWhorl) parts p).trans (partAt_updPart_self _ hp)
  refine ⟨_, exec_stopComplete (.inl stopping) camp fault kept unmarked now, ?_⟩
  rw [if_neg (by simp [stopping])]
  refine ⟨?_, fun g hg k hk => ?_, fun n hn => ?_, fun r hr hs hc => ?_, fun r hr h => ?_, ?_, ?_, ?_⟩
  · rw [setPState_parts, record, parts]
    exact List.set_set ..
  · rw [tileRaw_congr (setPState_tiles ..), tileRaw_stopDone unmarked, partAt_tick, tileRaw_congr (tick_tiles s t),
      if_pos (by rwa [show (8 * g + k) / 8 = g by omega])]
  · rw [tileRaw_congr (setPState_tiles ..), tileRaw_stopDone unmarked, partAt_tick, if_neg hn, tileRaw_congr (tick_tiles s t)]
  · exact (stopDone_commits (s := tick s t) unmarked hr hs hc).congr (setPState_journal ..)
  · rw [setPState_journal]
    exact mem_stopDone (s := tick s t) unmarked hr h
  · rw [setPState_groups, stopDone_groups unmarked, tick_groups]
  · rw [setPState_t2, stopDone_t2 unmarked, tick_t2]
  · rw [setPState_fabric, stopDone_fabric unmarked, tick_fabric]

theorem stopComplete_restarts (pending : (partAt s p).st = .pendingEnable) (camp : (partAt s p).camp = none)
    (fault : (partAt s p).fault = none) (kept : runsCmd s p isDestroy = false) (unmarked : Unmarked s) :
    ∃ s', exec (.stopComplete p t) s = .next s' ∧ (partAt s' p).st = .starting ∧
      (partAt s' p).seedOn = (partAt s p).seed ∧ (∀ k, k ≠ p.val → partAt s' k = partAt s k) ∧ s'.t2 = s.t2 := by
  have unmarked := tick_unmarked unmarked t
  let u := stopDone (tick s t) p
  have hu : p.val < u.parts.length := by rwa [stopDone_partsLength unmarked]
  have seed : (partAt u p).seed = (partAt s p).seed := by
    rw [partAt_stopDone unmarked, partAt_updPart_self _ (by rw [dropFailed, updPart_partsLength]; exact hp), dropFailed,
      partAt_updPart_self (s := tick s t) _ hp]
    rfl
  have record : partAt (setPState (updPart u p reseeded) p .starting) p = { reseeded (partAt u p) with st := .starting } := by
    rw [partAt_setPState_self _ (by rwa [updPart_partsLength]), partAt_updPart_self _ hu]
  refine ⟨_, exec_stopComplete (.inr pending) camp fault kept unmarked now, ?_⟩
  rw [if_pos pending]
  refine ⟨congrArg Part.st record, (congrArg Part.seedOn record).trans seed, fun k hk => ?_, ?_⟩
  · rw [partAt_setPState_ne _ _ hk, partAt_updPart_ne _ _ hk, partAt_stopDone_ne unmarked hk, partAt_tick]
  · rw [setPState_t2, updPart_t2, stopDone_t2 unmarked, tick_t2]

end

section
variable {s : State} {g : Fin 24} {t : Word64} (hg : g.val < s.groups.length) (unmarked : Unmarked s)
  (now : s.time.now.ule t = true)
include hg unmarked now

theorem groupDrainComplete_frees (draining : (groupAt s g).st = .draining) :
    ∃ s', exec (.groupDrainComplete g t) s = .next s' ∧ groupAt s' g = ⟨.free, 0⟩ ∧
      (∀ k, k ≠ g.val → groupAt s' k = groupAt s k) ∧ (∀ k, k < 8 → tileRaw s' (8 * g.val + k) =
        { Tile.reset with errs := (tileRaw s (8 * g.val + k)).errs }) ∧
      (∀ n, n / 8 ≠ g.val → tileRaw s' n = tileRaw s n) ∧ s'.parts = s.parts ∧ s'.journal = s.journal ∧ s'.t2 = s.t2 ∧
      s'.host = s.host := by
  obtain ⟨scrubbed, others⟩ := tileRaw_scrubGroup_unmarked (tick_unmarked unmarked t) g
  have scrubs := scrubGroup_scrubs (tick s t) g
  refine ⟨_, exec_groupDrainComplete (.inl draining) unmarked now, ?_⟩
  generalize scrubGroup (tick s t) g = u at scrubbed others scrubs ⊢
  rw [groupReady, if_pos draining]
  refine ⟨?_, fun k hk => ?_, scrubbed, others, scrubs.parts, scrubs.journal, scrubs.t2, scrubs.host⟩
  · rw [groupAt_setGroup _ _ _ _ (by rwa [scrubs.groups]), if_pos rfl]
  · rw [groupAt_setGroup _ _ _ _ (by rwa [scrubs.groups]), if_neg hk, groupAt_congr scrubs.groups]
    rfl

theorem groupDrainComplete_assigns (pending : (groupAt s g).st = .pendingEnable) :
    ∃ s', exec (.groupDrainComplete g t) s = .next s' ∧ groupAt s' g = ⟨.assigned, (groupAt s g).part⟩ ∧
      (∀ k, k ≠ g.val → groupAt s' k = groupAt s k) ∧ (∀ k, k < 8 → tileRaw s' (8 * g.val + k) =
        { Tile.reset with errs := (tileRaw s (8 * g.val + k)).errs }) ∧
      (∀ k, k ≠ (groupAt s g).part → partAt s' k = partAt s k) ∧ s'.t2 = s.t2 ∧ s'.host = s.host := by
  obtain ⟨scrubbed, -⟩ := tileRaw_scrubGroup_unmarked (tick_unmarked unmarked t) g
  have scrubs := scrubGroup_scrubs (tick s t) g
  refine ⟨_, exec_groupDrainComplete (.inr pending) unmarked now, ?_⟩
  generalize scrubGroup (tick s t) g = u at scrubbed scrubs ⊢
  have adds := finishAdds_adds (setGroup u g ⟨.assigned, (groupAt s g).part⟩) (groupAt s g).part
  rw [groupReady, if_neg (by simp [pending])]
  refine ⟨?_, fun k hk => ?_, fun k hk => ?_, fun k hk => ?_, ?_, ?_⟩
  · rw [groupAt_congr adds.groups, groupAt_setGroup _ _ _ _ (by rwa [scrubs.groups]), if_pos rfl]
  · rw [groupAt_congr adds.groups, groupAt_setGroup _ _ _ _ (by rwa [scrubs.groups]), if_neg hk, groupAt_congr scrubs.groups]
    rfl
  · rw [tileRaw_congr (finishAdds_tiles ..)]
    exact scrubbed k hk
  · rw [adds.others k hk]
    exact partAt_congr scrubs.parts k
  · exact adds.t2.trans scrubs.t2
  · exact adds.host.trans scrubs.host

end

theorem regionsScrubbed_leaves {s : State} {p : Fin 32} {t : Word64} (hp : p.val < s.parts.length) (hf : p.val < s.fns.length)
    (now : s.time.now.ule t = true) (destroying : (partAt s p).st = .destroying) :
    ∃ s', exec (.regionsScrubbed p t) s = .next s' ∧ partAt s' p = Part.unused ∧
      (∀ k, k ≠ p.val → partAt s' k = partAt s k) ∧
      (∀ a, a / pageSize ∈ partPages (partAt s p) → memGet s'.t2.mem a = 0) ∧
      (∀ a, a / pageSize ∉ partPages (partAt s p) → memGet s'.t2.mem a = memGet s.t2.mem a) ∧
      (∀ n, sqAt s' p n = none ∧ cqAt s' p n = none) ∧
      (∀ r ∈ s.journal, r.st = .started → cmdOf p isDestroy r → CommittedIn s' r 0 t) ∧ s'.tiles = s.tiles ∧
      s'.groups = s.groups := by
  refine ⟨_, exec_regionsScrubbed destroying now, partAt_leaveUnused_self (by rwa [destroyDone_parts]), fun k hk => ?_,
    fun a ha => ?_, fun a ha => ?_, leaveUnused_noQueue (by rwa [destroyDone_fns]), fun r hr hs hc => ?_, ?_, ?_⟩
  · rw [partAt_leaveUnused_ne hk]
    exact partAt_congr (destroyDone_parts ..) k
  · rw [leaveUnused_t2, destroyDone_mem, partAt_tick, if_pos ha]
  · rw [leaveUnused_t2, destroyDone_mem, partAt_tick, if_neg ha, tick_t2]
  · exact (destroyDone_commits (s := tick s t) hr hs hc).afterFlushFn.congr (leaveUnused_journal ..)
  · rw [leaveUnused_tiles, destroyDone_tiles, tick_tiles]
  · rw [leaveUnused_groups, destroyDone_groups, tick_groups]

/-- Settles O51: a start that goes on or is cut off, a stop that ends or starts anew, a group that drains for nobody or for a partition
that waits, and a destroyed partition's regions. -/
theorem partitionEventsAct : Obligations.PartitionEventsAct := by
  refine ⟨fun s p t inv now => ?partitions, fun s t inv now => ?groupsAndRegions⟩
  case partitions =>
    obtain ⟨⟨-, nparts, -⟩, -⟩ := inv
    have hp : p.val < s.parts.length := nparts.symm ▸ p.isLt
    exact ⟨startingComplete_runs hp now, startingComplete_stops hp now, stopComplete_stops hp now,
      stopComplete_restarts hp now⟩
  case groupsAndRegions =>
    obtain ⟨⟨nfns, nparts, ngroups, -⟩, -⟩ := inv
    exact ⟨fun g draining unmarked => groupDrainComplete_frees (ngroups.symm ▸ g.isLt) unmarked now draining,
      fun g pending unmarked => groupDrainComplete_assigns (ngroups.symm ▸ g.isLt) unmarked now pending,
      fun p => regionsScrubbed_leaves (nparts.symm ▸ p.isLt) (nfns.symm ▸ p.isLt) now⟩

end Sys2Proof.Machine
end

section
/-! PROOFS. The invariant of O28 as a property of what it looks at alone, so that an operation which leaves that keeps it by a
rewrite. -/

namespace Sys2Proof.Machine

open Sys2Proof

/-- The sizes of a function's tables: its queues of each kind and its vectors. -/
@[simp] def Fn.sizes (x : Fn) : Nat × Nat × Nat := (x.sqs.length, x.cqs.length, x.msix.length)

/-- What the invariant looks at: the sizes of the module's tables, its memories, poison and counters. -/
structure Shape where
  fns : List (Nat × Nat × Nat)
  parts : Nat
  groups : Nat
  ports : Nat
  mem : Memory
  host : Memory
  pois : NSet
  ctrs : Map Word64

/-- What the invariant looks at in a state. -/
def State.shape (s : State) : Shape :=
  ⟨s.fns.map Fn.sizes, s.parts.length, s.groups.length, s.fabric.ports.length, s.t2.mem, s.host, s.t2.pois, s.ctrs⟩

/-- The sizes that the manual fixes, and canonical forms. -/
structure Sound (x : Shape) : Prop where
  fns : x.fns = List.replicate 32 (8, 8, 64)
  parts : x.parts = 32
  groups : x.groups = 24
  ports : x.ports = 12
  mem : Memory.wf x.mem = true
  host : Memory.wf x.host = true
  pois : mapWf false x.pois = true
  ctrs : mapWf 0 x.ctrs = true

theorem inv_iff (s : State) : Inv s ↔ Sound s.shape := by
  have fns : s.fns.map Fn.sizes = List.replicate 32 (8, 8, 64) ↔
      s.fns.length = 32 ∧ ∀ x ∈ s.fns, x.sqs.length = 8 ∧ x.cqs.length = 8 ∧ x.msix.length = 64 := by
    rw [List.eq_replicate_iff, List.length_map, List.forall_mem_map]
    simp [Fn.sizes]
  constructor
  · rintro ⟨⟨hf, hp, hg, ht, hx⟩, hm, hh, hs, hc⟩
    exact ⟨fns.2 ⟨hf, hx⟩, hp, hg, ht, hm, hh, hs, hc⟩
  · intro h
    obtain ⟨hf, hx⟩ := fns.1 h.fns
    exact ⟨⟨hf, h.parts, h.groups, h.ports, hx⟩, h.mem, h.host, h.pois, h.ctrs⟩

/-- Where a row answers with a next state, that state is sound. -/
def SoundOut (o : Out) : Prop := ∀ t, o = .next t → Sound t.shape

@[simp] theorem soundOut_next (s : State) : SoundOut (.next s) ↔ Sound s.shape :=
  ⟨fun h => h s rfl, fun h t e => by cases e; exact h⟩

@[simp] theorem soundOut_ok (s : State) : SoundOut (ok s) ↔ Sound s.shape := soundOut_next s

@[simp] theorem soundOut_fault (f : Fault) : SoundOut (.fault f) := fun _ e => by cases e

@[simp] theorem soundOut_refused (r : Refusal) : SoundOut (.refused r) := fun _ e => by cases e

section
variable (c : Prop) [Decidable c]

@[simp] theorem shape_ite (a b : State) : (if c then a else b).shape = if c then a.shape else b.shape := apply_ite ..

@[simp] theorem sound_ite (a b : Shape) : Sound (if c then a else b) ↔ (c → Sound a) ∧ (¬ c → Sound b) := by
  split <;> simp [*]

@[simp] theorem soundOut_ite (a b : Out) : SoundOut (if c then a else b) ↔ (c → SoundOut a) ∧ (¬ c → SoundOut b) := by
  split <;> simp [*]

end

theorem sound_of_ite {c : Prop} [Decidable c] {a b : State} (ha : Sound a.shape) (hb : Sound b.shape) :
    Sound (if c then a else b).shape := by
  split
  · exact ha
  · exact hb

/-! ### Folds and time -/

@[simp] theorem foldl_shape {α : Type} (g : State → α → State) (l : List α) (s : State) (h : ∀ s e, (g s e).shape = s.shape) :
    (l.foldl g s).shape = s.shape := foldl_keeps State.shape h l s

theorem foldl_sound {α : Type} {g : State → α → State} {s : State} (h : Sound s.shape) (l : List α)
    (step : ∀ s e, Sound s.shape → Sound (g s e).shape) : Sound (l.foldl g s).shape :=
  foldl_inv (fun s : State => Sound s.shape) h l step

section
variable {α β : Type} {g : State × β → α → State × β}

theorem foldl_fst_sound {x : State × β} (hx : Sound x.1.shape) (l : List α) (h : ∀ x e, Sound x.1.shape → Sound (g x e).1.shape) :
    Sound (l.foldl g x).1.shape :=
  foldl_inv (fun x : State × β => Sound x.1.shape) hx l h

end

@[simp] theorem tick_shape (s t) : (tick s t).shape = s.shape := (rfl)

@[simp] theorem atTime_shape (s : State) (t : Word64) (f : State → State) (h : ∀ s, (f s).shape = s.shape) :
    (atTime s t f).shape = s.shape := by
  unfold atTime
  split <;> simp [h]

theorem atTime_sound {s : State} (h :
    Sound s.shape) (t : Word64) {f : State → State} (hf : ∀ s, Sound s.shape → Sound (f s).shape) :
    Sound (atTime s t f).shape := by
  unfold atTime
  split
  · exact hf _ h
  · exact h

/-! ### Updates of the units -/

section
variable (s : State)

@[simp] theorem withTime_shape (v) : (s.withTime v).shape = s.shape := (rfl)
@[simp] theorem withIo_shape (v) : (s.withIo v).shape = s.shape := (rfl)
@[simp] theorem withBoot_shape (v) : (s.withBoot v).shape = s.shape := (rfl)
@[simp] theorem withPower_shape (v) : (s.withPower v).shape = s.shape := (rfl)
@[simp] theorem withJournal_shape (v) : (s.withJournal v).shape = s.shape := (rfl)
@[simp] theorem withTiles_shape (v) : (s.withTiles v).shape = s.shape := (rfl)
@[simp] theorem withT1_shape (v) : (s.withT1 v).shape = s.shape := (rfl)
@[simp] theorem withImages_shape (v) : (s.withImages v).shape = s.shape := (rfl)
@[simp] theorem withSamp_shape (v) : (s.withSamp v).shape = s.shape := (rfl)
@[simp] theorem withFree_shape (v) : (s.withFree v).shape = s.shape := (rfl)

@[simp] theorem withFns_shape {v : List Fn} (h : v.map Fn.sizes = s.fns.map Fn.sizes) : (s.withFns v).shape = s.shape := by
  simp [State.shape, h]

@[simp] theorem withParts_shape {v : List Part} (h : v.length = s.parts.length) : (s.withParts v).shape = s.shape := by
  simp [State.shape, h]

@[simp] theorem withGroups_shape {v : List Group} (h : v.length = s.groups.length) : (s.withGroups v).shape = s.shape := by
  simp [State.shape, h]

@[simp] theorem withFabric_shape {v : FabricU} (h : v.ports.length = s.fabric.ports.length) : (s.withFabric v).shape = s.shape := by
  simp [State.shape, h]

@[simp] theorem withT2_shape {v : T2U} (hm : v.mem = s.t2.mem) (hp : v.pois = s.t2.pois) : (s.withT2 v).shape = s.shape := by
  simp [State.shape, hm, hp]

end

section
variable {s : State} (h : Sound s.shape)
include h

@[simp] theorem withT2_sound {v : T2U} (hm : Memory.wf v.mem = true) (hp : mapWf false v.pois = true) : Sound (s.withT2 v).shape :=
  ⟨h.fns, h.parts, h.groups, h.ports, hm, h.host, hp, h.ctrs⟩

@[simp] theorem withHost_sound {v : Memory} (hv : Memory.wf v = true) : Sound (s.withHost v).shape :=
  ⟨h.fns, h.parts, h.groups, h.ports, h.mem, hv, h.pois, h.ctrs⟩

@[simp] theorem withCtrs_sound {v : Map Word64} (hv : mapWf 0 v = true) : Sound (s.withCtrs v).shape :=
  ⟨h.fns, h.parts, h.groups, h.ports, h.mem, h.host, h.pois, hv⟩

end

@[simp] theorem listSet_length {α : Type} (l : List α) (i : Nat) (x : α) : (listSet l i x).length = l.length := List.length_set

/-- A function keeps its sizes where the record that replaces it has them. -/
theorem setFn_shape_of_sizes (s : State) (f : Nat) {x : Fn} (h : x.sizes = (fnAt s f).sizes) : (setFn s f x).shape = s.shape := by
  refine withFns_shape s ?_
  rw [listSet, List.map_set, h]
  refine List.ext_getElem? fun k => ?_
  rw [List.getElem?_set]
  split
  · next e =>
    subst e
    split
    · next hf => simp [fnAt, List.getD_eq_getElem?_getD, List.getElem?_eq_getElem (List.length_map (as := s.fns) Fn.sizes ▸ hf)]
    · next hf => rw [List.getElem?_eq_none (by omega)]
  · rfl

@[simp] theorem setFn_shape (s : State) (f : Nat) {x : Fn} (hs : x.sqs.length = (fnAt s f).sqs.length)
    (hc : x.cqs.length = (fnAt s f).cqs.length) (hm : x.msix.length = (fnAt s f).msix.length) :
    (setFn s f x).shape = s.shape :=
  setFn_shape_of_sizes s f (by simp [hs, hc, hm])

theorem fnAt_sizes {s : State} (h : Sound s.shape) (f : Nat) : (fnAt s f).sizes = (8, 8, 64) := by
  rw [fnAt, List.getD_eq_getElem?_getD]
  cases e : s.fns[f]? with
  | none => rfl
  | some x =>
    have mem : x.sizes ∈ List.replicate 32 (8, 8, 64) := h.fns ▸ List.mem_map_of_mem (List.mem_of_getElem? e)
    exact List.eq_of_mem_replicate mem

theorem setFn_sound {s : State} (h : Sound s.shape) (f : Nat) {x : Fn} (hx : x.sizes = (8, 8, 64)) : Sound (setFn s f x).shape := by
  rw [setFn_shape_of_sizes s f (hx.trans (fnAt_sizes h f).symm)]
  exact h

@[simp] theorem setPart_shape (s p x) : (setPart s p x).shape = s.shape := by simp [setPart]
@[simp] theorem updPart_shape (s p f) : (updPart s p f).shape = s.shape := by simp [updPart]
@[simp] theorem setGroup_shape (s g x) : (setGroup s g x).shape = s.shape := by simp [setGroup]
@[simp] theorem setPort_shape (s n x) : (setPort s n x).shape = s.shape := by simp [setPort]
@[simp] theorem setTileRaw_shape (s n x) : (setTileRaw s n x).shape = s.shape := (rfl)

@[simp] theorem setTile_shape (s p t x) : (setTile s p t x).shape = s.shape := by
  unfold setTile
  split <;> simp

@[simp] theorem updTile_shape (s p t f) : (updTile s p t f).shape = s.shape := by simp [updTile]
@[simp] theorem updTiles_shape (s p f) : (updTiles s p f).shape = s.shape := by simp [updTiles]

section
variable {s : State} (h : Sound s.shape)
include h

@[simp] theorem hostWrite_sound (space a b) : Sound (hostWrite s space a b).shape :=
  withHost_sound h (memWrite_wf _ _ _ h.host)

@[simp] theorem addCtr_sound (k n) : Sound (addCtr s k n).shape := withCtrs_sound h (mapWf_mapSet _ _ _ _ h.ctrs)

@[simp] theorem writePages_sound (pages off b) : Sound (writePages s pages off b).shape := by
  obtain ⟨mem, -, pois, -⟩ := writePages_canonical ((inv_iff s).2 h).2 pages off b
  exact withT2_sound h mem pois

theorem zeroPages_pois (pages) : mapWf false (zeroPages s pages).t2.pois = true := by
  have kept := mapWf_filter _ _ (fun e => !pages.contains (e.1 * 32 / pageSize)) h.pois
  unfold zeroPages
  dsimp only [State.withT2_t2]
  split
  · exact kept
  · exact foldl_inv (fun t : T2U => mapWf false t.pois = true) (by exact kept) pages fun t g ht => setPois_fold_wf _ ht _ _

@[simp] theorem zeroPages_sound (pages) : Sound (zeroPages s pages).shape := by
  rw [show zeroPages s pages = s.withT2 (zeroPages s pages).t2 from rfl]
  refine withT2_sound h ?_ (zeroPages_pois h pages)
  rw [zeroPages_mem]
  exact memFilter_wf _ _ h.mem

@[simp] theorem clearBob_sound (w pages k) : Sound (clearBob s w pages k).shape := by
  refine withT2_sound h ?_ (setPois_fold_wf _ h.pois (fun k => k) false)
  rw [setPois_fold_mem _ _ (fun k => k)]
  exact h.mem

@[simp] theorem sectorBroken_sound (k) : Sound (sectorBroken s k).shape := withT2_sound h h.mem (setPois_wf h.pois k true)

end

@[simp] theorem assertWake_shape (s even) : (assertWake s even).shape = s.shape := by simp [assertWake]
@[simp] theorem drawFree_shape (s) : (drawFree s).2.shape = s.shape := (rfl)

section
variable {s : State} (h : Sound s.shape)
include h

@[simp] theorem raiseMsix_sound (f v) : Sound (raiseMsix s f v).shape := by
  unfold raiseMsix
  dsimp only
  split
  · simp [h]
  · exact hostWrite_sound h ..

/-- An event is pushed with a record of the function's own sizes. -/
@[simp] theorem pushEvent_sound (f) {x : Fn} (hx : x.sizes = (8, 8, 64)) (src part body) :
    Sound (pushEvent s f x src part body).shape := by
  unfold pushEvent
  refine raiseMsix_sound (setFn_sound (hostWrite_sound h ..) f ?_) f 63
  exact hx

@[simp] theorem postEventTo_sound (f src part body) : Sound (postEventTo s f src part body).shape := by
  have woken : Sound (assertWake s (fnAt s f).even).shape := by rwa [assertWake_shape]
  unfold postEventTo
  dsimp only
  split
  · exact woken
  · split
    · exact setFn_sound woken f (fnAt_sizes h f)
    · exact pushEvent_sound woken f (fnAt_sizes h f) ..

@[simp] theorem postEvent_sound (src part body) : Sound (postEvent s src part body).shape := by simp [postEvent, h]

@[simp] theorem setPState_sound (p st) : Sound (setPState s p st).shape := by simp [setPState, h]

end

end Sys2Proof.Machine
end

section
/-! PROOFS. Operations on the state that leave what the invariant of O28 looks at as it is (`_shape`), and the simple ones that
keep it sound (`_sound`), each by the lemmas of the operations that it is made of. A proof written `(rfl)` is one that `simp` uses
as a rewrite, not as a definitional equation. -/

namespace Sys2Proof.Machine

open Sys2Proof

@[simp] theorem setRefs_shape (s p reg d n) : (setRefs s p reg d n).shape = s.shape := by simp [setRefs]
@[simp] theorem commitWhere_shape (s c status detail) : (commitWhere s c status detail).shape = s.shape := by simp [commitWhere]

/-- Cycles are counted tile by tile. -/
@[simp] theorem countGears_sound {s : State} (h : Sound s.shape) : Sound (countGears s).shape := by
  refine withCtrs_sound h (foldl_inv (fun m => mapWf 0 m = true) h.ctrs _ fun m e hm => ?_)
  unfold countGear
  split
  · exact mapWf_mapSet _ _ _ _ hm
  · exact hm

@[simp] theorem updHead_shape (s q f) : (updHead s q f).shape = s.shape := (rfl)
@[simp] theorem commitCmd_shape (s q status detail) : (commitCmd s q status detail).shape = s.shape := by simp [commitCmd]
@[simp] theorem rejectAt_shape (s q status off) : (rejectAt s q status off).shape = s.shape := by simp [rejectAt]
@[simp] theorem endCmd_shape (s q status) : (endCmd s q status).shape = s.shape := by simp [endCmd]
@[simp] theorem reject_shape (s q status) : (reject s q status).shape = s.shape := by simp [reject]
@[simp] theorem setGroups_shape (s gs x) : (setGroups s gs x).shape = s.shape := by simp [setGroups]
@[simp] theorem doneOk_shape (s q) : (doneOk s q).shape = s.shape := by simp [doneOk]
@[simp] theorem startCmd_shape (s q) : (startCmd s q).shape = s.shape := (rfl)

@[simp] theorem finishAdd_shape (s p r) : (finishAdd s p r).shape = s.shape := by
  unfold finishAdd
  dsimp only
  split <;> simp

@[simp] theorem finishAdds_shape (s p) : (finishAdds s p).shape = s.shape := by simp [finishAdds]
@[simp] theorem beginDestroy_sound {s : State} (h : Sound s.shape) (p) : Sound (beginDestroy s p).shape := by simp [beginDestroy, h]
@[simp] theorem queueTx_shape (s n x) : (queueTx s n x).shape = s.shape := by simp [queueTx]

@[simp] theorem routeMsg_shape (s dst seq m) : (routeMsg s dst seq m).shape = s.shape := by
  unfold routeMsg
  split <;> simp

@[simp] theorem sendTo_shape (s dst m) : (sendTo s dst m).shape = s.shape := by simp [sendTo]
@[simp] theorem updCamp_shape (s p f) : (updCamp s p f).shape = s.shape := by simp [updCamp]
@[simp] theorem beginStop_sound {s : State} (h : Sound s.shape) (p) : Sound (beginStop s p).shape := by simp [beginStop, h]

@[simp] theorem closeCampaign_sound {s : State} (h : Sound s.shape) (p status detail) :
    Sound (closeCampaign s p status detail).shape := by
  unfold closeCampaign
  dsimp only
  split
  · simp [h]
  · split <;> simp [h]

@[simp] theorem endCampaign_sound {s : State} (h : Sound s.shape) (p status detail) :
    Sound (endCampaign s p status detail).shape := by
  unfold endCampaign
  split <;> simp [h]

@[simp] theorem setFrame_shape (s n f) : (setFrame s n f).shape = s.shape := (rfl)
@[simp] theorem giveFrame_shape (s n k pin holds) : (giveFrame s n k pin holds).shape = s.shape := (rfl)

@[simp] theorem takeFrame_shape (s k die h' pin holds) : (takeFrame s k die h' pin holds).1.shape = s.shape := by
  unfold takeFrame
  dsimp only
  split
  · split <;> simp
  · split
    · simp
    · split
      · simp
      · split <;> simp

@[simp] theorem asksOther_shape (s die x) : (asksOther s die x).shape = s.shape := by simp [asksOther]
@[simp] theorem dropFrame_shape (s n) : (dropFrame s n).shape = s.shape := (rfl)

@[simp] theorem releaseFrames_shape (s c) : (releaseFrames s c).shape = s.shape := by
  unfold releaseFrames
  refine foldl_shape _ _ _ fun s e => ?_
  dsimp only
  split
  · simp
  · split
    · simp
    · split <;> simp

@[simp] theorem gainFrame_shape (s n f pin holds) : (gainFrame s n f pin holds).1.shape = s.shape := by
  unfold gainFrame
  dsimp only
  split
  · simp
  · split
    · simp
    · split
      · simp
      · split <;> simp

@[simp] theorem gainPage_shape (s k n f pin holds) : (gainPage s k n f pin holds).1.shape = s.shape := by
  unfold gainPage
  split <;> simp

@[simp] theorem servePins_shape (s) : (servePins s).shape = s.shape := by
  unfold servePins
  refine foldl_shape _ _ _ fun s e => ?_
  dsimp only
  split
  · simp
  · split <;> simp

@[simp] theorem endHolds_shape (s p h') : (endHolds s p h').shape = s.shape := by simp [endHolds]

@[simp] theorem turnRecord_shape (s p status) : (turnRecord s p status).shape = s.shape := by
  unfold turnRecord
  dsimp only
  split
  · split <;> simp
  · simp

@[simp] theorem stopTurn_sound {s : State} (h : Sound s.shape) (p status next) : Sound (stopTurn s p status next).shape := by
  simp [stopTurn, h]

@[simp] theorem sendCamp_shape (s c m) : (sendCamp s c m).shape = s.shape := by simp [sendCamp]
@[simp] theorem setRegion_shape (s p r x) : (setRegion s p r x).shape = s.shape := by simp [setRegion]

@[simp] theorem abandonPub_sound {s : State} (h : Sound s.shape) (p r) : Sound (abandonPub s p r).shape := by
  unfold abandonPub
  dsimp only
  split <;> simp [h]

@[simp] theorem stagePub_sound {s : State} (h : Sound s.shape) (p r epoch haddr pages) :
    Sound (stagePub s p r epoch haddr pages).shape := by
  unfold stagePub
  dsimp only
  split <;> simp [h]

@[simp] theorem switchStage_sound {s : State} (h : Sound s.shape) (p ep r) : Sound (switchStage s p ep r).shape := by
  unfold switchStage
  dsimp only
  split <;> simp [h]

@[simp] theorem updPairRun_shape (s p id f) : (updPairRun s p id f).shape = s.shape := by simp [updPairRun]
@[simp] theorem setBuf_shape (s n b) : (setBuf s n b).shape = s.shape := (rfl)

@[simp] theorem forwardFrom_shape (s n x r) : (forwardFrom s n x r).shape = s.shape := by
  unfold forwardFrom
  dsimp only
  split <;> simp

@[simp] theorem fillBuf_shape (s n c) : (fillBuf s n c).shape = s.shape := by
  unfold fillBuf
  dsimp only
  split <;> simp

@[simp] theorem grant_shape (s n c) : (grant s n c).shape = s.shape := by
  unfold grant
  dsimp only
  split
  · simp
  · split
    · simp
    · split <;> simp

@[simp] theorem serveClaims_shape (s) : (serveClaims s).shape = s.shape := by
  unfold serveClaims
  refine foldl_shape _ _ _ fun s e => ?_
  split <;> simp

@[simp] theorem sendChunk_shape (s x) : (sendChunk s x).shape = s.shape := by simp [sendChunk]

@[simp] theorem abandonSwitch_shape (s p) : (abandonSwitch s p).shape = s.shape := by
  unfold abandonSwitch
  dsimp only
  split
  · simp
  · split
    · simp
    · refine (updCamp_shape ..).trans ?_
      refine foldl_shape _ _ _ fun s e => ?_
      split <;> simp

@[simp] theorem sweepInvals_shape (s p) : (sweepInvals s p).shape = s.shape := by simp [sweepInvals]

@[simp] theorem addHist_shape (s cls kind unit detail repair) :
    (addHist s cls kind unit detail repair).shape = s.shape := by simp [addHist]

@[simp] theorem nextXfer_shape (s) : (nextXfer s).shape = s.shape := (rfl)
@[simp] theorem tellLost_shape (s p pr m dpos e) : (tellLost s p pr m dpos e).shape = s.shape := by simp [tellLost]
@[simp] theorem setReq_shape (s p e r) : (setReq s p e r).shape = s.shape := by simp [setReq]
@[simp] theorem setVent_shape (s p v e) : (setVent s p v e).shape = s.shape := by simp [setVent]

@[simp] theorem unbind_shape (s p v ver) : (unbind s p v ver).shape = s.shape := by
  unfold unbind
  dsimp only
  split
  · split
    · simp
    · split <;> simp
  · simp
  · simp

@[simp] theorem decRef_shape (s p reg d) : (decRef s p reg d).shape = s.shape := by simp [decRef]
@[simp] theorem releaseMap_shape (s p reg dhead) : (releaseMap s p reg dhead).shape = s.shape := by simp [releaseMap]

@[simp] theorem releaseHandle_shape (s p h') : (releaseHandle s p h').shape = s.shape := by
  unfold releaseHandle
  dsimp only
  split <;> simp

@[simp] theorem freeReq_shape (s p e) : (freeReq s p e).shape = s.shape := by
  unfold freeReq
  dsimp only
  split <;> simp

@[simp] theorem freeFramesOf_shape (s c) : (freeFramesOf s c).shape = s.shape := by simp [freeFramesOf]
@[simp] theorem releaseEpoch_shape (s p r ep) : (releaseEpoch s p r ep).shape = s.shape := by simp [releaseEpoch]
@[simp] theorem pinPage_shape (s k) : (pinPage s k).shape = s.shape := by simp [pinPage]

@[simp] theorem publishRegion_shape (s p r) : (publishRegion s p r).shape = s.shape := by
  unfold publishRegion
  dsimp only
  split
  · simp
  · split
    · simp
    · split
      · split <;> simp
      · split <;> simp

@[simp] theorem setVersion_shape (s p ver v) : (setVersion s p ver v).shape = s.shape := by simp [setVersion]

@[simp] theorem calRequest_sound {s : State} (h : Sound s.shape) (p c) : Sound (calRequest s p c).shape := by
  unfold calRequest
  dsimp only
  split
  · simp [h]
  · split
    · simp [h]
    · refine foldl_fst_sound h _ fun x e h => ?_
      split
      · simp [h]
      · split
        · split <;> simp [h]
        · split <;> simp [h]

@[simp] theorem calTrigger_sound {s : State} (h : Sound s.shape) (p pr trig seg) : Sound (calTrigger s p pr trig seg).shape :=
  foldl_sound h _ fun _ c h => calRequest_sound h p c

@[simp] theorem updRun_shape (s p f) : (updRun s p f).shape = s.shape := by simp [updRun]

@[simp] theorem readyTriggers_sound {s : State} (h : Sound s.shape) : Sound (readyTriggers s).shape := by
  unfold readyTriggers
  refine foldl_sound h _ fun s e h => ?_
  dsimp only
  split <;> simp [h]

@[simp] theorem keepFmts_shape (s p pr step es) : (keepFmts s p pr step es).shape = s.shape := by simp [keepFmts]

@[simp] theorem stopLearn_sound {s : State} (h : Sound s.shape) (p) : Sound (stopLearn s p).shape := by
  unfold stopLearn
  split <;> simp [h]

@[simp] theorem cancelStart_shape (s p) : (cancelStart s p).shape = s.shape := by simp [cancelStart]

@[simp] theorem fitT1_shape (s p die a) : (fitT1 s p die a).shape = s.shape := by
  unfold fitT1
  split
  · simp
  · split
    · simp
    · split
      · simp
      · refine (fitT1_shape ..).trans ?_
        simp

@[simp] theorem done_shape (s q detail) : (done s q detail).shape = s.shape := by simp [done]
@[simp] theorem restoreRegion_sound {s : State} (h : Sound s.shape) (p r g pages) : Sound (restoreRegion s p r g pages).shape := by
  simp [restoreRegion, h]

@[simp] theorem setCq_shape (s f n x) : (setCq s f n x).shape = s.shape := by simp [setCq]
@[simp] theorem setSq_shape (s f n x) : (setSq s f n x).shape = s.shape := by simp [setSq]
@[simp] theorem freeRegion_sound {s : State} (h : Sound s.shape) (p r) : Sound (freeRegion s p r).shape := by simp [freeRegion, h]
@[simp] theorem incRef_shape (s p reg d) : (incRef s p reg d).shape = s.shape := by simp [incRef]

@[simp] theorem powerEvent_sound {s : State} (h : Sound s.shape) (kind internal whr value) :
    Sound (powerEvent s kind internal whr value).shape := by simp [powerEvent, h]

@[simp] theorem holdoverCheck_sound {s : State} (h : Sound s.shape) : Sound (holdoverCheck s).shape := by simp [holdoverCheck, h]
@[simp] theorem reroute_sound {s : State} (h : Sound s.shape) : Sound (reroute s).shape := by simp [reroute, h]

@[simp] theorem fabricEvent_sound {s : State} (h : Sound s.shape) (kind port cls member detail) :
    Sound (fabricEvent s kind port cls member detail).shape := by simp [fabricEvent, h]

@[simp] theorem setLeader_sound {s : State} (h : Sound s.shape) (m) : Sound (setLeader s m).shape := by simp [setLeader, h]

@[simp] theorem sendMsg_shape (s dst m) : (sendMsg s dst m).shape = s.shape := by
  unfold sendMsg
  split <;> simp

@[simp] theorem bufDone_shape (s n) : (bufDone s n).shape = s.shape := by
  unfold bufDone
  dsimp only
  split <;> simp

@[simp] theorem bufLost_shape (s n) : (bufLost s n).shape = s.shape := by
  unfold bufLost
  dsimp only
  split <;> simp

@[simp] theorem moveTx_shape (s n) : (moveTx s n).shape = s.shape := by
  unfold moveTx
  dsimp only
  refine (foldl_shape _ _ _ fun s e => ?_).trans (by simp)
  split
  · split
    · split <;> simp
    · split <;> simp
  · simp

@[simp] theorem tellChunk_shape (s c) : (tellChunk s c).shape = s.shape := by simp [tellChunk]
@[simp] theorem moveAway_shape (s n) : (moveAway s n).shape = s.shape := by simp [moveAway]
@[simp] theorem startTraining_sound {s : State} (h : Sound s.shape) (n) : Sound (startTraining s n).shape := by
  simp [startTraining, h]

@[simp] theorem meetLaser_shape (s u) : (meetLaser s u).shape = s.shape := by
  unfold meetLaser
  dsimp only
  split
  · split
    · exact (withFabric_shape (drawFree s).2 rfl).trans (drawFree_shape s)
    · simp
  · rfl

@[simp] theorem sendPeer_shape (s n b) : (sendPeer s n b).shape = s.shape := by simp [sendPeer]
@[simp] theorem sendHello_shape (s n nonce) : (sendHello s n nonce).shape = s.shape := by simp [sendHello]

@[simp] theorem signalCq_sound {s : State} (h : Sound s.shape) (f n) : Sound (signalCq s f n).shape := by
  unfold signalCq
  split <;> simp [h]

@[simp] theorem postNext_sound {s : State} (h : Sound s.shape) (f n) : Sound (postNext s f n).shape := by
  unfold postNext
  dsimp only
  split <;> simp [h]

@[simp] theorem postAll_sound {s : State} (h : Sound s.shape) (f n a) : Sound (postAll s f n a).shape := by
  induction a generalizing s with
  | zero => exact h
  | succ a ih => exact ih (postNext_sound h f n)

@[simp] theorem setLevel_sound {s : State} (h : Sound s.shape) (l) : Sound (setLevel s l).shape := by simp [setLevel, h]

@[simp] theorem repin_shape (s) : (repin s).shape = s.shape := by
  unfold repin
  refine foldl_shape _ _ _ fun s e => ?_
  refine foldl_shape _ _ _ fun s e => ?_
  split <;> simp

@[simp] theorem wake_sound {s : State} (h : Sound s.shape) : Sound (wake s).shape := by simp [wake, h]
@[simp] theorem sweepAll_shape (s) : (sweepAll s).shape = s.shape := by simp [sweepAll]
@[simp] theorem hubLost_sound {s : State} (h : Sound s.shape) : Sound (hubLost s).shape where
  fns := by simp [hubLost, State.reset, State.shape, Fn.reset]
  parts := rfl
  groups := rfl
  ports := (List.length_map ..).trans h.ports
  mem := rfl
  host := h.host
  pois := rfl
  ctrs := rfl

@[simp] theorem shadowNow_shape (s) : (shadowNow s).shape = s.shape := (rfl)
@[simp] theorem raiseAlert_shape (s n) : (raiseAlert s n).shape = s.shape := (rfl)
@[simp] theorem addSnap_shape (s p id x) : (addSnap s p id x).shape = s.shape := by simp [addSnap]
@[simp] theorem putBuf_sound {s : State} (h : Sound s.shape) (fn b l) : Sound (putBuf s fn b l).shape := by simp [putBuf, h]
@[simp] theorem readDone_sound {s : State} (h : Sound s.shape) (q b l d) : Sound (readDone s q b l d).shape := by simp [readDone, h]
@[simp] theorem drawWide_shape (s) : (drawWide s).2.shape = s.shape := (rfl)
@[simp] theorem dbIgnored_sound {s : State} (h : Sound s.shape) : Sound (dbIgnored s).shape := by simp [dbIgnored, h]
@[simp] theorem acceptEntry_sound {s : State} (h : Sound s.shape) (q x r) : Sound (acceptEntry s q x r).shape := by
  simp [acceptEntry, h]

@[simp] theorem acceptNext_sound {s : State} (h : Sound s.shape) (q) : Sound (acceptNext s q).shape := by
  unfold acceptNext
  dsimp only
  split
  · simp [h]
  · split <;> simp [h]

@[simp] theorem acceptAll_sound {s : State} (h : Sound s.shape) (q) : Sound (acceptAll s q).shape :=
  foldl_sound h _ fun _ _ h => acceptNext_sound h q

@[simp] theorem retire_shape (s f n head) : (retire s f n head).shape = s.shape := (rfl)
@[simp] theorem acceptWaiting_sound {s : State} (h : Sound s.shape) (f) : Sound (acceptWaiting s f).shape :=
  foldl_sound h _ fun _ _ h => acceptAll_sound h _

@[simp] theorem dropFailed_shape (s p) : (dropFailed s p).shape = s.shape := by simp [dropFailed]
@[simp] theorem serveTile_shape (s n gone) : (serveTile s n gone).shape = s.shape := by simp [serveTile]
@[simp] theorem serveChannels_shape (s k pkg gone) : (serveChannels s k pkg gone).shape = s.shape := by simp [serveChannels]

@[simp] theorem cutShares_shape (s die a) : (cutShares s die a).shape = s.shape := by
  unfold cutShares
  dsimp only
  split
  · simp
  · refine (cutShares_shape ..).trans ?_
    simp

@[simp] theorem fitShares_shape (s die) : (fitShares s die).shape = s.shape := by simp [fitShares]
@[simp] theorem serveBank_shape (s bank gone) : (serveBank s bank gone).shape = s.shape := by simp [serveBank]

@[simp] theorem serveUnit_shape (s e) : (serveUnit s e).shape = s.shape := by
  unfold serveUnit
  dsimp only
  split <;> simp

@[simp] theorem applyMap_shape (s m) : (applyMap s m).shape = s.shape := by simp [applyMap]
@[simp] theorem bootLog_shape (s n result detail) : (bootLog s n result detail).shape = s.shape := (rfl)
@[simp] theorem logMap_shape (s n) : (logMap s n).shape = s.shape := by simp [logMap]

@[simp] theorem takeSpare_shape (s e) : (takeSpare s e).shape = s.shape := by
  unfold takeSpare
  dsimp only
  split
  · simp
  · split <;> simp

@[simp] theorem engage_shape (s e) : (engage s e).shape = s.shape := by simp [engage]
@[simp] theorem endRunning_shape (s status) : (endRunning s status).shape = s.shape := by
  unfold endRunning
  dsimp only
  rw [withParts_shape _ (List.length_map ..), foldl_shape _ _ _ fun s x => ?_]
  · exact commitWhere_shape ..
  · simp

@[simp] theorem loseJournal_sound {s : State} (h : Sound s.shape) : Sound (loseJournal s).shape := by
  unfold loseJournal
  refine foldl_sound ?_ _ fun s p h => ?_
  · rw [endRunning_shape, withParts_shape (s.withJournal []) (List.length_map (as := s.parts) _)]
    exact h
  · split
    · exact h
    · simp [h]

@[simp] theorem resumeRollout_shape (s p) : (resumeRollout s p).shape = s.shape := by simp [resumeRollout]

@[simp] theorem cutCampaign_sound {s : State} (h : Sound s.shape) (p status) : Sound (cutCampaign s p status).shape := by
  unfold cutCampaign
  dsimp only
  split <;> simp [h]

@[simp] theorem rewritePosted_sound {s : State} (h : Sound s.shape) : Sound (rewritePosted s).shape := by
  unfold rewritePosted
  refine foldl_sound h _ fun s e h => ?_
  split <;> simp [h]

@[simp] theorem engageFree_shape (s kind logical) : (engageFree s kind logical).shape = s.shape := by simp [engageFree]
@[simp] theorem repairRows_shape (s) : (repairRows s).shape = s.shape := by simp [repairRows]
@[simp] theorem eccFixed_sound (num) {s : State} (h : Sound s.shape) (k) : Sound (eccFixed num s k).shape := by simp [eccFixed, h]
@[simp] theorem sectorFixed_sound {s : State} (h : Sound s.shape) (k) : Sound (sectorFixed s k).shape := by simp [sectorFixed, h]
@[simp] theorem meetErrs_sound {s : State} (h : Sound s.shape) (lines e) : Sound (meetErrs s lines e).shape :=
  foldl_sound (foldl_sound (foldl_sound (foldl_sound h _ fun _ k h => eccFixed_sound _ h k) _ fun _ k h => eccFixed_sound _ h k)
    _ fun _ k h => sectorFixed_sound h k) _ fun _ k h => sectorBroken_sound h k

@[simp] theorem flushFn_shape (s f started accepted) : (flushFn s f started accepted).shape = s.shape := (rfl)
@[simp] theorem resetMailbox_shape (s) : (resetMailbox s).shape = s.shape := (rfl)
@[simp] theorem distaffFresh_shape (s) : (distaffFresh s).shape = s.shape := (rfl)
@[simp] theorem countSpares_shape (s l) : (countSpares s l).shape = s.shape := (rfl)
@[simp] theorem bufferFlit_shape (s n f) : (bufferFlit s n f).shape = s.shape := by simp [bufferFlit]
@[simp] theorem dropBuffers_shape (s) : (dropBuffers s).shape = s.shape := by simp [dropBuffers]
@[simp] theorem missPulses_sound {s : State} (h : Sound s.shape) (k) : Sound (missPulses s k).shape := by simp [missPulses, h]
@[simp] theorem takeLocks_sound {s : State} (h : Sound s.shape) (l) : Sound (takeLocks s l).shape := by simp [takeLocks, h]
@[simp] theorem setCaps_sound {s : State} (h : Sound s.shape) (w) : Sound (setCaps s w).shape := by simp [setCaps, h]
@[simp] theorem lowerLive_shape (s) : (lowerLive s).shape = s.shape := by simp [lowerLive]
@[simp] theorem degradeEvents_sound (old) {s : State} (h : Sound s.shape) : Sound (degradeEvents old s).shape := by
  unfold degradeEvents
  refine foldl_sound h _ fun s n h => ?_
  split
  · simp [h]
  · exact h

@[simp] theorem groupStep_sound {s : State} (h : Sound s.shape) (g down) : Sound (groupStep s g down).shape := by
  simp [groupStep, h]

@[simp] theorem currentStep_sound {s : State} (h : Sound s.shape) (down) : Sound (currentStep s down).shape := by
  simp [currentStep, h]

@[simp] theorem noteJournal_shape (s ks) : (noteJournal s ks).shape = s.shape := (rfl)
@[simp] theorem losePackage_sound {s : State} (h : Sound s.shape) (pkg) : Sound (losePackage s pkg).shape := by
  unfold losePackage
  extract_lets ks spare s1
  have noted : Sound s1.shape := by simp [s1, h]
  exact withT2_sound noted noted.mem (mapWf_filter _ _ _ noted.pois)

@[simp] theorem rowFixed_shape (s unit row) : (rowFixed s unit row).shape = s.shape := by simp [rowFixed]

@[simp] theorem tileFixed_sound {s : State} (h : Sound s.shape) (n) : Sound (tileFixed s n).shape := by
  unfold tileFixed
  split <;> simp [h]

@[simp] theorem eitherOf_shape (s held asked) : (eitherOf s held asked).2.shape = s.shape := (rfl)
@[simp] theorem countWait_sound {s : State} (h : Sound s.shape) (a b) : Sound (countWait s a b).shape := by simp [countWait, h]
@[simp] theorem markHit_shape (s a q n) : (markHit s a q n).shape = s.shape := by simp [markHit]

@[simp] theorem readersDone_shape (s l) : (readersDone s l).shape = s.shape := by
  unfold readersDone
  refine foldl_shape _ _ _ fun s e => ?_
  split <;> simp

@[simp] theorem stepRecord_sound {s : State} (h : Sound s.shape) (p t rank c) : Sound (stepRecord s p t rank c).shape := by
  unfold stepRecord
  dsimp only
  split
  · exact h
  · rw [updRun_shape]
    refine foldl_sound ?_ _ fun s k h => hostWrite_sound h ..
    split <;> simp [h]

@[simp] theorem refit_shape (s gs) : (refit s gs).shape = s.shape := (rfl)
@[simp] theorem lostXfer_shape (s) : (lostXfer s).shape = s.shape := (rfl)

@[simp] theorem beaconsDue_shape (s p) : (beaconsDue s p).shape = s.shape := by
  unfold beaconsDue
  dsimp only
  split
  · split
    · rfl
    · refine (foldl_shape _ _ _ fun s e => ?_).trans (updRun_shape ..)
      split <;> simp
  · rfl

@[simp] theorem readyBeacon_shape (s p c pr d step) : (readyBeacon s p c pr d step).shape = s.shape := by simp [readyBeacon]

@[simp] theorem plainStep_sound {s : State} (h : Sound s.shape) (p t pr step) : Sound (plainStep s p t pr step).shape := by
  unfold plainStep
  dsimp only
  split
  · exact h
  · refine sound_of_ite ?_ h
    rw [updRun_shape]
    exact foldl_sound h _ fun s k h => hostWrite_sound h ..

@[simp] theorem addDraw_shape (s p step d) : (addDraw s p step d).shape = s.shape := by simp [addDraw]

@[simp] theorem heatPage_sound {s : State} (h : Sound s.shape) (p r page units die) :
    Sound (heatPage s p r page units die).shape := by
  unfold heatPage
  dsimp only
  split
  · simp [h]
  · split <;> simp [h]

@[simp] theorem fetchHeat_sound {s : State} (h : Sound s.shape) (p r n die l) : Sound (fetchHeat s p r n die l).1.shape := by
  unfold fetchHeat
  dsimp only
  split
  · simp [h]
  · split
    · simp [h]
    · refine foldl_fst_sound h _ fun x e h => ?_
      split <;> simp [h]

@[simp] theorem fillAtc_shape (s f l) : (fillAtc s f l).shape = s.shape := by simp [fillAtc]

@[simp] theorem linesBroken_sound {s : State} (h : Sound s.shape) (l) : Sound (linesBroken s l).shape := by
  unfold linesBroken
  refine foldl_sound h _ fun s e h => ?_
  dsimp only
  split <;> simp [h]

@[simp] theorem readErrors_sound {s : State} (h : Sound s.shape) (p g w b e) : Sound (readErrors s p g w b e).shape := by
  simp [readErrors, h]

@[simp] theorem hostReadFails_shape (s f g addr why) : (hostReadFails s f g addr why).shape = s.shape := by simp [hostReadFails]
@[simp] theorem putElem_sound {s : State} (h : Sound s.shape) (pages base f n c) : Sound (putElem s pages base f n c).shape := by
  simp [putElem, h]

@[simp] theorem storeBob_sound {s : State} (h : Sound s.shape) (t w pages k base) : Sound (storeBob s t w pages k base).shape := by
  refine foldl_sound h _ fun s j h => ?_
  dsimp only
  have elems := foldl_sound h (List.range w.r.elems) (g := fun s n =>
    if elemExists w (k * w.r.bpb + j) (blockPos w.r n).1 (blockPos w.r n).2 then
      putElem s pages (rowOff w (coords w (k * w.r.bpb + j) (blockPos w.r n).1 (blockPos w.r n).2)) w.fmt
        (coords w (k * w.r.bpb + j) (blockPos w.r n).1 (blockPos w.r n).2 0) (memElem t.t0 (base + j * w.pitch) w.fmt n)
    else s) fun s n h => sound_of_ite (putElem_sound h ..) h
  refine sound_of_ite (foldl_sound elems _ fun s q h => ?_) elems
  split
  · exact writePages_sound h ..
  · exact h

@[simp] theorem endFill_shape (s n f) : (endFill s n f).shape = s.shape := by
  unfold endFill
  split <;> simp

@[simp] theorem failFill_shape (s n f addr why) : (failFill s n f addr why).shape = s.shape := by
  unfold failFill
  dsimp only
  split <;> simp

@[simp] theorem dropChunk_sound {s : State} (h : Sound s.shape) : Sound (dropChunk s).shape := by simp [dropChunk, h]
@[simp] theorem releasePart_shape (s p) : (releasePart s p).shape = s.shape := by simp [releasePart]
@[simp] theorem discardChunk_sound {s : State} (h : Sound s.shape) (n b) : Sound (discardChunk s n b).shape := by
  simp [discardChunk, h]

@[simp] theorem relayChunk_sound {s : State} (h : Sound s.shape) (n b c) : Sound (relayChunk s n b c).shape := by
  unfold relayChunk
  dsimp only
  split <;> simp [h]

@[simp] theorem sendSet_shape (s p c m) : (sendSet s p c m).shape = s.shape := by simp [sendSet]

@[simp] theorem openStep_shape (s p step reqs) : (openStep s p step reqs).shape = s.shape := by
  unfold openStep
  dsimp only
  refine (foldl_shape _ _ _ fun s e => ?_).trans (updRun_shape ..)
  split
  · split <;> simp
  · rfl

@[simp] theorem closeStep_shape (s p step) : (closeStep s p step).shape = s.shape := by simp [closeStep]
@[simp] theorem portHist_shape (s n) : (portHist s n).shape = s.shape := by simp [portHist]
@[simp] theorem takeNonce_shape (s n b) : (takeNonce s n b).shape = s.shape := by simp [takeNonce]
@[simp] theorem keepFlit_shape (s n c first last b) : (keepFlit s n c first last b).shape = s.shape := by simp [keepFlit]

@[simp] theorem messageFlit_shape (s n c first last b) : (messageFlit s n c first last b).shape = s.shape := by
  unfold messageFlit
  dsimp only
  split
  · simp
  · split
    · split <;> simp
    · split <;> simp

@[simp] theorem deliverFlit_shape (s n b) : (deliverFlit s n b).shape = s.shape := by simp [deliverFlit]

@[simp] theorem bufSent_shape (s n port) : (bufSent s n port).shape = s.shape := by
  unfold bufSent
  split <;> simp

@[simp] theorem afterFlit_shape (s n done) : (afterFlit s n done).shape = s.shape := by simp [afterFlit]
@[simp] theorem dropTraffic_shape (s n) : (dropTraffic s n).shape = s.shape := by simp [dropTraffic]
@[simp] theorem clearPort_shape (s n) : (clearPort s n).shape = s.shape := by simp [clearPort]
@[simp] theorem meetPeer_shape (s n h') : (meetPeer s n h').shape = s.shape := by simp [meetPeer]
@[simp] theorem copyPoisoned_sound {s : State} (h : Sound s.shape) (q g c bad) : Sound (copyPoisoned s q g c bad).shape := by
  simp [copyPoisoned, h]

@[simp] theorem copyErrs_sound {s : State} (h : Sound s.shape) (p r off n e) : Sound (copyErrs s p r off n e).shape := by
  unfold copyErrs
  split <;> simp [h]

@[simp] theorem recordLands_sound {s : State} (h : Sound s.shape) (p good) : Sound (recordLands s p good).shape := by
  unfold recordLands
  split
  · exact h
  · split
    · exact h
    · extract_lets s1 s2 s3
      have written : Sound s2.shape := by simp [s2, s1, h]
      have told : Sound s3.shape := by
        dsimp only [s3]
        split
        · exact postEvent_sound written ..
        · exact written
      split
      · exact closeCampaign_sound told ..
      · exact told

@[simp] theorem dropQueues_sound {s : State} (h : Sound s.shape) (f) : Sound (dropQueues s f).shape := by
  refine setFn_sound h f ?_
  have sizes := fnAt_sizes h f
  simp_all

end Sys2Proof.Machine
end

section
/-! PROOFS. Operations on the state that are made of many others, each of which keeps the sizes of the tables and the canonical
forms of O28. An operation that takes another as an argument keeps them where its argument does. -/

namespace Sys2Proof.Machine

open Sys2Proof

theorem ok_sound {s : State} (h : Sound s.shape) : SoundOut (ok s) := by simp [ok, h]

/-- A host command's row answers with a completion by a check, or with its meaning for its partition. -/
theorem hostCmd_sound {s : State} (h : Sound s.shape) (q : QId) (c : HostCmd) {f : State → Nat → State}
    (hf : ∀ p, Sound (f s p).shape) : SoundOut (hostCmd s q c f) := by
  unfold hostCmd
  split
  · simpa using h
  · dsimp only
    split
    · simpa using h
    · split
      · simpa using h
      · simpa using h
      · simpa using h
      · simp [h, hf]

@[simp] theorem markStale_sound {s : State} (h : Sound s.shape) (p r off n) : Sound (markStale s p r off n).shape := by
  simpa [markStale] using h

@[simp] theorem landPly_sound {s : State} (h : Sound s.shape) (part pr r off b) : Sound (landPly s part pr r off b).shape := by
  unfold landPly
  split
  · split
    · exact h
    · split
      · exact h
      · simp [h]
  · exact h

@[simp] theorem passOn_sound {s : State} (h : Sound s.shape) (part c pr r x buf l) :
    Sound (passOn s part c pr r x buf l).shape := by
  induction l generalizing s with
  | nil => exact h
  | cons k l ih =>
    unfold passOn
    split
    · exact ih (landPly_sound h ..)
    · dsimp only
      split <;> simp [h]

theorem sendRun_sound (part c pr poss want spos x) {acc} (h : Sound acc.1.shape) (e) :
    Sound (sendRun part c pr poss want spos x acc e).1.shape := by
  unfold sendRun
  split
  · exact h
  · exact foldl_fst_sound h _ fun x e h => passOn_sound h ..

@[simp] theorem sendPiece_sound {s : State} (h : Sound s.shape) (part c pr epoch o d poss want ix0) :
    Sound (sendPiece s part c pr epoch o d poss want ix0).1.shape := by
  unfold sendPiece
  exact foldl_fst_sound h _ fun x p h => foldl_fst_sound h _ fun x e h =>
    sendRun_sound part c pr poss want (srcPos p o) (fun kind k z => ⟨s.fabric.xfer, k, srcPos p o, poss.headD d.pos,
      Fin.ofNat 32 part, kind, pr.hd.dregion, 0, z.1, 0, epoch, 0, 0, z.2⟩) h e

@[simp] theorem raiseFaults_sound {s : State} (h : Sound s.shape) (p rs) : Sound (raiseFaults s p rs).shape := by
  unfold raiseFaults
  dsimp only
  split
  · refine foldl_sound ?_ _ fun s q h => postEvent_sound h ..
    simp [h]
  · exact h

@[simp] theorem hubFault_sound {s : State} (h : Sound s.shape) (p status detail) :
    Sound (hubFault s p status detail).shape := by simp [hubFault, h]

@[simp] theorem shardLost_sound {s : State} (h : Sound s.shape) (p pair piece) : Sound (shardLost s p pair piece).shape := by
  simp [shardLost, h]

@[simp] theorem askSource_sound {s : State} (h : Sound s.shape) (p c sw pr piece d x r) :
    Sound (askSource s p c sw pr piece d x r).1.shape := by
  unfold askSource
  split
  · exact h
  · simpa using h
  · refine sendPiece_sound ?_ ..
    exact foldl_sound h _ fun s q h => foldl_sound h _ fun s m h => by simpa using h

@[simp] theorem nextSource_sound {s : State} (h : Sound s.shape) (n p pair piece r) :
    Sound (nextSource n s p pair piece r).shape := by
  induction n generalizing s p pair piece r with
  | zero => exact h
  | succ n ih =>
    unfold nextSource
    split
    · exact h
    · split
      · split
        · exact h
        · dsimp only
          split
          · exact shardLost_sound h ..
          · exact foldl_sound (askSource_sound (by simpa using h) ..) _ fun s q h => ih h ..
      · exact h

@[simp] theorem refetch_sound {s : State} (h : Sound s.shape) (p pair piece r) : Sound (refetch s p pair piece r).shape :=
  nextSource_sound h ..

@[simp] theorem runPair_sound {s : State} (h : Sound s.shape) (part c pr epoch) : Sound (runPair s part c pr epoch).shape := by
  refine foldl_sound ?_ _ fun s q h => ?_
  · exact foldl_fst_sound h _ fun x e h => sendPiece_sound h ..
  · split
    · exact refetch_sound h ..
    · simpa using h

@[simp] theorem writeRegion_sound {s : State} (h : Sound s.shape) (p r off b) : Sound (writeRegion s p r off b).shape := by
  unfold writeRegion
  split
  · exact markStale_sound (writePages_sound h ..) ..
  · exact h

@[simp] theorem finishReq_sound {s : State} (h : Sound s.shape) (p e st reason) : Sound (finishReq s p e st reason).shape := by
  unfold finishReq
  dsimp only
  split
  · exact h
  · split
    · split
      · simp_all
      · split <;> simp [h]
    · split
      · split <;> simp [h]
      · split <;> simp [h]

@[simp] theorem evictWhere_sound {s : State} (h : Sound s.shape) (p reason c) : Sound (evictWhere s p reason c).shape := by
  unfold evictWhere
  refine foldl_sound ?_ _ fun s e h => ?_
  · exact h
  · simp [h]

@[simp] theorem evictRetired_sound {s : State} (h : Sound s.shape) (p regs) : Sound (evictRetired s p regs).shape := by
  unfold evictRetired
  refine foldl_sound ?_ _ fun s e h => ?_
  · exact h
  · simp [h]

@[simp] theorem applyVset_sound {s : State} (h : Sound s.shape) (p v) : Sound (applyVset s p v).shape := by
  unfold applyVset
  dsimp only
  split <;> simp [h]

@[simp] theorem checkpointStart_sound {s : State} (h : Sound s.shape) (p t) : Sound (checkpointStart s p t).shape := by
  unfold checkpointStart
  dsimp only
  split <;> simp [h]

@[simp] theorem statOpen_sound {s : State} (h : Sound s.shape) (p g step) : Sound (statOpen s p g step).shape := by
  simp [statOpen, h]

@[simp] theorem tileFaultSem_sound {s : State} (h : Sound s.shape) (a q ix status semn addr detail) :
    Sound (tileFaultSem s a q ix status semn addr detail).shape := by simp [tileFaultSem, h]

@[simp] theorem tileFault_sound {s : State} (h : Sound s.shape) (a q ix status addr detail) :
    Sound (tileFault s a q ix status addr detail).shape := by simp [tileFault, h]

@[simp] theorem ringForm_sound {s : State} (h : Sound s.shape) (a q ix ring member) :
    Sound (ringForm s a q ix ring member).shape := by simp [ringForm, h]

@[simp] theorem extentFault_sound {s : State} (h : Sound s.shape) (a q ix addr ext) :
    Sound (extentFault s a q ix addr ext).shape := by
  unfold extentFault
  dsimp only
  split
  · simp [h]
  · apply tileFault_sound
    exact h

@[simp] theorem t0Extent_sound {s : State} (h : Sound s.shape) (a q ix addr) :
    Sound (t0Extent s a q ix addr).shape := by simp [t0Extent, h]

@[simp] theorem armRing_sound {s : State} (h : Sound s.shape) (a ix n rcd bad) : Sound (armRing s a ix n rcd bad).shape := by
  unfold armRing
  dsimp only
  split
  · split
    · exact h
    · split
      · simp [h]
      · split
        · simp [h]
        · split
          · simp [h]
          · split
            · simp [h]
            · split <;> simp [h]
  · exact h

@[simp] theorem armSegment_sound {s : State} (h : Sound s.shape) (a p seg) : Sound (armSegment s a p seg).shape :=
  foldl_sound (by simpa using h) _ fun s e h => armRing_sound h ..

@[simp] theorem seqPass_sound {s : State} (h : Sound s.shape) (a) : Sound (seqPass s a).shape := by
  unfold seqPass
  dsimp only
  split
  · simp [h]
  · split <;> simp [h]

@[simp] theorem regear_sound {s : State} (h : Sound s.shape) : Sound (regear s).shape := by simp [regear, h]

@[simp] theorem startSeg_sound {s : State} (h : Sound s.shape) (k g) : Sound (startSeg s k g).shape := by
  unfold startSeg
  dsimp only
  split
  · refine regear_sound (foldl_sound (calTrigger_sound (foldl_sound ?_ _ fun s n h => ?_) ..) _ fun s n h => ?_)
    · have opened (pr : Program) := foldl_sound h pr.gsels (g := fun s e => statOpen s k.part e k.step)
        fun s e h => statOpen_sound h ..
      rw [withFree_shape]
      refine addCtr_sound (sound_of_ite (addCtr_sound (addCtr_sound ?_ ..) ..) (addCtr_sound ?_ ..)) ..
      · simp [opened, h]
      · simp [opened, h]
    · simpa using h
    · split
      · exact seqPass_sound (armSegment_sound h ..) _
      · exact armSegment_sound h ..
  · exact h

@[simp] theorem tryStart_sound {s : State} (h : Sound s.shape) (k) : Sound (tryStart s k).shape := by
  unfold tryStart
  dsimp only
  split
  · exact h
  · split <;> simp [h]

@[simp] theorem schedule_sound {s : State} (h : Sound s.shape) : Sound (schedule s).shape := by
  unfold schedule
  dsimp only
  refine foldl_sound ?_ _ fun s e h => ?_
  · simp [h]
  · simp [h]

@[simp] theorem turnStart_sound {s : State} (h : Sound s.shape) (p) : Sound (turnStart s p).shape := by
  unfold turnStart
  dsimp only
  split
  · exact h
  · split
    · exact h
    · split
      · apply checkpointStart_sound
        split <;> simpa using h
      · apply schedule_sound
        split <;> simp [h]

@[simp] theorem switchDone_sound {s : State} (h : Sound s.shape) (p) : Sound (switchDone s p).shape := by
  unfold switchDone
  split
  · exact h
  · split
    · simp [h]
    · split <;> simp [h]

@[simp] theorem publishSwitch_sound {s : State} (h : Sound s.shape) (p) : Sound (publishSwitch s p).shape := by
  unfold publishSwitch
  dsimp only
  split
  · exact h
  · split
    · exact h
    · refine switchDone_sound ?_ _
      rw [updCamp_shape]
      refine foldl_sound ?_ _ fun s v h => applyVset_sound h ..
      rw [foldl_shape _ _ _ fun s r => publishRegion_shape s p r]
      exact evictRetired_sound h ..

@[simp] theorem startSwitch_sound {s : State} (h : Sound s.shape) (p k) : Sound (startSwitch s p k).shape := by
  unfold startSwitch
  extract_lets x
  split
  · extract_lets prs prs regs ep held sw s1 s2 s3
    have staged : Sound s1.shape := foldl_sound h _ fun s r h => switchStage_sound h ..
    have run : Sound s3.shape := foldl_sound (by simpa [s2] using staged) _ fun s d h => runPair_sound h ..
    split
    · exact publishSwitch_sound run _
    · exact run
  · exact h

@[simp] theorem checkBeacons_sound {s : State} (h : Sound s.shape) (p) : Sound (checkBeacons s p).shape := by
  unfold checkBeacons
  split
  · exact h
  · split
    · exact h
    · split
      · simp [h]
      · split
        · simp [h]
        · split <;> simp [h]

@[simp] theorem turnEnd_sound {s : State} (h : Sound s.shape) (p) : Sound (turnEnd s p).shape := by
  unfold turnEnd
  dsimp only
  split <;> simp [h]

@[simp] theorem turnCheck_sound {s : State} (h : Sound s.shape) (p) : Sound (turnCheck s p).shape := by
  unfold turnCheck
  dsimp only
  split
  · split <;> simp [h]
  · exact h

@[simp] theorem stopBetween_sound {s : State} (h : Sound s.shape) (p) : Sound (stopBetween s p).shape := by
  unfold stopBetween
  split
  · exact h
  · split
    · exact h
    · split
      · split <;> simp [h]
      · simp [h]
      · exact h

@[simp] theorem campStop_sound {s : State} (h : Sound s.shape) (p) : Sound (campStop s p).shape := by
  unfold campStop
  dsimp only
  split
  · exact h
  · split
    · exact h
    · split
      · simp [h]
      · exact turnCheck_sound (stopLearn_sound (by simpa using h) p) p
      · simp [h]

@[simp] theorem stopRunning_sound {s : State} (h : Sound s.shape) (p) : Sound (stopRunning s p).shape := by simp [stopRunning, h]

@[simp] theorem loadProg_sound {s : State} (h : Sound s.shape) (p slot b pr) : Sound (loadProg s p slot b pr).shape := by
  unfold loadProg
  dsimp only
  refine foldl_sound ?_ _ fun s e h => ?_
  · simpa using h
  · simp [h]

@[simp] theorem turnLoop_sound {s : State} (h : Sound s.shape) (p) : Sound (turnLoop s p).shape := by
  unfold turnLoop
  refine foldl_sound ?_ _ fun s e h => ?_
  · exact h
  · simp [h]

@[simp] theorem rendezvousMet_sound {s : State} (h : Sound s.shape) (p) : Sound (rendezvousMet s p).shape := by
  unfold rendezvousMet
  split <;> simp [h]

@[simp] theorem stopGoesOn_sound {s : State} (h : Sound s.shape) (p) : Sound (stopGoesOn s p).shape := by simp [stopGoesOn, h]

@[simp] theorem setDrawerWord_sound {s : State} (h : Sound s.shape) (p reg d w v) :
    Sound (setDrawerWord s p reg d w v).shape := by simp [setDrawerWord, h]

@[simp] theorem openMapDrawer_sound {s : State} (h : Sound s.shape) (p reg d) :
    Sound (openMapDrawer s p reg d).shape := by simp [openMapDrawer, h]

@[simp] theorem linkMaps_sound {s : State} (h : Sound s.shape) (p reg l) : Sound (linkMaps s p reg l).1.shape := by
  induction l with
  | nil => exact h
  | cons d l ih => exact setDrawerWord_sound (openMapDrawer_sound ih ..) ..

@[simp] theorem setMapEntry_sound {s : State} (h : Sound s.shape) (p reg dhead ix v) :
    Sound (setMapEntry s p reg dhead ix v).shape := by simp [setMapEntry, h]

@[simp] theorem copyMap_sound {s : State} (h : Sound s.shape) (p reg dhead n drs) :
    Sound (copyMap s p reg dhead n drs).1.shape := by
  refine foldl_sound (linkMaps_sound h ..) _ fun s k h => ?_
  dsimp only
  split
  · exact h
  · simp [h]

@[simp] theorem admitReq_sound {s : State} (h : Sound s.shape) (p e a list drs) : Sound (admitReq s p e a list drs).shape := by
  unfold admitReq
  dsimp only
  split
  · split <;> simp [h]
  · split <;> simp [h]

@[simp] theorem refetchFrom_sound {s : State} (h : Sound s.shape) (p m) : Sound (refetchFrom s p m).shape := by
  unfold refetchFrom
  split
  · exact h
  · exact foldl_sound h _ fun s k h => foldl_sound h _ fun s r h => refetch_sound h ..

@[simp] theorem memberGone_sound {s : State} (h : Sound s.shape) (p m) : Sound (memberGone s p m).shape := by
  unfold memberGone
  dsimp only
  split
  · exact h
  · split
    · exact h
    · split
      · exact h
      · exact h
      · split
        · simp [h]
        · split <;> simp [h]
      · split <;> simp [h]

@[simp] theorem membersGone_sound {s : State} (h : Sound s.shape) (ms) : Sound (membersGone s ms).shape := by
  unfold membersGone
  refine foldl_sound ?_ _ fun s e h => ?_
  · exact h
  · refine foldl_sound ?_ _ fun s e h => ?_
    · exact h
    · simp [h]

@[simp] theorem installEpoch_sound {s : State} (h : Sound s.shape) (epoch members links) :
    Sound (installEpoch s epoch members links).shape := by
  refine membersGone_sound (setLeader_sound (fabricEvent_sound (foldl_sound (foldl_sound (reroute_sound ?_)
    _ fun s e h => fabricEvent_sound h ..) _ fun s m h => fabricEvent_sound h ..) ..) _) _
  rw [withTime_shape, withFabric_shape _ (List.length_map ..)]
  exact h

@[simp] theorem loseCampaigns_sound {s : State} (h : Sound s.shape) (m) : Sound (loseCampaigns s m).shape := by
  unfold loseCampaigns
  refine foldl_sound ?_ _ fun s e h => ?_
  · exact h
  · split <;> simp [h]

@[simp] theorem leaveCheck_sound {s : State} (h : Sound s.shape) : Sound (leaveCheck s).shape := by simp [leaveCheck, h]
@[simp] theorem portEnabled_sound {s : State} (h : Sound s.shape) (n) : Sound (portEnabled s n).shape := by simp [portEnabled, h]
@[simp] theorem portDisabled_sound {s : State} (h : Sound s.shape) (n) : Sound (portDisabled s n).shape := by simp [portDisabled, h]

@[simp] theorem enterLevel_sound {s : State} (h : Sound s.shape) (l) : Sound (enterLevel s l).shape := by
  unfold enterLevel
  refine setLevel_sound ?_ l
  simp [h]

@[simp] theorem brakeOn_sound {s : State} (h : Sound s.shape) (internal whr value w) :
    Sound (brakeOn s internal whr value w).shape := by
  have geared := regear_sound (s := s.withPower w) h
  unfold brakeOn
  simp [geared]

@[simp] theorem askAgain_sound {s : State} (h : Sound s.shape) (p) : Sound (askAgain s p).shape := by
  unfold askAgain
  split
  · exact h
  · refine foldl_sound h _ fun s k h => foldl_sound h _ fun s r h => ?_
    split
    · exact askSource_sound h ..
    · exact h

@[simp] theorem rerunTurn_sound {s : State} (h : Sound s.shape) (p) : Sound (rerunTurn s p).shape := by
  unfold rerunTurn
  apply turnStart_sound
  simpa using h

@[simp] theorem runAgain_sound {s : State} (h : Sound s.shape) (p c k) : Sound (runAgain s p c k).shape := by
  unfold runAgain
  dsimp only
  split
  · apply startSwitch_sound
    simpa using h
  · simpa using h

@[simp] theorem interruptTurn_sound {s : State} (h : Sound s.shape) (p c learning) :
    Sound (interruptTurn s p c learning).shape := by
  unfold interruptTurn
  dsimp only
  split <;> simp [h]

@[simp] theorem replayCamp_sound {s : State} (h : Sound s.shape) (p) : Sound (replayCamp s p).shape := by
  unfold replayCamp
  split
  · exact h
  · split
    · simpa using h
    · exact askAgain_sound (startSwitch_sound h ..) _
    · simpa using h
    · simpa using h
    · simpa using h
    · split
      · exact h
      · split
        · simp [h]
        · simp [h]
        · simp [h]
        · split <;> simp [h]

@[simp] theorem journalReplay_sound {s : State} (h : Sound s.shape) (how) : Sound (journalReplay s how).shape := by
  unfold journalReplay
  dsimp only
  generalize hs : State.withBoot (if (s.boot.jrnA && s.boot.jrnB) = true then (drawFree s).2 else s) _ = s2
  have drawn : Sound s2.shape := by simp [← hs, h]
  refine sound_of_ite (loseJournal_sound drawn) (rewritePosted_sound ?_)
  split
  · exact foldl_sound drawn _ fun s p h => replayCamp_sound h p
  · rw [endRunning_shape]
    exact foldl_sound drawn _ fun s p h => cutCampaign_sound h ..
  · rw [endRunning_shape]
    exact foldl_sound drawn _ fun s p h => cutCampaign_sound h ..

@[simp] theorem restart_sound {s : State} (h : Sound s.shape) (how) : Sound (restart s how).shape := by
  unfold restart
  dsimp only
  apply schedule_sound
  simp [h]

@[simp] theorem utoraStart_sound {s : State} (h : Sound s.shape) (i) : Sound (utoraStart s i).shape := by
  unfold utoraStart
  dsimp only
  split
  · apply restart_sound
    split <;> simp [h]
  · refine foldl_sound ?_ _ fun s e h => ?_
    · split <;> simp [h]
    · simp [h]

@[simp] theorem loadNow_sound {s : State} (h : Sound s.shape) (i) : Sound (loadNow s i).shape := by
  unfold loadNow
  dsimp only
  split <;> simp [h]

theorem i3c_sound {s : State} (h : Sound s.shape) (f) : SoundOut (i3c s f) := by simp [i3c, h]
@[simp] theorem powerLost_sound {s : State} (h : Sound s.shape) (mv) : Sound (powerLost s mv).shape := by simp [powerLost, h]
@[simp] theorem moduleFatal_sound {s : State} (h : Sound s.shape) (kind unit) : Sound (moduleFatal s kind unit).shape := by
  simp [moduleFatal, h]

@[simp] theorem hubReset_sound {s : State} (h : Sound s.shape) : Sound (hubReset s).shape := by
  unfold hubReset
  dsimp only
  rw [withBoot_shape, dropBuffers_shape, withFns_shape]
  · simpa using h
  · simp [pageReset, Function.comp_def]

theorem warmBoot_sound {s : State} (h : Sound s.shape) {prep : State → State} (hp : ∀ s, Sound s.shape → Sound (prep s).shape)
    (how intact) : Sound (warmBoot s prep how intact).shape := by
  have prepared : Sound (prep (hubReset s)).shape := hp _ (hubReset_sound h)
  unfold warmBoot
  dsimp only
  split
  · exact restart_sound (by exact prepared) _
  · exact prepared

theorem deviceReset_sound {s : State} (h : Sound s.shape) (kind unit detail repair) {prep : State → State}
    (hp : ∀ s, Sound s.shape → Sound (prep s).shape) (how intact) :
    Sound (deviceReset s kind unit detail repair prep how intact).shape := by
  unfold deviceReset
  dsimp only
  split
  · simp [h]
  · exact warmBoot_sound (by simpa using h) hp _ _

@[simp] theorem brakeOff_sound {s : State} (h : Sound s.shape) (internal whr value w) :
    Sound (brakeOff s internal whr value w).shape := by
  have geared := regear_sound (s := s.withPower w) h
  unfold brakeOff
  dsimp only
  rw [shadowNow_shape]
  split <;> simp [geared]

@[simp] theorem capsChanged_sound {s : State} (h : Sound s.shape) : Sound (capsChanged s).shape := by simp [capsChanged, h]

@[simp] theorem actLimits_sound {s : State} (h : Sound s.shape) : Sound (actLimits s).shape := by
  unfold actLimits
  extract_lets w hot3 hot1 inp s1 w1 s2 lim heat cool capCool was w2 w3 s3
  have heated : Sound s1.shape := by
    refine sound_of_ite (brakeOff_sound h ..) ?_
    cases hot3 with
    | some n => exact sound_of_ite (by simpa using h) (brakeOn_sound h ..)
    | none => simpa using h
  have braked : Sound s2.shape := sound_of_ite (brakeOn_sound heated ..) (sound_of_ite (brakeOff_sound heated ..) heated)
  have capped : Sound s3.shape := sound_of_ite braked (setCaps_sound braked _)
  refine sound_of_ite ?_ (sound_of_ite ?_ capped)
  · rw [raiseAlert_shape]
    exact powerEvent_sound (capsChanged_sound capped) ..
  · exact powerEvent_sound (capsChanged_sound capped) ..

@[simp] theorem tileErr_shape (s n t) : (tileErr s n t).shape = s.shape := by
  obtain ⟨b, e⟩ := tileErr_changes s n t
  rw [e]
  rfl

@[simp] theorem finishWord_sound {s : State} (h : Sound s.shape) (a q t) : Sound (finishWord s a q t).shape :=
  seqPass_sound (by simpa using h) a

@[simp] theorem scalarWord_sound {s : State} (h : Sound s.shape) (a w dst v) : Sound (scalarWord s a w dst v).shape := by
  unfold scalarWord
  split
  · exact h
  · exact finishWord_sound h ..

@[simp] theorem chainFault_sound {s : State} (h : Sound s.shape) (a ix word reason) :
    Sound (chainFault s a ix word reason).shape := by simp [chainFault, h]

theorem syncWord_sound {s : State} (h : Sound s.shape) (a w x) {f : QWord → State} (hf : ∀ w, Sound (f w).shape) :
    Sound (syncWord s a w x f).shape := by
  unfold syncWord
  dsimp only
  split
  · exact h
  · simp [h, hf]

@[simp] theorem poisonFault_sound {s : State} (h : Sound s.shape) (a q ix detail p) :
    Sound (poisonFault s a q ix detail p).shape := by simp [poisonFault, h]

@[simp] theorem commitPoison_sound {s : State} (h : Sound s.shape) (p n w) :
    Sound (commitPoison s p n w).shape := by simp [commitPoison, h]

@[simp] theorem applyClose_sound {s : State} (h : Sound s.shape) (p c) : Sound (applyClose s p c).shape := by
  unfold applyClose
  dsimp only
  split
  · split <;> simp [h]
  · exact h

@[simp] theorem refuseClose_sound {s : State} (h : Sound s.shape) (p cp d step bad) :
    Sound (refuseClose s p cp d step bad).shape := by simp [refuseClose, h]

@[simp] theorem settleStep_sound {s : State} (h : Sound s.shape) (p d) : Sound (settleStep s p d).shape := by
  unfold settleStep
  dsimp only
  split
  · split
    · exact h
    · split
      · exact h
      · split
        · split
          · split
            · exact h
            · simp [h]
            · split
              · simp [h]
              · split
                · split <;> simp [h]
                · exact h
          · split
            · split <;> simp [h]
            · exact h
        · split
          · simp_all
          · split <;> simp [h]
  · exact h

@[simp] theorem settleTry_sound {s : State} (h : Sound s.shape) (p) : Sound (settleTry s p).shape := by
  unfold settleTry
  refine foldl_sound ?_ _ fun s e h => ?_
  · exact h
  · refine foldl_sound ?_ _ fun s e h => ?_
    · exact h
    · simp [h]

@[simp] theorem statMerge_sound {s : State} (h : Sound s.shape) (p g x) : Sound (statMerge s p g x).shape := by simp [statMerge, h]
@[simp] theorem landBytes_sound {s : State} (h : Sound s.shape) (p d l b) : Sound (landBytes s p d l b).shape := by
  simp [landBytes, h]

theorem sendAll_shape {α : Type} (mk : Nat → α → Chunk) (l : List α) (x : State × Nat) :
    (l.foldl (fun acc e => (sendChunk acc.1 (mk acc.2 e), acc.2 + 1)) x).1.shape = x.1.shape := by
  induction l generalizing x with
  | nil => rfl
  | cons e l ih => rw [List.foldl_cons, ih, sendChunk_shape]

@[simp] theorem collGive_sound {s : State} (h : Sound s.shape) (p c d j k step fmt tokens off b) :
    Sound (collGive s p c d j k step fmt tokens off b).shape := by
  unfold collGive
  refine sound_of_ite h (sound_of_ite (landBytes_sound h ..) ?_)
  have sent := sendAll_shape (fun n (e : Nat × List Byte) => ⟨s.fabric.xfer, n, d.members.getD j 0, d.members.getD k 0,
    Fin.ofNat 32 p, 2, d.region, 0, e.1, fmt, step, tokens, rankMember c d k, e.2⟩) (cutChunks off b) (s, 0)
  show Sound (nextXfer _).shape
  rw [nextXfer_shape, sent]
  exact h

@[simp] theorem shardGive_sound {s : State} (h : Sound s.shape) (p c d j k step fmt tokens off n b) :
    Sound (shardGive s p c d j k step fmt tokens off n b).shape := by simp [shardGive, h]

@[simp] theorem collTrigger_sound {s : State} (h : Sound s.shape) (p c r t pr d step) :
    Sound (collTrigger s p c r t pr d step).shape := by
  unfold collTrigger
  dsimp only
  refine foldl_sound ?_ _ fun s e h => ?_
  · exact h
  · split
    · refine foldl_sound ?_ _ fun s e h => ?_
      · exact h
      · simp [h]
    · split
      · simp [h]
      · split
        · refine foldl_sound ?_ _ fun s e h => ?_
          · exact h
          · simp [h]
        · split
          · split
            · refine foldl_sound ?_ _ fun s e h => ?_
              · exact h
              · simp [h]
            · exact h
          · refine foldl_sound ?_ _ fun s e h => ?_
            · exact h
            · simp [h]

@[simp] theorem startPhase_sound {s : State} (h : Sound s.shape) (p c r t pr d step) :
    Sound (startPhase s p c r t pr d step).shape := by simp [startPhase, h]

@[simp] theorem collGather_sound {s : State} (h : Sound s.shape) (p c r d step) : Sound (collGather s p c r d step).shape := by
  unfold collGather
  dsimp only
  apply writeRegion_sound
  refine foldl_sound ?_ _ fun s e h => ?_
  · exact h
  · refine foldl_sound ?_ _ fun s e h => ?_
    · exact h
    · simp [h]

@[simp] theorem commitSends_sound {s : State} (h : Sound s.shape) (p t pr seg step) :
    Sound (commitSends s p t pr seg step).shape := by
  unfold commitSends
  extract_lets s1
  have sent : Sound s1.shape := by
    refine foldl_sound h _ fun s d h => ?_
    split
    · extract_lets s2 s3
      have started : Sound s2.shape := sound_of_ite (startPhase_sound h ..) h
      have gathered : Sound s3.shape := sound_of_ite (collGather_sound started ..) started
      exact sound_of_ite (by rw [readyBeacon_shape]; exact gathered) gathered
    · exact h
  split
  · exact sound_of_ite (by rw [readyBeacon_shape]; exact sent) (by rw [beaconsDue_shape]; exact sent)
  · exact sent

@[simp] theorem commitSeg_sound {s : State} (h : Sound s.shape) (p t pr d l) : Sound (commitSeg s p t pr d l).shape := by
  unfold commitSeg
  extract_lets tiles s1 u dur s2 s3 s4 s5 late s6 s7 s8
  have counted : Sound s1.shape := foldl_sound h _ fun s n h => foldl_sound h _ fun s x h => by
    split
    · exact statMerge_sound h ..
    · exact h
  have noted : Sound s5.shape := by simp [s5, s4, s3, s2, counted]
  have late_ : Sound s6.shape := sound_of_ite (addCtr_sound noted ..) noted
  exact plainStep_sound (commitSends_sound (by simpa [s7] using late_) ..) ..

theorem mxWord_sound {s : State} (h : Sound s.shape) (a x) {f : QWord → State} (hf : ∀ w, Sound (f w).shape) :
    Sound (mxWord s a x f).shape := by
  unfold mxWord
  split
  · exact h
  · exact hf _

@[simp] theorem canonFault_sound {s : State} (h : Sound s.shape) (a ix r hi) :
    Sound (canonFault s a ix r hi).shape := by simp [canonFault, h]

@[simp] theorem heldFault_sound {s : State} (h : Sound s.shape) (a ix r) : Sound (heldFault s a ix r).shape := by
  simp [heldFault, h]

@[simp] theorem ringExtent_sound {s : State} (h : Sound s.shape) (a q ix addr ring) :
    Sound (ringExtent s a q ix addr ring).shape := by simp [ringExtent, h]

@[simp] theorem blockOnRings_sound {s : State} (h : Sound s.shape) (a q rs) : Sound (blockOnRings s a q rs).shape := by
  simp [blockOnRings, h]

@[simp] theorem slotFault_sound {s : State} (h : Sound s.shape) (a ix slot x u) : Sound (slotFault s a ix slot x u).shape := by
  unfold slotFault
  split <;> simp [h]

@[simp] theorem ewPart_sound {s : State} (h : Sound s.shape) (a x f) : Sound (ewPart s a x f).shape := by
  unfold ewPart
  split
  · exact h
  · dsimp only
    split
    · exact chainFault_sound h ..
    · split
      · exact chainFault_sound h ..
      · exact finishWord_sound h ..

@[simp] theorem raiseBar_sound {s : State} (h : Sound s.shape) (a bs b) : Sound (raiseBar s a bs b).shape := by
  unfold raiseBar
  split <;> simp [h]

@[simp] theorem sendTail_sound {s : State} (h : Sound s.shape) (a q ix n) : Sound (sendTail s a q ix n).shape := by
  unfold sendTail
  dsimp only
  split
  · exact ringForm_sound h ..
  · exact sound_of_ite (tileFault_sound h ..) <| sound_of_ite (tileFault_sound h ..) <| sound_of_ite (poisonFault_sound h ..)
      (by simpa using h)

@[simp] theorem finishIfOk_sound {s : State} (h : Sound s.shape) (a q) : Sound (finishIfOk s a q).shape :=
  sound_of_ite (finishWord_sound h ..) h

@[simp] theorem epochFault_sound {s : State} (h : Sound s.shape) (a n w) : Sound (epochFault s a n w).shape := by
  simp [epochFault, h]

@[simp] theorem putBobs_sound {s : State} (h : Sound s.shape) (p n slot tiles b) : Sound (putBobs s p n slot tiles b).shape := by
  simp [putBobs, h]

@[simp] theorem issueInto_sound {s : State} (h : Sound s.shape) (a n slot k w tiles demand) :
    Sound (issueInto s a n slot k w tiles demand).shape := by
  unfold issueInto
  dsimp only
  split
  · split <;> simp [h]
  · split <;> simp [h]

@[simp] theorem deferBob_sound {s : State} (h : Sound s.shape) (p n slot tiles b) :
    Sound (deferBob s p n slot tiles b).shape := by simp [deferBob, h]

@[simp] theorem markSpans_sound {s : State} (h : Sound s.shape) (p r l) : Sound (markSpans s p r l).shape := by
  unfold markSpans
  refine foldl_sound ?_ _ fun s e h => ?_
  · exact h
  · simp [h]

@[simp] theorem faultEvicts_sound {s : State} (h : Sound s.shape) (p) : Sound (faultEvicts s p).shape := by simp [faultEvicts, h]

theorem fromMember_sound {s : State} (h : Sound s.shape) (m) {f : State → State} (hf : ∀ s, Sound s.shape → Sound (f s).shape) :
    Sound (fromMember s m f).shape := by
  unfold fromMember
  split
  · exact h
  · exact hf _ h

theorem fromBound_sound {s : State} (h : Sound s.shape) (p m) {f : State → State} (hf : ∀ s, Sound s.shape → Sound (f s).shape) :
    Sound (fromBound s p m f).shape := by
  refine fromMember_sound h _ fun s h => ?_
  split
  · split
    · exact hf _ h
    · simp [h]
  · simp [h]

@[simp] theorem scrubGroup_sound {s : State} (h : Sound s.shape) (g) : Sound (scrubGroup s g).shape := by
  unfold scrubGroup
  rw [sweepAll_shape]
  exact foldl_sound h _ fun s k h => by rwa [setTileRaw_shape, readersDone_shape]

@[simp] theorem replaceTiles_sound {s : State} (h : Sound s.shape) (g) : Sound (replaceTiles s g).shape := by
  refine foldl_sound h _ fun s k h => ?_
  extract_lets t
  refine sound_of_ite h ?_
  rw [engageFree_shape]
  exact h

@[simp] theorem scrubPart_sound {s : State} (h : Sound s.shape) (p) : Sound (scrubPart s p).shape := by
  unfold scrubPart
  extract_lets gs s1 s2 s3
  have scrubbed : Sound s1.shape := foldl_sound h _ fun s g h => scrubGroup_sound h g
  have replaced : Sound (gs.foldl replaceTiles s1).shape := foldl_sound scrubbed _ fun s g h => replaceTiles_sound h g
  have dropped : Sound s3.shape := by rw [updPart_shape, dropFailed_shape]; exact replaced
  rw [releasePart_shape, withSamp_shape]
  exact dropped

@[simp] theorem evictReq_sound {s : State} (h : Sound s.shape) (p e reason) :
    Sound (evictReq s p e reason).shape := by simp [evictReq, h]

@[simp] theorem landPair_sound {s : State} (h : Sound s.shape) (n b c) : Sound (landPair s n b c).shape := by
  unfold landPair
  dsimp only
  split
  · simp [h]
  · split
    · simp [h]
    · split
      · simp [h]
      · rw [bufDone_shape]
        exact passOn_sound (s := setBuf ..) h ..

@[simp] theorem takeChunk_sound {s : State} (h : Sound s.shape) (n t) : Sound (takeChunk n t s).shape := by
  unfold takeChunk
  split
  · exact h
  · split
    · exact h
    · split
      · exact atTime_sound h _ fun s h => by simp [h]
      · split
        · exact atTime_sound h _ fun s h => by simp [h]
        · split
          · simp [h]
          · split
            · exact h
            · refine atTime_sound h _ fun s h => ?_
              split
              · simp [h]
              · exact landPair_sound h ..

theorem pairMsg_sound {s : State} (h : Sound s.shape) (p m t) {f : State → State} (hf : ∀ s, Sound s.shape → Sound (f s).shape) :
    Sound (pairMsg s p m t f).shape := by
  unfold pairMsg
  split
  · exact h
  · exact atTime_sound h _ fun s h => fromBound_sound h _ _ hf

@[simp] theorem sendRange_sound {s : State} (h : Sound s.shape) (p c sw pr d spos poss r b) :
    Sound (sendRange s p c sw pr d spos poss r b).shape := by
  unfold sendRange
  dsimp only
  rw [nextXfer_shape]
  exact foldl_fst_sound h _ fun x e h => passOn_sound h _ _ _ _ _ _ _

@[simp] theorem sendLanded_sound {s : State} (h : Sound s.shape) (p c sw pr y d f poss) :
    Sound (sendLanded s p c sw pr y d f poss).shape :=
  foldl_sound h _ fun _ _ h => sendRange_sound h ..

@[simp] theorem serveFetch_sound {s : State} (h : Sound s.shape) (p m f) : Sound (serveFetch s p m f).shape := by
  unfold serveFetch
  split
  · exact h
  · split
    · split
      · exact h
      · dsimp only
        split
        · exact sendLanded_sound h ..
        · split
          · exact h
          · rw [foldl_shape _ _ _ fun s q => tellLost_shape ..]
            exact sendPiece_sound h ..
    · exact h

@[simp] theorem chunkLost_sound {s : State} (h : Sound s.shape) (p l) : Sound (chunkLost s p l).shape := by
  unfold chunkLost
  split
  · exact h
  · split
    · exact h
    · dsimp only
      split
      · exact h
      · exact refetch_sound h ..

@[simp] theorem landColl_sound {s : State} (h : Sound s.shape) (c) : Sound (landColl s c).shape := by
  unfold landColl
  dsimp only
  split
  · split
    · simp [h]
    · split <;> simp [h]
  · simp [h]

@[simp] theorem compEvict_sound {c : Comp} (h : Sound c.s.shape) (p e reason) :
    Sound (compEvict p c e reason).s.shape := evictReq_sound h ..

@[simp] theorem composeEvicts_sound {s : State} (h : Sound s.shape) (p rp l) : Sound (composeEvicts s p rp l).s.shape := by
  refine foldl_inv (fun c : Comp => Sound c.s.shape) h _ fun c e h => ?_
  dsimp only
  split
  · exact compEvict_sound h ..
  · split
    · split
      · rw [setReq_shape]
        simpa using h
      · exact compEvict_sound h ..
    · simpa using h

@[simp] theorem evictFor_sound {c : Comp} (h : Sound c.s.shape) (p rp e n kind f) : Sound (evictFor p rp e n kind f c).s.shape := by
  induction f generalizing c with
  | zero => exact h
  | succ f ih =>
    unfold evictFor
    split
    · exact h
    · split
      · exact h
      · split
        · exact h
        · extract_lets fl y c2
          refine ih ?_
          dsimp only [c2]
          split
          · rw [setReq_shape]
            exact h
          · exact compEvict_sound h ..

@[simp] theorem composeDecode_sound {c : Comp} (h : Sound c.s.shape) (p rp e) : Sound (composeDecode p rp c e).s.shape := by
  unfold composeDecode
  split
  · exact h
  · extract_lets n c2 q
    split
    · exact h
    · split
      · exact evictFor_sound h ..
      · exact evictFor_sound h ..

@[simp] theorem composePrefill_sound {c : Comp} (h : Sound c.s.shape) (p rp bad e) :
    Sound (composePrefill p rp bad c e).s.shape := by
  unfold composePrefill
  split
  · exact h
  · extract_lets n kind c2 q hb
    have room : Sound c2.s.shape := evictFor_sound h ..
    split
    · exact h
    · split
      · exact room
      · split
        · exact compEvict_sound room ..
        · exact room

@[simp] theorem addMap_sound {k : Picks} (h : Sound k.s.shape) (p rp e) : Sound (addMap k p rp e).s.shape := by
  unfold addMap
  split
  · exact h
  · extract_lets reg x s
    have opened : Sound s.shape := openMapDrawer_sound (by rw [pickDrawer_s]; exact h) ..
    dsimp only
    split
    · exact setDrawerWord_sound opened ..
    · rw [setReq_shape]
      exact opened

@[simp] theorem putLane_sound {s : State} (h : Sound s.shape) (p rp e b l d) : Sound (putLane s p rp e b l d).shape := by
  unfold putLane
  split <;> simp [h]

@[simp] theorem openBlock_sound {k : Picks} (h : Sound k.s.shape) (p rp e b) : Sound (openBlock k p rp e b).s.shape := by
  refine foldl_inv (fun k : Picks => Sound k.s.shape) h _ fun k l h => ?_
  split
  · exact h
  · exact putLane_sound (by rw [incRef_shape, pickDrawer_s]; exact h) ..

@[simp] theorem copyBlock_sound {k : Picks} (h : Sound k.s.shape) (p rp e b) : Sound (copyBlock k p rp e b).s.shape := by
  refine foldl_inv (fun k : Picks => Sound k.s.shape) h _ fun k l h => ?_
  split
  · exact h
  · extract_lets old x s src s2
    split
    · exact h
    · refine putLane_sound ?_ ..
      rw [decRef_shape, incRef_shape]
      exact writeRegion_sound (show Sound (pickDrawer k p _).2.s.shape by rw [pickDrawer_s]; exact h) ..

@[simp] theorem applyPlan_sound {k : Picks} (h : Sound k.s.shape) (p rp q) : Sound (applyPlan k p rp q).s.shape := by
  have maps := foldl_inv (fun k : Picks => Sound k.s.shape) h (List.range q.maps) (g := fun k _ => addMap k p rp q.e)
    fun k e h => addMap_sound h ..
  have fresh := foldl_inv (fun k : Picks => Sound k.s.shape) maps q.fresh (g := fun k b => openBlock k p rp q.e b)
    fun k e h => openBlock_sound h ..
  exact foldl_inv (fun k : Picks => Sound k.s.shape) fresh q.copy fun k e h => copyBlock_sound h ..

@[simp] theorem putManifest_sound {s : State} (h : Sound s.shape) (p rp step head rs blocks) :
    Sound (putManifest s p rp step head rs blocks).shape := by
  unfold putManifest
  dsimp only
  apply writeRegion_sound
  refine foldl_sound ?_ _ fun s e h => ?_
  · simp [h]
  · simp [h]

@[simp] theorem composeStep_sound {s : State} (h : Sound s.shape) (p c r rp drs toks bad) :
    Sound (composeStep s p c r rp drs toks bad).shape := by
  unfold composeStep
  extract_lets k1 order k2 k3 laid s1 step a s2 head blocks s3 s4 slot
  have evicted : Sound k1.s.shape := composeEvicts_sound h ..
  have decoded : Sound k2.s.shape := foldl_inv (fun c : Comp => Sound c.s.shape) evicted _ fun c e h => composeDecode_sound h ..
  have filled : Sound k3.s.shape :=
    foldl_inv (fun c : Comp => Sound c.s.shape) (x := { k2 with left := rp.tokbudget - k2.rows }) decoded _
      fun c e h => composePrefill_sound h ..
  refine sound_of_ite (sound_of_ite filled (by rw [sendSet_shape]; exact filled)) ?_
  have planned : Sound a.s.shape := foldl_inv (fun k : Picks => Sound k.s.shape) (x := ⟨s1, drs, []⟩) filled _
    fun k q h => applyPlan_sound h ..
  rw [sendSet_shape, openStep_shape]
  exact putManifest_sound planned ..

@[simp] theorem commitToken_sound {s : State} (h : Sound s.shape) (p rp e decode d token) :
    Sound (commitToken s p rp e decode d token).shape := by
  unfold commitToken
  split
  · exact h
  · simp [h]

@[simp] theorem commitDraws_sound {s : State} (h : Sound s.shape) (p rp e decode drafts l) :
    Sound (commitDraws p rp e decode drafts l s).1.shape := by
  induction l generalizing s drafts with
  | nil =>
    unfold commitDraws
    exact h
  | cons d l ih =>
    have next := commitToken_sound h p rp e decode d d.token
    unfold commitDraws
    dsimp only
    split
    · exact h
    · split
      · exact next
      · split
        · split
          · exact ih next _
          · exact next
        · exact next

@[simp] theorem truncateReq_sound {s : State} (h : Sound s.shape) (p rp e) : Sound (truncateReq s p rp e).shape := by
  unfold truncateReq
  dsimp only
  split
  · exact h
  · rename_i r _
    have cut {l m : List Nat} {b : Nat} : Sound (m.foldl (fun s d => decRef s p r.dreg d) (l.foldl (fun s k =>
        if mapEntry s p r.dreg r.dhead (b + k) = drawerNone then s
        else setMapEntry (decRef s p r.dreg (mapEntry s p r.dreg r.dhead (b + k))) p r.dreg r.dhead (b + k)
          drawerNone) s)).shape := by
      rw [foldl_shape _ _ _ fun s d => decRef_shape ..]
      refine foldl_sound h _ fun s k h => ?_
      split
      · exact h
      · simp [h]
    split
    · split
      · exact cut
      · exact setDrawerWord_sound cut ..
    · split
      · exact cut
      · rw [setReq_shape]
        exact cut

@[simp] theorem commitReq_sound {s : State} (h : Sound s.shape) (p rp q draws ndout dout evict) :
    Sound (commitReq s p rp q draws ndout dout evict).shape := by
  unfold commitReq
  split
  · exact h
  · extract_lets s1 x s2
    have grown : Sound s1.shape := sound_of_ite h (by simpa using h)
    have drawn : Sound x.1.shape := by
      show Sound (ite _ _ _ : State × Nat).1.shape
      split
      · exact grown
      · exact commitDraws_sound grown ..
    have cut : Sound s2.shape := truncateReq_sound drawn ..
    split
    · exact cut
    · split
      · exact finishReq_sound cut ..
      · split
        · exact evictReq_sound cut ..
        · extract_lets n r1 s3
          have kept : Sound s3.shape := by rwa [setReq_shape]
          exact sound_of_ite kept (evictReq_sound kept ..)

@[simp] theorem samplerCommit_sound {s : State} (h : Sound s.shape) (p c rp y) : Sound (samplerCommit s p c rp y).shape := by
  unfold samplerCommit
  extract_lets now rs gone s1 s2
  split
  · exact hubFault_sound h ..
  · rw [sendSet_shape, closeStep_shape]
    exact foldl_sound h _ fun s e h => commitReq_sound h ..

@[simp] theorem portDone_sound {s : State} (h : Sound s.shape) (n) : Sound (portDone s n).shape := by
  unfold portDone
  split <;> simp [h]

@[simp] theorem markDown_sound {s : State} (h : Sound s.shape) (n) : Sound (markDown s n).shape := by
  unfold markDown
  extract_lets x s1 s2
  have down : Sound s2.shape := by simp [s2, s1, h]
  exact leaveCheck_sound (by simp [down])

@[simp] theorem portDown_sound {s : State} (h : Sound s.shape) (n) : Sound (portDown s n).shape := by simp [portDown, h]
@[simp] theorem takeFlit_sound {s : State} (h : Sound s.shape) (n b) : Sound (takeFlit s n b).shape := by simp [takeFlit, h]

@[simp] theorem tryInstall_sound {s : State} (h : Sound s.shape) : Sound (tryInstall s).shape := by
  unfold tryInstall
  dsimp only
  split <;> simp [h]

@[simp] theorem propose_sound {s : State} (h : Sound s.shape) : Sound (propose s).shape := by simp [propose, h]

@[simp] theorem passJoin_sound {s : State} (h : Sound s.shape) (id) : Sound (passJoin s id).shape := by
  unfold passJoin
  dsimp only
  split
  · exact h
  · split
    · apply propose_sound
      exact h
    · simp [h]

@[simp] theorem helloPassed_sound {s : State} (h : Sound s.shape) (n h') : Sound (helloPassed s n h').shape := by
  unfold helloPassed
  dsimp only
  generalize hs : reroute _ = s2
  have up : Sound s2.shape := hs ▸ reroute_sound (fabricEvent_sound (by rwa [setPort_shape]) ..)
  exact sound_of_ite (passJoin_sound up _) (by simpa using up)

@[simp] theorem removeNext_sound {s : State} (h : Sound s.shape) (m) : Sound (removeNext s m).shape := by
  unfold removeNext
  apply propose_sound
  exact h

@[simp] theorem takeOver_sound {s : State} (h : Sound s.shape) (old) : Sound (takeOver s old).shape := by
  unfold takeOver
  dsimp only
  split
  · exact propose_sound h
  · exact propose_sound (tryInstall_sound (by rwa [sendMsg_shape]))

@[simp] theorem copyInCommit_sound {s : State} (h : Sound s.shape) (q p c b) : Sound (copyInCommit s q p c b).shape := by
  unfold copyInCommit
  dsimp only
  split
  · split <;> simp [h]
  · simp [h]

@[simp] theorem copyRange_sound {s : State} (h : Sound s.shape) (q p c out off data) :
    Sound (copyRange s q p c out off data).shape := by
  unfold copyRange
  dsimp only
  split
  · exact h
  · split
    · exact h
    · split
      · split
        · simp [h]
        · split
          · simp [h]
          · split <;> simp [h]
      · split
        · split
          · apply copyInCommit_sound
            exact h
          · exact h
        · exact h

@[simp] theorem ckptDone_sound {s : State} (h : Sound s.shape) (p e k data) : Sound (ckptDone s p e k data).shape := by
  unfold ckptDone
  dsimp only
  split
  · exact h
  · split
    · simp [h]
    · exact turnLoop_sound (by simp [h]) _

@[simp] theorem backDone_sound {s : State} (h : Sound s.shape) (p e k data) : Sound (backDone s p e k data).shape := by
  unfold backDone
  dsimp only
  split
  · split
    · apply turnLoop_sound
      apply startSwitch_sound
      split <;> simp [h]
    · split <;> simp [h]
  · split <;> simp [h]

@[simp] theorem hostCopyLands_sound {s : State} (h : Sound s.shape) (p pair piece off data good) :
    Sound (hostCopyLands s p pair piece off data good).shape := by
  unfold hostCopyLands
  split
  · exact h
  · split
    · exact h
    · refine foldl_sound h _ fun s r h => ?_
      split
      · exact sendRange_sound h ..
      · exact refetch_sound h ..

end Sys2Proof.Machine
end

section
/-! PROOFS. Every row keeps the sizes of the tables and the canonical forms of O28. -/

namespace Sys2Proof.Machine

open Sys2Proof

theorem execPartCreate_sound {s : State} (h : Sound s.shape) (q c) : SoundOut (execPartCreate q c s) := by
  unfold execPartCreate
  dsimp only
  split
  · simp [h]
  · refine hostCmd_sound h _ _ fun p => ?_
    simp [h]

theorem execPartDestroy_sound {s : State} (h : Sound s.shape) (q) : SoundOut (execPartDestroy q s) := by
  unfold execPartDestroy
  refine hostCmd_sound h _ _ fun p => ?_
  dsimp only
  split
  · simp [h]
  · apply stopRunning_sound
    exact h
  · simp [h]
  · simp [h]
  · exact h
  · exact h
  · exact h
  · exact h

theorem execPartStart_sound {s : State} (h : Sound s.shape) (q) : SoundOut (execPartStart q s) := by
  unfold execPartStart
  refine hostCmd_sound h _ _ fun p => ?_
  split <;> simp [h]

theorem execPartStop_sound {s : State} (h : Sound s.shape) (q) : SoundOut (execPartStop q s) := by
  unfold execPartStop
  refine hostCmd_sound h _ _ fun p => ?_
  split
  · simp [h]
  · apply stopRunning_sound
    exact h
  · simp [h]
  · exact h
  · exact h
  · exact h
  · exact h
  · exact h

theorem execPartQuota_sound {s : State} (h : Sound s.shape) (q c) : SoundOut (execPartQuota q c s) := by
  unfold execPartQuota
  refine hostCmd_sound h _ _ fun p => ?_
  simp [h]

theorem execPartSeed_sound {s : State} (h : Sound s.shape) (q seed) : SoundOut (execPartSeed q seed s) := by
  unfold execPartSeed
  refine hostCmd_sound h _ _ fun p => ?_
  simp [h]

theorem execPartFlagmask_sound {s : State} (h : Sound s.shape) (q m) : SoundOut (execPartFlagmask q m s) := by
  unfold execPartFlagmask
  refine hostCmd_sound h _ _ fun p => ?_
  simp [h]

theorem execPartServe_sound {s : State} (h : Sound s.shape) (q entries handles) : SoundOut (execPartServe q entries handles s) := by
  unfold execPartServe
  refine hostCmd_sound h _ _ fun p => ?_
  simp [h]

theorem execGroupAdd_sound {s : State} (h : Sound s.shape) (q gs) : SoundOut (execGroupAdd q gs s) := by
  unfold execGroupAdd
  refine hostCmd_sound h _ _ fun p => ?_
  simp [h]

theorem execGroupRemove_sound {s : State} (h : Sound s.shape) (q gs) : SoundOut (execGroupRemove q gs s) := by
  unfold execGroupRemove
  refine hostCmd_sound h _ _ fun p => ?_
  simp [h]

theorem execPartRecover_sound {s : State} (h : Sound s.shape) (q) : SoundOut (execPartRecover q s) := by
  unfold execPartRecover
  refine hostCmd_sound h _ _ fun p => ?_
  simp [h]

theorem execPartSave_sound {s : State} (h : Sound s.shape) (q b) : SoundOut (execPartSave q b s) := by
  unfold execPartSave
  refine hostCmd_sound h _ _ fun p => ?_
  simp [h]

theorem execPartRestore_sound {s : State} (h : Sound s.shape) (q b i ids pages) : SoundOut (execPartRestore q b i ids pages s) := by
  refine hostCmd_sound h _ _ fun p => ?_
  extract_lets x s1 s2
  refine sound_of_ite (by simpa using h) <| sound_of_ite (by simpa using h) <| sound_of_ite (by simpa using h) <|
    sound_of_ite (by simpa using h) <| sound_of_ite h ?_
  rw [doneOk_shape, updPart_shape]
  exact foldl_fst_sound h _ fun x e hx => restoreRegion_sound hx ..

theorem execQueueCreate_sound {s : State} (h : Sound s.shape) (q d) : SoundOut (execQueueCreate q d s) := by
  unfold execQueueCreate
  refine hostCmd_sound h _ _ fun p => ?_
  simp [h]

theorem execQueueDelete_sound {s : State} (h : Sound s.shape) (q num isCQ) : SoundOut (execQueueDelete q num isCQ s) := by
  unfold execQueueDelete
  refine hostCmd_sound h _ _ fun p => ?_
  simp [h]

theorem execRegionCreate_sound {s : State} (h : Sound s.shape) (q g id pages) : SoundOut (execRegionCreate q g id pages s) := by
  unfold execRegionCreate
  dsimp only
  split
  · simp [h]
  · refine hostCmd_sound h _ _ fun p => ?_
    simp [h]

theorem execRegionFree_sound {s : State} (h : Sound s.shape) (q r) : SoundOut (execRegionFree q r s) := by
  unfold execRegionFree
  refine hostCmd_sound h _ _ fun p => ?_
  simp [h]

theorem execRegionStage_sound {s : State} (h : Sound s.shape) (q r epoch haddr pages) :
    SoundOut (execRegionStage q r epoch haddr pages s) := by
  unfold execRegionStage
  refine hostCmd_sound h _ _ fun p => ?_
  dsimp only
  split <;> simp [h]

theorem execRegionPublish_sound {s : State} (h : Sound s.shape) (q rs) : SoundOut (execRegionPublish q rs s) := by
  unfold execRegionPublish
  refine hostCmd_sound h _ _ fun p => ?_
  simp [h]

theorem execRegionAbandon_sound {s : State} (h : Sound s.shape) (q r) : SoundOut (execRegionAbandon q r s) := by
  unfold execRegionAbandon
  refine hostCmd_sound h _ _ fun p => ?_
  split <;> simp [h]

theorem execCopyIn_sound {s : State} (h : Sound s.shape) (q c) : SoundOut (execCopyIn q c s) := by
  unfold execCopyIn
  refine hostCmd_sound h _ _ fun p => ?_
  split <;> simp [h]

theorem execCopyOut_sound {s : State} (h : Sound s.shape) (q c) : SoundOut (execCopyOut q c s) := by
  unfold execCopyOut
  refine hostCmd_sound h _ _ fun p => ?_
  split <;> simp [h]

theorem execRegionFill_sound {s : State} (h : Sound s.shape) (q c) : SoundOut (execRegionFill q c s) := by
  unfold execRegionFill
  refine hostCmd_sound h _ _ fun p => ?_
  split <;> simp [h]

theorem execProgLoad_sound {s : State} (h : Sound s.shape) (q l sec) : SoundOut (execProgLoad q l sec s) := by
  unfold execProgLoad
  refine hostCmd_sound h _ _ fun p => ?_
  dsimp only
  split <;> simp [h]

theorem execProgUnload_sound {s : State} (h : Sound s.shape) (q slot) : SoundOut (execProgUnload q slot s) := by
  unfold execProgUnload
  refine hostCmd_sound h _ _ fun p => ?_
  simp [h]

theorem execCampaignStart_sound {s : State} (h : Sound s.shape) (q c) : SoundOut (execCampaignStart q c s) := by
  unfold execCampaignStart
  refine hostCmd_sound h _ _ fun p => ?_
  simp [h]

theorem execCampaignStop_sound {s : State} (h : Sound s.shape) (q) : SoundOut (execCampaignStop q s) := by
  unfold execCampaignStop
  refine hostCmd_sound h _ _ fun p => ?_
  split
  · simp [h]
  · apply stopGoesOn_sound
    apply turnLoop_sound
    apply campStop_sound
    exact h

theorem execReqAdmit_sound {s : State} (h : Sound s.shape) (q a e drs) : SoundOut (execReqAdmit q a e drs s) := by
  unfold execReqAdmit
  refine hostCmd_sound h _ _ fun p => ?_
  simp [h]

theorem execReqCancel_sound {s : State} (h : Sound s.shape) (q e) : SoundOut (execReqCancel q e s) := by
  unfold execReqCancel
  refine hostCmd_sound h _ _ fun p => ?_
  split
  · simp [h]
  · split <;> simp [h]

theorem execReqRelease_sound {s : State} (h : Sound s.shape) (q e) : SoundOut (execReqRelease q e s) := by
  unfold execReqRelease
  refine hostCmd_sound h _ _ fun p => ?_
  split
  · simp [h]
  · split <;> simp [h]

theorem execPrefixCreate_sound {s : State} (h : Sound s.shape) (q e len h' drs) : SoundOut (execPrefixCreate q e len h' drs s) := by
  unfold execPrefixCreate
  refine hostCmd_sound h _ _ fun p => ?_
  dsimp only
  split
  · simp [h]
  · split
    · simp [h]
    · split <;> simp [h]

theorem execPrefixRelease_sound {s : State} (h : Sound s.shape) (q h') : SoundOut (execPrefixRelease q h' s) := by
  unfold execPrefixRelease
  refine hostCmd_sound h _ _ fun p => ?_
  split <;> simp [h]

theorem execVariantSet_sound {s : State} (h : Sound s.shape) (q ver v) : SoundOut (execVariantSet q ver v s) := by
  unfold execVariantSet
  refine hostCmd_sound h _ _ fun p => ?_
  dsimp only
  split
  · simp [h]
  · split <;> simp [h]

theorem execVariantClear_sound {s : State} (h : Sound s.shape) (q v) : SoundOut (execVariantClear q v s) := by
  unfold execVariantClear
  refine hostCmd_sound h _ _ fun p => ?_
  dsimp only
  split
  · simp [h]
  · split <;> simp [h]

theorem execAdmitClose_sound {s : State} (h : Sound s.shape) (q) : SoundOut (execAdmitClose q s) := by
  unfold execAdmitClose
  refine hostCmd_sound h _ _ fun p => ?_
  simp [h]

theorem execGroupId_sound {s : State} (h : Sound s.shape) (q g) : SoundOut (execGroupId q g s) := by
  unfold execGroupId
  refine hostCmd_sound h _ _ fun p => ?_
  simp [h]

theorem execGroupFound_sound {s : State} (h : Sound s.shape) (q) : SoundOut (execGroupFound q s) := by
  unfold execGroupFound
  refine hostCmd_sound h _ _ fun p => ?_
  simp [h]

theorem execGroupLeave_sound {s : State} (h : Sound s.shape) (q) : SoundOut (execGroupLeave q s) := by
  refine hostCmd_sound h _ _ fun p => ?_
  split
  · simp [h]
  · dsimp only
    generalize hs : List.foldl _ (startCmd s q) (List.range 12) = s1
    have drained : s1.shape = s.shape := by
      rw [← hs, foldl_shape _ _ _ fun s n => by split <;> simp, startCmd_shape]
    refine leaveCheck_sound ?_
    rw [foldl_shape _ _ _ fun s n => by split <;> simp]
    refine reroute_sound ?_
    rw [withFabric_shape, drained]
    · exact h
    · rfl

theorem execPortEnable_sound {s : State} (h : Sound s.shape) (q p) : SoundOut (execPortEnable q p s) := by
  unfold execPortEnable
  refine hostCmd_sound h _ _ fun p => ?_
  dsimp only
  split
  · simp [h]
  · split <;> simp [h]

theorem execPortDisable_sound {s : State} (h : Sound s.shape) (q p) : SoundOut (execPortDisable q p s) := by
  unfold execPortDisable
  refine hostCmd_sound h _ _ fun p => ?_
  dsimp only
  split
  · simp [h]
  · split <;> simp [h]

theorem execPortHello_sound {s : State} (h : Sound s.shape) (q p nonce) : SoundOut (execPortHello q p nonce s) := by
  unfold execPortHello
  refine hostCmd_sound h _ _ fun p => ?_
  simp [h]

theorem execPowerLevel_sound {s : State} (h : Sound s.shape) (q l) : SoundOut (execPowerLevel q l s) := by
  refine hostCmd_sound h _ _ fun p => ?_
  extract_lets cq s1 s2 s3 s4
  have posted : Sound s2.shape := postAll_sound (by rwa [done_shape]) ..
  have entered : Sound s4.shape := enterLevel_sound (powerEvent_sound posted ..) l
  exact sound_of_ite (by simpa using h) <| sound_of_ite (by simpa using h) <| sound_of_ite (wake_sound posted) <|
    sound_of_ite h <| sound_of_ite (hubLost_sound (by rwa [withBoot_shape])) entered

theorem execGearLimit_sound {s : State} (h : Sound s.shape) (q part g) : SoundOut (execGearLimit q part g s) := by
  unfold execGearLimit
  refine hostCmd_sound h _ _ fun p => ?_
  simp [h]

theorem execEnergyBudget_sound {s : State} (h : Sound s.shape) (q part w) : SoundOut (execEnergyBudget q part w s) := by
  unfold execEnergyBudget
  refine hostCmd_sound h _ _ fun p => ?_
  simp [h]

theorem execBrakeTest_sound {s : State} (h : Sound s.shape) (q us) : SoundOut (execBrakeTest q us s) := by
  unfold execBrakeTest
  refine hostCmd_sound h _ _ fun p => ?_
  dsimp only
  split
  · simp [h]
  · apply brakeOn_sound
    exact h

/-- The earliest time is abstracted: the kernel would otherwise reduce its comparison in unary. -/
theorem execSnapshotAt_sound {s : State} (h : Sound s.shape) (q t mask id) : SoundOut (execSnapshotAt q t mask id s) := by
  unfold execSnapshotAt
  generalize (100000 : Nat) = soon
  split
  · exact ok_sound h
  · refine hostCmd_sound h _ _ fun p => ?_
    simp [h]

theorem execSnapshotMark_sound {s : State} (h : Sound s.shape) (q n mask id) : SoundOut (execSnapshotMark q n mask id s) := by
  unfold execSnapshotMark
  dsimp only
  split
  · simp [h]
  · refine hostCmd_sound h _ _ fun p => ?_
    simp [h]

theorem execCounterRead_sound {s : State} (h : Sound s.shape) (q sel b) : SoundOut (execCounterRead q sel b s) := by
  unfold execCounterRead
  refine hostCmd_sound h _ _ fun p => ?_
  dsimp only
  split
  · simp [h]
  · split <;> simp [h]

theorem execRecordRead_sound {s : State} (h : Sound s.shape) (q sel b) : SoundOut (execRecordRead q sel b s) := by
  unfold execRecordRead
  refine hostCmd_sound h _ _ fun p => ?_
  split <;> simp [h]

theorem execFaultLogRead_sound {s : State} (h : Sound s.shape) (q first count b) :
    SoundOut (execFaultLogRead q first count b s) := by
  unfold execFaultLogRead
  refine hostCmd_sound h _ _ fun p => ?_
  simp [h]

theorem execHistoryRead_sound {s : State} (h : Sound s.shape) (q b) : SoundOut (execHistoryRead q b s) := by
  unfold execHistoryRead
  refine hostCmd_sound h _ _ fun p => ?_
  simp [h]

theorem execAttest_sound {s : State} (h : Sound s.shape) (q nonce part b) : SoundOut (execAttest q nonce part b s) := by
  unfold execAttest
  refine hostCmd_sound h _ _ fun p => ?_
  simp [h]

theorem execMeasureRead_sound {s : State} (h : Sound s.shape) (q part b) : SoundOut (execMeasureRead q part b s) := by
  unfold execMeasureRead
  refine hostCmd_sound h _ _ fun p => ?_
  simp [h]

theorem execCertRead_sound {s : State} (h : Sound s.shape) (q b) : SoundOut (execCertRead q b s) := by
  unfold execCertRead
  refine hostCmd_sound h _ _ fun p => ?_
  simp [h]

theorem execConfigUpdate_sound {s : State} (h : Sound s.shape) (q c) : SoundOut (execConfigUpdate q c s) := by
  unfold execConfigUpdate
  refine hostCmd_sound h _ _ fun p => ?_
  dsimp only
  split <;> simp [h]

theorem execUndefinedCommand_sound {s : State} (h : Sound s.shape) (q opc) : SoundOut (execUndefinedCommand q opc s) := by
  unfold execUndefinedCommand
  apply ok_sound
  split <;> simp [h]

theorem execSqTailDoorbell_sound {s : State} (h : Sound s.shape) (fn n ix w32) : SoundOut (execSqTailDoorbell fn n ix w32 s) := by
  unfold execSqTailDoorbell
  apply ok_sound
  dsimp only
  split
  · exact h
  · split <;> simp [h]

theorem execSubmissionFetch_sound {s : State} (h : Sound s.shape) (q e t) : SoundOut (execSubmissionFetch q e t s) := by
  unfold execSubmissionFetch
  apply ok_sound
  split
  · exact h
  · exact sound_of_ite h (atTime_sound h _ fun s h => acceptAll_sound (by rwa [setSq_shape]) _)

theorem execCqHeadDoorbell_sound {s : State} (h : Sound s.shape) (fn n ix w32) : SoundOut (execCqHeadDoorbell fn n ix w32 s) := by
  unfold execCqHeadDoorbell
  apply ok_sound
  dsimp only
  split
  · exact h
  · split <;> simp [h]

theorem execEventHeadDoorbell_sound {s : State} (h : Sound s.shape) (fn ix w32) :
    SoundOut (execEventHeadDoorbell fn ix w32 s) := by simp [execEventHeadDoorbell, h]

theorem execCompletionPost_sound {s : State} (h : Sound s.shape) (fn n t) : SoundOut (execCompletionPost fn n t s) :=
  ok_sound (sound_of_ite h (atTime_sound h _ fun _ h => acceptWaiting_sound (postNext_sound h ..) _))

theorem execAdminQueueEnable_sound {s : State} (h : Sound s.shape) (fn v) :
    SoundOut (execAdminQueueEnable fn v s) := by simp [execAdminQueueEnable, h]

theorem execLoadImage_sound {s : State} (h : Sound s.shape) (img t) : SoundOut (execLoadImage img t s) := by
  unfold execLoadImage
  apply ok_sound
  dsimp only
  split
  · exact h
  · refine atTime_sound h _ fun s h => ?_
    simp [h]

theorem execReadBootlog_sound {s : State} (h : Sound s.shape) : SoundOut (execReadBootlog s) := by simp [execReadBootlog, h]
theorem execBar2Read_sound {s : State} (h : Sound s.shape) (x l) : SoundOut (execBar2Read x l s) := by simp [execBar2Read, h]

theorem clearPoison_mem (t : T2U) (a n : Nat) : (clearPoison t a n).mem = t.mem := setPois_fold_mem ..

theorem clearPoison_wf {t : T2U} (h : mapWf false t.pois = true) (a n : Nat) : mapWf false (clearPoison t a n).pois = true :=
  setPois_fold_wf _ h ..

theorem execBar2Write_sound {s : State} (h : Sound s.shape) (x data) : SoundOut (execBar2Write x data s) := by
  unfold execBar2Write
  rw [soundOut_ite]
  refine ⟨fun _ => soundOut_fault _, fun _ => ?_⟩
  rw [soundOut_ok]
  refine sound_of_ite h (sound_of_ite (addCtr_sound h ..) (withT2_sound h ?_ ?_))
  · rw [clearPoison_mem]
    exact memWrite_wf _ _ _ h.mem
  · exact clearPoison_wf (by exact h.pois) ..

theorem execRegisterWrite_sound {s : State} (h : Sound s.shape) (fn f) : SoundOut (execRegisterWrite fn f s) := by
  unfold execRegisterWrite
  apply ok_sound
  dsimp only
  split
  · exact h
  · exact h
  · split
    · exact h
    · split <;> simp [h]

theorem execFunctionLevelReset_sound {s : State} (h : Sound s.shape) (fn t) : SoundOut (execFunctionLevelReset fn t s) := by
  unfold execFunctionLevelReset
  rw [soundOut_ok]
  refine sound_of_ite h (atTime_sound h _ fun s h => ?_)
  extract_lets p s1 s2 s3 s4 s5 st
  have cut : Sound s4.shape := by
    simp only [s4]
    rw [cancelStart_shape]
    refine setFn_sound ?_ _ (by rfl)
    simpa [s3, s2, s1] using h
  have cleared : Sound s5.shape := sound_of_ite (by rwa [resetMailbox_shape]) cut
  exact sound_of_ite (setPState_sound cleared ..) cleared

theorem execAtsInvalidation_sound {s : State} (h : Sound s.shape) (fn pasid page) :
    SoundOut (execAtsInvalidation fn pasid page s) := by simp [execAtsInvalidation, h]

theorem execI3cIndexWrite_sound {s : State} (h : Sound s.shape) (b) : SoundOut (execI3cIndexWrite b s) := by
  unfold execI3cIndexWrite
  apply i3c_sound
  exact h

theorem execI3cRead_sound {s : State} (h : Sound s.shape) (n) : SoundOut (execI3cRead n s) := by
  unfold execI3cRead
  apply i3c_sound
  exact h

theorem execAlertFlagClear_sound {s : State} (h : Sound s.shape) (v) : SoundOut (execAlertFlagClear v s) := by
  unfold execAlertFlagClear
  apply i3c_sound
  exact h

theorem execI3cEntdaa_sound {s : State} (h : Sound s.shape) (addr) : SoundOut (execI3cEntdaa addr s) := by
  unfold execI3cEntdaa
  apply i3c_sound
  exact h

theorem execI3cSetdasa_sound {s : State} (h : Sound s.shape) (addr) : SoundOut (execI3cSetdasa addr s) := by
  unfold execI3cSetdasa
  apply i3c_sound
  exact h

theorem execI3cRstdaa_sound {s : State} (h : Sound s.shape) : SoundOut (execI3cRstdaa s) := by
  unfold execI3cRstdaa
  apply i3c_sound
  exact h

theorem execI3cGetpid_sound {s : State} (h : Sound s.shape) : SoundOut (execI3cGetpid s) := by
  unfold execI3cGetpid
  apply i3c_sound
  exact h

theorem execI3cGetbcr_sound {s : State} (h : Sound s.shape) : SoundOut (execI3cGetbcr s) := by
  unfold execI3cGetbcr
  apply i3c_sound
  exact h

theorem execI3cGetdcr_sound {s : State} (h : Sound s.shape) : SoundOut (execI3cGetdcr s) := by
  unfold execI3cGetdcr
  apply i3c_sound
  exact h

theorem execI3cGetstatus_sound {s : State} (h : Sound s.shape) : SoundOut (execI3cGetstatus s) := by
  unfold execI3cGetstatus
  apply i3c_sound
  exact h

theorem execI3cGetmwl_sound {s : State} (h : Sound s.shape) : SoundOut (execI3cGetmwl s) := by
  unfold execI3cGetmwl
  apply i3c_sound
  exact h

theorem execI3cGetmrl_sound {s : State} (h : Sound s.shape) : SoundOut (execI3cGetmrl s) := by
  unfold execI3cGetmrl
  apply i3c_sound
  exact h

theorem execI3cEnec_sound {s : State} (h : Sound s.shape) : SoundOut (execI3cEnec s) := by
  unfold execI3cEnec
  apply i3c_sound
  exact h

theorem execI3cDisec_sound {s : State} (h : Sound s.shape) : SoundOut (execI3cDisec s) := by
  unfold execI3cDisec
  apply i3c_sound
  exact h

theorem execTapIdcode_sound {s : State} (h : Sound s.shape) : SoundOut (execTapIdcode s) := by simp [execTapIdcode, h]
theorem execTapBypass_sound {s : State} (h : Sound s.shape) (bits) : SoundOut (execTapBypass bits s) := by simp [execTapBypass, h]

theorem execTapSamplePreload_sound {s : State} (h : Sound s.shape) (bits) :
    SoundOut (execTapSamplePreload bits s) := by simp [execTapSamplePreload, h]

theorem execTapExtest_sound {s : State} (h : Sound s.shape) (bits) : SoundOut (execTapExtest bits s) := by simp [execTapExtest, h]

theorem execTapDebugUnlock_sound {s : State} (h : Sound s.shape) (good t) :
    SoundOut (execTapDebugUnlock good t s) := by simp [execTapDebugUnlock, h]

theorem execTapPrivateDebug_sound {s : State} (h : Sound s.shape) (a) :
    SoundOut (execTapPrivateDebug a s) := by simp [execTapPrivateDebug, h]

theorem execHeartbeatWrite_sound {s : State} (h : Sound s.shape) (core t) : SoundOut (execHeartbeatWrite core t s) := by
  unfold execHeartbeatWrite
  apply ok_sound
  dsimp only
  split
  · exact h
  · refine atTime_sound h _ fun s h => ?_
    exact h

theorem execPowerInputRise_sound {s : State} (h : Sound s.shape) (mv straps t) :
    SoundOut (execPowerInputRise mv straps t s) := by simp [execPowerInputRise, h]

theorem execPowerLoss_sound {s : State} (h : Sound s.shape) (d t) : SoundOut (execPowerLoss d t s) :=
  ok_sound (sound_of_ite h (atTime_sound h _ fun _ h => powerLost_sound h _))

theorem execDistaffRailLoss_sound {s : State} (h : Sound s.shape) (mv t) : SoundOut (execDistaffRailLoss mv t s) :=
  ok_sound (sound_of_ite h (atTime_sound h _ fun s h => by
    dsimp only
    rw [withBoot_shape, distaffFresh_shape]
    exact powerLost_sound h mv))

theorem execPresenceOpen_sound {s : State} (h : Sound s.shape) (second t) : SoundOut (execPresenceOpen second t s) := by
  unfold execPresenceOpen
  rw [soundOut_ok]
  refine sound_of_ite h (atTime_sound h _ fun s h => ?_)
  exact sound_of_ite (by rwa [withIo_shape]) (powerLost_sound (by rwa [withIo_shape]) _)

theorem execPerstAssert_sound {s : State} (h : Sound s.shape) (ns t) : SoundOut (execPerstAssert ns t s) := by
  unfold execPerstAssert
  rw [soundOut_ok]
  refine sound_of_ite h (atTime_sound h _ fun s h => ?_)
  exact sound_of_ite h (setLevel_sound (regear_sound (hubLost_sound h)) 0)

theorem execPerstRelease_sound {s : State} (h : Sound s.shape) (p t) : SoundOut (execPerstRelease p t s) := by
  unfold execPerstRelease
  rw [soundOut_ok]
  refine sound_of_ite h (atTime_sound h _ fun s h => ?_)
  extract_lets i1 s1 w2 s2 b3 s3 good fatal b4
  have fresh : Sound s3.shape := by simpa [s3, s2, s1] using h
  have dead {s : State} (h : Sound s.shape) (err : Nat) : Sound (fatal s err).shape := by
    simp only [fatal]
    rw [withBoot_shape]
    exact moduleFatal_sound h ..
  refine sound_of_ite (moduleFatal_sound fresh ..) ?_
  split
  · exact dead fresh _
  · extract_lets s4 b5 s5 hist valid b6 l s6 s7 i8 s8 b9
    have proved : Sound s5.shape := by simpa [s5, s4] using fresh
    have repaired : Sound s8.shape := by
      simp only [s8, s7, s6]
      rw [withIo_shape, bootLog_shape, foldl_shape _ _ _ fun s n => bootLog_shape .., applyMap_shape, countSpares_shape]
      exact proved
    exact sound_of_ite (dead proved _) (sound_of_ite (moduleFatal_sound repaired ..) (by rwa [withBoot_shape]))

theorem execT2InitComplete_sound {s : State} (h : Sound s.shape) (e) : SoundOut (execT2InitComplete e s) := by
  unfold execT2InitComplete
  apply ok_sound
  dsimp only
  split
  · exact h
  · refine atTime_sound h _ fun s h => ?_
    simp [h]

theorem execPcieLinkDown_sound {s : State} (h : Sound s.shape) (d) : SoundOut (execPcieLinkDown d s) := by
  unfold execPcieLinkDown
  rw [soundOut_ok]
  exact sound_of_ite h (atTime_sound h _ fun s h => sound_of_ite h h)

theorem execPcieLinkUp_sound {s : State} (h : Sound s.shape) (t) : SoundOut (execPcieLinkUp t s) := by
  unfold execPcieLinkUp
  apply ok_sound
  dsimp only
  split
  · exact h
  · refine atTime_sound h _ fun s h => ?_
    split
    · refine deviceReset_sound ?_ _ _ _ _ (fun s h => ?_) _ _
      · exact h
      · exact h
    · exact h

theorem execPwrbrkAssert_sound {s : State} (h : Sound s.shape) (ns t) : SoundOut (execPwrbrkAssert ns t s) := by
  unfold execPwrbrkAssert
  apply ok_sound
  dsimp only
  split
  · exact h
  · refine atTime_sound h _ fun s h => ?_
    simp [h]

theorem execPwrbrkRelease_sound {s : State} (h : Sound s.shape) (t) : SoundOut (execPwrbrkRelease t s) := by
  unfold execPwrbrkRelease
  apply ok_sound
  dsimp only
  split
  · exact h
  · refine atTime_sound h _ fun s h => ?_
    simp [h]

theorem execBrakeTestEnd_sound {s : State} (h : Sound s.shape) (t) : SoundOut (execBrakeTestEnd t s) := by
  unfold execBrakeTestEnd
  apply ok_sound
  dsimp only
  split
  · exact h
  · split
    · exact h
    · refine atTime_sound h _ fun s h => ?_
      simp [h]

theorem execTbSyncInPulse_sound {s : State} (h : Sound s.shape) (t) : SoundOut (execTbSyncInPulse t s) := by
  unfold execTbSyncInPulse
  rw [soundOut_ok]
  refine atTime_sound h _ fun s h => ?_
  extract_lets x e k missed good bad run locked s1 other s2 s3
  have counted : Sound s2.shape := addCtr_sound h ..
  exact sound_of_ite counted (withCtrs_sound counted (mapWf_mapSet _ _ _ _ counted.ctrs))

theorem execTbSyncOutPulse_sound {s : State} (h : Sound s.shape) (t) : SoundOut (execTbSyncOutPulse t s) :=
  ok_sound (sound_of_ite (atTime_sound h _ fun s h => missPulses_sound (by rwa [withTime_shape]) _) h)

theorem execTimingBeaconExchange_sound {s : State} (h : Sound s.shape) (port t1 t2 t3 t4 x) :
    SoundOut (execTimingBeaconExchange port t1 t2 t3 t4 x s) := by
  unfold execTimingBeaconExchange
  rw [soundOut_ok]
  refine sound_of_ite h (atTime_sound h _ fun s h => ?_)
  extract_lets off s1 s2 s3
  have told : Sound s1.shape := by rwa [sendMsg_shape]
  have locked : Sound s2.shape := takeLocks_sound told _
  exact sound_of_ite (sound_of_ite (withCtrs_sound locked (mapWf_mapSet _ _ _ _ locked.ctrs)) locked)
    (sound_of_ite told (powerEvent_sound (by rwa [withTime_shape]) ..))

theorem execSensorSample_sound {s : State} (h : Sound s.shape) (xs mv t) : SoundOut (execSensorSample xs mv t s) := by
  unfold execSensorSample
  apply ok_sound
  dsimp only
  split
  · exact h
  · refine atTime_sound h _ fun s h => ?_
    simp [h]

theorem gearStep_sound {s : State} (h : Sound s.shape) (dn up) : Sound (gearStep dn up s).shape := by
  unfold gearStep
  extract_lets w s1 s2
  have lowered : Sound s1.shape := sound_of_ite (foldl_sound (sound_of_ite (currentStep_sound h _) h) _ fun s g h =>
    sound_of_ite (groupStep_sound h ..) h) h
  have raised : Sound s2.shape := sound_of_ite (foldl_sound (sound_of_ite lowered (currentStep_sound lowered _)) _ fun s g h =>
    sound_of_ite h (groupStep_sound h ..)) lowered
  exact capsChanged_sound (by rwa [withPower_shape])

theorem execGearCapStep_sound {s : State} (h : Sound s.shape) (t) : SoundOut (execGearCapStep t s) := by
  rw [execGearCapStep_eq, soundOut_ok]
  exact sound_of_ite h (sound_of_ite h (atTime_sound h _ fun s h => gearStep_sound h _ _))

theorem execThermalTrip_sound {s : State} (h : Sound s.shape) (t) : SoundOut (execThermalTrip t s) := by
  unfold execThermalTrip
  apply ok_sound
  split
  · exact h
  · refine sound_of_ite h (atTime_sound h _ fun s h => moduleFatal_sound ?_ ..)
    rw [shadowNow_shape, raiseAlert_shape]
    exact powerEvent_sound (by rwa [withPower_shape]) ..

theorem execWatchdogExpiry_sound {s : State} (h : Sound s.shape) (core t) : SoundOut (execWatchdogExpiry core t s) := by
  unfold execWatchdogExpiry
  apply ok_sound
  refine sound_of_ite h (atTime_sound h _ fun s h => ?_)
  extract_lets s1 left b s2 rx
  have told : Sound s1.shape := by
    simp only [s1]
    rw [raiseAlert_shape]
    exact powerEvent_sound h ..
  have kept : Sound s2.shape := by rwa [withBoot_shape]
  exact sound_of_ite (moduleFatal_sound kept ..) (deviceReset_sound kept _ _ _ _ (fun s h => by rwa [withBoot_shape]) _ _)

theorem execDeviceFault_sound {s : State} (h : Sound s.shape) (c t) : SoundOut (execDeviceFault c t s) := by
  unfold execDeviceFault
  apply ok_sound
  dsimp only
  split
  · exact h
  · split
    · refine atTime_sound h _ fun s h => ?_
      refine deviceReset_sound ?_ _ _ _ _ (fun s h => ?_) _ _
      · exact h
      · exact h
    · refine atTime_sound h _ fun s h => ?_
      refine deviceReset_sound ?_ _ _ _ _ (fun s h => ?_) _ _
      · exact h
      · simp [h]
    · refine atTime_sound h _ fun s h => ?_
      refine deviceReset_sound ?_ _ _ _ _ (fun s h => ?_) _ _
      · exact h
      · simp [h]
    · refine atTime_sound h _ fun s h => ?_
      refine deviceReset_sound ?_ _ _ _ _ (fun s h => ?_) _ _
      · exact h
      · simp [h]
    · refine atTime_sound h _ fun s h => ?_
      refine deviceReset_sound ?_ _ _ _ _ (fun s h => ?_) _ _
      · exact h
      · simp [h]
    · refine atTime_sound h _ fun s h => ?_
      refine deviceReset_sound ?_ _ _ _ _ (fun s h => ?_) _ _
      · exact h
      · exact h
    · exact h
    · exact h

theorem execTileFailurePrediction_sound {s : State} (h : Sound s.shape) (tile e) :
    SoundOut (execTileFailurePrediction tile e s) := by
  unfold execTileFailurePrediction
  rw [soundOut_ok]
  refine sound_of_ite h (atTime_sound h _ fun s h => ?_)
  dsimp only
  split
  · simp [h]
  · simp [h]
  · simp [h]
  · simp [h]
  · simp [h]
  · simp [h]
  · simp [h]

theorem execStoreBankSpare_sound {s : State} (h : Sound s.shape) (die bank t) :
    SoundOut (execStoreBankSpare die bank t s) := by simp [execStoreBankSpare, h]

theorem execPackagePrediction_sound {s : State} (h : Sound s.shape) (pkg rule t) :
    SoundOut (execPackagePrediction pkg rule t s) := by
  unfold execPackagePrediction
  rw [soundOut_ok]
  refine sound_of_ite h (atTime_sound h _ fun s h => ?_)
  extract_lets s1 s2
  have told : Sound s2.shape := postEventTo_sound (by simpa [s1] using h) ..
  exact sound_of_ite told (withT2_sound told told.mem told.pois)

theorem execMigrationCopyDone_sound {s : State} (h : Sound s.shape) (t) : SoundOut (execMigrationCopyDone t s) := by
  unfold execMigrationCopyDone
  apply ok_sound
  dsimp only
  split <;> simp [h]

theorem execScrubPass_sound {s : State} (h : Sound s.shape) (x t) : SoundOut (execScrubPass x t s) := by
  unfold execScrubPass
  rw [soundOut_ok]
  refine sound_of_ite h (atTime_sound h _ fun s h => ?_)
  dsimp only
  generalize hs : noteJournal _ _ = s1
  have broken : Sound s1.shape := by
    rw [← hs, noteJournal_shape]
    refine foldl_sound (foldl_sound (foldl_sound (foldl_sound ?_ _ ?_) _ ?_) _ ?_) _ ?_
    · simpa using h
    all_goals intro s k h
    · exact eccFixed_sound _ h k
    · exact eccFixed_sound _ h k
    · exact sectorFixed_sound h k
    · exact sectorBroken_sound h k
  have noted {used : List Nat} : Sound (x.found.foldl (fun s k => if used.contains (32 * k / pageSize) then
      addHist s 0 2 (ctrKey 0 3 (chanOf (32 * k)) 0) (BitVec.ofNat 64 (32 * k)) false else s) s1).shape :=
    foldl_sound broken _ fun s k h => sound_of_ite (by rwa [addHist_shape]) h
  exact sound_of_ite (deviceReset_sound noted _ _ _ _ (fun s h => h) _ _) noted

theorem execLi_sound {s : State} (h : Sound s.shape) (a w) : SoundOut (execLi a w s) := by simp [execLi, h]
theorem execLih_sound {s : State} (h : Sound s.shape) (a w) : SoundOut (execLih a w s) := by simp [execLih, h]
theorem execAdd_sound {s : State} (h : Sound s.shape) (a w) : SoundOut (execAdd a w s) := by simp [execAdd, h]
theorem execSub_sound {s : State} (h : Sound s.shape) (a w) : SoundOut (execSub a w s) := by simp [execSub, h]
theorem execMul_sound {s : State} (h : Sound s.shape) (a w) : SoundOut (execMul a w s) := by simp [execMul, h]
theorem execAnd_sound {s : State} (h : Sound s.shape) (a w) : SoundOut (execAnd a w s) := by simp [execAnd, h]
theorem execOr_sound {s : State} (h : Sound s.shape) (a w) : SoundOut (execOr a w s) := by simp [execOr, h]
theorem execXor_sound {s : State} (h : Sound s.shape) (a w) : SoundOut (execXor a w s) := by simp [execXor, h]
theorem execShl_sound {s : State} (h : Sound s.shape) (a w) : SoundOut (execShl a w s) := by simp [execShl, h]
theorem execShr_sound {s : State} (h : Sound s.shape) (a w) : SoundOut (execShr a w s) := by simp [execShr, h]

theorem execLoop_sound {s : State} (h : Sound s.shape) (a w) : SoundOut (execLoop a w s) := by
  unfold execLoop
  rw [soundOut_ok]
  split
  · exact h
  · extract_lets t len n
    refine sound_of_ite (tileFault_sound h ..) (sound_of_ite ?_ ?_)
    · exact seqPass_sound (by simpa using h) a
    · exact seqPass_sound (by simpa using h) a

theorem execQcnt_sound {s : State} (h : Sound s.shape) (a w) : SoundOut (execQcnt a w s) := by simp [execQcnt, h]
theorem execTbase_sound {s : State} (h : Sound s.shape) (a w) : SoundOut (execTbase a w s) := by simp [execTbase, h]
theorem execTileid_sound {s : State} (h : Sound s.shape) (a w) : SoundOut (execTileid a w s) := by simp [execTileid, h]

theorem execReservedOpcodeWord_sound {s : State} (h : Sound s.shape) (a raw) : SoundOut (execReservedOpcodeWord a raw s) := by
  unfold execReservedOpcodeWord
  apply ok_sound
  split <;> simp [h]

theorem execSignal_sound {s : State} (h : Sound s.shape) (a w) : SoundOut (execSignal a w s) := by
  unfold execSignal
  rw [soundOut_ok]
  exact syncWord_sound h _ _ _ fun x => sound_of_ite (tileFaultSem_sound h ..) (sound_of_ite h (finishWord_sound (by simpa using h) ..))

theorem execSignalArrival_sound {s : State} (h : Sound s.shape) (a n) : SoundOut (execSignalArrival a n s) := by
  unfold execSignalArrival
  rw [soundOut_ok]
  extract_lets t
  split
  · exact h
  · refine sound_of_ite h (sound_of_ite ?_ (by simpa using h))
    extract_lets seg
    exact raiseFaults_sound (by rw [eitherOf_shape]; exact h) ..

theorem execWait_sound {s : State} (h : Sound s.shape) (a w) : SoundOut (execWait a w s) := by
  unfold execWait
  rw [soundOut_ok]
  refine syncWord_sound h _ _ _ fun x => ?_
  extract_lets t n c
  exact sound_of_ite (finishWord_sound h ..) (by simpa using h)

theorem execWaitSatisfied_sound {s : State} (h : Sound s.shape) (a q) : SoundOut (execWaitSatisfied a q s) := by
  unfold execWaitSatisfied
  rw [soundOut_ok]
  extract_lets t
  split
  · exact h
  · exact sound_of_ite (finishWord_sound (countWait_sound h ..) ..) h

theorem execWaitTimeout_sound {s : State} (h : Sound s.shape) (a q) : SoundOut (execWaitTimeout a q s) := by
  unfold execWaitTimeout
  apply ok_sound
  dsimp only
  split
  · exact h
  · split
    · exact h
    · split <;> simp [h]

theorem execTake_sound {s : State} (h : Sound s.shape) (a w) : SoundOut (execTake a w s) := by
  unfold execTake
  rw [soundOut_ok]
  refine syncWord_sound h _ _ _ fun w => sound_of_ite ?_ (finishWord_sound h ..)
  exact tileFaultSem_sound (by rw [eitherOf_shape]; exact h) ..

theorem execMark_sound {s : State} (h : Sound s.shape) (a w) : SoundOut (execMark a w s) := by
  unfold execMark
  rw [soundOut_ok]
  refine syncWord_sound h _ _ _ fun w => ?_
  extract_lets t s1
  exact finishWord_sound (s := s1) (by rw [markHit_shape]; exact h) ..

theorem execSegend_sound {s : State} (h : Sound s.shape) (a w) : SoundOut (execSegend a w s) := by
  unfold execSegend
  rw [soundOut_ok]
  refine syncWord_sound h _ _ _ fun x => ?_
  extract_lets t q id here s1 fin
  have done : Sound s1.shape := sound_of_ite (by rw [readersDone_shape]; exact h) h
  have ended (y : Tile) : Sound (fin y).shape := sound_of_ite (by simpa using done) (seqPass_sound (by simpa using done) a)
  refine sound_of_ite (tileFault_sound h ..) <| sound_of_ite (sound_of_ite (ended t) (tileFault_sound h ..)) <| sound_of_ite ?_ <|
    sound_of_ite ?_ (ended t)
  · split
    · exact tileFault_sound h ..
    · exact ended t
  · refine sound_of_ite h ?_
    split
    · exact tileFault_sound h ..
    · rw [sweepInvals_shape]
      exact ended _

theorem execSegmentCommit_sound {s : State} (h : Sound s.shape) (part seg step t) :
    SoundOut (execSegmentCommit part seg step t s) := by
  unfold execSegmentCommit
  apply ok_sound
  dsimp only
  split
  · split
    · split
      · exact h
      · refine atTime_sound h _ fun s h => ?_
        split
        · simp [h]
        · split
          · simp [h]
          · split
            · simp [h]
            · apply schedule_sound
              apply turnLoop_sound
              apply settleTry_sound
              simp [h]
    · exact h
  · exact h

theorem execEnergyWindowStart_sound {s : State} (h : Sound s.shape) (t) : SoundOut (execEnergyWindowStart t s) :=
  ok_sound (sound_of_ite (atTime_sound h _ fun s h => schedule_sound (by
    rwa [withParts_shape _ (List.length_map ..), withTime_shape])) h)

theorem execMxseta_sound {s : State} (h : Sound s.shape) (a w) : SoundOut (execMxseta a w s) := by
  unfold execMxseta
  rw [soundOut_ok]
  refine mxWord_sound h _ _ fun w => ?_
  extract_lets t
  exact finishWord_sound h ..

theorem execMxsetb_sound {s : State} (h : Sound s.shape) (a w) : SoundOut (execMxsetb a w s) := by
  unfold execMxsetb
  rw [soundOut_ok]
  refine mxWord_sound h _ _ fun w => ?_
  extract_lets t
  exact finishWord_sound h ..

theorem execMxsetd_sound {s : State} (h : Sound s.shape) (a w) : SoundOut (execMxsetd a w s) := by
  unfold execMxsetd
  rw [soundOut_ok]
  refine mxWord_sound h _ _ fun w => ?_
  extract_lets t
  exact finishWord_sound h ..

theorem execMxsets_sound {s : State} (h : Sound s.shape) (a w) : SoundOut (execMxsets a w s) := by
  unfold execMxsets
  rw [soundOut_ok]
  exact mxWord_sound h _ _ fun w => finishWord_sound h ..

theorem execMxorg_sound {s : State} (h : Sound s.shape) (a w) : SoundOut (execMxorg a w s) := by
  unfold execMxorg
  rw [soundOut_ok]
  exact mxWord_sound h _ _ fun w => sound_of_ite (heldFault_sound h ..) (finishWord_sound h ..)

theorem execMxmul_sound {s : State} (h : Sound s.shape) (a w) : SoundOut (execMxmul a w s) := by
  unfold execMxmul
  rw [soundOut_ok]
  refine mxWord_sound h _ _ fun x => ?_
  extract_lets t r sh fm fmode
  split
  · exact canonFault_sound h ..
  · refine sound_of_ite (canonFault_sound h ..) (sound_of_ite (sound_of_ite (slotFault_sound h ..) (slotFault_sound h ..)) ?_)
    split
    · refine sound_of_ite h ?_
      extract_lets sa reg
      simpa using h
    · exact slotFault_sound h ..
    · exact blockOnRings_sound h ..
    · exact slotFault_sound h ..

theorem execMxdelta_sound {s : State} (h : Sound s.shape) (a w) : SoundOut (execMxdelta a w s) := by
  unfold execMxdelta
  rw [soundOut_ok]
  refine mxWord_sound h _ _ fun x => ?_
  extract_lets t r
  split
  · exact canonFault_sound h ..
  · extract_lets x rows
    refine sound_of_ite (canonFault_sound h ..) ?_
    split
    · exact tileFault_sound h ..
    · split
      · refine sound_of_ite h ?_
        extract_lets sel g' x'
        simpa using h
      · exact slotFault_sound h ..

theorem execMxfin_sound {s : State} (h : Sound s.shape) (a w) : SoundOut (execMxfin a w s) := by
  unfold execMxfin
  rw [soundOut_ok]
  refine mxWord_sound h _ _ fun w => ?_
  extract_lets t
  split
  · exact heldFault_sound h ..
  · exact sound_of_ite h (finishWord_sound h ..)

theorem execEwhead_sound {s : State} (h : Sound s.shape) (a w) : SoundOut (execEwhead a w s) := by
  unfold execEwhead
  rw [soundOut_ok]
  split
  · exact h
  · extract_lets t
    split
    · exact chainFault_sound h ..
    · exact sound_of_ite (chainFault_sound h ..) (finishWord_sound h ..)

theorem execEworg_sound {s : State} (h : Sound s.shape) (a w) : SoundOut (execEworg a w s) := by simp [execEworg, h]
theorem execEwsrc_sound {s : State} (h : Sound s.shape) (a w) : SoundOut (execEwsrc a w s) := by simp [execEwsrc, h]
theorem execEwop_sound {s : State} (h : Sound s.shape) (a w) : SoundOut (execEwop a w s) := by simp [execEwop, h]
theorem execEwdst_sound {s : State} (h : Sound s.shape) (a w) : SoundOut (execEwdst a w s) := by simp [execEwdst, h]

theorem execChainStart_sound {s : State} (h : Sound s.shape) (a) : SoundOut (execChainStart a s) := by
  unfold execChainStart
  rw [soundOut_ok]
  extract_lets t ts
  split
  · exact h
  · refine sound_of_ite h ?_
    extract_lets form bars sb db bars2 p t2
    refine sound_of_ite ?_ ?_
    · split
      · exact raiseBar_sound h ..
      · exact h
    · split
      · exact raiseBar_sound h ..
      · rwa [setTile_shape]

theorem execChainComplete_sound {s : State} (h : Sound s.shape) (a) : SoundOut (execChainComplete a s) := by
  unfold execChainComplete
  rw [soundOut_ok]
  extract_lets t
  split
  · exact h
  · refine sound_of_ite h ?_
    split
    · exact poisonFault_sound h ..
    · extract_lets t1 t2 t3 t4 s1 s2
      have counted : Sound s1.shape := addCtr_sound (by rwa [setTile_shape]) ..
      have sent : Sound s2.shape := foldl_sound counted _ fun s n h => sound_of_ite (sendTail_sound h ..) h
      exact sound_of_ite sent (sound_of_ite (tileFault_sound sent ..) sent)

theorem execEwflag_sound {s : State} (h : Sound s.shape) (a w) : SoundOut (execEwflag a w s) := by
  unfold execEwflag
  rw [soundOut_ok]
  split
  · exact h
  · extract_lets t b
    split
    · exact chainFault_sound h ..
    · exact sound_of_ite (t0Extent_sound h ..) (finishWord_sound h ..)

theorem execEwsamp_sound {s : State} (h : Sound s.shape) (a w) : SoundOut (execEwsamp a w s) := by
  unfold execEwsamp
  rw [soundOut_ok]
  split
  · exact h
  · extract_lets t b d n
    split
    · exact chainFault_sound h ..
    · exact sound_of_ite (t0Extent_sound h ..) <| sound_of_ite (t0Extent_sound h ..) <| sound_of_ite (poisonFault_sound h ..)
        (by simpa using h)

theorem execSamplePartAccept_sound {s : State} (h : Sound s.shape) (a) : SoundOut (execSamplePartAccept a s) := by
  unfold execSamplePartAccept
  rw [soundOut_ok]
  extract_lets t
  split
  · exact h
  · refine sound_of_ite h (sound_of_ite (tileFault_sound h ..) ?_)
    split
    · exact finishWord_sound (by rw [withSamp_shape]; exact h) ..
    · exact sound_of_ite (tileFault_sound h ..) (sound_of_ite h (finishWord_sound (by rw [withSamp_shape]; exact h) ..))

theorem execSampleDraw_sound {s : State} (h : Sound s.shape) (die n) : SoundOut (execSampleDraw die n s) := by
  unfold execSampleDraw
  rw [soundOut_ok]
  split
  · exact h
  · split
    · refine sound_of_ite h ?_
      dsimp only
      rw [addDraw_shape, setTile_shape]
      exact h
    · exact h

theorem execRarm_sound {s : State} (h : Sound s.shape) (a w) : SoundOut (execRarm a w s) := by
  unfold execRarm
  apply ok_sound
  split
  · exact h
  · split <;> simp [h]

theorem execRearm_sound {s : State} (h : Sound s.shape) (a w) : SoundOut (execRearm a w s) := by
  unfold execRearm
  rw [soundOut_ok]
  split
  · extract_lets t n x
    split
    · exact t0Extent_sound h ..
    · split
      · exact ringForm_sound h ..
      · refine sound_of_ite (ringForm_sound h ..) (sound_of_ite h ?_)
        split
        · exact t0Extent_sound h ..
        · refine sound_of_ite (ringForm_sound h ..) ?_
          split
          · exact extentFault_sound h ..
          · exact finishWord_sound h ..
  · exact h

theorem execRsend_sound {s : State} (h : Sound s.shape) (a w) : SoundOut (execRsend a w s) := by
  unfold execRsend
  apply ok_sound
  dsimp only
  split <;> simp [h]

theorem execRclose_sound {s : State} (h : Sound s.shape) (a w) : SoundOut (execRclose a w s) := by
  unfold execRclose
  rw [soundOut_ok]
  split
  · exact h
  · extract_lets t n x
    refine sound_of_ite h (sound_of_ite (tileFault_sound h ..) ?_)
    rw [sweepInvals_shape]
    exact finishWord_sound (by rw [readersDone_shape]; exact h) ..

theorem execFanStart_sound {s : State} (h : Sound s.shape) (r) : SoundOut (execFanStart r s) := by
  unfold execFanStart
  apply ok_sound
  dsimp only
  split
  · exact h
  · split
    · exact h
    · split
      · simp [h]
      · split
        · simp [h]
        · split
          · exact h
          · rwa [updTile_shape]

theorem execFetchIssue_sound {s : State} (h : Sound s.shape) (r) : SoundOut (execFetchIssue r s) := by
  unfold execFetchIssue
  rw [soundOut_ok]
  extract_lets a n x
  split
  · exact h
  · extract_lets b fan slot others freeOk
    refine sound_of_ite h (sound_of_ite ?_ (sound_of_ite h ?_))
    · split
      · exact h
      · exact issueInto_sound h ..
    · split
      · exact h
      · extract_lets pendOk demand
        refine sound_of_ite h (issueInto_sound ?_ ..)
        exact foldl_sound h _ fun s t h => by simpa using h

theorem execFetchLand_sound {s : State} (h : Sound s.shape) (r slot how data) : SoundOut (execFetchLand r slot how data s) := by
  unfold execFetchLand
  rw [soundOut_ok]
  extract_lets n x b
  split
  · extract_lets fromHost cur
    refine sound_of_ite h ?_
    split
    · refine sound_of_ite h ?_
      extract_lets s1 s2 t s3
      have read : Sound s2.shape := addCtr_sound (readErrors_sound h ..) ..
      rw [sweepInvals_shape, setTile_shape, readersDone_shape]
      exact read
    · refine sound_of_ite h ?_
      extract_lets s1
      have failed : Sound s1.shape := by rwa [hostReadFails_shape]
      split
      · exact tileFault_sound failed ..
      · rw [sweepInvals_shape]
        exact deferBob_sound failed ..
  · exact h

theorem execSendVisible_sound {s : State} (h : Sound s.shape) (r slot) : SoundOut (execSendVisible r slot s) := by
  unfold execSendVisible
  rw [soundOut_ok]
  extract_lets t x b y s1
  split
  · exact h
  · refine sound_of_ite h ?_
    extract_lets s2 base pages dst
    have freed : Sound s2.shape := addCtr_sound (by rwa [setTile_shape]) ..
    exact sound_of_ite (markSpans_sound (clearBob_sound (storeBob_sound freed ..) ..) ..) (by rwa [updTile_shape])

theorem execT1FillLand_sound {s : State} (h : Sound s.shape) (x) : SoundOut (execT1FillLand x s) := by
  unfold execT1FillLand
  apply ok_sound
  dsimp only
  split
  · exact h
  · split
    · exact h
    · split <;> simp [h]

theorem execFrameRelease_sound {s : State} (h : Sound s.shape) (frame) : SoundOut (execFrameRelease frame s) := by
  unfold execFrameRelease
  apply ok_sound
  split
  · exact h
  · split
    · exact h
    · split <;> simp [h]

theorem execHeatDecay_sound {s : State} (h : Sound s.shape) (t) : SoundOut (execHeatDecay t s) :=
  ok_sound (sound_of_ite (atTime_sound h _ fun s h => by
    rwa [withTime_shape, withParts_shape _ (List.length_map ..)]) h)

theorem execFaultRecordComplete_sound {s : State} (h : Sound s.shape) (part t) : SoundOut (execFaultRecordComplete part t s) := by
  unfold execFaultRecordComplete
  apply ok_sound
  dsimp only
  split
  · exact h
  · refine sound_of_ite h (atTime_sound h _ fun s h => ?_)
    rw [commitWhere_shape]
    refine endCampaign_sound (setPState_sound ?_ ..) ..
    have evicted := faultEvicts_sound h part
    split <;> simp [evicted]

theorem execPeerFaultReceive_sound {s : State} (h : Sound s.shape) (part m t) : SoundOut (execPeerFaultReceive part m t s) := by
  unfold execPeerFaultReceive
  apply ok_sound
  dsimp only
  split
  · exact h
  · split
    · exact h
    · refine atTime_sound h _ fun s h => ?_
      refine fromBound_sound h _ _ fun s h => ?_
      split <;> simp [h]

theorem execStartingComplete_sound {s : State} (h : Sound s.shape) (part t) : SoundOut (execStartingComplete part t s) :=
  ok_sound (sound_of_ite h (atTime_sound h _ fun s h => beginStop_sound (by
    rw [commitWhere_shape]
    exact setPState_sound (by rwa [updPart_shape]) ..) _))

theorem execStopComplete_sound {s : State} (h : Sound s.shape) (part t) : SoundOut (execStopComplete part t s) := by
  unfold execStopComplete
  apply ok_sound
  dsimp only
  split
  · exact h
  · refine atTime_sound h _ fun s h => ?_
    simp [h]

theorem execGroupDrainComplete_sound {s : State} (h : Sound s.shape) (g t) : SoundOut (execGroupDrainComplete g t s) := by
  unfold execGroupDrainComplete
  apply ok_sound
  dsimp only
  split
  · exact h
  · refine atTime_sound h _ fun s h => ?_
    simp [h]

theorem execTurnEndTime_sound {s : State} (h : Sound s.shape) (part t) : SoundOut (execTurnEndTime part t s) := by
  unfold execTurnEndTime
  apply ok_sound
  split
  · exact h
  · refine sound_of_ite h (atTime_sound h _ fun s h => schedule_sound (turnLoop_sound ?_ _))
    exact foldl_sound (by rwa [updRun_shape]) _ fun s e h => sound_of_ite (by rwa [setReq_shape]) (evictReq_sound h ..)

theorem execTurnEndBeaconArrival_sound {s : State} (h : Sound s.shape) (part m turn t) :
    SoundOut (execTurnEndBeaconArrival part m turn t s) := by
  unfold execTurnEndBeaconArrival
  apply ok_sound
  split
  · exact h
  · split
    · refine atTime_sound h _ fun s h => ?_
      refine fromBound_sound h _ _ fun s h => ?_
      simp [h]
    · exact h

theorem execChunkReceive_sound {s : State} (h : Sound s.shape) (x t) : SoundOut (execChunkReceive x t s) := by
  unfold execChunkReceive
  rw [soundOut_ok]
  split
  · exact takeChunk_sound h ..
  · exact pairMsg_sound h _ _ _ fun s h => serveFetch_sound h ..
  · exact pairMsg_sound h _ _ _ fun s h => chunkLost_sound h ..

theorem execSwitchPublish_sound {s : State} (h : Sound s.shape) (part e) : SoundOut (execSwitchPublish part e s) := by
  unfold execSwitchPublish
  apply ok_sound
  split
  · exact h
  · split
    · refine atTime_sound h _ fun s h => ?_
      simp [h]
    · exact h

theorem execCampaignDigestReceive_sound {s : State} (h : Sound s.shape) (part m d t) :
    SoundOut (execCampaignDigestReceive part m d t s) := by
  unfold execCampaignDigestReceive
  apply ok_sound
  split
  · exact h
  · split
    · refine atTime_sound h _ fun s h => ?_
      refine fromMember_sound h _ fun s h => ?_
      simp [h]
    · exact h

theorem execRendezvousTimeout_sound {s : State} (h : Sound s.shape) (part t) : SoundOut (execRendezvousTimeout part t s) := by
  unfold execRendezvousTimeout
  apply ok_sound
  split
  · exact h
  · exact sound_of_ite (atTime_sound h _ fun s h => endCampaign_sound h ..) h

theorem execCampaignStopReceive_sound {s : State} (h : Sound s.shape) (part e) : SoundOut (execCampaignStopReceive part e s) :=
  ok_sound (atTime_sound h _ fun s h => fromBound_sound h _ _ fun s h => stopGoesOn_sound (turnLoop_sound (stopBetween_sound
    (stopLearn_sound (campStop_sound (by rwa [updCamp_shape]) _) _) _) _) _)

theorem execStepBeaconArrival_sound {s : State} (h : Sound s.shape) (part m coll leaf tokens t) :
    SoundOut (execStepBeaconArrival part m coll leaf tokens t s) := by
  unfold execStepBeaconArrival
  apply ok_sound
  dsimp only
  split
  · split
    · split
      · refine atTime_sound h _ fun s h => ?_
        refine fromBound_sound h _ _ fun s h => ?_
        apply schedule_sound
        simp [h]
      · exact h
    · exact h
  · exact h

theorem execSettleDeadline_sound {s : State} (h : Sound s.shape) (part t) : SoundOut (execSettleDeadline part t s) := by
  unfold execSettleDeadline
  apply ok_sound
  split
  · refine atTime_sound h _ fun s h => ?_
    simp [h]
  · exact h

theorem execSettleTimeout_sound {s : State} (h : Sound s.shape) (part e) : SoundOut (execSettleTimeout part e s) := by
  unfold execSettleTimeout
  apply ok_sound
  dsimp only
  split
  · split
    · exact h
    · split
      · split
        · refine atTime_sound h _ fun s h => ?_
          simp [h]
        · exact h
      · exact h
  · exact h

theorem execCloseListReceive_sound {s : State} (h : Sound s.shape) (part c t) : SoundOut (execCloseListReceive part c t s) := by
  unfold execCloseListReceive
  apply ok_sound
  dsimp only
  split
  · refine atTime_sound h _ fun s h => ?_
    refine fromBound_sound h _ _ fun s h => ?_
    split
    · split
      · simp [h]
      · split <;> simp [h]
    · exact h
  · exact h

theorem execCollectiveChunkReceive_sound {s : State} (h : Sound s.shape) (buf t) :
    SoundOut (execCollectiveChunkReceive buf t s) := by
  unfold execCollectiveChunkReceive
  apply ok_sound
  split
  · exact h
  · split
    · exact h
    · split
      · exact h
      · split
        · exact h
        · refine atTime_sound h _ fun s h => ?_
          simp [h]

theorem execFabricTimeout_sound {s : State} (h : Sound s.shape) (part id pair t) :
    SoundOut (execFabricTimeout part id pair t s) := by
  unfold execFabricTimeout
  apply ok_sound
  split
  · split
    · refine atTime_sound h _ fun s h => ?_
      simp [h]
    · exact h
  · exact h

theorem execListAdmission_sound {s : State} (h : Sound s.shape) (part p e drs t) :
    SoundOut (execListAdmission part p e drs t s) := by
  unfold execListAdmission
  apply ok_sound
  dsimp only
  split
  · exact h
  · split
    · split
      · exact h
      · refine atTime_sound h _ fun s h => ?_
        apply schedule_sound
        simp [h]
    · split
      · exact h
      · refine atTime_sound h _ fun s h => ?_
        apply schedule_sound
        simp [h]

theorem execStepCompose_sound {s : State} (h : Sound s.shape) (part e toks bad t) :
    SoundOut (execStepCompose part e toks bad t s) := by
  unfold execStepCompose
  apply ok_sound
  split
  · exact h
  · split
    · exact h
    · refine atTime_sound h _ fun s h => ?_
      apply schedule_sound
      simp [h]

theorem execManifestReceive_sound {s : State} (h : Sound s.shape) (part w slot e evicts t) :
    SoundOut (execManifestReceive part w slot e evicts t s) := by
  unfold execManifestReceive
  rw [soundOut_ok]
  split
  · exact h
  · extract_lets rp
    refine sound_of_ite h (atTime_sound h _ fun s h => fromBound_sound h _ _ fun s h => ?_)
    extract_lets s1 s2 rec0
    have evicted : Sound s1.shape := foldl_sound h _ fun s v h => by
      split
      · refine sound_of_ite h (sound_of_ite ?_ (evictReq_sound h ..))
        rw [setReq_shape]
        exact h
      · exact h
    refine sound_of_ite (schedule_sound (turnLoop_sound evicted _)) ?_
    have planned : Sound s2.shape := foldl_inv (fun k : Picks => Sound k.s.shape) (x := ⟨s1, e.drs, []⟩) evicted _ fun k q h => by
      split
      · exact applyPlan_sound h ..
      · exact h
    exact schedule_sound (turnLoop_sound (by rw [openStep_shape]; exact putManifest_sound planned ..) _)

theorem execRolloutCommit_sound {s : State} (h : Sound s.shape) (part step t) : SoundOut (execRolloutCommit part step t s) := by
  unfold execRolloutCommit
  apply ok_sound
  split
  · split
    · split
      · exact h
      · refine atTime_sound h _ fun s h => ?_
        apply schedule_sound
        simp [h]
    · exact h
  · exact h

theorem execCommitRecordReceive_sound {s : State} (h : Sound s.shape) (part w draws drafts evicts t) :
    SoundOut (execCommitRecordReceive part w draws drafts evicts t s) := by
  unfold execCommitRecordReceive
  rw [soundOut_ok]
  split
  · exact h
  · split
    · refine sound_of_ite h (atTime_sound h _ fun s h => fromBound_sound h _ _ fun s h => ?_)
      extract_lets s1
      have committed : Sound s1.shape := foldl_sound h _ fun s q h => commitReq_sound h ..
      exact schedule_sound (turnLoop_sound (by rw [closeStep_shape]; exact committed) _)
    · exact h

theorem execFlitTransmit_sound {s : State} (h : Sound s.shape) (port beacon bid t) :
    SoundOut (execFlitTransmit port beacon bid t s) :=
  ok_sound (sound_of_ite h (atTime_sound h _ fun s h => by
    dsimp only
    rw [setPort_shape]
    exact sound_of_ite h (addCtr_sound h ..)))

theorem execFlitReceive_sound {s : State} (h : Sound s.shape) (port f t) : SoundOut (execFlitReceive port f t s) := by
  unfold execFlitReceive
  apply ok_sound
  dsimp only
  split
  · exact h
  · refine atTime_sound h _ fun s h => ?_
    simp [h]

theorem execBeaconReflect_sound {s : State} (h : Sound s.shape) (port t) : SoundOut (execBeaconReflect port t s) := by
  unfold execBeaconReflect
  apply ok_sound
  split
  · exact h
  · exact atTime_sound h _ fun s h => by rwa [setPort_shape]

theorem execLaneSubstitution_sound {s : State} (h : Sound s.shape) (port lane t) :
    SoundOut (execLaneSubstitution port lane t s) := by
  unfold execLaneSubstitution
  apply ok_sound
  dsimp only
  split
  · exact h
  · refine atTime_sound h _ fun s h => ?_
    simp [h]

theorem execLightLoss_sound {s : State} (h : Sound s.shape) (port l t) : SoundOut (execLightLoss port l t s) := by
  unfold execLightLoss
  apply ok_sound
  refine sound_of_ite h (atTime_sound h _ fun s h => ?_)
  exact sound_of_ite (by rwa [setPort_shape]) (portDown_sound (by rwa [setPort_shape]) _)

theorem execLaserFailure_sound {s : State} (h : Sound s.shape) (unit t) : SoundOut (execLaserFailure unit t s) := by
  unfold execLaserFailure
  apply ok_sound
  refine atTime_sound h _ fun s h => ?_
  simp [h]

theorem execPortRetrain_sound {s : State} (h : Sound s.shape) (port e) : SoundOut (execPortRetrain port e s) := by
  unfold execPortRetrain
  apply ok_sound
  dsimp only
  split
  · exact h
  · refine atTime_sound h _ fun s h => ?_
    simp [h]

theorem execTrainingComplete_sound {s : State} (h : Sound s.shape) (port e nonce t) :
    SoundOut (execTrainingComplete port e nonce t s) := by
  unfold execTrainingComplete
  apply ok_sound
  dsimp only
  split
  · exact h
  · refine atTime_sound h _ fun s h => ?_
    simp [h]

theorem execHelloReceive_sound {s : State} (h : Sound s.shape) (port h' t) : SoundOut (execHelloReceive port h' t s) := by
  unfold execHelloReceive
  rw [soundOut_ok]
  refine sound_of_ite h (atTime_sound h _ fun s h => ?_)
  dsimp only
  generalize hs : ite (h'.chainOk && _) _ (meetPeer s port h') = s1
  have known : Sound s1.shape := by simp [← hs, h]
  refine sound_of_ite (helloPassed_sound known ..) (reroute_sound (fabricEvent_sound ?_ ..))
  rw [portHist_shape, setPort_shape, drawFree_shape]
  exact known

theorem execQuarantineRehello_sound {s : State} (h : Sound s.shape) (port nonce t) :
    SoundOut (execQuarantineRehello port nonce t s) := by simp [execQuarantineRehello, h]

theorem execPortDrained_sound {s : State} (h : Sound s.shape) (port t) : SoundOut (execPortDrained port t s) := by
  unfold execPortDrained
  apply ok_sound
  dsimp only
  split
  · refine atTime_sound h _ fun s h => ?_
    simp [h]
  · split
    · refine atTime_sound h _ fun s h => ?_
      simp [h]
    · exact h

theorem execJoinRequest_sound {s : State} (h : Sound s.shape) (j t) : SoundOut (execJoinRequest j t s) := by
  unfold execJoinRequest
  rw [soundOut_ok]
  exact sound_of_ite h (atTime_sound h _ fun s h => fromMember_sound h _ fun s h => passJoin_sound h _)

theorem execEpochProposalReceive_sound {s : State} (h : Sound s.shape) (m epoch members t) :
    SoundOut (execEpochProposalReceive m epoch members t s) := by
  unfold execEpochProposalReceive
  rw [soundOut_ok]
  refine sound_of_ite h (atTime_sound h _ fun s h => fromMember_sound h _ fun s h => ?_)
  split
  · rw [sendMsg_shape]
    exact h
  · exact sound_of_ite (by rw [sendMsg_shape]; exact h) h

theorem execEpochAckReceive_sound {s : State} (h : Sound s.shape) (m epoch t) : SoundOut (execEpochAckReceive m epoch t s) := by
  unfold execEpochAckReceive
  rw [soundOut_ok]
  exact sound_of_ite h (atTime_sound h _ fun s h => fromMember_sound h _ fun s h => propose_sound (tryInstall_sound h))

theorem execEpochCommitReceive_sound {s : State} (h : Sound s.shape) (w members links t) :
    SoundOut (execEpochCommitReceive w members links t s) := by
  unfold execEpochCommitReceive
  rw [soundOut_ok]
  extract_lets mine due
  exact sound_of_ite h (atTime_sound h _ fun s h => fromMember_sound h _ fun s h => propose_sound (installEpoch_sound h ..))

theorem execHeartbeatSend_sound {s : State} (h : Sound s.shape) (t) : SoundOut (execHeartbeatSend t s) := by
  unfold execHeartbeatSend
  apply ok_sound
  dsimp only
  split
  · exact h
  · refine atTime_sound h _ fun s h => ?_
    split <;> simp [h]

theorem execHeartbeatReceive_sound {s : State} (h : Sound s.shape) (m t) : SoundOut (execHeartbeatReceive m t s) := by
  unfold execHeartbeatReceive
  rw [soundOut_ok]
  refine sound_of_ite h (atTime_sound h _ fun s h => fromMember_sound h _ fun s h => ?_)
  exact sound_of_ite h (reroute_sound h)

theorem execMemberSilent_sound {s : State} (h : Sound s.shape) (g t) : SoundOut (execMemberSilent g t s) := by
  unfold execMemberSilent
  apply ok_sound
  dsimp only
  split
  · exact h
  · refine atTime_sound h _ fun s h => ?_
    simp [h]

theorem execLeaderLoss_sound {s : State} (h : Sound s.shape) (reach t) : SoundOut (execLeaderLoss reach t s) := by
  unfold execLeaderLoss
  apply ok_sound
  dsimp only
  split
  · exact h
  · refine atTime_sound h _ fun s h => ?_
    simp [h]

theorem execIsolation_sound {s : State} (h : Sound s.shape) (reach e) : SoundOut (execIsolation reach e s) := by
  unfold execIsolation
  rw [soundOut_ok]
  refine sound_of_ite h (atTime_sound h _ fun s h => loseCampaigns_sound (fabricEvent_sound ?_ ..) _)
  simpa using h

theorem execMessageResend_sound {s : State} (h : Sound s.shape) (x t) : SoundOut (execMessageResend x t s) := by
  unfold execMessageResend
  apply ok_sound
  dsimp only
  split
  · exact h
  · split
    · refine atTime_sound h _ fun s h => ?_
      exact h
    · simp [h]

theorem execSnapshotLatch_sound {s : State} (h : Sound s.shape) (part id t) : SoundOut (execSnapshotLatch part id t s) := by
  unfold execSnapshotLatch
  apply ok_sound
  dsimp only
  split <;> simp [h]

theorem execMultiplyWordComplete_sound {s : State} (h : Sound s.shape) (a) : SoundOut (execMultiplyWordComplete a s) := by
  unfold execMultiplyWordComplete
  rw [soundOut_ok]
  extract_lets t
  split
  · exact h
  · exact sound_of_ite h (finishWord_sound (addCtr_sound h ..) ..)

theorem execHostTransferComplete_sound {s : State} (h : Sound s.shape) (x off data e t) :
    SoundOut (execHostTransferComplete x off data e t s) := by
  unfold execHostTransferComplete
  rw [soundOut_ok]
  refine sound_of_ite h ?_
  split
  · split
    · extract_lets p
      refine sound_of_ite h ?_
      split
      · exact sound_of_ite h (atTime_sound h _ fun s h => by simp [h])
      · exact sound_of_ite h (atTime_sound h _ fun s h => by simp [h])
      · exact h
    · exact h
  · split
    · exact sound_of_ite h (atTime_sound h _ fun s h => by simp [h])
    · split
      · exact sound_of_ite h (atTime_sound h _ fun s h => by simp [h])
      · exact h
  · exact sound_of_ite h (atTime_sound h _ fun s h => schedule_sound (turnLoop_sound (settleTry_sound (by rwa [updRun_shape]) _) _))
  · exact atTime_sound h _ fun s h => by simp [h]
  · exact sound_of_ite h (atTime_sound h _ fun s h => by simp [h])

theorem execInterruptIntervalExpiry_sound {s : State} (h : Sound s.shape) (fn n t) :
    SoundOut (execInterruptIntervalExpiry fn n t s) := by
  unfold execInterruptIntervalExpiry
  apply ok_sound
  split
  · exact h
  · exact sound_of_ite (atTime_sound h _ fun s h => raiseMsix_sound (by rwa [setCq_shape]) ..) h

theorem execLaneSubstitutionComplete_sound {s : State} (h : Sound s.shape) (port t) :
    SoundOut (execLaneSubstitutionComplete port t s) :=
  ok_sound (sound_of_ite h (atTime_sound h _ fun s h => by
    dsimp only
    rw [portHist_shape]
    exact fabricEvent_sound (by rwa [setPort_shape]) ..))

theorem execRegionsScrubbed_sound {s : State} (h : Sound s.shape) (part t) : SoundOut (execRegionsScrubbed part t s) :=
  ok_sound (sound_of_ite h (atTime_sound h _ fun s h => by
    dsimp only
    rw [setPart_shape]
    refine setPState_sound (dropQueues_sound ?_ _) ..
    rw [flushFn_shape, commitWhere_shape]
    exact zeroPages_sound h _))

theorem execReservedT2Initialised_sound {s : State} (h : Sound s.shape) (e) : SoundOut (execReservedT2Initialised e s) := by
  unfold execReservedT2Initialised
  rw [soundOut_ok]
  refine sound_of_ite h (atTime_sound h _ fun s h => sound_of_ite (moduleFatal_sound h ..) ?_)
  dsimp only
  have logged : Sound (bootLog (s.withBoot { s.boot with resvT2 := true }) 7 0 0).shape := by simpa using h
  split
  · exact loadNow_sound logged _
  · exact logged

end Sys2Proof.Machine
end

section
/-! PROOFS. Every step keeps the sizes of the tables and the canonical forms (the invariant of O28). -/

namespace Sys2Proof.Machine

open Sys2Proof

theorem exec_sound {s : State} (h : Sound s.shape) (i : Instr) : SoundOut (exec i s) := by
  cases i with
  | partCreate q p => exact execPartCreate_sound h q p
  | partDestroy q => exact execPartDestroy_sound h q
  | partStart q => exact execPartStart_sound h q
  | partStop q => exact execPartStop_sound h q
  | partQuota q p => exact execPartQuota_sound h q p
  | partSeed q seed => exact execPartSeed_sound h q seed
  | partFlagmask q m => exact execPartFlagmask_sound h q m
  | partServe q entries handles => exact execPartServe_sound h q entries handles
  | groupAdd q gs => exact execGroupAdd_sound h q gs
  | groupRemove q gs => exact execGroupRemove_sound h q gs
  | partRecover q => exact execPartRecover_sound h q
  | partSave q b => exact execPartSave_sound h q b
  | partRestore q b img ids pages => exact execPartRestore_sound h q b img ids pages
  | queueCreate q d => exact execQueueCreate_sound h q d
  | queueDelete q num isCQ => exact execQueueDelete_sound h q num isCQ
  | regionCreate q p id pages => exact execRegionCreate_sound h q p id pages
  | regionFree q r => exact execRegionFree_sound h q r
  | regionStage q r epoch haddr pages => exact execRegionStage_sound h q r epoch haddr pages
  | regionPublish q rs => exact execRegionPublish_sound h q rs
  | regionAbandon q r => exact execRegionAbandon_sound h q r
  | copyIn q p => exact execCopyIn_sound h q p
  | copyOut q p => exact execCopyOut_sound h q p
  | regionFill q p => exact execRegionFill_sound h q p
  | progLoad q p sec => exact execProgLoad_sound h q p sec
  | progUnload q slot => exact execProgUnload_sound h q slot
  | campaignStart q c => exact execCampaignStart_sound h q c
  | campaignStop q => exact execCampaignStop_sound h q
  | reqAdmit q p e drs => exact execReqAdmit_sound h q p e drs
  | reqCancel q e => exact execReqCancel_sound h q e
  | reqRelease q e => exact execReqRelease_sound h q e
  | prefixCreate q e len k drs => exact execPrefixCreate_sound h q e len k drs
  | prefixRelease q k => exact execPrefixRelease_sound h q k
  | variantSet q ver p => exact execVariantSet_sound h q ver p
  | variantClear q v => exact execVariantClear_sound h q v
  | admitClose q => exact execAdmitClose_sound h q
  | groupId q g => exact execGroupId_sound h q g
  | groupFound q => exact execGroupFound_sound h q
  | groupLeave q => exact execGroupLeave_sound h q
  | portEnable q p => exact execPortEnable_sound h q p
  | portDisable q p => exact execPortDisable_sound h q p
  | portHello q p nonce => exact execPortHello_sound h q p nonce
  | powerLevel q l => exact execPowerLevel_sound h q l
  | gearLimit q part g => exact execGearLimit_sound h q part g
  | energyBudget q part w => exact execEnergyBudget_sound h q part w
  | brakeTest q us => exact execBrakeTest_sound h q us
  | snapshotAt q t mask id => exact execSnapshotAt_sound h q t mask id
  | snapshotMark q n mask id => exact execSnapshotMark_sound h q n mask id
  | counterRead q sel b => exact execCounterRead_sound h q sel b
  | recordRead q sel b => exact execRecordRead_sound h q sel b
  | faultLogRead q first count b => exact execFaultLogRead_sound h q first count b
  | historyRead q b => exact execHistoryRead_sound h q b
  | attest q nonce part b => exact execAttest_sound h q nonce part b
  | measureRead q part b => exact execMeasureRead_sound h q part b
  | certRead q b => exact execCertRead_sound h q b
  | configUpdate q c => exact execConfigUpdate_sound h q c
  | undefinedCommand q opc => exact execUndefinedCommand_sound h q opc
  | sqTailDoorbell fn n ix w32 => exact execSqTailDoorbell_sound h fn n ix w32
  | submissionFetch q e t => exact execSubmissionFetch_sound h q e t
  | cqHeadDoorbell fn n ix w32 => exact execCqHeadDoorbell_sound h fn n ix w32
  | eventHeadDoorbell fn ix w32 => exact execEventHeadDoorbell_sound h fn ix w32
  | completionPost fn n t => exact execCompletionPost_sound h fn n t
  | adminQueueEnable fn v => exact execAdminQueueEnable_sound h fn v
  | loadImage img t => exact execLoadImage_sound h img t
  | readBootlog => exact execReadBootlog_sound h
  | bar2Read x n => exact execBar2Read_sound h x n
  | bar2Write x data => exact execBar2Write_sound h x data
  | registerWrite fn f => exact execRegisterWrite_sound h fn f
  | functionLevelReset fn t => exact execFunctionLevelReset_sound h fn t
  | atsInvalidation fn pasid page => exact execAtsInvalidation_sound h fn pasid page
  | i3cIndexWrite b => exact execI3cIndexWrite_sound h b
  | i3cRead n => exact execI3cRead_sound h n
  | alertFlagClear v => exact execAlertFlagClear_sound h v
  | i3cEntdaa addr => exact execI3cEntdaa_sound h addr
  | i3cSetdasa addr => exact execI3cSetdasa_sound h addr
  | i3cRstdaa => exact execI3cRstdaa_sound h
  | i3cGetpid => exact execI3cGetpid_sound h
  | i3cGetbcr => exact execI3cGetbcr_sound h
  | i3cGetdcr => exact execI3cGetdcr_sound h
  | i3cGetstatus => exact execI3cGetstatus_sound h
  | i3cGetmwl => exact execI3cGetmwl_sound h
  | i3cGetmrl => exact execI3cGetmrl_sound h
  | i3cEnec => exact execI3cEnec_sound h
  | i3cDisec => exact execI3cDisec_sound h
  | tapIdcode => exact execTapIdcode_sound h
  | tapBypass bits => exact execTapBypass_sound h bits
  | tapSamplePreload bits => exact execTapSamplePreload_sound h bits
  | tapExtest bits => exact execTapExtest_sound h bits
  | tapDebugUnlock ok t => exact execTapDebugUnlock_sound h ok t
  | tapPrivateDebug code => exact execTapPrivateDebug_sound h code
  | heartbeatWrite core t => exact execHeartbeatWrite_sound h core t
  | powerInputRise mv straps t => exact execPowerInputRise_sound h mv straps t
  | powerLoss d t => exact execPowerLoss_sound h d t
  | distaffRailLoss mv t => exact execDistaffRailLoss_sound h mv t
  | presenceOpen second t => exact execPresenceOpen_sound h second t
  | perstAssert ns t => exact execPerstAssert_sound h ns t
  | perstRelease p t => exact execPerstRelease_sound h p t
  | t2InitComplete e => exact execT2InitComplete_sound h e
  | pcieLinkDown d => exact execPcieLinkDown_sound h d
  | pcieLinkUp t => exact execPcieLinkUp_sound h t
  | pwrbrkAssert ns t => exact execPwrbrkAssert_sound h ns t
  | pwrbrkRelease t => exact execPwrbrkRelease_sound h t
  | brakeTestEnd t => exact execBrakeTestEnd_sound h t
  | tbSyncInPulse t => exact execTbSyncInPulse_sound h t
  | tbSyncOutPulse t => exact execTbSyncOutPulse_sound h t
  | timingBeaconExchange port t1 t2 t3 t4 x => exact execTimingBeaconExchange_sound h port t1 t2 t3 t4 x
  | sensorSample xs mv t => exact execSensorSample_sound h xs mv t
  | gearCapStep t => exact execGearCapStep_sound h t
  | thermalTrip t => exact execThermalTrip_sound h t
  | watchdogExpiry core t => exact execWatchdogExpiry_sound h core t
  | deviceFault c t => exact execDeviceFault_sound h c t
  | tileFailurePrediction tile e => exact execTileFailurePrediction_sound h tile e
  | storeBankSpare die bank t => exact execStoreBankSpare_sound h die bank t
  | packagePrediction pkg rule t => exact execPackagePrediction_sound h pkg rule t
  | migrationCopyDone t => exact execMigrationCopyDone_sound h t
  | scrubPass x t => exact execScrubPass_sound h x t
  | li a w => exact execLi_sound h a w
  | lih a w => exact execLih_sound h a w
  | add a w => exact execAdd_sound h a w
  | sub a w => exact execSub_sound h a w
  | mul a w => exact execMul_sound h a w
  | and a w => exact execAnd_sound h a w
  | or a w => exact execOr_sound h a w
  | xor a w => exact execXor_sound h a w
  | shl a w => exact execShl_sound h a w
  | shr a w => exact execShr_sound h a w
  | loop a w => exact execLoop_sound h a w
  | qcnt a w => exact execQcnt_sound h a w
  | tbase a w => exact execTbase_sound h a w
  | tileid a w => exact execTileid_sound h a w
  | reservedOpcodeWord a raw => exact execReservedOpcodeWord_sound h a raw
  | signal a w => exact execSignal_sound h a w
  | signalArrival a n => exact execSignalArrival_sound h a n
  | wait a w => exact execWait_sound h a w
  | waitSatisfied a q => exact execWaitSatisfied_sound h a q
  | waitTimeout a q => exact execWaitTimeout_sound h a q
  | take a w => exact execTake_sound h a w
  | mark a w => exact execMark_sound h a w
  | segend a w => exact execSegend_sound h a w
  | segmentCommit part seg step t => exact execSegmentCommit_sound h part seg step t
  | energyWindowStart t => exact execEnergyWindowStart_sound h t
  | mxseta a w => exact execMxseta_sound h a w
  | mxsetb a w => exact execMxsetb_sound h a w
  | mxsetd a w => exact execMxsetd_sound h a w
  | mxsets a w => exact execMxsets_sound h a w
  | mxorg a w => exact execMxorg_sound h a w
  | mxmul a w => exact execMxmul_sound h a w
  | mxdelta a w => exact execMxdelta_sound h a w
  | mxfin a w => exact execMxfin_sound h a w
  | ewhead a w => exact execEwhead_sound h a w
  | eworg a w => exact execEworg_sound h a w
  | ewsrc a w => exact execEwsrc_sound h a w
  | ewop a w => exact execEwop_sound h a w
  | ewdst a w => exact execEwdst_sound h a w
  | chainStart a => exact execChainStart_sound h a
  | chainComplete a => exact execChainComplete_sound h a
  | ewflag a w => exact execEwflag_sound h a w
  | ewsamp a w => exact execEwsamp_sound h a w
  | samplePartAccept a => exact execSamplePartAccept_sound h a
  | sampleDraw die n => exact execSampleDraw_sound h die n
  | rarm a w => exact execRarm_sound h a w
  | rearm a w => exact execRearm_sound h a w
  | rsend a w => exact execRsend_sound h a w
  | rclose a w => exact execRclose_sound h a w
  | fanStart r => exact execFanStart_sound h r
  | fetchIssue r => exact execFetchIssue_sound h r
  | fetchLand r slot how data => exact execFetchLand_sound h r slot how data
  | sendVisible r slot => exact execSendVisible_sound h r slot
  | t1FillLand x => exact execT1FillLand_sound h x
  | frameRelease frame => exact execFrameRelease_sound h frame
  | heatDecay t => exact execHeatDecay_sound h t
  | faultRecordComplete part t => exact execFaultRecordComplete_sound h part t
  | peerFaultReceive part m t => exact execPeerFaultReceive_sound h part m t
  | startingComplete part t => exact execStartingComplete_sound h part t
  | stopComplete part t => exact execStopComplete_sound h part t
  | groupDrainComplete g t => exact execGroupDrainComplete_sound h g t
  | turnEndTime part t => exact execTurnEndTime_sound h part t
  | turnEndBeaconArrival part m turn t => exact execTurnEndBeaconArrival_sound h part m turn t
  | chunkReceive x t => exact execChunkReceive_sound h x t
  | switchPublish part e => exact execSwitchPublish_sound h part e
  | campaignDigestReceive part m d t => exact execCampaignDigestReceive_sound h part m d t
  | rendezvousTimeout part t => exact execRendezvousTimeout_sound h part t
  | campaignStopReceive part e => exact execCampaignStopReceive_sound h part e
  | stepBeaconArrival part m coll leaf tokens t => exact execStepBeaconArrival_sound h part m coll leaf tokens t
  | settleDeadline part t => exact execSettleDeadline_sound h part t
  | settleTimeout part e => exact execSettleTimeout_sound h part e
  | closeListReceive part c t => exact execCloseListReceive_sound h part c t
  | collectiveChunkReceive buf t => exact execCollectiveChunkReceive_sound h buf t
  | fabricTimeout part id pair t => exact execFabricTimeout_sound h part id pair t
  | listAdmission part p e drs t => exact execListAdmission_sound h part p e drs t
  | stepCompose part e toks bad t => exact execStepCompose_sound h part e toks bad t
  | manifestReceive part w slot e evicts t => exact execManifestReceive_sound h part w slot e evicts t
  | rolloutCommit part step t => exact execRolloutCommit_sound h part step t
  | commitRecordReceive part w draws drafts evicts t => exact execCommitRecordReceive_sound h part w draws drafts evicts t
  | flitTransmit port beacon bid t => exact execFlitTransmit_sound h port beacon bid t
  | flitReceive port f t => exact execFlitReceive_sound h port f t
  | beaconReflect port t => exact execBeaconReflect_sound h port t
  | laneSubstitution port lane t => exact execLaneSubstitution_sound h port lane t
  | lightLoss port l t => exact execLightLoss_sound h port l t
  | laserFailure unit t => exact execLaserFailure_sound h unit t
  | portRetrain port e => exact execPortRetrain_sound h port e
  | trainingComplete port e nonce t => exact execTrainingComplete_sound h port e nonce t
  | helloReceive port k t => exact execHelloReceive_sound h port k t
  | quarantineRehello port nonce t => exact execQuarantineRehello_sound h port nonce t
  | portDrained port t => exact execPortDrained_sound h port t
  | joinRequest j t => exact execJoinRequest_sound h j t
  | epochProposalReceive m epoch members t => exact execEpochProposalReceive_sound h m epoch members t
  | epochAckReceive m epoch t => exact execEpochAckReceive_sound h m epoch t
  | epochCommitReceive w members links t => exact execEpochCommitReceive_sound h w members links t
  | heartbeatSend t => exact execHeartbeatSend_sound h t
  | heartbeatReceive m t => exact execHeartbeatReceive_sound h m t
  | memberSilent g t => exact execMemberSilent_sound h g t
  | leaderLoss reach t => exact execLeaderLoss_sound h reach t
  | isolation reach e => exact execIsolation_sound h reach e
  | messageResend x t => exact execMessageResend_sound h x t
  | snapshotLatch part id t => exact execSnapshotLatch_sound h part id t
  | multiplyWordComplete a => exact execMultiplyWordComplete_sound h a
  | hostTransferComplete x off data e t => exact execHostTransferComplete_sound h x off data e t
  | interruptIntervalExpiry fn n t => exact execInterruptIntervalExpiry_sound h fn n t
  | laneSubstitutionComplete port t => exact execLaneSubstitutionComplete_sound h port t
  | regionsScrubbed part t => exact execRegionsScrubbed_sound h part t
  | reservedT2Initialised e => exact execReservedT2Initialised_sound h e

theorem step_sound {s : State} (h : Sound s.shape) : SoundOut (Machine.step s) := by
  unfold Machine.step
  split
  · exact (soundOut_next _).2 h
  · next c r _ => exact exec_sound (s := s.withPending r) h c

/-- Settles O28: every row keeps the sizes of the tables and the canonical forms, as every function that its meaning uses does. -/
theorem stepsKeepTheInvariant : Obligations.StepsKeepTheInvariant := by
  intro s t inv next
  exact (inv_iff t).2 (step_sound ((inv_iff s).1 inv) t next)

end Sys2Proof.Machine
end

section
/-! PROOFS. Registers and the address-translation cache (R211, R324, R325, R327, R329, R380). -/

namespace Sys2Proof.Machine

open Sys2Proof

/-! ### The fields of BAR0 -/

section
variable {s : State} (fn : Fin 32) (up : bar0Up s = true)
include up

theorem registerWrite_aqs (d : QDesc) : exec (.registerWrite fn (.aqs d)) s =
    .next (if (fnAt s fn).aqen then s else s.withFns (s.fns.set fn { fnAt s fn with aqs := d })) := by
  simp [exec, execRegisterWrite, up, ok, setFn_changes]

theorem registerWrite_aqc (d : QDesc) : exec (.registerWrite fn (.aqc d)) s =
    .next (if (fnAt s fn).aqen then s else s.withFns (s.fns.set fn { fnAt s fn with aqc := d })) := by
  simp [exec, execRegisterWrite, up, ok, setFn_changes]

theorem registerWrite_evbase (v : Word64) : exec (.registerWrite fn (.evbase v)) s =
    .next (s.withFns (s.fns.set fn { fnAt s fn with evbase := v })) := by
  simp [exec, execRegisterWrite, up, ok, setFn_changes]

theorem registerWrite_evlsize (v : Nat) : exec (.registerWrite fn (.evlsize v)) s =
    .next (s.withFns (s.fns.set fn { fnAt s fn with evlsize := v })) := by
  simp [exec, execRegisterWrite, up, ok, setFn_changes]

/-- The event queue that is enabled already stays as it is. -/
theorem registerWrite_even_true : exec (.registerWrite fn (.even true)) s =
    .next (s.withFns (s.fns.set fn (if (fnAt s fn).even then fnAt s fn
      else { fnAt s fn with even := true, evIx := 0, evHead := 0, evSeq := 0, evLost := 0 }))) := by
  cases on : (fnAt s fn).even with
  | false => simp [exec, execRegisterWrite, up, ok, setFn_changes, on]
  | true =>
    have same : { fnAt s fn with even := true } = fnAt s fn := by rw [← on]
    simp [exec, execRegisterWrite, up, ok, setFn_changes, on, same]

theorem registerWrite_even_false : exec (.registerWrite fn (.even false)) s =
    .next (s.withFns (s.fns.set fn { fnAt s fn with even := false })) := by
  simp [exec, execRegisterWrite, up, ok, setFn_changes]

theorem registerWrite_atsEnable (v : Bool) : exec (.registerWrite fn (.atsEnable v)) s =
    .next (s.withFns (s.fns.set fn { fnAt s fn with ats := v })) := by
  simp [exec, execRegisterWrite, up, ok, setFn_changes]

theorem registerWrite_pasidEnable (v : Bool) : exec (.registerWrite fn (.pasidEnable v)) s =
    .next (s.withFns (s.fns.set fn { fnAt s fn with pasid := v })) := by
  simp [exec, execRegisterWrite, up, ok, setFn_changes]

/-- A vector that is unmasked with its bit pending is raised: its data goes to its address (R329). -/
theorem registerWrite_msix {k : Nat} (a : Word64) (d : BitVec 32) (m : Bool) (small : k < 64) :
    ∃ t, exec (.registerWrite fn (.msix k a d m)) s = .next t ∧
      t.fns = s.fns.set fn { fnAt s fn with
        msix := (fnAt s fn).msix.set k ⟨a, d, m, ((fnAt s fn).msix.getD k MsixE.reset).pend && m⟩ } ∧
      t.host = (if ((fnAt s fn).msix.getD k MsixE.reset).pend ∧ m = false then
        memWrite s.host (hostAt fn a.toNat) (leBytes 4 d.toNat) else s.host) ∧ (t.withFns s.fns).withHost s.host = s := by
  have big : ¬ 64 ≤ k := Nat.not_le.2 small
  simp only [exec, execRegisterWrite, up, ok, big, Bool.not_true, Bool.false_eq_true, if_false]
  refine ⟨_, rfl, ?_⟩
  by_cases raised : ((fnAt s fn).msix.getD k MsixE.reset).pend = true ∧ m = false
  · obtain ⟨pend, rfl⟩ := raised
    rw [if_pos (by rw [pend]; rfl), if_pos ⟨pend, rfl⟩]
    exact ⟨rfl, rfl, rfl⟩
  · rw [if_neg (by simpa using raised), if_neg raised]
    exact ⟨rfl, rfl, rfl⟩

end

/-! ### The fields of the PF alone (R326, R328) -/

section
variable {s : State} (up : bar0Up s = true)
include up

theorem registerWrite_w2base (v : Nat) : exec (.registerWrite 0 (.w2base v)) s =
    .next (s.withFns (s.fns.set 0 { fnAt s 0 with w2base := v })) := by
  simp [exec, execRegisterWrite, up, ok, setFn_changes]

theorem registerWrite_w2we (v : Bool) : exec (.registerWrite 0 (.w2we v)) s =
    .next (s.withFns (s.fns.set 0 { fnAt s 0 with w2we := v })) := by
  simp [exec, execRegisterWrite, up, ok, setFn_changes]

theorem registerWrite_mbaddr (v : Word64) : exec (.registerWrite 0 (.mbaddr v)) s =
    .next (s.withBoot { s.boot with mbAddr := v }) := by
  simp [exec, execRegisterWrite, up, ok]

theorem registerWrite_mblen (v : Nat) : exec (.registerWrite 0 (.mblen v)) s =
    .next (s.withBoot { s.boot with mbLen := v }) := by
  simp [exec, execRegisterWrite, up, ok]

end

/-- The fields that are the PF's alone. -/
def RegField.ofPf : RegField → Prop
  | .w2base _ | .w2we _ | .mbaddr _ | .mblen _ => True
  | _ => False

theorem registerWrite_of_vf {s : State} {fn : Fin 32} (up : bar0Up s = true) (vf : fn ≠ 0) {f : RegField} (pf : f.ofPf) :
    exec (.registerWrite fn f) s = .next s := by
  have nonzero : fn.val ≠ 0 := fun e => vf (Fin.ext e)
  cases f with
  | w2base v => simp [exec, execRegisterWrite, up, ok, nonzero]
  | w2we v => simp [exec, execRegisterWrite, up, ok, nonzero]
  | mbaddr v => simp [exec, execRegisterWrite, up, ok, nonzero]
  | mblen v => simp [exec, execRegisterWrite, up, ok, nonzero]
  | _ => exact pf.elim

/-! ### ATS_INVALIDATION -/

/-- The record of a function after an ATS invalidation. -/
def invalidated (s : State) (f pasid page : Nat) : Fn :=
  { fnAt s f with
    atc := (fnAt s f).atc.filter (fun e => e ≠ (pasid, page)),
    invals := (fnAt s f).invals.filter (fun v => v.uses ≠ []) ++
      (if pageUses s f pasid page = [] then [] else [⟨pasid, page, pageUses s f pasid page⟩]) }

theorem atsInvalidation_eq (s : State) (fn : Fin 32) (pasid page : Nat) :
    exec (.atsInvalidation fn pasid page) s = .next (setFn s fn (invalidated s fn pasid page)) := rfl

theorem atsInvalidation_takes {s : State} (fn : Fin 32) (sized : s.fns.length = 32) (pasid page : Nat) :
    ∃ t, exec (.atsInvalidation fn pasid page) s = .next t ∧ (pasid, page) ∉ (fnAt t fn).atc ∧
      (∀ e, e ≠ (pasid, page) → (e ∈ (fnAt t fn).atc ↔ e ∈ (fnAt s fn).atc)) ∧
      (pageUses s fn pasid page ≠ [] → ⟨pasid, page, pageUses s fn pasid page⟩ ∈ (fnAt t fn).invals) ∧
      (pageUses s fn pasid page = [] → ∀ v ∈ (fnAt t fn).invals, v ∈ (fnAt s fn).invals) ∧
      (∀ f, f ≠ fn.val → fnAt t f = fnAt s f) ∧ t.withFns s.fns = s := by
  have own : fnAt (setFn s fn (invalidated s fn pasid page)) fn = invalidated s fn pasid page := by
    rw [fnAt_setFn _ _ _ _ (by omega), if_pos rfl]
  refine ⟨_, atsInvalidation_eq .., ?_, ?_, ?_, ?_, fun f hf => fnAt_setFn_ne s _ hf, rfl⟩
  all_goals rw [own]
  · simp [invalidated]
  · intro e he
    simp [invalidated, he]
  · intro used
    simp [invalidated, used]
  · intro unused v hv
    simp only [invalidated, unused, if_true, List.append_nil] at hv
    exact List.mem_of_mem_filter hv

/-- Settles O13, by a lemma for each field: its write replaces the one field of the function's record that it names. -/
theorem registersTakeTheirWrites : Obligations.RegistersTakeTheirWrites := by
  rintro s fn ⟨⟨sized, -⟩, -⟩
  refine ⟨fun up => ?_, fun v => rfl, atsInvalidation_takes fn sized⟩
  exact ⟨registerWrite_aqs fn up, registerWrite_aqc fn up, registerWrite_evbase fn up, registerWrite_evlsize fn up,
    registerWrite_even_true fn up, registerWrite_even_false fn up, registerWrite_w2base up, registerWrite_w2we up,
    registerWrite_mbaddr up, registerWrite_mblen up,
    fun vf => ⟨fun _ => registerWrite_of_vf up vf trivial, fun _ => registerWrite_of_vf up vf trivial,
      fun _ => registerWrite_of_vf up vf trivial, fun _ => registerWrite_of_vf up vf trivial⟩,
    fun _ a d m small => registerWrite_msix fn up a d m small, registerWrite_atsEnable fn up, registerWrite_pasidEnable fn up⟩

end Sys2Proof.Machine
end

section
/-! PROOFS. Frames of the store (R195 to R198): what a frame's number reads as after each operation on frames, the landing of a fill,
the release of a victim, and the decay of heat. -/

namespace Sys2Proof.Machine

open Sys2Proof

/-! ### Reading a frame -/

section
variable (s : State)

theorem frameAt_congr {s t : State} (h : t.t1 = s.t1) (k : Nat) : frameAt t k = frameAt s k := by rw [frameAt, h]; rfl

theorem frameAt_setFrame (n k : Nat) (f : Frame) : frameAt (setFrame s n f) k = if k = n then some f else frameAt s k :=
  mapFind_mapPut ..

theorem frameAt_dropFrame (n k : Nat) : frameAt (dropFrame s n) k = if k = n then none else frameAt s k := mapFind_mapDel ..

theorem frameAt_giveFrame (n k : Nat) (key : PageKey) (pin : Bool) (holds : List (Option Nat)) :
    frameAt (giveFrame s n key pin holds) k = if k = n then some (givenFrame key pin holds s.time.now) else frameAt s k :=
  frameAt_setFrame ..

theorem giveFrame_fills (n : Nat) (key : PageKey) (pin : Bool) (holds : List (Option Nat)) :
    n ∈ (giveFrame s n key pin holds).t1.fills := List.mem_append_right _ (List.mem_singleton_self n)

/-- An invalidation is told of what it waited for: no frame is touched. -/
theorem sweepInvals_t1 (p : Nat) : (sweepInvals s p).t1 = s.t1 := by
  obtain ⟨x, e⟩ := sweepInvals_changes s p
  rw [e]
  rfl

theorem sectorFixed_t1 (k : Nat) : (sectorFixed s k).t1 = s.t1 := by
  unfold sectorFixed
  dsimp only
  obtain ⟨_, e⟩ := addHist_changes
    (addCtr (s.withT2 { s.t2 with fixed := s.t2.fixed ++ [⟨pkgOf s (32 * k), Config.dramRow k, s.time.now⟩] })
      (ctrKey 0 3 (chanOf (32 * k)) 0 + cSectors) 1) 0 2 (ctrKey 0 3 (chanOf (32 * k)) 0) (BitVec.ofNat 64 (32 * k)) false
  rw [e]
  rfl

/-- Errors met by a read of module memory touch no frame. -/
theorem meetErrs_t1 (lines : List Nat) (e : ReadErrs) : (meetErrs s lines e).t1 = s.t1 := by
  unfold meetErrs
  dsimp only
  have broken (u : State) (k : Nat) : (sectorBroken u k).t1 = u.t1 := rfl
  have counted (num : Nat) (u : State) (k : Nat) : (eccFixed num u k).t1 = u.t1 := rfl
  rw [foldl_keeps State.t1 broken, foldl_keeps State.t1 sectorFixed_t1, foldl_keeps State.t1 (counted _),
    foldl_keeps State.t1 (counted _)]

end

theorem servePins_of_nil {s : State} (h : s.t1.pins = []) : servePins s = s := by rw [servePins, h]; rfl

theorem filledFrame_whole (s : State) (f : Frame) (data : List Byte) : (filledFrame s f data).whole = true := by
  unfold filledFrame
  split
  · rfl
  · split
    · rfl
    · split <;> rfl

/-! ### A fill is discarded -/

section
variable {s : State} {n : Nat} {f : Frame}

/-- The frame of a fill that is discarded is free, where no page waits for it and no pinned page waits at all. -/
theorem endFill_frees (idle : f.nxt = none) (pins : s.t1.pins = []) :
    frameAt (endFill s n f) n = none ∧ (∀ k, k ≠ n → frameAt (endFill s n f) k = frameAt s k) ∧
      ((endFill s n f).withT1 s.t1).withFns s.fns = s := by
  have freed : servePins (dropFrame s n) = dropFrame s n := servePins_of_nil pins
  have out : endFill s n f = sweepInvals (dropFrame s n) f.key.part := by rw [endFill, idle]; exact congrArg (sweepInvals · _) freed
  obtain ⟨x, swept⟩ := sweepInvals_changes (dropFrame s n) f.key.part
  have frames (k : Nat) : frameAt (endFill s n f) k = if k = n then none else frameAt s k := by
    rw [out, frameAt_congr (sweepInvals_t1 ..), frameAt_dropFrame]
  refine ⟨by rw [frames, if_pos rfl], fun k hk => by rw [frames, if_neg hk], ?_⟩
  rw [out, swept]
  rfl

/-- It takes the page that waits for it. -/
theorem endFill_gives {k : PageKey} {pin : Bool} {holds : List (Option Nat)} (waits : f.nxt = some (k, pin, holds)) :
    frameAt (endFill s n f) n = some (givenFrame k pin holds s.time.now) ∧ n ∈ (endFill s n f).t1.fills ∧
      (∀ j, j ≠ n → frameAt (endFill s n f) j = frameAt s j) ∧ ((endFill s n f).withT1 s.t1).withFns s.fns = s := by
  have out : endFill s n f = sweepInvals (giveFrame s n k pin holds) f.key.part := by rw [endFill, waits]
  obtain ⟨x, swept⟩ := sweepInvals_changes (giveFrame s n k pin holds) f.key.part
  have frames (j : Nat) : frameAt (endFill s n f) j = if j = n then some (givenFrame k pin holds s.time.now) else frameAt s j := by
    rw [out, frameAt_congr (sweepInvals_t1 ..), frameAt_giveFrame]
  refine ⟨by rw [frames, if_pos rfl], ?_, fun j hj => by rw [frames, if_neg hj], ?_⟩
  · rw [out, sweepInvals_t1]
    exact giveFrame_fills ..
  · rw [out, swept]
    rfl

/-! ### The landing of a fill (R198, R208, R210) -/

section
variable (held : frameAt s n = some f) (part : f.whole = false) (runs : fillRuns s n = true)
include held part runs

theorem exec_t1FillLand_discards (data : List Byte) (errs : ReadErrs) (stale : f.victim = true ∨ keyCurrent s f.key = false) :
    exec (.t1FillLand ⟨n, data, .ok errs⟩) s = .next (endFill s n f) := by
  have gone : (f.victim || !keyCurrent s f.key) = true := by simpa using stale
  simp [exec, execT1FillLand, ok, held, part, runs, gone]

theorem exec_t1FillLand_fails (data : List Byte) (addr : Word64) (why : TransWhy) :
    exec (.t1FillLand ⟨n, data, .translation addr why⟩) s =
      .next (if fillFromHost s f.key then failFill s n f addr why else s) := by
  simp [exec, execT1FillLand, ok, held, part, runs]

/-- A fill of a current page brings what the error codes find: the frame is whole. -/
theorem t1FillLand_lands (data : List Byte) (errs : ReadErrs) (stays : f.victim = false) (now : keyCurrent s f.key = true)
    (full : fillFromHost s f.key = false ∨ data.length = pageSize) :
    ∃ t u, exec (.t1FillLand ⟨n, data, .ok errs⟩) s = .next t ∧
      u = (if fillFromHost s f.key then s else meetErrs s (fillLines s f.key) errs) ∧ (errs = ReadErrs.none → u = s) ∧
      frameAt t n = some (filledFrame u f data) ∧ (filledFrame u f data).whole ∧ n ∉ t.t1.fills ∧
      (∀ k, k ≠ n → frameAt t k = frameAt s k) ∧ (t.withT1 u.t1).withFns u.fns = u := by
  generalize read : (if fillFromHost s f.key then s else meetErrs s (fillLines s f.key) errs) = u
  have store : u.t1 = s.t1 := by
    rw [← read, apply_ite State.t1, meetErrs_t1, ite_self]
  let v := setFrame (u.withT1 { u.t1 with fills := u.t1.fills.filter (fun k => k ≠ n) }) n (filledFrame u f data)
  have whole : (fillFromHost s f.key && decide (data.length ≠ pageSize)) = false := by
    rcases full with h | h <;> simp [h]
  have out : exec (.t1FillLand ⟨n, data, .ok errs⟩) s = .next (sweepInvals v f.key.part) := by
    simp only [exec, execT1FillLand, ok, held, part, runs, stays, now, whole, read, Bool.not_true, Bool.or_false,
      Bool.false_eq_true, if_false]
    rfl
  obtain ⟨x, swept⟩ := sweepInvals_changes v f.key.part
  have frames (k : Nat) : frameAt (sweepInvals v f.key.part) k = if k = n then some (filledFrame u f data) else frameAt s k := by
    rw [frameAt_congr (sweepInvals_t1 ..), frameAt_setFrame, ← frameAt_congr store]
    rfl
  refine ⟨_, u, out, rfl, ?_, by rw [frames, if_pos rfl], filledFrame_whole .., ?_, fun k hk => by rw [frames, if_neg hk], ?_⟩
  · rintro rfl
    rw [← read, meetErrs_none, ite_self]
  · rw [sweepInvals_t1]
    exact fun h => by simpa using (List.mem_filter.1 h).2
  · rw [swept]
    rfl

/-- A fill from the host whose read fails leaves its frame free, and is reported (R210; log entry 31). -/
theorem t1FillLand_fails (sized : s.fns.length = 32) (parts : s.parts.length = 32) (data : List Byte) (addr : Word64) (why : TransWhy)
    (host : fillFromHost s f.key = true) (unpinned : f.pin = false) (idle : f.nxt = none) (pins : s.t1.pins = []) :
    ∃ t, exec (.t1FillLand ⟨n, data, .translation addr why⟩) s = .next t ∧ frameAt t n = none ∧
      (∀ k, k ≠ n → frameAt t k = frameAt s k) ∧ (why ≠ .noPermission → why ∈ (fnAt t f.key.part).aer) ∧
      (t.withT1 s.t1).withFns s.fns = s := by
  cases region : regionAt s f.key.part f.key.region with
  | none => simp [fillFromHost, region] at host
  | some g =>
    have own : f.key.part < 32 := by
      rw [← parts]
      refine lt_of_partAt_ne fun unused => ?_
      rw [regionAt, unused] at region
      cases region
    have out : exec (.t1FillLand ⟨n, data, .translation addr why⟩) s =
        .next (endFill (hostReadFails s f.key.part g addr why) n f) := by
      rw [exec_t1FillLand_fails held part runs, if_pos host, failFill, region]
      simp [unpinned]
    have reported := hostReadFails_reports (s := s) g addr (why := why) (f := f.key.part) (by omega)
    obtain ⟨x, failed⟩ := hostReadFails_changes s f.key.part g addr why
    rw [failed] at out reported
    obtain ⟨free, others, frame⟩ := endFill_frees (s := s.withFns x) (n := n) (f := f) idle pins
    refine ⟨_, out, free, others, fun known => ?_, ?_⟩
    · have aer : (fnAt (endFill (s.withFns x) n f) f.key.part).aer = (fnAt (s.withFns x) f.key.part).aer := by
        rw [endFill, idle, sweepInvals_aer]
        dsimp only
        rw [servePins_of_nil (s := dropFrame (s.withFns x) n) pins]
        rfl
      rw [aer]
      exact reported known
    · exact congrArg (·.withFns s.fns) frame

end

/-! ### The release of a victim (R197, R198) -/

section
variable (held : frameAt s n = some f) (victim : f.victim = true) (quiet : frameBusy s n f = false)
include held victim quiet

theorem frameRelease_frees (idle : f.nxt = none) (pins : s.t1.pins = []) :
    ∃ t, exec (.frameRelease n) s = .next t ∧ frameAt t n = none ∧ (∀ k, k ≠ n → frameAt t k = frameAt s k) ∧ t.withT1 s.t1 = s := by
  have freed : servePins (dropFrame s n) = dropFrame s n := servePins_of_nil pins
  have out : exec (.frameRelease n) s = .next (dropFrame s n) := by
    simp [exec, execFrameRelease, ok, held, victim, quiet, idle, freed]
  exact ⟨_, out, by rw [frameAt_dropFrame, if_pos rfl], fun k hk => by rw [frameAt_dropFrame, if_neg hk], rfl⟩

theorem frameRelease_gives {k : PageKey} {pin : Bool} {holds : List (Option Nat)} (waits : f.nxt = some (k, pin, holds)) :
    ∃ t, exec (.frameRelease n) s = .next t ∧ frameAt t n = some (givenFrame k pin holds s.time.now) ∧
      (∀ j, j ≠ n → frameAt t j = frameAt s j) ∧ t.withT1 s.t1 = s := by
  have out : exec (.frameRelease n) s = .next (giveFrame s n k pin holds) := by
    simp [exec, execFrameRelease, ok, held, victim, quiet, waits]
  exact ⟨_, out, by rw [frameAt_giveFrame, if_pos rfl], fun j hj => by rw [frameAt_giveFrame, if_neg hj], rfl⟩

end

end

/-! ### The decay of heat (R196) -/

/-- Leaving out what reads as an unlisted entry does changes no read. -/
theorem mapGet_filter_listed {α : Type} [DecidableEq α] (d : α) {m : Map α} (rise : keysRise m = true) (k : Nat) :
    mapGet d (m.filter (fun e => e.2 ≠ d)) k = mapGet d m k := by
  induction m with
  | nil => rfl
  | cons a m ih =>
    obtain ⟨above, rest⟩ := (keysRise_cons _ _).1 rise
    rw [List.filter_cons]
    split
    · simp only [mapGet, ih rest]
    · next h =>
      have unlisted : a.2 = d := by simpa using h
      rw [ih rest]
      simp only [mapGet]
      split
      · next e => rw [unlisted, mapGet_above d above (Nat.le_of_eq e.symm)]
      · rfl

theorem mapFind_mapVals {α β : Type} (g : α → β) (m : Map α) (k : Nat) :
    mapFind (m.map (fun e => (e.1, g e.2))) k = (mapFind m k).map g := by
  induction m with
  | nil => rfl
  | cons a m ih =>
    simp only [List.map_cons, mapFind]
    split
    · rfl
    · exact ih

/-- A page's heat h falls by h / 16, rounded up. -/
theorem decayPub_heat {b : Pub} (rise : keysRise b.heat = true) (k : Nat) :
    mapGet 0 (decayPub b).heat k = mapGet 0 b.heat k - (mapGet 0 b.heat k + 15) / 16 := by
  have listed : keysRise (b.heat.map (fun e => (e.1, e.2 - cdiv e.2 16))) = true := keysRise_mapVals _ (fun e => e.2 - cdiv e.2 16) rise
  have cooled := mapGet_map 0 (fun v => v - cdiv v 16) rfl b.heat k
  exact (mapGet_filter_listed 0 listed k).trans cooled

theorem partAt_decayed (s : State) (p : Nat) : partAt (s.withParts (s.parts.map decayPart)) p = decayPart (partAt s p) := by
  rw [partAt, State.withParts_parts, partAt, List.getD_eq_getElem?_getD, List.getElem?_map, List.getD_eq_getElem?_getD]
  cases s.parts[p]? <;> rfl

/-- A region after a decay of the heat of its publications' pages. -/
def decayRegion (g : Region) : Region := { g with cur := g.cur.map decayPub, next := g.next.map decayPub }

theorem regionAt_decayed (s : State) (p r : Nat) :
    regionAt (s.withParts (s.parts.map decayPart)) p r = (regionAt s p r).map decayRegion := by
  rw [regionAt, partAt_decayed]
  exact mapFind_mapVals decayRegion ..

theorem heatDecay_cools {s : State} {t : Word64} (due : s.time.now.ule t = true) (whole : t.toNat % 1000000 = 0)
    (later : s.time.decays < t.toNat / 1000000) :
    ∃ s', exec (.heatDecay t) s = .next s' ∧ s'.time.decays = t.toNat / 1000000 ∧
      (∀ p r g b, regionAt s p r = some g → g.cur = some b → keysRise b.heat = true →
        ∃ g' b', regionAt s' p r = some g' ∧ g'.cur = some b' ∧ b'.epoch = b.epoch ∧ b'.pages = b.pages ∧
        ∀ k, mapGet 0 b'.heat k = mapGet 0 b.heat k - (mapGet 0 b.heat k + 15) / 16) ∧
      (s'.withParts s.parts).withTime s.time = s := by
  have out : exec (.heatDecay t) s = .next (((tick s t).withParts (s.parts.map decayPart)).withTime
      { (tick s t).time with decays := t.toNat / 1000000 }) := by
    simp only [exec, execHeatDecay, ok, whole, later, and_self, if_true, atTime_of_ule _ due]
    rfl
  refine ⟨_, out, rfl, fun p r g b region cur rise => ?_, rfl⟩
  refine ⟨decayRegion g, decayPub b, ?_, ?_, rfl, rfl, decayPub_heat rise⟩
  · have cooled := regionAt_decayed s p r
    rw [region] at cooled
    exact cooled
  · show g.cur.map decayPub = _
    rw [cur]
    rfl

/-- Settles O16, by a lemma for each way that a fill ends, each way that a frame is released, and the decay of heat. -/
theorem storeFramesMove : Obligations.StoreFramesMove := by
  rintro s ⟨⟨fns, parts, -⟩, -⟩
  refine ⟨fun n f data errs held part runs stays now full => t1FillLand_lands held part runs data errs stays now full,
    fun n f data errs held part runs stale idle pins =>
      ⟨_, exec_t1FillLand_discards held part runs data errs stale, endFill_frees idle pins⟩,
    fun n f data addr why held part runs => ⟨fun home => ?_, fun host unpinned idle pins =>
      t1FillLand_fails held part runs fns parts data addr why host unpinned idle pins⟩,
    fun n f data errs k pin holds held part runs stale waits =>
      ⟨_, exec_t1FillLand_discards held part runs data errs stale, endFill_gives waits⟩,
    fun n f held victim quiet idle pins => frameRelease_frees held victim quiet idle pins,
    fun n f k pin holds held victim quiet waits => frameRelease_gives held victim quiet waits,
    fun t due whole later => heatDecay_cools due whole later⟩
  rw [exec_t1FillLand_fails held part runs, home]
  rfl

end Sys2Proof.Machine
end

section
/-! PROOFS. Region commands (R187 to R194, R213): what a region's number reads as after each operation on regions, and the commands that
create, stage, abandon, publish and free. -/

namespace Sys2Proof.Machine

open Sys2Proof

/-! ### Reading a region -/

theorem regionAt_of_part {s t : State} {p : Nat} (h : partAt t p = partAt s p) (r : Nat) : regionAt t p r = regionAt s p r := by
  rw [regionAt, h]
  rfl

section
variable {s : State} {p : Nat} (hp : p < s.parts.length)
include hp

theorem regionAt_setRegion (r k : Nat) (g : Region) : regionAt (setRegion s p r g) p k = if k = r then some g else regionAt s p k := by
  rw [regionAt, setRegion, partAt_updPart_self _ hp]
  exact mapFind_mapPut ..

theorem regionAt_setRegion_self (r : Nat) (g : Region) : regionAt (setRegion s p r g) p r = some g := by
  rw [regionAt_setRegion hp, if_pos rfl]

theorem regionAt_setRegion_ne {r k : Nat} (g : Region) (h : k ≠ r) : regionAt (setRegion s p r g) p k = regionAt s p k := by
  rw [regionAt_setRegion hp, if_neg h]

end

theorem partAt_setRegion_ne (s : State) {p k : Nat} (r : Nat) (g : Region) (h : k ≠ p) : partAt (setRegion s p r g) k = partAt s k :=
  partAt_updPart_ne s _ h

theorem pagesZeroed_of_mem {s t : State} {pages : List Nat} (h : t.t2.mem = (zeroPages s pages).t2.mem) : PagesZeroed s t pages := by
  refine ⟨fun a ha => ?_, fun a ha => ?_⟩
  · rw [h, memGet_zeroPages, if_pos ha]
  · rw [h, memGet_zeroPages, if_neg ha]

/-! ### REGION_CREATE (R187, R189) -/

section
variable {s : State} {q : QId} {p : Nat}

/-- The state in which a region has been opened over zeroed pages. -/
def opened (s : State) (p r : Nat) (g : Region) (pages : List Nat) : State := setRegion (zeroPages s pages) p r g

section
variable (s) {r : Nat} (g : Region) (pages : List Nat)

theorem opened_self (hp : p < s.parts.length) : regionAt (opened s p r g pages) p r = some g :=
  regionAt_setRegion_self (s := zeroPages s pages) hp r g

theorem opened_ne (hp : p < s.parts.length) {k : Nat} (h : k ≠ r) : regionAt (opened s p r g pages) p k = regionAt s p k :=
  regionAt_setRegion_ne (s := zeroPages s pages) hp g h

theorem opened_others {k : Nat} (h : k ≠ p) : partAt (opened s p r g pages) k = partAt s k :=
  partAt_setRegion_ne (zeroPages s pages) r g h

theorem opened_zeroed : PagesZeroed s (opened s p r g pages) pages := pagesZeroed_of_mem rfl

theorem opened_linkUp : (opened s p r g pages).io.linkUp = s.io.linkUp := rfl

theorem opened_changes : ∃ t2 parts, opened s p r g pages = (s.withT2 t2).withParts parts := ⟨_, _, rfl⟩

end

/-- A completion over zeroed pages: but for module memory, partitions alone change, with the journal and the count of free values. -/
theorem onlyParts_opened (s : State) (t2 : T2U) (parts : List Part) (n : Nat) (j : List JRec) :
    onlyParts s ((((((s.withT2 t2).withParts parts).withFree n).withJournal j).withT2 s.t2)) := by
  cases s
  rfl

theorem onlyParts_opened_counted (s : State) (t2 : T2U) (parts : List Part) (c : Map Word64) (n : Nat) (j : List JRec) :
    onlyParts s (((((((s.withT2 t2).withParts parts).withCtrs c).withFree n).withJournal j).withCtrs s.ctrs).withT2 s.t2) := by
  cases s
  rfl

theorem exec_regionCreate {g : RegionP} {id : Nat} {pages : List Nat} (rest : s.boot.restT2 = true)
    (ready : hostReady s q (.regionCreate g) p = true) (flags : regionFlags s p g = true)
    (room : g.ro = false → t2Used s p + g.pages ≤ (partAt s p).quota.t2)
    (pins : g.pin = true → pinnedPages (partAt s p) + g.pages + 2 ≤ (partAt s p).quota.t1pages) (small : id ≤ 65534)
    (fresh : regionAt s p id = none) (place : goodPlace s (if g.ro then 0 else g.pages) pages = true) :
    exec (.regionCreate q g id pages) s =
      .next ((opened s p id ⟨g, pages, none, none, []⟩ pages).withJournal (completedWith s q 0 id)) := by
  have fits : ¬((!g.ro && decide ((partAt s p).quota.t2 < t2Used s p + g.pages)) = true ∨
      (g.pin && decide ((partAt s p).quota.t1pages < pinnedPages (partAt s p) + g.pages + 2)) = true) := by
    simp only [Bool.and_eq_true, Bool.not_eq_true', decide_eq_true_eq]
    rintro (⟨ro, more⟩ | ⟨pin, more⟩)
    · exact Nat.not_le.2 more (room ro)
    · exact Nat.not_le.2 more (pins pin)
  have free : ¬(65534 < id ∨ (regionAt s p id).isSome = true ∨ (!goodPlace s (if g.ro then 0 else g.pages) pages) = true) := by
    simp [place, fresh, small]
  show execRegionCreate q g id pages s = _
  rw [execRegionCreate, rest, if_neg (by decide), hostCmd_ready _ ready]
  dsimp only
  rw [flags, if_neg (by decide), if_neg fits, if_neg free, done_of_linkUp]
  · rfl
  · exact linkUp_of_hostReady (s := s) ready

/-! ### REGION_STAGE and REGION_ABANDON (R190 to R193) -/

/-- A region with a staging publication. -/
def withStaging (g : Region) (epoch : Nat) (pages : List Nat) (haddr : Word64) (tracked : Nat) : Region :=
  { g with next := some ⟨epoch, pages, haddr, [], tracked⟩ }

/-- Staging zeroes the pages and opens the publication, whose tracked pages are at most the region's; others are counted. -/
theorem stagePub_changes {r : Nat} {g : Region} (region : regionAt s p r = some g) (epoch : Nat) (haddr : Word64) (pages : List Nat) :
    ∃ n c, n ≤ g.p.pages ∧ stagePub s p r epoch haddr pages = (opened s p r (withStaging g epoch pages haddr n) pages).withCtrs c := by
  rw [stagePub, region]
  dsimp only
  cases g.p.never with
  | true => exact ⟨0, s.ctrs, Nat.zero_le _, rfl⟩
  | false => exact ⟨_, _, Nat.min_le_left .., rfl⟩

theorem exec_regionStage {r epoch : Nat} {haddr : Word64} {pages : List Nat} {g : Region}
    (ready : hostReady s q (.regionStage r epoch haddr) p = true) (region : regionAt s p r = some g) (ro : g.p.ro = true)
    (empty : g.next = none) (later : curEpoch g < epoch) (small : epoch < 0xFFFFFFFF)
    (room : g.p.hostback = false → t2Used s p + g.p.pages ≤ (partAt s p).quota.t2)
    (host : g.p.hostback = true → t3Used (partAt s p) + g.p.pages ≤ (partAt s p).quota.t3)
    (place : goodPlace s (if g.p.hostback then 0 else g.p.pages) pages = true) :
    exec (.regionStage q r epoch haddr pages) s = .next (doneOk (stagePub s p r epoch (if g.p.hostback then haddr else 0) pages) q) := by
  have epochOk : ¬(epoch = 0 ∨ 0xFFFFFFFF ≤ epoch ∨ epoch ≤ curEpoch g) := by omega
  have fits : ¬((!g.p.hostback && decide ((partAt s p).quota.t2 < t2Used s p + g.p.pages)) = true ∨
      (g.p.hostback && decide ((partAt s p).quota.t3 < t3Used (partAt s p) + g.p.pages)) = true) := by
    simp only [Bool.and_eq_true, Bool.not_eq_true', decide_eq_true_eq]
    rintro (⟨back, more⟩ | ⟨back, more⟩)
    · exact Nat.not_le.2 more (room back)
    · exact Nat.not_le.2 more (host back)
  show execRegionStage q r epoch haddr pages s = _
  rw [execRegionStage, hostCmd_ready _ ready]
  dsimp only
  rw [region]
  dsimp only
  rw [ro, if_neg (by decide), empty, if_neg (by decide), if_neg epochOk, if_neg fits, place, if_neg (by decide)]

theorem regionStage_completes {r epoch : Nat} {haddr : Word64} {pages : List Nat} {g : Region} (hp : p < s.parts.length)
    (up : s.io.linkUp = true) (region : regionAt s p r = some g) :
    Completes s (doneOk (stagePub s p r epoch haddr pages) q) q 0 ∧
      (∃ n, regionAt (doneOk (stagePub s p r epoch haddr pages) q) p r = some (withStaging g epoch pages haddr n) ∧ n ≤ g.p.pages) ∧
      PagesZeroed s (doneOk (stagePub s p r epoch haddr pages) q) pages ∧
      (∀ k, k ≠ r → regionAt (doneOk (stagePub s p r epoch haddr pages) q) p k = regionAt s p k) ∧
      onlyParts s (((doneOk (stagePub s p r epoch haddr pages) q).withCtrs s.ctrs).withT2 s.t2) := by
  obtain ⟨n, c, tracked, stage⟩ := stagePub_changes region epoch haddr pages
  obtain ⟨d, out⟩ := doneOk_of_linkUp (s := (opened s p r (withStaging g epoch pages haddr n) pages).withCtrs c) q up
  rw [stage, out]
  refine ⟨⟨d, rfl⟩, ⟨n, opened_self s _ pages hp, tracked⟩, opened_zeroed (p := p) (r := r) s (withStaging g epoch pages haddr n) pages,
    fun k hk => opened_ne s _ pages hp hk, ?_⟩
  obtain ⟨t2, parts, e⟩ := opened_changes (p := p) s (r := r) (withStaging g epoch pages haddr n) pages
  rw [e]
  exact onlyParts_opened_counted ..

theorem exec_regionAbandon {r : Nat} {g : Region} (ready : hostReady s q (.regionAbandon r) p = true)
    (region : regionAt s p r = some g) (next : g.next.isSome = true) (still : inSwitch (partAt s p) r = false) :
    exec (.regionAbandon q r) s = .next (doneOk (opened s p r { g with next := none }
      ((g.next.map (fun b => b.pages)).getD [])) q) := by
  have waiting : g.next.isNone = false := by rw [← Option.not_isSome, next]; rfl
  show execRegionAbandon q r s = _
  rw [execRegionAbandon, hostCmd_ready _ ready]
  rw [region]
  dsimp only
  rw [waiting, if_neg (by decide), still, if_neg (by decide), abandonPub, region]
  rfl

theorem regionOpensAndStages : RegionOpensAndStages := by
  intro s q p inv
  refine ⟨fun g id pages rest ready flags room pins small fresh place => ?create,
    fun r g epoch haddr pages ready region ro empty later small room host place => ?stage,
    fun r g ready region next still => ?abandon⟩
  case create =>
    have hp := lt_of_hostReady inv ready
    refine ⟨_, exec_regionCreate rest ready flags room pins small fresh place, rfl, opened_self s _ pages hp,
      fun r hr => opened_ne s _ pages hp hr, opened_zeroed (p := p) (r := id) s ⟨g, pages, none, none, []⟩ pages,
      fun k hk => opened_others s _ pages hk, ?_⟩
    obtain ⟨t2, parts, e⟩ := opened_changes (p := p) s (r := id) ⟨g, pages, none, none, []⟩ pages
    rw [e]
    exact onlyParts_opened s t2 parts s.free _
  case stage =>
    exact ⟨_, exec_regionStage ready region ro empty later small room host place,
      regionStage_completes (lt_of_hostReady inv ready) (linkUp_of_hostReady ready) region⟩
  case abandon =>
    have hp := lt_of_hostReady inv ready
    have run := exec_regionAbandon ready region next still
    generalize (g.next.map (fun b => b.pages)).getD [] = pages at run
    obtain ⟨d, out⟩ := doneOk_of_linkUp (s := opened s p r { g with next := none } pages) q
      ((opened_linkUp ..).trans (linkUp_of_hostReady ready))
    rw [out] at run
    refine ⟨_, run, ⟨d, rfl⟩, opened_self s _ pages hp, fun k hk => opened_ne s _ pages hp hk, ?_⟩
    obtain ⟨t2, parts, e⟩ := opened_changes (p := p) s (r := r) { g with next := none } pages
    rw [e]
    exact onlyParts_opened ..

/-! ### REGION_PUBLISH (R194) -/

theorem FramesOnly.parts {s t : State} (h : FramesOnly s t) : t.parts = s.parts := by
  rw [h]
  rfl

theorem freeFramesOf_frames (s : State) (c : Nat → Frame → Bool) : FramesOnly s (freeFramesOf s c) :=
  (releaseFrames_frames s c).trans (servePins_frames _)

theorem pinPage_frames (s : State) (k : PageKey) : FramesOnly s (pinPage s k) :=
  .ite (takeFrame_frames ..) ((takeFrame_frames ..).trans (withT1_frames ..))

/-- A region whose staging publication has become its current one. -/
def published (s : State) (p r : Nat) (g : Region) (n : Pub) : Region :=
  { g with
    cur := some { n with heat := ((g.cur.map (fun b => b.heat)).getD []).filter (fun e => decide (e.1 < n.tracked)) }
    next := none, old := (g.cur.toList ++ g.old).filter (pubRead s p r) }

theorem publishRegion_frames {r : Nat} {g : Region} {n : Pub} (region : regionAt s p r = some g) (next : g.next = some n) :
    FramesOnly (setRegion s p r (published s p r g n)) (publishRegion s p r) := by
  rw [publishRegion, region]
  dsimp only
  rw [next]
  dsimp only
  have released : FramesOnly (setRegion s p r (published s p r g n)) (match g.cur with
      | some b => releaseEpoch (setRegion s p r (published s p r g n)) p r b.epoch
      | none => setRegion s p r (published s p r g n)) := by
    split
    · exact freeFramesOf_frames ..
    · exact .refl _
  exact .ite (released.trans (.foldl (fun _ _ => pinPage_frames ..) _ _)) released

/-- From s to t only partition p's record and frames may have changed, with the count of free values. -/
structure RegionOnly (p : Nat) (s t : State) : Prop where
  same : t = ((s.withParts t.parts).withT1 t.t1).withFree t.free
  sized : t.parts.length = s.parts.length
  others : ∀ k, k ≠ p → partAt t k = partAt s k

namespace RegionOnly
variable {t u : State}

theorem refl (s : State) : RegionOnly p s s := ⟨rfl, rfl, fun _ _ => rfl⟩

theorem trans (h : RegionOnly p s t) (g : RegionOnly p t u) : RegionOnly p s u :=
  ⟨g.same.trans (by rw [h.same]; cases s; rfl), g.sized.trans h.sized, fun k hk => (g.others k hk).trans (h.others k hk)⟩

theorem of_frames {r : Nat} {g : Region} (h : FramesOnly (setRegion s p r g) t) : RegionOnly p s t := by
  have parts : t.parts = (setRegion s p r g).parts := FramesOnly.parts h
  refine ⟨Eq.trans h (by rw [parts]; rfl), by rw [parts]; exact updPart_partsLength .., fun k hk => ?_⟩
  rw [partAt_congr parts, partAt_setRegion_ne s r g hk]

end RegionOnly

/-- Region r's staging publication in s is its current one in t, and none is staged. -/
def Published (p r : Nat) (s t : State) : Prop :=
  ((regionAt t p r).bind (fun g => g.next)) = none ∧
    ((regionAt t p r).bind (fun g => g.cur)).map (fun b => (b.epoch, b.pages, b.haddr)) =
      ((regionAt s p r).bind (fun g => g.next)).map (fun b => (b.epoch, b.pages, b.haddr))

/-- Publishing a region of the list touches no other one: by induction on the list. -/
theorem publishAll (rs : List Nat) (hp : p < s.parts.length) (once : rs.Nodup)
    (all : ∀ r ∈ rs, ((regionAt s p r).bind (fun g => g.next)).isSome = true) :
    RegionOnly p s (rs.foldl (fun s r => publishRegion s p r) s) ∧
      (∀ r ∈ rs, Published p r s (rs.foldl (fun s r => publishRegion s p r) s)) ∧
      (∀ r, r ∉ rs → regionAt (rs.foldl (fun s r => publishRegion s p r) s) p r = regionAt s p r) := by
  induction rs generalizing s with
  | nil => exact ⟨.refl s, fun r h => absurd h List.not_mem_nil, fun _ _ => rfl⟩
  | cons r rs ih =>
    obtain ⟨new, once⟩ := List.nodup_cons.1 once
    obtain ⟨n, hn⟩ := Option.isSome_iff_exists.1 (all r (List.mem_cons_self ..))
    obtain ⟨g, region, next⟩ := Option.bind_eq_some_iff.1 hn
    have frames := publishRegion_frames region next
    have first : RegionOnly p s (publishRegion s p r) := .of_frames frames
    have parts : (publishRegion s p r).parts = (setRegion s p r (published s p r g n)).parts := FramesOnly.parts frames
    have reads (k : Nat) : regionAt (publishRegion s p r) p k = if k = r then some (published s p r g n) else regionAt s p k := by
      rw [regionAt_of_part (partAt_congr parts p), regionAt_setRegion hp]
    have kept {k : Nat} (hk : k ≠ r) : regionAt (publishRegion s p r) p k = regionAt s p k := by rw [reads, if_neg hk]
    have apart {k : Nat} (hk : k ∈ rs) : k ≠ r := fun e => new (e ▸ hk)
    obtain ⟨rest, done, others⟩ := ih (s := publishRegion s p r) (first.sized.symm ▸ hp) once fun k hk => by
      rw [kept (apart hk)]
      exact all k (List.mem_cons_of_mem _ hk)
    refine ⟨first.trans rest, fun k hk => ?_, fun k hk => ?_⟩
    · rcases List.mem_cons.1 hk with rfl | hk
      · rw [Published, List.foldl_cons, others k new, reads, if_pos rfl, hn]
        exact ⟨rfl, rfl⟩
      · obtain ⟨empty, cur⟩ := done k hk
        rw [kept (apart hk)] at cur
        exact ⟨empty, cur⟩
    · obtain ⟨hr, hk⟩ := not_or.1 (mt List.mem_cons.2 hk)
      rw [List.foldl_cons, others k hk, kept hr]

theorem exec_regionPublish {rs : List Nat} (ready : hostReady s q (.regionPublish rs) p = true) (listed : rs ≠ []) (few : rs.length ≤ 8)
    (once : noDup rs = true) (all : ∀ r ∈ rs, ((regionAt s p r).bind (fun g => g.next)).isSome = true)
    (still : ∀ r ∈ rs, inSwitch (partAt s p) r = false)
    (unbound : ∀ r ∈ rs, versionsOf (partAt s p) r (((regionAt s p r).map curEpoch).getD 0) = []) :
    ∃ d, exec (.regionPublish q rs) s = .next (done (rs.foldl (fun s r => publishRegion s p r) s) q d) := by
  have form : ¬(rs = [] ∨ 8 < rs.length ∨ (!noDup rs) = true) := by simp [listed, once, few]
  have regions : rs.any (fun r => (regionAt s p r).isNone) = false := List.any_eq_false.2 fun r hr => by
    have region := all r hr
    cases h : regionAt s p r with
    | none => simp [h] at region
    | some g => simp
  have staged : rs.any (fun r => ((regionAt s p r).bind (fun g => g.next)).isNone) = false := List.any_eq_false.2 fun r hr => by
    rw [← Option.not_isSome, all r hr]
    decide
  have quiet : rs.any (fun r => inSwitch (partAt s p) r) = false := List.any_eq_false.2 fun r hr => by simp [still r hr]
  have free : rs.any (fun r => decide (versionsOf (partAt s p) r (((regionAt s p r).map curEpoch).getD 0) ≠ [])) = false :=
    List.any_eq_false.2 fun r hr => by simp [unbound r hr]
  refine ⟨((rs.head?.bind (fun r => regionAt (rs.foldl (fun s r => publishRegion s p r) s) p r)).map curEpoch).getD 0, ?_⟩
  show execRegionPublish q rs s = _
  rw [execRegionPublish, hostCmd_ready _ ready]
  dsimp only
  rw [if_neg form, regions, if_neg (by decide), staged, if_neg (by decide), quiet, if_neg (by decide), free, if_neg (by decide)]

theorem regionPublishCompletes : RegionPublishCompletes := by
  intro s q p rs inv ready listed few once all still unbound
  obtain ⟨d, run⟩ := exec_regionPublish ready listed few once all still unbound
  obtain ⟨same, moved, others⟩ := publishAll rs (lt_of_hostReady inv ready) (of_decide_eq_true once) all
  generalize rs.foldl (fun s r => publishRegion s p r) s = u at run same moved others
  have up : u.io.linkUp = true := by
    rw [same.same]
    exact linkUp_of_hostReady (s := s) ready
  rw [done_of_linkUp q d up] at run
  refine ⟨_, run, ⟨d, ?_⟩, moved, others, same.others, ?_⟩
  · show completedWith u q 0 d = _
    rw [same.same]
    rfl
  · show u.tiles = s.tiles ∧ u.host = s.host ∧ u.fabric = s.fabric
    rw [same.same]
    exact ⟨rfl, rfl, rfl⟩

/-! ### REGION_FREE (R187, R213) -/

/-- The state in which a region is gone and its pages are zeroed. -/
def withoutRegion (s : State) (p r : Nat) (pages : List Nat) : State :=
  updPart (zeroPages s pages) p (fun x => { x with regions := mapDel x.regions r })

theorem freeRegion_frames {r : Nat} {g : Region} (region : regionAt s p r = some g) :
    FramesOnly (withoutRegion s p r (regionPages g ++ (g.old.map (fun b => b.pages)).flatten)) (freeRegion s p r) := by
  rw [freeRegion, region]
  exact freeFramesOf_frames ..

theorem exec_regionFree {r : Nat} {g : Region} (ready : hostReady s q (.regionFree r) p = true) (region : regionAt s p r = some g)
    (unnamed : ∀ e ∈ (partAt s p).progs, progNames e.2 r = false) (unsaved : ckptNames (partAt s p) r = false) :
    exec (.regionFree q r) s = .next (doneOk (freeRegion s p r) q) := by
  have free : ¬((partAt s p).progs.any (fun e => progNames e.2 r) = true ∨ ckptNames (partAt s p) r = true) := by
    simp only [unsaved, List.any_eq_true, not_or, not_exists, not_and, Bool.not_eq_true, Bool.false_eq_true, not_false_eq_true, and_true]
    exact unnamed
  show execRegionFree q r s = _
  rw [execRegionFree, hostCmd_ready _ ready]
  dsimp only
  rw [region, if_neg (by simp), if_neg free]

section
variable (s) {r : Nat} (pages : List Nat)

theorem withoutRegion_reads (hp : p < s.parts.length) (k : Nat) :
    regionAt (withoutRegion s p r pages) p k = if k = r then none else regionAt s p k := by
  rw [regionAt, withoutRegion, partAt_updPart_self (s := zeroPages s pages) _ hp]
  exact mapFind_mapDel ..

theorem withoutRegion_others {k : Nat} (h : k ≠ p) : partAt (withoutRegion s p r pages) k = partAt s k :=
  partAt_updPart_ne (zeroPages s pages) _ h

theorem withoutRegion_zeroed : PagesZeroed s (withoutRegion s p r pages) pages := pagesZeroed_of_mem rfl

theorem withoutRegion_changes : ∃ t2 parts, withoutRegion s p r pages = (s.withT2 t2).withParts parts := ⟨_, _, rfl⟩

end

theorem regionFreeCompletes : RegionFreeCompletes := by
  intro s q p r g inv ready region unnamed unsaved
  have hp := lt_of_hostReady inv ready
  have run := exec_regionFree ready region unnamed unsaved
  have frames := freeRegion_frames region
  generalize regionPages g ++ (g.old.map (fun b => b.pages)).flatten = pages at frames ⊢
  generalize freeRegion s p r = u at run frames
  have reads (k : Nat) : regionAt u p k = if k = r then none else regionAt s p k :=
    (regionAt_of_part (partAt_congr frames.parts p) k).trans (withoutRegion_reads s pages hp k)
  have others {k : Nat} (hk : k ≠ p) : partAt u k = partAt s k :=
    (partAt_congr frames.parts k).trans (withoutRegion_others s pages hk)
  have zeroed : PagesZeroed s u pages := by
    rw [frames]
    exact withoutRegion_zeroed (p := p) (r := r) s pages
  obtain ⟨t2, parts, gone⟩ := withoutRegion_changes (p := p) (r := r) s pages
  rw [gone] at frames
  obtain ⟨d, out⟩ := doneOk_of_linkUp (s := u) q (by rw [frames]; exact linkUp_of_hostReady (s := s) ready)
  rw [out] at run
  refine ⟨_, run, ⟨d, ?_⟩, (reads r).trans (if_pos rfl), fun k hk => (reads k).trans (if_neg hk), zeroed, fun k hk => others hk, ?_⟩
  · show completedWith u q 0 d = _
    rw [frames]
    rfl
  · show u.tiles = s.tiles ∧ u.host = s.host
    rw [frames]
    exact ⟨rfl, rfl⟩

end

/-- Settles O35: regions open, are staged and abandoned; they are published; they are freed. -/
theorem regionsLive : Obligations.RegionsLive := ⟨regionOpensAndStages, regionPublishCompletes, regionFreeCompletes⟩

end Sys2Proof.Machine
end
